-- ==== Sys2Proof/Word.lean ====
section
/-! DEFINITION. Word.lean: the word and byte types of the FJA-2304-L and their plainest arithmetic
(R3: bit 0 is the least significant bit, a range is written [hi:lo]). -/

namespace Sys2Proof

/-- A 64-bit register, address or instruction word. -/
abbrev W64 := BitVec 64

/-- One byte of memory. -/
abbrev Byte := BitVec 8

/-- Bits [lo + len - 1 : lo] of a value (R3). -/
abbrev slice {n : Nat} (w : BitVec n) (lo len : Nat) : BitVec len := w.extractLsb' lo len

/-- The bit at place `i`. -/
abbrev bitAt {n : Nat} (w : BitVec n) (i : Nat) : Bool := w.getLsbD i

end Sys2Proof
end

