-- ==== Sys2Proof/Syntax.lean ====
section
/-! DEFINITION. Syntax.lean: the instruction formats of R65 to R70, the compact slot of R61, the data that the
machine's own steps carry, and Instr, one constructor for each row of the opcode table. -/

namespace Sys2Proof

/-- Format X (R65). -/
structure FX where
  d : BitVec 6
  a : BitVec 6
  b : BitVec 6
  c : BitVec 6
  ty : BitVec 4
  k : BitVec 3
  ls : BitVec 3
  hint : BitVec 6
  fn : BitVec 15
  deriving DecidableEq, Repr

/-- Format J (R66). -/
structure FJ where
  d : BitVec 6
  a : BitVec 6
  ty : BitVec 4
  k : BitVec 3
  ls : BitVec 3
  h : BitVec 1
  imm : BitVec 32
  deriving DecidableEq, Repr

/-- Format M (R67). -/
structure FM where
  d : BitVec 6
  a : BitVec 5
  b : BitVec 6
  ty : BitVec 4
  k : BitVec 3
  ls : BitVec 3
  cce : BitVec 1
  cc : BitVec 3
  hint : BitVec 4
  fn : BitVec 8
  ofs : BitVec 12
  deriving DecidableEq, Repr

/-- Format B (R68). -/
structure FB where
  a : BitVec 5
  b : BitVec 5
  cnd : BitVec 4
  fn : BitVec 9
  ofs : BitVec 32
  deriving DecidableEq, Repr

/-- Format S (R69). -/
structure FS where
  d : BitVec 6
  a : BitVec 6
  sn : BitVec 12
  imm : BitVec 16
  fn : BitVec 15
  deriving DecidableEq, Repr

/-- Format T (R70). -/
structure FT where
  mt : BitVec 3
  ms : BitVec 3
  a : BitVec 6
  b : BitVec 6
  ty : BitVec 4
  tyb : BitVec 4
  k : BitVec 3
  ls : BitVec 3
  cce : BitVec 1
  cc : BitVec 3
  hint : BitVec 4
  fn : BitVec 15
  deriving DecidableEq, Repr

/-- The fields of a compact slot after its COP (R61). -/
structure SlotArgs where
  d : BitVec 6
  a : BitVec 6
  ty : BitVec 4
  k : BitVec 3
  imm : BitVec 6
  deriving DecidableEq, Repr

/-- A compact slot whose COP is 0x00 to 0x1F (R61, R62). -/
structure Slot where
  cop : BitVec 5
  args : SlotArgs
  deriving DecidableEq, Repr

/-- The thread's two pass slots (R31, TRAPSTAT.PIDX). -/
inductive PassSlot where
  | p0
  | p1
  deriving DecidableEq, Repr

/-- The engine operations of a thread that complete on their own (R271, R288, R316). -/
inductive EngineUnit where
  | matrix
  | bload (i : Nat)
  | ssb
  | copy
  deriving DecidableEq, Repr

/-- The matrix operations that run by rows (R271). -/
inductive RowUnit where
  | matrix
  | bload (i : Nat)
  deriving DecidableEq, Repr

/-- Where an uncorrectable error strikes (R121, R123, R164, R260). -/
inductive ErrorPlace where
  | cleanLine (pa : Nat)
  | block (pa : Nat)
  | tileBlock (tile row blk : Nat)
  | bstoreBlock (row blk : Nat)
  | ssbBlock (blk : Nat)
  | instructionLine (pa : Nat)
  | threadState
  deriving DecidableEq, Repr

/-- The two resources the almanac stops (R366). -/
inductive SlotRes where
  | dram
  | link
  deriving DecidableEq, Repr

/-- A leap slot (R371). -/
structure Leap where
  period : Nat
  dram : Bool
  links : Bool
  len : Nat
  deriving DecidableEq, Repr

/-- What a host transaction on Triath Link asks for (R379). -/
inductive LinkBody where
  | write (pa : Nat) (bytes : List Byte)
  | read (pa n : Nat)
  deriving DecidableEq, Repr

/-- The two sides of Triath Link. -/
inductive LinkSide where
  | host
  | device
  deriving DecidableEq, Repr

/-- A signed image offered at boot (R385). -/
structure BootImage where
  kind : Nat
  bytes : List Byte
  signature : List Byte
  deriving DecidableEq, Repr

/-- A launch queue's configuration record (R341), with the fractions of its fraction set. -/
structure QueueConf where
  ringBase : Nat
  size : Nat
  en : Bool
  version1 : Bool
  feedLaunch : Bool
  ulaunch : Bool
  prio : Nat
  weight : Nat
  ptbase : W64
  prod : Nat
  fractions : List Nat
  deriving DecidableEq, Repr

/-- A region of device DRAM (R98). -/
structure Region where
  base : Nat
  size : Nat
  stackSet : List Nat
  skew : BitVec 2
  offset : Nat
  deriving DecidableEq, Repr

/-- A fraction of a cell (R358). -/
structure Fraction where
  id : Nat
  cell : Nat
  pairMask : BitVec 32
  crossbar : BitVec 32
  rate : Nat
  depth : Nat
  ways : List (BitVec 16)
  policies : List (BitVec 2)
  deriving DecidableEq, Repr

/-- A partition's configuration (R341, R358, R383). -/
structure PartConf where
  id : Nat
  cells : List Nat
  trapvec : W64
  nqbase : W64
  ctxPool : List W64
  windows : List (Nat × Nat)
  deriving DecidableEq, Repr

/-- A configuration-space write (R98, R341, R358, R387); `other` is a register with no behaviour of its own. -/
inductive ConfigItem where
  | queue (part q : Nat) (c : QueueConf)
  | region (r : Region)
  | partition (p : PartConf)
  | fraction (f : Fraction)
  | wallClock (t : W64)
  | other (addr : Nat) (value : W64)
  deriving DecidableEq, Repr

/-- The instructions and steps of the FJA-2304-L: one constructor for each row of the opcode table. An instruction
of a full-word row carries the fields of its format. A slot row carries the whole pair word: the fields of slot 0,
whose COP is the row's, and slot 1 (R61). A row of the machine's own steps carries what the step needs to know. -/
inductive Instr where
  /-- Integer add of xA and xB into xD, wrapping or saturating as FN selects (R139). -/
  | add (f : FX)
  /-- Integer subtract of xB from xA into xD, wrapping or saturating as FN selects (R139). -/
  | sub (f : FX)
  /-- Bitwise AND of xA and xB into xD (R139). -/
  | and (f : FX)
  /-- Bitwise OR of xA and xB into xD (R139). -/
  | or (f : FX)
  /-- Bitwise XOR of xA and xB into xD (R139). -/
  | xor (f : FX)
  /-- Left shift of xA by xB[5:0] into xD (R139). -/
  | shl (f : FX)
  /-- Logical right shift of xA by xB[5:0] into xD (R139). -/
  | shr (f : FX)
  /-- Arithmetic right shift of xA by xB[5:0] into xD (R139). -/
  | sra (f : FX)
  /-- Low 64 bits of xA times xB into xD (R139). -/
  | mul (f : FX)
  /-- High 64 bits of the 128-bit product of xA and xB, signedness by FN (R139). -/
  | mulh (f : FX)
  /-- Signed or unsigned division truncating toward zero, with defined results for zero divisor and overflow (R140). -/
  | div (f : FX)
  /-- Remainder taking the dividend's sign, with defined results for zero divisor and overflow (R140). -/
  | rem (f : FX)
  /-- Sets xD to 1 if xA is less than xB, signed or unsigned, else 0 (R139). -/
  | slt (f : FX)
  /-- Signed or unsigned minimum or maximum of xA and xB as FN selects (R139). -/
  | minmax (f : FX)
  /-- Population count, leading-zero or trailing-zero count of xA (R139). -/
  | bitcnt (f : FX)
  /-- Adds the sign-extended 32-bit immediate to xA into xD (R141). -/
  | addi (f : FJ)
  /-- Bitwise AND of xA with the sign-extended immediate (R141). -/
  | andi (f : FJ)
  /-- Bitwise OR of xA with the sign-extended immediate (R141). -/
  | ori (f : FJ)
  /-- Bitwise XOR of xA with the sign-extended immediate (R141). -/
  | xori (f : FJ)
  /-- Left shift of xA by IMM[5:0] (R141). -/
  | shli (f : FJ)
  /-- Logical right shift of xA by IMM[5:0] (R141). -/
  | shri (f : FJ)
  /-- Arithmetic right shift of xA by IMM[5:0] (R141). -/
  | srai (f : FJ)
  /-- Sets xD to the sign-extended immediate shifted left by 32 (R141). -/
  | lui (f : FJ)
  /-- Sets xD to 1 if xA is less than the sign-extended immediate, signed (R141). -/
  | slti (f : FJ)
  /-- Sets xD to PC plus 8 times the sign-extended immediate (R141). -/
  | auipc (f : FJ)
  /-- Selects xA if xC is nonzero, else xB, into xD (R142). -/
  | csel (f : FX)
  /-- Extracts a bit field of xA, sign- or zero-extended, into xD (R142). -/
  | ext (f : FX)
  /-- Inserts the low bits of xA into a bit field of xD, keeping the other bits (R142). -/
  | ins (f : FX)
  /-- Scalar FP32 or FP64 addition, optionally negating xB, rounded by FCTRL.RM (R144). -/
  | fadd (f : FX)
  /-- Scalar floating-point multiplication (R144). -/
  | fmul (f : FX)
  /-- Scalar fused multiply-add with optional negation of product and addend (R144). -/
  | ffma (f : FX)
  /-- Correctly rounded scalar floating-point division (R144). -/
  | fdiv (f : FX)
  /-- Scalar floating-point comparison by a selected predicate, writing 1 or 0 (R145). -/
  | fcmp (f : FX)
  /-- Scalar conversion between element types by the conversion rules, optionally stochastic (R146). -/
  | fcvt (f : FX)
  /-- Scalar floating-point minimum or maximum (R144). -/
  | fminmax (f : FX)
  /-- Writes one class bit of a floating-point value into xD (R147). -/
  | fclass (f : FX)
  /-- Blocking scalar load from xA plus offset, checked in the order of the access checks (R148). -/
  | ld (f : FM)
  /-- Posted scalar store, checked against the ARIT and optionally late (R148). -/
  | st (f : FM)
  /-- Loads two 8-byte words into xD and xB (R148). -/
  | ldpair (f : FM)
  /-- Stores two 8-byte words from xD and xB (R148). -/
  | stpair (f : FM)
  /-- Conditional branch comparing xA and xB (R152). -/
  | br (f : FB)
  /-- PC-relative jump writing the link register (R153). -/
  | jal (f : FJ)
  /-- Register-indirect jump writing the link register, faulting on a misaligned target (R153). -/
  | jalr (f : FJ)
  /-- Backward loop branch in count form or poll form, bounded by WAITBUDGET for poll runs (R154). -/
  | loop (f : FB)
  /-- Correctly rounded scalar square root (R144). -/
  | fsqrt (f : FX)
  /-- Rounds a scalar float to an integral value in the same type (R144). -/
  | frnd (f : FX)
  /-- Reads a state register into xD, subject to mode access rules (R171). -/
  | mfs (f : FS)
  /-- Writes xA into a state register, faulting or ignored where read-only (R171). -/
  | mts (f : FS)
  /-- Raises SOFTWARE_TRAP with the immediate in TRAPELEM (R173). -/
  | trap (f : FJ)
  /-- Raises BREAKPOINT with the immediate in TRAPELEM (R173). -/
  | break (f : FJ)
  /-- Writes calendar time into xD (R174). -/
  | rdcyc (f : FX)
  /-- Sets VL and xD to a new length and recomputes the lane division (R210). -/
  | setvl (f : FJ)
  /-- Stalls the thread until a completion counter is below n (R157). -/
  | waitlt (f : FJ)
  /-- No effect (R173). -/
  | nop (f : FJ)
  /-- Orders a before-set of accesses before an after-set at a scope and merges REMOTEFLAGS (R297). -/
  | fence (f : FX)
  /-- Writes a snapshot of the calendar registers into xD (R373). -/
  | slotq (f : FX)
  /-- Stalls until enough ticks remain before DRAM or links next stop (R374). -/
  | slotgate (f : FJ)
  /-- Invalidates instruction-cache lines of a range or the whole cache after draining the thread (R175). -/
  | cacheop (f : FM)
  /-- Records an element-wise add node (R211). -/
  | vadd (f : FX)
  /-- Records an element-wise subtract node (R211). -/
  | vsub (f : FX)
  /-- Records an element-wise multiply node (R211). -/
  | vmul (f : FX)
  /-- Records an element-wise fused multiply-add node (R213). -/
  | vfma (f : FX)
  /-- Records an element-wise divide node (R212). -/
  | vdiv (f : FX)
  /-- Records an element-wise minimum node (R211). -/
  | vmin (f : FX)
  /-- Records an element-wise maximum node (R211). -/
  | vmax (f : FX)
  /-- Records a negate, absolute-value or complement node (R215). -/
  | vunary (f : FX)
  /-- Records an element-wise bitwise AND node (R214). -/
  | vand (f : FX)
  /-- Records an element-wise bitwise OR node (R214). -/
  | vor (f : FX)
  /-- Records an element-wise bitwise XOR node (R214). -/
  | vxor (f : FX)
  /-- Records an element-wise left shift node (R214). -/
  | vshl (f : FX)
  /-- Records an element-wise right shift node (R214). -/
  | vshr (f : FX)
  /-- Records a conversion node and optionally its overflow-mask node (R216). -/
  | vcvt (f : FX)
  /-- Records a comparison node producing a mask (R218). -/
  | vcmp (f : FX)
  /-- Records a select node choosing between two sources by a mask (R220). -/
  | vsel (f : FX)
  /-- Records a special-function node: exp2, log2, reciprocal, rsqrt, sqrt or sigmoid (R223). -/
  | vsfu (f : FX)
  /-- Records a classification node producing a mask (R219). -/
  | vclass (f : FX)
  /-- Records a round-to-integral node (R217). -/
  | vrnd (f : FX)
  /-- Records an add node with a captured scalar operand (R211). -/
  | vadds (f : FX)
  /-- Records a multiply node with a captured scalar operand (R211). -/
  | vmuls (f : FX)
  /-- Records a fused multiply-add node with a captured scalar multiplier (R213). -/
  | vfmas (f : FX)
  /-- Records a minimum node with a captured scalar operand (R211). -/
  | vmins (f : FX)
  /-- Records a maximum node with a captured scalar operand (R211). -/
  | vmaxs (f : FX)
  /-- Records a left shift node by an immediate (R214). -/
  | vshli (f : FJ)
  /-- Records a right shift node by an immediate (R214). -/
  | vshri (f : FJ)
  /-- Records a comparison node against a captured scalar (R218). -/
  | vcmps (f : FX)
  /-- Records a leaf whose every element is one scalar or immediate value (R232). -/
  | vsplat (f : FJ)
  /-- Records a leaf whose element e is a start value plus e times a step (R233). -/
  | viota (f : FJ)
  /-- Records a broadcast node repeating or expanding a source of period m (R225). -/
  | vbcast (f : FX)
  /-- Records a node sliding a source by a signed distance (R224). -/
  | vslide (f : FJ)
  /-- Binds a vector or mask name to another name's node without making a node (R244). -/
  | vmov (f : FX)
  /-- Records a memory leaf, contiguous, strided or of scaled squares (R228). -/
  | vld (f : FM)
  /-- Records a gather leaf driven by a stream parameter block, reading the block at recording (R229). -/
  | vldx (f : FM)
  /-- Records a leaf reading a tile in row or column order (R230). -/
  | vtread (f : FT)
  /-- Records a mask leaf read from packed bits in memory (R231). -/
  | vkld (f : FM)
  /-- Records a store root, launching a pass unless joined (R235). -/
  | vst (f : FM)
  /-- Records a scatter store root (R236). -/
  | vstx (f : FM)
  /-- Records a compressing store root, optionally reserving length-queue slots for its count (R237). -/
  | vcst (f : FM)
  /-- Records a root storing a mask as packed bits (R238). -/
  | vkst (f : FM)
  /-- Records a reduction root delivering to an x register, a length queue or memory (R239). -/
  | vred (f : FM)
  /-- Records a segmented reduction node over segments of length m (R227). -/
  | vsegred (f : FX)
  /-- Records an inclusive or exclusive scan node (R226). -/
  | vscan (f : FX)
  /-- Records a root materialising a recipe to memory and a leaf over it (R240). -/
  | vforce (f : FX)
  /-- Launches pending roots as one pass, optionally waiting for all passes (R241). -/
  | vpass (f : FX)
  /-- Records a mask logic node (R221). -/
  | kop (f : FX)
  /-- Records a root counting true mask elements into length-queue slots (R242). -/
  | kpop (f : FX)
  /-- Records a mask node of elements whose evaluation raised selected flags (R222). -/
  | vflags (f : FX)
  /-- Reserves and fills one length-queue slot with xA (R243). -/
  | lqopPush (f : FX)
  /-- Takes the oldest untaken slot, stalls until filled and returns its length (R243). -/
  | lqopPop (f : FX)
  /-- Takes the oldest untaken slot, released when filled (R243). -/
  | lqopDrop (f : FX)
  /-- Records a high-half integer multiply node (R211). -/
  | vmulh (f : FX)
  /-- Records a population, leading-zero or trailing-zero count node (R215). -/
  | vpopc (f : FX)
  /-- Adds K outer products of a recipe A and B-store rows into a tile (R258). -/
  | mopa (f : FT)
  /-- Adds K negated outer products of a recipe A and B-store rows into a tile (R258). -/
  | mops (f : FT)
  /-- Sets every tile element to +0 and HWM to 0 (R261). -/
  | mzero (f : FT)
  /-- Scales tile rows or columns by a streamed recipe (R261). -/
  | mscale (f : FT)
  /-- Adds or subtracts one tile into another (R261). -/
  | maddt (f : FT)
  /-- Transposes one tile into another (R261). -/
  | mtrn (f : FT)
  /-- Loads tile rows from memory, converting to FP32 (R263). -/
  | mtld (f : FT)
  /-- Stores tile rows to memory, converting and optionally producing an overflow mask (R264). -/
  | mtst (f : FT)
  /-- Stores a tile as scaled squares, choosing the best candidate format per square (R265). -/
  | mpack (f : FT)
  /-- Writes a streamed recipe into tile rows or columns (R261). -/
  | mtwr (f : FT)
  /-- Records a leaf reducing each tile row or column (R267). -/
  | mrred (f : FT)
  /-- Fills B-store rows from memory without conversion (R268). -/
  | bload (f : FT)
  /-- Fills B-store rows from tile rows or columns, converted (R269). -/
  | bfromt (f : FT)
  /-- Writes a tile's 64 KiB image to memory and sets its SAVED bit in S mode (R274). -/
  | msave (f : FT)
  /-- Reads a tile's 64 KiB image from memory into the tile (R274). -/
  | mrest (f : FT)
  /-- Adds K outer products of two recipes into a tile (R258). -/
  | mopt (f : FT)
  /-- Sets the state-space configuration, clearing state when N or P change (R284). -/
  | sscfg (f : FJ)
  /-- Runs L steps of the selective recurrence in chunked then recurrent form (R285). -/
  | sscan (f : FX)
  /-- Runs one recurrent step of the recurrence (R285). -/
  | ssstep (f : FX)
  /-- Loads SSB state from memory (R287). -/
  | ssld (f : FM)
  /-- Stores SSB state to memory, setting SAVED in S mode (R287). -/
  | ssst (f : FM)
  /-- Sets every SSB state entry to +0, keeping the configuration (R287). -/
  | ssrst (f : FX)
  /-- Copies n bytes from source to destination in 4 KiB units (R320). -/
  | cpy (f : FM)
  /-- Copies rows with source and destination pitches (R320). -/
  | cpy2d (f : FM)
  /-- Copies with transposition of elements or whole squares (R320). -/
  | cpyt (f : FM)
  /-- Gathers table rows through an indirect stream into a destination (R325). -/
  | cpyx (f : FM)
  /-- Fills n elements with a scalar value (R320). -/
  | cpyf (f : FM)
  /-- Reduces source elements into destination by relaxed atomics at the home slice (R321). -/
  | cpyr (f : FM)
  /-- Publishes bytes to RSHR pages, invalidating every cached copy first (R322). -/
  | cpypub (f : FM)
  /-- Converts L1 ways to stash or back after draining the thread (R332). -/
  | stcfg (f : FX)
  /-- Maps or unmaps a stash slot onto a global range (R333). -/
  | stmap (f : FM)
  /-- Writes back dirty mapped stash lines of a range (R334). -/
  | stfl (f : FM)
  /-- Arms an arrival word with a target, zeroing its count (R329). -/
  | arm (f : FM)
  /-- Stalls until an arrival word's generation differs from the expected value, as an acquire (R330). -/
  | arwait (f : FM)
  /-- Writes back and optionally invalidates the pair's L1 lines of a range (R335). -/
  | cinv (f : FM)
  /-- Invalidates mapped stash lines of a range without writing back (R334). -/
  | stinv (f : FM)
  /-- Returning atomic read-modify-write at memory (R302). -/
  | amo (f : FM)
  /-- Posted non-returning atomic read-modify-write at memory (R302). -/
  | amow (f : FM)
  /-- Atomic compare-and-swap with success and failure orders (R303). -/
  | cas (f : FM)
  /-- Records a root performing element-wise atomics at indexed addresses (R306). -/
  | vamo (f : FM)
  /-- Load whose read is an acquire at a scope (R299). -/
  | ldaq (f : FM)
  /-- Store whose write is a release at a scope (R299). -/
  | strl (f : FM)
  /-- Acquires a cluster semaphore or joins its FIFO queue (R309). -/
  | semtas (f : FJ)
  /-- Releases a cluster semaphore, handing it to the oldest waiter (R309). -/
  | semclr (f : FJ)
  /-- Reads a cluster data register (R310). -/
  | cdrd (f : FJ)
  /-- Writes a cluster data register (R310). -/
  | cdwr (f : FJ)
  /-- Atomic operation on a cluster data register returning the old value (R310). -/
  | cdamo (f : FJ)
  /-- Arrives at the cluster barrier and stalls until every participant arrives (R311). -/
  | cbar (f : FJ)
  /-- Records a node running a lane block at each element (R245). -/
  | vtb (f : FM)
  /-- Fetches the lane's next block, keeping lane registers (R247). -/
  | lfetch (f : FJ)
  /-- Delivers l0 as the element value and ends the element (R247). -/
  | lstop (f : FJ)
  /-- Conditional branch within a lane block (R247). -/
  | lbr (f : FB)
  /-- Copies a launch record into a LAUNCH-fed queue as a release (R362). -/
  | launch (f : FM)
  /-- Yields to a placeable ready task of equal or higher priority (R361). -/
  | yield (f : FJ)
  /-- Ends the thread after its dispatched work, or with .all ends every thread of the task (R360). -/
  | taskend (f : FJ)
  /-- Tests a byte range against the task's lease without translating (R363). -/
  | leaseq (f : FX)
  /-- Returns from a trap, resuming or abandoning a stopped operation (R166). -/
  | tret (f : FJ)
  /-- Stops the thread's U-mode work and writes a context image (R170). -/
  | ctxsv (f : FM)
  /-- Abandons U-mode work and loads a context image (R170). -/
  | ctxrs (f : FM)
  /-- Invalidates cached translations of a range, context or partition (R176). -/
  | tlbinv (f : FX)
  /-- Replaces a leaf entry atomically, as a release at DEVICE scope (R177). -/
  | pgsetSet (f : FX)
  /-- Normalises a versioned leaf with no data write (R177). -/
  | pgsetNorm (f : FX)
  /-- Sets WB in a leaf once earlier translated writes are performed (R177). -/
  | pgsetWbset (f : FX)
  /-- Reads and optionally clears a host page's access counter (R178). -/
  | pgcnt (f : FX)
  /-- Posts a software entry into a notification queue (R180). -/
  | nqpost (f : FM)
  /-- Stalls until the notification queue's PROD changes or a tick count passes (R181). -/
  | waiti (f : FJ)
  /-- Commits the current step of the context's versioned pages (R364). -/
  | stepcmt (f : FJ)
  /-- Aborts the current step of the context's versioned pages (R364). -/
  | stepabt (f : FJ)
  /-- Reads a launch queue's pending count, weight, priority and fetching state (R182). -/
  | qctlRd (f : FX)
  /-- Stops fetching records from a launch queue (R182). -/
  | qctlStop (f : FX)
  /-- Resumes fetching records from a launch queue (R182). -/
  | qctlStart (f : FX)
  /-- Sets a launch queue's weight (R182). -/
  | qctlSetw (f : FX)
  /-- Sets a launch queue's priority (R182). -/
  | qctlSetp (f : FX)
  /-- Compact slot xD := xD + xA (R62). -/
  | addSlot (a0 : SlotArgs) (s1 : Slot)
  /-- Compact slot xD := xD - xA (R62). -/
  | subSlot (a0 : SlotArgs) (s1 : Slot)
  /-- Compact slot bitwise AND (R62). -/
  | andSlot (a0 : SlotArgs) (s1 : Slot)
  /-- Compact slot bitwise OR (R62). -/
  | orSlot (a0 : SlotArgs) (s1 : Slot)
  /-- Compact slot bitwise XOR (R62). -/
  | xorSlot (a0 : SlotArgs) (s1 : Slot)
  /-- Compact slot left shift by xA[5:0] (R62). -/
  | shlSlot (a0 : SlotArgs) (s1 : Slot)
  /-- Compact slot logical right shift (R62). -/
  | shrSlot (a0 : SlotArgs) (s1 : Slot)
  /-- Compact slot arithmetic right shift (R62). -/
  | sraSlot (a0 : SlotArgs) (s1 : Slot)
  /-- Compact slot add of a sign-extended 6-bit immediate (R62). -/
  | addiSlot (a0 : SlotArgs) (s1 : Slot)
  /-- Compact slot left shift by immediate (R62). -/
  | shliSlot (a0 : SlotArgs) (s1 : Slot)
  /-- Compact slot right shift by immediate (R62). -/
  | shriSlot (a0 : SlotArgs) (s1 : Slot)
  /-- Compact slot signed set-less-than (R62). -/
  | sltSlot (a0 : SlotArgs) (s1 : Slot)
  /-- Compact slot minimum or maximum (R62). -/
  | minmaxSlot (a0 : SlotArgs) (s1 : Slot)
  /-- Compact slot low 64-bit multiply (R62). -/
  | mulSlot (a0 : SlotArgs) (s1 : Slot)
  /-- Compact slot FP32 add (R62). -/
  | faddSlot (a0 : SlotArgs) (s1 : Slot)
  /-- Compact slot FP32 multiply (R62). -/
  | fmulSlot (a0 : SlotArgs) (s1 : Slot)
  /-- Compact slot FP32 minimum or maximum (R62). -/
  | fminmaxSlot (a0 : SlotArgs) (s1 : Slot)
  /-- Compact slot with no effect (R62). -/
  | nopSlot (a0 : SlotArgs) (s1 : Slot)
  /-- Compact slot recording vD := vD + vA (R62). -/
  | vaddSlot (a0 : SlotArgs) (s1 : Slot)
  /-- Compact slot recording a subtract node (R62). -/
  | vsubSlot (a0 : SlotArgs) (s1 : Slot)
  /-- Compact slot recording a multiply node (R62). -/
  | vmulSlot (a0 : SlotArgs) (s1 : Slot)
  /-- Compact slot recording a minimum node (R62). -/
  | vminSlot (a0 : SlotArgs) (s1 : Slot)
  /-- Compact slot recording a maximum node (R62). -/
  | vmaxSlot (a0 : SlotArgs) (s1 : Slot)
  /-- Compact slot recording a bitwise AND node (R62). -/
  | vandSlot (a0 : SlotArgs) (s1 : Slot)
  /-- Compact slot recording a bitwise OR node (R62). -/
  | vorSlot (a0 : SlotArgs) (s1 : Slot)
  /-- Compact slot recording a bitwise XOR node (R62). -/
  | vxorSlot (a0 : SlotArgs) (s1 : Slot)
  /-- Compact slot recording a left shift by immediate (R62). -/
  | vshliSlot (a0 : SlotArgs) (s1 : Slot)
  /-- Compact slot recording a right shift by immediate (R62). -/
  | vshriSlot (a0 : SlotArgs) (s1 : Slot)
  /-- Compact slot recording an add with a splatted scalar (R62). -/
  | vaddsSlot (a0 : SlotArgs) (s1 : Slot)
  /-- Compact slot recording a multiply with a splatted scalar (R62). -/
  | vmulsSlot (a0 : SlotArgs) (s1 : Slot)
  /-- Compact slot binding vD to vA's node (R62). -/
  | vmovSlot (a0 : SlotArgs) (s1 : Slot)
  /-- Compact slot recording a unary node (R62). -/
  | vunarySlot (a0 : SlotArgs) (s1 : Slot)
  /-- S-mode write of VSTART sets the point from which TRET resumes a stopped operation (R199). -/
  | vstartWrite (f : FS)
  /-- MFS or MTS of FSTATUS waits for earlier work so the value includes its flags (R44). -/
  | fstatusAccess (write : Bool) (f : FS)
  /-- S-mode write of BROWBASE or BROWLIM, faulting on an invalid or overlapping range (R253). -/
  | browbaseWrite (f : FS)
  /-- A posted store is performed later, freeing one of the 32 posted-store places (R150). -/
  | postedStorePerformed (i : Nat)
  /-- A pass evaluates and commits one element group, ORing its flags (R193). -/
  | elementGroupCommit (slot : PassSlot)
  /-- A pass completes: roots committed, counters lowered, queue slots filled, reduction results delivered (R191). -/
  | passComplete (slot : PassSlot)
  /-- A dispatched operation completes and lowers its completion counter (R156). -/
  | operationComplete (u : EngineUnit)
  /-- The base die copies the committed half of a versioned page on the first write of a step (R117). -/
  | versionedCopy (i : Nat)
  /-- The launch engine fetches and checks the next record of a queue (R343). -/
  | recordFetch (part q : Nat)
  /-- A fetched record's arrival-word or predecessor condition comes to hold (R345). -/
  | waitConditionHold (part q i : Nat)
  /-- The launch engine places a ready task, sets up its lease and starts every thread in one cycle (R352). -/
  | taskStart (part q : Nat)
  /-- The engine preloads code and slot lines of the task certain to run next (R353). -/
  | preload (part q : Nat)
  /-- After every thread has ended, resources are released and the completion record, DONEAW and DONE are written (R352). -/
  | taskComplete (task : Nat)
  /-- The launch engine stops every thread of a task at the common boundary and writes its images (R31). -/
  | preempt (task : Nat)
  /-- A pre-empted task is resumed from its images, operations restarting from their progress words (R31). -/
  | resume (task : Nat)
  /-- 96 ticks before a slot, new requests for the stopped resource are held (R368). -/
  | drainHorizon (r : SlotRes)
  /-- A maintenance slot begins and DRAM or links become unavailable (R366). -/
  | slotStart (r : SlotRes)
  /-- 64 ticks into a slot, unfinished requests are cancelled and their owners faulted or resent (R369). -/
  | overrun (r : SlotRes)
  /-- A slot ends and held requests are issued in their original order (R368). -/
  | slotEnd (r : SlotRes)
  /-- Unfinished housekeeping ends, closing an extension reported as a machine check (R370). -/
  | slotExtensionEnd (r : SlotRes)
  /-- The matrix engine completes one 8-row unit of MTLD, MTST or MPACK, or one row of a BLOAD, converting and moving that unit's data (R271). -/
  | matrixRowUnit (u : RowUnit)
  /-- An uncorrectable ECC error drops a clean line or poisons a 64-byte block (R121). -/
  | uncorrectableError (place : ErrorPlace)
  /-- An error in a repair table takes a pseudo-channel out of service and notifies partitions (R124). -/
  | channelOutOfService (ch : Nat)
  /-- Management reloads a verified repair table and the channel returns to service (R124). -/
  | repairReload (ch : Nat) (image : BootImage)
  /-- A write to a queue's doorbell stores PROD, stopping fetching if the value is invalid (R342). -/
  | doorbell (part q : Nat) (value : W64)
  /-- A configuration-space write to a register with no behaviour of its own (R341). -/
  | configWrite (c : ConfigItem)
  /-- Host sets QUIESCE: fetching stops, every task is pre-empted and QUIESCED is set (R359). -/
  | quiesce (part : Nat)
  /-- Host sets RESUME on the new module: leases are set up again and tasks resume (R359). -/
  | resumePartition (part : Nat)
  /-- Management inserts a leap slot, raising CALREV and posting a calendar notification (R371). -/
  | leapSlot (leap : Leap)
  /-- Stack temperature crossing 85 C announces a hot-refresh switch (R371). -/
  | hotRefreshAnnounce (hot : Bool)
  /-- A Triath Link transaction is received, performed in sequence and acknowledged (R379). -/
  | linkTransaction (seq : Nat) (body : LinkBody)
  /-- A side's link logic resets, discarding unacknowledged transactions (R379). -/
  | linkReset (side : LinkSide)
  /-- On retraining each side sends LRXDONE, lost device transactions fault or are resent (R381). -/
  | lrxdoneExchange (peerDone : Nat)
  /-- The boot ROM verifies a signed image, accepting it or staying in stage 0 (R385). -/
  | imageVerify (image : BootImage)
  /-- A cell's stacks finish training and bring-up advances its stage (R384). -/
  | cellReady (cell : Nat)
  /-- An SPDM attestation request is answered with signed measurements (R386). -/
  | attestationRequest (part : Nat) (nonce : List Byte)
  /-- A 64-byte instruction line arrives after the PC enters it or a branch target resolves (R131). -/
  | instructionFetch
  /-- Data of a blocking S-agent load returns and the thread may issue again (R150). -/
  | loadDataReturn
  /-- The 16-cycle not-ready period after a taken poll-form LOOP ends (R155). -/
  | pollBackoffEnd
  /-- The stream sequencer starts a thread's head dispatch entry once it can start (R13). -/
  | entryStart
  /-- A pass is launched for pending roots once its length-queue slots are filled and a pass slot is free (R191). -/
  | passLaunch
  /-- The matrix array adds one k step or group of 8 k into a tile (R258). -/
  | matrixUnit
  /-- The SSB completes one chunk or one recurrent step, writing its y elements (R280). -/
  | ssbUnit
  /-- A copy engine performs one 4 KiB unit of a copy's destination sequence (R316). -/
  | copyUnit
  /-- A base-die engine takes a stream parameter block and gathers rows in index order (R324). -/
  | indirectStream
  /-- A deferred fault is delivered at the SFE's next instruction boundary (R165). -/
  | deferredFaultDelivery
  /-- A STEP_CONFLICT for a dropped scalar store reaches the thread at its next instruction boundary (R150). -/
  | droppedStoreDelivery
  /-- A bounded wait's captured budget runs out and it faults with WAIT_TIMEOUT (R313). -/
  | waitTimeout
  /-- A WAITI's tick count passes and it ends with xD := 0 (R181). -/
  | waitiExpiry
  /-- A stalled SLOTGATE is released when CALNEXT reaches the requested gap (R374). -/
  | slotgateRelease
  /-- Loss of unpoisonable thread state ends the task and reports to management (R164). -/
  | machineCheck
  /-- At each period boundary tasks are charged, budgets checked and token buckets refilled (R355). -/
  | periodBoundary
  /-- An announced hot-refresh switch takes effect at a frame boundary (R371). -/
  | hotRefreshSwitch
  /-- A stack reaching critical temperature ends every task and returns to stage 1 (R387). -/
  | criticalTemperature
  /-- A bad flit is replayed from the sender's buffer (R379). -/
  | flitReplay
  /-- Removal of power loses everything pending on the module (R381). -/
  | powerLoss
  /-- Power is applied and the module begins bring-up in stage 0 with only configuration space served (R384). -/
  | boot
  /-- A correctable ECC error is corrected silently and counted for management (R121). -/
  | correctableError
  /-- A write of 1 to LSTATE.PEERRST clears the peer-reset bit (R380). -/
  | peerrstClear
  deriving DecidableEq, Repr

end Sys2Proof
end

