-- ==== Sys2Proof/WellFormed.lean ====
section
/-! DEFINITION. WellFormed.lean: which field values an instruction may hold (R61 to R73 and each entry). `Instr.legal`
is the ILLEGAL_ENCODING check of R76, `Instr.hintOk` its HINT_UNSUPPORTED check; both hold of a well-formed one. -/

namespace Sys2Proof

/-- What a 6-bit register field of an opcode names (R71); `none` marks a field that must be 0 (R73). -/
inductive RegUse where
  | none
  | x
  | v
  | k
  | kDest
  | lq
  | cc
  | stash
  | lane
  | pair
  deriving DecidableEq, Repr

/-- R71: the numbers a field of each class may hold. -/
def RegUse.ok (u : RegUse) (r : BitVec 6) : Bool :=
  match u with
  | .none => r == 0
  | .x => r.toNat < 32
  | .v => true
  | .k => r.toNat < 8
  | .kDest => 0 < r.toNat && r.toNat < 8
  | .lq => r.toNat < 4
  | .cc => r.toNat < 8
  | .stash => r.toNat < 16
  | .lane => r.toNat < 16
  | .pair => 1 ≤ r.toNat && r.toNat ≤ 30

/-- A set of TY codes, bit t for code t (R35); `tyNone` is the set of an opcode that does not use TY (R71). -/
abbrev TySet := BitVec 16

def tyNone : TySet := 0x0001
def tyInt : TySet := 0x00FF
def tyFp : TySet := 0x0F00
def tyIntFp : TySet := 0x0FFF
def tyNoSq : TySet := 0x7FFF
def tyPlain : TySet := 0x3FFF

/-- `ty` is one of the set's codes. -/
def TySet.has (s : TySet) (ty : BitVec 4) : Bool := bitAt s ty.toNat

/-- The element width in bits of a type code (R35); 6 for LNS6, 512 for a square. -/
def tyBits (ty : BitVec 4) : Nat :=
  if ty.toNat < 8 then 8 <<< (ty.toNat / 2)
  else match ty.toNat with
    | 0x8 => 16
    | 0x9 => 16
    | 0xA => 32
    | 0xB => 64
    | 0xC => 8
    | 0xD => 8
    | 0xE => 6
    | _ => 512

/-- How an opcode of format X uses its fields. -/
structure UseX where
  d : RegUse := .none
  a : RegUse := .none
  b : RegUse := .none
  c : RegUse := .none
  tys : TySet := tyNone
  k : Bool := false
  ls : Bool := false
  fn : BitVec 15 := 0
  deriving DecidableEq, Repr

/-- R71, R73 for format X: register classes, TY, K, LS and the FN bits the entry leaves unassigned. -/
def FX.fits (f : FX) (u : UseX) : Bool :=
  u.d.ok f.d && u.a.ok f.a && u.b.ok f.b && u.c.ok f.c && u.tys.has f.ty && (u.k || f.k == 0) &&
    (if u.ls then f.ls.toNat ≤ 4 else f.ls == 0) && (f.fn &&& ~~~u.fn) == 0

/-- FN[lo + len - 1 : lo] of a format X word, as a number. -/
def FX.fnAt (f : FX) (lo len : Nat) : Nat := (slice f.fn lo len).toNat

/-- How an opcode of format J uses its fields. -/
structure UseJ where
  d : RegUse := .none
  a : RegUse := .none
  tys : TySet := tyNone
  k : Bool := false
  ls : Bool := false
  deriving DecidableEq, Repr

/-- R71, R73 for format J, the immediate apart. -/
def FJ.fits (f : FJ) (u : UseJ) : Bool :=
  u.d.ok f.d && u.a.ok f.a && u.tys.has f.ty && (u.k || f.k == 0) && (if u.ls then f.ls.toNat ≤ 4 else f.ls == 0)

/-- IMM read as a signed number (R66). -/
def FJ.simm (f : FJ) : Int := f.imm.toInt

/-- How an opcode of format M uses its fields. -/
structure UseM where
  d : RegUse := .none
  a : Bool := true
  b : RegUse := .none
  tys : TySet := tyNone
  k : Bool := false
  ls : Bool := false
  cce : Bool := false
  fn : BitVec 8 := 0
  ofs : Bool := true
  deriving DecidableEq, Repr

/-- R71, R73 for format M. -/
def FM.fits (f : FM) (u : UseM) : Bool :=
  u.d.ok f.d && (u.a || f.a == 0) && u.b.ok f.b && u.tys.has f.ty && (u.k || f.k == 0) &&
    (if u.ls then f.ls.toNat ≤ 4 else f.ls == 0) && (u.cce || f.cce == 0) && (f.cce == 1 || f.cc == 0) &&
    (f.fn &&& ~~~u.fn) == 0 && (u.ofs || f.ofs == 0)

/-- FN[lo + len - 1 : lo] of a format M word, as a number. -/
def FM.fnAt (f : FM) (lo len : Nat) : Nat := (slice f.fn lo len).toNat

/-- How an opcode of format T uses its fields (R275). -/
structure UseT where
  mt : Bool := true
  ms : Bool := false
  a : RegUse := .none
  b : RegUse := .none
  tys : TySet := tyNone
  tybs : TySet := tyNone
  k : Bool := false
  ls : Bool := false
  cce : Bool := true
  fn : BitVec 15 := 0
  deriving DecidableEq, Repr

/-- R71, R73 for format T. -/
def FT.fits (f : FT) (u : UseT) : Bool :=
  (u.mt || f.mt == 0) && (u.ms || f.ms == 0) && u.a.ok f.a && u.b.ok f.b && u.tys.has f.ty && u.tybs.has f.tyb &&
    (u.k || f.k == 0) && (if u.ls then f.ls.toNat ≤ 4 else f.ls == 0) && (u.cce || f.cce == 0) &&
    (f.cce == 1 || f.cc == 0) && (f.fn &&& ~~~u.fn) == 0

/-- FN[lo + len - 1 : lo] of a format T word, as a number. -/
def FT.fnAt (f : FT) (lo len : Nat) : Nat := (slice f.fn lo len).toNat

/-- A scope field (R126) that is not 6 or 7, and is nonzero only with `.aq` or `.rl`. -/
def scopeOk (scope : Nat) (ordered : Bool) : Bool := scope ≤ 5 && (scope == 0 || ordered)

/-- R255: the operand pairings of MOPA, MOPS and MOPT. -/
def pairingOk (ty tyb : BitVec 4) : Bool :=
  match ty.toNat with
  | 0xA => tyb == 0xA
  | 0x8 | 0x9 => TySet.has 0xF300 tyb
  | 0xC | 0xD | 0xE => TySet.has 0xF000 tyb
  | _ => false

/-- R302: the types each atomic operation accepts. -/
def atomicTyOk (op : Nat) (ty : BitVec 4) : Bool :=
  match op with
  | 0 => TySet.has 0x04F0 ty
  | 1 => TySet.has 0x06F0 ty
  | 2 | 3 | 4 | 5 | 6 => TySet.has 0x00F0 ty
  | _ => false

/-- R172: the numbers of the state registers. -/
def snOk (sn : BitVec 12) : Bool :=
  let n := sn.toNat
  n ≤ 0x00E || (0x010 ≤ n && n ≤ 0x013) || (0x020 ≤ n && n ≤ 0x024) || (0x030 ≤ n && n ≤ 0x037) || n == 0x040 ||
    (0x050 ≤ n && n ≤ 0x053) || n == 0x061 || (0x100 ≤ n && n ≤ 0x110)

/-- R142: a bit field lies inside the word. -/
def FX.fieldOk (f : FX) : Bool := f.fnAt 0 6 + f.fnAt 6 6 + 1 ≤ 64

/-- R211: `.sat` in FN[0] is for integer types. -/
def FX.satOk (f : FX) : Bool := !bitAt f.fn 0 || f.ty.toNat < 8

/-- The FN rules of VSCAN and VSEGRED (R226, R227): OP and the integer-add `.sat`. -/
def FX.scanOk (f : FX) : Bool := f.fnAt 0 2 ≤ 2 && (!bitAt f.fn 3 || (f.ty.toNat < 8 && f.fnAt 0 2 == 0))

/-- CC of SSCAN, SSSTEP and SSRST is 0 when CCE, FN[3], is 0 (R285). -/
def FX.ccOk (f : FX) : Bool := bitAt f.fn 3 || f.fnAt 0 3 == 0

/-- R239: the form rules of VRED. -/
def FM.vredOk (f : FM) : Bool :=
  let dst := f.fnAt 2 2
  let op := f.fnAt 6 2
  let isInt := f.ty.toNat < 8
  dst ≤ 2 && (!bitAt f.fn 1 || (isInt && op != 3)) && (dst == 1 || f.fnAt 4 2 == 0) &&
    (dst == 2 || (f.a == 0 && f.ofs == 0)) && (dst == 0 || f.b == 0) && (dst != 1 || isInt || op == 3)

/-- R228: the form rules of VLD. -/
def FM.vldOk (f : FM) : Bool :=
  let sq := f.ty == 0xF
  let s := bitAt f.fn 0
  !(s && (sq || f.ty == 0xE)) && (sq || (!bitAt f.fn 1 && f.fnAt 2 3 == 0)) && (s || sq || f.b == 0)

/-- R234, R235: the form rules of VST. -/
def FM.vstOk (f : FM) : Bool :=
  let s := bitAt f.fn 1
  scopeOk (f.fnAt 3 3) (bitAt f.fn 2) && (s || f.b == 0) && !(s && f.ty == 0xE)

/-- R284: a configuration value, with the bits the immediate form may hold. -/
def sscfgImmOk (g : BitVec 32) : Bool := (g &&& 0xFFF88080) == 0 && (slice g 16 3).toNat ≤ 4

/-- R284: SSCFG's immediate and register forms. -/
def FJ.sscfgOk (f : FJ) : Bool := if f.a == 0 then sscfgImmOk f.imm else f.imm == 0

/-- R232: the part of IMM a VSPLAT of each type uses, and no immediate beside a register. -/
def FJ.vsplatOk (f : FJ) : Bool :=
  if f.a == 0 then
    match f.ty.toNat with
    | 0x8 | 0x9 => f.imm.toNat < 0x10000
    | 0xC | 0xD => f.imm.toNat < 0x100
    | 0xE => f.imm.toNat < 0x40
    | _ => true
  else f.imm == 0

/-- Which class each register field of a compact slot has, by COP (R62): D, then A. -/
def copUse (cop : BitVec 5) : RegUse × RegUse :=
  let n := cop.toNat
  if n ≤ 0x07 then (.x, .x)
  else if n ≤ 0x0A then (.x, .none)
  else if n ≤ 0x10 then (.x, .x)
  else if n == 0x11 then (.none, .none)
  else if n ≤ 0x19 then (.v, .v)
  else if n ≤ 0x1B then (.v, .none)
  else if n ≤ 0x1D then (.v, .x)
  else (.v, .v)

/-- R61, R62: the field values a slot of each COP accepts. -/
def Slot.fits (s : Slot) : Bool :=
  let n := s.cop.toNat
  let r := s.args
  let immOk : Bool :=
    if 0x08 ≤ n && n ≤ 0x0A then true
    else if n == 0x0C then r.imm.toNat ≤ 3
    else if n == 0x10 then r.imm.toNat ≤ 1
    else if n == 0x1A || n == 0x1B then r.imm.toNat < tyBits r.ty
    else if n == 0x1F then r.imm.toNat ≤ 1 || (r.imm == 2 && r.ty.toNat < 8)
    else r.imm == 0
  let tys : TySet :=
    if n ≤ 0x0D || n == 0x11 || n == 0x1E then tyNone
    else if n ≤ 0x10 then 0x0400
    else if 0x17 ≤ n && n ≤ 0x1B then tyInt
    else tyIntFp
  let kOk : Bool := (0x12 ≤ n && n != 0x1E) || r.k == 0
  (copUse s.cop).1.ok r.d && (copUse s.cop).2.ok r.a && tys.has r.ty && kOk && immOk

/-- The registers a slot names: its D, and its A when A is a register (R63). A NOP names none. -/
def Slot.dest (s : Slot) : Option (RegUse × BitVec 6) :=
  if s.cop == 0x11 then none else some ((copUse s.cop).1, s.args.d)

/-- R63 rule 3: what a slot reads, D counted as a source of its own slot. -/
def Slot.reads (s : Slot) : List (RegUse × BitVec 6) :=
  match s.dest with
  | none => []
  | some d => if (copUse s.cop).2 == .none then [d] else [d, ((copUse s.cop).2, s.args.a)]

/-- R63 rule 2: two destinations of one class differ in the bank bit. -/
def banksOk (d0 d1 : Option (RegUse × BitVec 6)) : Bool :=
  match d0, d1 with
  | some (u0, r0), some (u1, r1) =>
    u0 != u1 || (if u0 == .x then bitAt r0 4 != bitAt r1 4 else bitAt r0 5 != bitAt r1 5)
  | _, _ => true

/-- R63 rule 3: the register is not among the reads. -/
def notRead (d : Option (RegUse × BitVec 6)) (reads : List (RegUse × BitVec 6)) : Bool :=
  match d with
  | none => true
  | some r => !reads.contains r

/-- R61 to R63 for a pair word. -/
def pairOk (s0 s1 : Slot) : Bool :=
  s0.fits && s1.fits && banksOk s0.dest s1.dest && notRead s1.dest s0.reads && notRead s0.dest s1.reads

/-- R244: VMOV binds a vector name, or with `.k` a mask name. -/
def FX.vmovOk (f : FX) : Bool :=
  f.b == 0 && f.c == 0 && f.ty == 0 && f.k == 0 && f.ls == 0 && (f.fn &&& ~~~1) == 0 &&
    (!bitAt f.fn 0 || (RegUse.kDest.ok f.d && RegUse.k.ok f.a))

/-- R310: CDAMO's IMM fields. -/
def FJ.cdamoOk (f : FJ) : Bool := (f.imm &&& 0xFFFFC0C0) == 0 && (slice f.imm 8 4).toNat ≤ 8

/-- R321: CPYR's operations and types. -/
def FM.cpyrOk (f : FM) : Bool := f.fnAt 0 2 != 3 && (f.fnAt 0 2 == 0 || f.ty.toNat < 8)

/-- R263, R264: MTST names a square format exactly when TY is SQ, and `.t` is not for LNS6. -/
def FT.mtstOk (f : FT) : Bool :=
  ((f.ty == 0xF) == (f.fnAt 1 2 != 0)) && !(bitAt f.fn 0 && f.ty == 0xE)

/-- R68, R152: BR's condition; A and B are 0 when it always branches. -/
def FB.brOk (f : FB) : Bool := f.cnd.toNat ≤ 6 && f.fn == 0 && (f.cnd != 6 || (f.a == 0 && f.b == 0))

/-- R154: LOOP branches backward or to itself; the count form names a counter and no B. -/
def FB.loopOk (f : FB) : Bool :=
  f.cnd.toNat ≤ 3 && f.fn == 0 && f.ofs.toInt ≤ 0 && (f.cnd != 0 || (f.b == 0 && f.a != 0))

/-- R247: LBR's lane registers, type and condition. -/
def FB.lbrOk (f : FB) : Bool :=
  f.a.toNat < 16 && f.b.toNat < 16 && f.cnd.toNat ≤ 6 && (f.cnd != 6 || (f.a == 0 && f.b == 0)) &&
    f.fn.toNat ≤ 0xB && !((f.cnd == 4 || f.cnd == 5) && 8 ≤ f.fn.toNat)

/-- R69, R171: a state register number the device has, MTS with D = 0 or MFS with A = 0. -/
def FS.fits (f : FS) (write : Bool) : Bool :=
  snOk f.sn && f.imm == 0 && f.fn == 0 &&
    (if write then f.d == 0 && RegUse.x.ok f.a else f.a == 0 && RegUse.x.ok f.d)

/-- The ILLEGAL_ENCODING check of R76: R63, R69, R71, R73 and the values each entry refuses. A VTB that names no source
(N = 0) may have any B (DESIGN CHOICE, log entry 101). -/
def Instr.legal : Instr → Bool
  | .add f => f.fits { d := .x, a := .x, b := .x, fn := 0x3 } && f.fnAt 0 2 != 3
  | .sub f => f.fits { d := .x, a := .x, b := .x, fn := 0x3 } && f.fnAt 0 2 != 3
  | .and f => f.fits { d := .x, a := .x, b := .x }
  | .or f => f.fits { d := .x, a := .x, b := .x }
  | .xor f => f.fits { d := .x, a := .x, b := .x }
  | .shl f => f.fits { d := .x, a := .x, b := .x }
  | .shr f => f.fits { d := .x, a := .x, b := .x }
  | .sra f => f.fits { d := .x, a := .x, b := .x }
  | .mul f => f.fits { d := .x, a := .x, b := .x }
  | .mulh f => f.fits { d := .x, a := .x, b := .x, fn := 0x3 } && f.fnAt 0 2 != 3
  | .div f => f.fits { d := .x, a := .x, b := .x, fn := 0x1 }
  | .rem f => f.fits { d := .x, a := .x, b := .x, fn := 0x1 }
  | .slt f => f.fits { d := .x, a := .x, b := .x, fn := 0x1 }
  | .minmax f => f.fits { d := .x, a := .x, b := .x, fn := 0x3 }
  | .bitcnt f => f.fits { d := .x, a := .x, fn := 0x3 } && f.fnAt 0 2 != 3
  | .addi f => f.fits { d := .x, a := .x }
  | .andi f => f.fits { d := .x, a := .x }
  | .ori f => f.fits { d := .x, a := .x }
  | .xori f => f.fits { d := .x, a := .x }
  | .shli f => f.fits { d := .x, a := .x } && f.imm.toNat < 64
  | .shri f => f.fits { d := .x, a := .x } && f.imm.toNat < 64
  | .srai f => f.fits { d := .x, a := .x } && f.imm.toNat < 64
  | .lui f => f.fits { d := .x }
  | .slti f => f.fits { d := .x, a := .x }
  | .auipc f => f.fits { d := .x }
  | .csel f => f.fits { d := .x, a := .x, b := .x, c := .x }
  | .ext f => f.fits { d := .x, a := .x, fn := 0x1fff } && f.fieldOk
  | .ins f => f.fits { d := .x, a := .x, fn := 0xfff } && f.fieldOk
  | .fadd f => f.fits { d := .x, a := .x, b := .x, tys := 0x0C00, fn := 0x1 }
  | .fmul f => f.fits { d := .x, a := .x, b := .x, tys := 0x0C00 }
  | .ffma f => f.fits { d := .x, a := .x, b := .x, c := .x, tys := 0x0C00, fn := 0x3 }
  | .fdiv f => f.fits { d := .x, a := .x, b := .x, tys := 0x0C00 }
  | .fcmp f => f.fits { d := .x, a := .x, b := .x, tys := 0x0C00, fn := 0x7 } && f.fnAt 0 3 ≤ 4
  | .fcvt f => f.fits { d := .x, a := .x, b := .x, tys := tyPlain, fn := 0xf } && f.fnAt 0 4 ≤ 0xD && f.fnAt 0 4 != f.ty.toNat
  | .fminmax f => f.fits { d := .x, a := .x, b := .x, tys := 0x0C00, fn := 0x1 }
  | .fclass f => f.fits { d := .x, a := .x, tys := 0x3F00 }
  | .ld f => f.fits { d := .x, tys := tyPlain }
  | .st f => f.fits { d := .x, tys := tyPlain, fn := 0x1 }
  | .ldpair f => f.fits { d := .x, b := .x } && (f.d != f.b || f.d == 0)
  | .stpair f => f.fits { d := .x, b := .x, fn := 0x1 }
  | .br f => f.brOk
  | .jal f => f.fits { d := .x }
  | .jalr f => f.fits { d := .x, a := .x }
  | .loop f => f.loopOk
  | .fsqrt f => f.fits { d := .x, a := .x, tys := 0x0C00 }
  | .frnd f => f.fits { d := .x, a := .x, tys := 0x0C00, fn := 0xf } && f.fnAt 0 3 ≤ 4
  | .mfs f => f.fits false && f.sn != 7
  | .mts f => f.fits true && !([0x001, 0x007, 0x00B, 0x00C].contains f.sn.toNat)
  | .trap f => f.fits {}
  | .break f => f.fits {}
  | .rdcyc f => f.fits { d := .x }
  | .setvl f => f.fits { d := .x, a := .x } && (f.a == 0 || f.imm == 0)
  | .waitlt f => f.fits { d := .cc }
  | .nop f => f.fits {} && f.imm == 0
  | .fence f => f.fits { fn := 0x1f } && f.fnAt 2 3 ≤ 5
  | .slotq f => f.fits { d := .x }
  | .slotgate f => f.fits { d := .x, a := .x } && (f.a == 0 || f.imm == 0)
  | .cacheop f => f.fits { b := .x, fn := 0x1 } && (f.fn == 0 || (f.a == 0 && f.b == 0 && f.ofs == 0))
  | .vadd f => f.fits { d := .v, a := .v, b := .v, tys := tyIntFp, k := true, ls := true, fn := 0x1 } && f.satOk
  | .vsub f => f.fits { d := .v, a := .v, b := .v, tys := tyIntFp, k := true, ls := true, fn := 0x1 } && f.satOk
  | .vmul f => f.fits { d := .v, a := .v, b := .v, tys := tyIntFp, k := true, ls := true, fn := 0x1 } && f.satOk
  | .vfma f => f.fits { d := .v, a := .v, b := .v, c := .v, tys := tyFp, k := true, ls := true, fn := 0x3 }
  | .vdiv f => f.fits { d := .v, a := .v, b := .v, tys := tyIntFp, k := true, ls := true }
  | .vmin f => f.fits { d := .v, a := .v, b := .v, tys := tyIntFp, k := true, ls := true }
  | .vmax f => f.fits { d := .v, a := .v, b := .v, tys := tyIntFp, k := true, ls := true }
  | .vunary f => f.fits { d := .v, a := .v, tys := tyIntFp, k := true, ls := true, fn := 0x3f } && (f.fnAt 0 6 ≤ 1 || (f.fnAt 0 6 == 2 && f.ty.toNat < 8))
  | .vand f => f.fits { d := .v, a := .v, b := .v, tys := tyInt, k := true, ls := true }
  | .vor f => f.fits { d := .v, a := .v, b := .v, tys := tyInt, k := true, ls := true }
  | .vxor f => f.fits { d := .v, a := .v, b := .v, tys := tyInt, k := true, ls := true }
  | .vshl f => f.fits { d := .v, a := .v, b := .v, tys := tyInt, k := true, ls := true }
  | .vshr f => f.fits { d := .v, a := .v, b := .v, tys := tyInt, k := true, ls := true }
  | .vcvt f => f.fits { d := .v, a := .v, c := .k, tys := tyNoSq, ls := true, fn := 0xf } && f.fnAt 0 4 ≤ 0xE && f.fnAt 0 4 != f.ty.toNat
  | .vcmp f => f.fits { d := .kDest, a := .v, b := .v, tys := tyNoSq, ls := true, fn := 0x7 } && (f.fnAt 0 3 ≤ 5 || (f.fnAt 0 3 == 6 && 8 ≤ f.ty.toNat))
  | .vsel f => f.fits { d := .v, a := .v, b := .v, c := .k, tys := tyNoSq, k := true, ls := true }
  | .vsfu f => f.fits { d := .v, a := .v, tys := 0x0400, k := true, ls := true, fn := 0x7 } && f.fnAt 0 3 ≤ 5
  | .vclass f => f.fits { d := .kDest, a := .v, tys := 0x7F00, ls := true, fn := 0x3ff }
  | .vrnd f => f.fits { d := .v, a := .v, tys := tyFp, k := true, ls := true, fn := 0xf } && f.fnAt 0 3 ≤ 4
  | .vadds f => f.fits { d := .v, a := .v, b := .x, tys := tyIntFp, k := true, ls := true, fn := 0x1 } && f.satOk
  | .vmuls f => f.fits { d := .v, a := .v, b := .x, tys := tyIntFp, k := true, ls := true, fn := 0x1 } && f.satOk
  | .vfmas f => f.fits { d := .v, a := .v, b := .x, c := .v, tys := tyFp, k := true, ls := true, fn := 0x3 }
  | .vmins f => f.fits { d := .v, a := .v, b := .x, tys := tyIntFp, k := true, ls := true }
  | .vmaxs f => f.fits { d := .v, a := .v, b := .x, tys := tyIntFp, k := true, ls := true }
  | .vshli f => f.fits { d := .v, a := .v, tys := tyInt, k := true, ls := true } && f.imm.toNat < tyBits f.ty
  | .vshri f => f.fits { d := .v, a := .v, tys := tyInt, k := true, ls := true } && f.imm.toNat < tyBits f.ty
  | .vcmps f => f.fits { d := .kDest, a := .v, b := .x, tys := tyNoSq, ls := true, fn := 0x7 } && (f.fnAt 0 3 ≤ 5 || (f.fnAt 0 3 == 6 && 8 ≤ f.ty.toNat))
  | .vsplat f => f.fits { d := .v, a := .x, tys := tyNoSq, k := true, ls := true } && f.vsplatOk
  | .viota f => f.fits { d := .v, a := .x, tys := tyInt, k := true, ls := true }
  | .vbcast f => f.fits { d := .v, a := .v, b := .x, tys := tyNoSq, ls := true, fn := 0x1 }
  | .vslide f => f.fits { d := .v, a := .v, tys := tyNoSq, k := true, ls := true } && -64 ≤ f.simm && f.simm ≤ 64
  | .vmov f => f.vmovOk
  | .vld f => f.fits { d := .v, b := .x, tys := 0xFFFF, k := true, ls := true, fn := 0x1f } && f.vldOk
  | .vldx f => f.fits { d := .v, tys := tyPlain, k := true, ls := true }
  | .vtread f => f.fits { a := .v, b := .x, tys := 0x0400, k := true, ls := true, cce := false, fn := 0x1 }
  | .vkld f => f.fits { d := .kDest, k := true, ls := true }
  | .vst f => f.fits { d := .v, b := .x, tys := tyNoSq, k := true, ls := true, cce := true, fn := 0x3f } && f.vstOk
  | .vstx f => f.fits { d := .v, b := .v, tys := tyPlain, k := true, ls := true, cce := true, fn := 0x3d } && scopeOk (f.fnAt 3 3) (bitAt f.fn 2)
  | .vcst f => f.fits { d := .v, tys := tyPlain, k := true, ls := true, cce := true, fn := 0x3f } && (bitAt f.fn 1 || f.fnAt 2 4 == 0)
  | .vkst f => f.fits { d := .k, k := true, ls := true, cce := true, fn := 0x1 }
  | .vred f => f.fits { d := .v, b := .x, tys := tyIntFp, k := true, ls := true, cce := true, fn := 0xff } && f.vredOk
  | .vsegred f => f.fits { d := .v, a := .v, b := .x, tys := tyIntFp, ls := true, fn := 0xb } && f.scanOk
  | .vscan f => f.fits { d := .v, a := .v, tys := tyIntFp, k := true, ls := true, fn := 0xf } && f.scanOk
  | .vforce f => f.fits { d := .v, a := .v, b := .x, tys := tyNoSq, ls := true, fn := 0x1 }
  | .vpass f => f.fits { fn := 0x1 }
  | .kop f => f.fits { d := .kDest, a := .k, b := .k, k := true, ls := true, fn := 0x7 } && f.fnAt 0 3 ≤ 4 && (f.fnAt 0 3 != 4 || f.b == 0)
  | .kpop f => f.fits { d := .lq, a := .k, k := true, ls := true, fn := 0x7 }
  | .vflags f => f.fits { d := .kDest, a := .v, ls := true, fn := 0x1f }
  | .lqopPush f => f.fits { a := .x, fn := 0x1f } && f.fnAt 0 3 == 0
  | .lqopPop f => f.fits { d := .x, fn := 0x1f } && f.fnAt 0 3 == 1
  | .lqopDrop f => f.fits { fn := 0x1f } && f.fnAt 0 3 == 2
  | .vmulh f => f.fits { d := .v, a := .v, b := .v, tys := tyInt, k := true, ls := true }
  | .vpopc f => f.fits { d := .v, a := .v, tys := tyInt, k := true, ls := true, fn := 0x3 } && f.fnAt 0 2 != 3
  | .mopa f => f.fits { a := .v, b := .x, tys := 0x7700, tybs := 0xF700, ls := true } && pairingOk f.ty f.tyb
  | .mops f => f.fits { a := .v, b := .x, tys := 0x7700, tybs := 0xF700, ls := true } && pairingOk f.ty f.tyb
  | .mzero f => f.fits {}
  | .mscale f => f.fits { a := .v, tys := 0x0400, ls := true, fn := 0x1 }
  | .maddt f => f.fits { ms := true, fn := 0x1 }
  | .mtrn f => f.fits { ms := true }
  | .mtld f => f.fits { a := .x, b := .x, tys := 0xF700, ls := true, fn := 0x1 } && (f.fn == 0 || f.ty != 0xE)
  | .mtst f => f.fits { a := .x, b := .x, tys := 0xF700, k := true, ls := true, fn := 0x7 } && f.mtstOk
  | .mpack f => f.fits { a := .x, b := .x, tys := 0x8000, k := true, ls := true, fn := 0xf } && f.fnAt 0 3 != 0
  | .mtwr f => f.fits { a := .v, b := .x, tys := 0x0400, ls := true, fn := 0x1 }
  | .mrred f => f.fits { a := .v, tys := 0x0400, cce := false, fn := 0x7 } && f.fnAt 0 2 != 3
  | .bload f => f.fits { mt := false, a := .x, b := .x, tys := 0xF700, ls := true, fn := 0x1 } && (f.fn == 0 || f.ty != 0xE)
  | .bfromt f => f.fits { b := .x, tybs := 0x7700, ls := true, fn := 0x1 }
  | .msave f => f.fits { a := .x }
  | .mrest f => f.fits { a := .x }
  | .mopt f => f.fits { a := .v, b := .v, tys := 0x7700, tybs := 0x7700, ls := true, fn := 0x1 } && pairingOk f.ty f.tyb
  | .sscfg f => f.fits { a := .x, tys := 0x0700 } && f.sscfgOk
  | .sscan f => f.fits { a := .v, b := .x, c := .x, tys := 0x0700, ls := true, fn := 0xf } && f.ccOk && f.a.toNat ≤ 60
  | .ssstep f => f.fits { a := .v, b := .x, c := .x, tys := 0x0700, fn := 0xf } && f.ccOk && f.a.toNat ≤ 60
  | .ssld f => f.fits { cce := true }
  | .ssst f => f.fits { cce := true }
  | .ssrst f => f.fits { fn := 0xf } && f.ccOk
  | .cpy f => f.fits { d := .x, ls := true, cce := true, fn := 0xf8 }
  | .cpy2d f => f.fits { d := .x, b := .pair, ls := true, cce := true, fn := 0xf8 }
  | .cpyt f => f.fits { d := .x, b := .pair, tys := 0xBFFF, ls := true, cce := true, fn := 0xf8 }
  | .cpyx f => f.fits { d := .x, b := .v, ls := true, cce := true, fn := 0xf9 } && (bitAt f.fn 0 || f.b == 0)
  | .cpyf f => f.fits { d := .x, b := .x, a := false, tys := tyPlain, ls := true, cce := true, fn := 0xf8, ofs := false }
  | .cpyr f => f.fits { d := .x, tys := 0x06F0, ls := true, cce := true, fn := 0xfb } && f.cpyrOk
  | .cpypub f => f.fits { d := .x, ls := true, cce := true, fn := 0xf8 }
  | .stcfg f => f.fits { d := .x, a := .x }
  | .stmap f => f.fits { d := .stash, b := .x, cce := true }
  | .stfl f => f.fits { b := .x, cce := true }
  | .arm f => f.fits { b := .x }
  | .arwait f => f.fits { d := .x, b := .x }
  | .cinv f => f.fits { b := .x, fn := 0x1 }
  | .stinv f => f.fits { b := .x, cce := true }
  | .amo f => f.fits { d := .x, b := .x, tys := 0x06F0, fn := 0xff } && atomicTyOk (f.fnAt 0 3) f.ty && scopeOk (f.fnAt 5 3) (bitAt f.fn 3 || bitAt f.fn 4)
  | .amow f => f.fits { b := .x, tys := 0x06F0, fn := 0xf7 } && atomicTyOk (f.fnAt 0 3) f.ty && scopeOk (f.fnAt 5 3) (bitAt f.fn 4)
  | .cas f => f.fits { d := .x, b := .x, tys := 0x00F0, fn := 0xe7 } && scopeOk (f.fnAt 5 3) (f.fnAt 0 3 != 0)
  | .vamo f => f.fits { d := .v, b := .v, tys := 0x06F0, k := true, ls := true, cce := true, fn := 0xff } && atomicTyOk (f.fnAt 1 3) f.ty && scopeOk (f.fnAt 5 3) (bitAt f.fn 4)
  | .ldaq f => f.fits { d := .x, tys := tyPlain, fn := 0x7 } && f.fnAt 0 3 ≤ 5
  | .strl f => f.fits { d := .x, tys := tyPlain, fn := 0x7 } && f.fnAt 0 3 ≤ 5
  | .semtas f => f.fits {} && f.imm.toNat < 64
  | .semclr f => f.fits {} && f.imm.toNat < 64
  | .cdrd f => f.fits { d := .x } && f.imm.toNat < 64
  | .cdwr f => f.fits { a := .x } && f.imm.toNat < 64
  | .cdamo f => f.fits { d := .x, a := .x } && f.cdamoOk
  | .cbar f => f.fits {} && f.imm == 0
  | .vtb f => f.fits { d := .v, b := .v, tys := tyNoSq, k := true, ls := true, fn := 0x1f } && f.b.toNat + f.fnAt 0 2 ≤ 64
  | .lfetch f => f.fits { d := .cc }
  | .lstop f => f.fits {} && f.imm == 0
  | .lbr f => f.lbrOk
  | .launch f => f.fits { d := .x, b := .x }
  | .yield f => f.fits { d := .x } && f.imm == 0
  | .taskend f => f.fits {} && f.imm.toNat < 0x10000
  | .leaseq f => f.fits { d := .x, a := .x, b := .x }
  | .tret f => f.fits {} && f.imm.toNat < 2
  | .ctxsv f => f.fits {}
  | .ctxrs f => f.fits {}
  | .tlbinv f => f.fits { a := .x, b := .x, fn := 0x3 } && f.fnAt 0 2 != 3 && (f.fnAt 0 2 == 0 || (f.a == 0 && f.b == 0))
  | .pgsetSet f => f.fits { d := .x, a := .x, b := .x, fn := 0x3 } && f.fnAt 0 2 == 0
  | .pgsetNorm f => f.fits { d := .x, a := .x, fn := 0x3 } && f.fnAt 0 2 == 1
  | .pgsetWbset f => f.fits { d := .x, a := .x, fn := 0x3 } && f.fnAt 0 2 == 2
  | .pgcnt f => f.fits { d := .x, a := .x, fn := 0x1 }
  | .nqpost f => f.fits { d := .x, b := .x }
  | .waiti f => f.fits { d := .x }
  | .stepcmt f => f.fits { d := .x } && f.imm == 0
  | .stepabt f => f.fits { d := .x } && f.imm == 0
  | .qctlRd f => f.fits { d := .x, a := .x, fn := 0x7 } && f.fnAt 0 3 == 0
  | .qctlStop f => f.fits { d := .x, a := .x, fn := 0x7 } && f.fnAt 0 3 == 1
  | .qctlStart f => f.fits { d := .x, a := .x, fn := 0x7 } && f.fnAt 0 3 == 2
  | .qctlSetw f => f.fits { d := .x, a := .x, b := .x, fn := 0x7 } && f.fnAt 0 3 == 3
  | .qctlSetp f => f.fits { d := .x, a := .x, b := .x, fn := 0x7 } && f.fnAt 0 3 == 4
  | .addSlot a0 s1 => pairOk ⟨0x0, a0⟩ s1
  | .subSlot a0 s1 => pairOk ⟨0x1, a0⟩ s1
  | .andSlot a0 s1 => pairOk ⟨0x2, a0⟩ s1
  | .orSlot a0 s1 => pairOk ⟨0x3, a0⟩ s1
  | .xorSlot a0 s1 => pairOk ⟨0x4, a0⟩ s1
  | .shlSlot a0 s1 => pairOk ⟨0x5, a0⟩ s1
  | .shrSlot a0 s1 => pairOk ⟨0x6, a0⟩ s1
  | .sraSlot a0 s1 => pairOk ⟨0x7, a0⟩ s1
  | .addiSlot a0 s1 => pairOk ⟨0x8, a0⟩ s1
  | .shliSlot a0 s1 => pairOk ⟨0x9, a0⟩ s1
  | .shriSlot a0 s1 => pairOk ⟨0xa, a0⟩ s1
  | .sltSlot a0 s1 => pairOk ⟨0xb, a0⟩ s1
  | .minmaxSlot a0 s1 => pairOk ⟨0xc, a0⟩ s1
  | .mulSlot a0 s1 => pairOk ⟨0xd, a0⟩ s1
  | .faddSlot a0 s1 => pairOk ⟨0xe, a0⟩ s1
  | .fmulSlot a0 s1 => pairOk ⟨0xf, a0⟩ s1
  | .fminmaxSlot a0 s1 => pairOk ⟨0x10, a0⟩ s1
  | .nopSlot a0 s1 => pairOk ⟨0x11, a0⟩ s1
  | .vaddSlot a0 s1 => pairOk ⟨0x12, a0⟩ s1
  | .vsubSlot a0 s1 => pairOk ⟨0x13, a0⟩ s1
  | .vmulSlot a0 s1 => pairOk ⟨0x14, a0⟩ s1
  | .vminSlot a0 s1 => pairOk ⟨0x15, a0⟩ s1
  | .vmaxSlot a0 s1 => pairOk ⟨0x16, a0⟩ s1
  | .vandSlot a0 s1 => pairOk ⟨0x17, a0⟩ s1
  | .vorSlot a0 s1 => pairOk ⟨0x18, a0⟩ s1
  | .vxorSlot a0 s1 => pairOk ⟨0x19, a0⟩ s1
  | .vshliSlot a0 s1 => pairOk ⟨0x1a, a0⟩ s1
  | .vshriSlot a0 s1 => pairOk ⟨0x1b, a0⟩ s1
  | .vaddsSlot a0 s1 => pairOk ⟨0x1c, a0⟩ s1
  | .vmulsSlot a0 s1 => pairOk ⟨0x1d, a0⟩ s1
  | .vmovSlot a0 s1 => pairOk ⟨0x1e, a0⟩ s1
  | .vunarySlot a0 s1 => pairOk ⟨0x1f, a0⟩ s1
  | .vstartWrite f => f.fits true && f.sn == 0x001
  | .fstatusAccess w f => f.fits w && f.sn == 0x007
  | .browbaseWrite f => f.fits true && (f.sn == 0x00B || f.sn == 0x00C)
  | .instructionFetch => true
  | .loadDataReturn => true
  | .postedStorePerformed _ => true
  | .pollBackoffEnd => true
  | .entryStart => true
  | .passLaunch => true
  | .elementGroupCommit _ => true
  | .passComplete _ => true
  | .matrixUnit => true
  | .ssbUnit => true
  | .copyUnit => true
  | .operationComplete _ => true
  | .indirectStream => true
  | .versionedCopy _ => true
  | .deferredFaultDelivery => true
  | .droppedStoreDelivery => true
  | .waitTimeout => true
  | .waitiExpiry => true
  | .slotgateRelease => true
  | .uncorrectableError _ => true
  | .machineCheck => true
  | .channelOutOfService _ => true
  | .repairReload _ _ => true
  | .doorbell _ _ _ => true
  | .configWrite _ => true
  | .recordFetch _ _ => true
  | .waitConditionHold _ _ _ => true
  | .taskStart _ _ => true
  | .preload _ _ => true
  | .taskComplete _ => true
  | .preempt _ => true
  | .resume _ => true
  | .periodBoundary => true
  | .quiesce _ => true
  | .resumePartition _ => true
  | .drainHorizon _ => true
  | .slotStart _ => true
  | .overrun _ => true
  | .slotEnd _ => true
  | .slotExtensionEnd _ => true
  | .leapSlot _ => true
  | .hotRefreshAnnounce _ => true
  | .hotRefreshSwitch => true
  | .criticalTemperature => true
  | .linkTransaction _ _ => true
  | .flitReplay => true
  | .linkReset _ => true
  | .lrxdoneExchange _ => true
  | .powerLoss => true
  | .imageVerify _ => true
  | .cellReady _ => true
  | .attestationRequest _ _ => true
  | .matrixRowUnit _ => true
  | .boot => true
  | .correctableError => true
  | .peerrstClear => true

/-- The HINT_UNSUPPORTED check of R76 (R72). -/
def Instr.hintOk : Instr → Bool
  | .add f => !bitAt f.hint 5
  | .sub f => !bitAt f.hint 5
  | .and f => !bitAt f.hint 5
  | .or f => !bitAt f.hint 5
  | .xor f => !bitAt f.hint 5
  | .shl f => !bitAt f.hint 5
  | .shr f => !bitAt f.hint 5
  | .sra f => !bitAt f.hint 5
  | .mul f => !bitAt f.hint 5
  | .mulh f => !bitAt f.hint 5
  | .div f => !bitAt f.hint 5
  | .rem f => !bitAt f.hint 5
  | .slt f => !bitAt f.hint 5
  | .minmax f => !bitAt f.hint 5
  | .bitcnt f => !bitAt f.hint 5
  | .addi _ => true
  | .andi _ => true
  | .ori _ => true
  | .xori _ => true
  | .shli _ => true
  | .shri _ => true
  | .srai _ => true
  | .lui _ => true
  | .slti _ => true
  | .auipc _ => true
  | .csel f => !bitAt f.hint 5
  | .ext f => !bitAt f.hint 5
  | .ins f => !bitAt f.hint 5
  | .fadd f => !bitAt f.hint 5
  | .fmul f => !bitAt f.hint 5
  | .ffma f => !bitAt f.hint 5
  | .fdiv f => !bitAt f.hint 5
  | .fcmp f => !bitAt f.hint 5
  | .fcvt f => !bitAt f.hint 5
  | .fminmax f => !bitAt f.hint 5
  | .fclass f => !bitAt f.hint 5
  | .ld f => !bitAt f.hint 3
  | .st f => !bitAt f.hint 3
  | .ldpair f => !bitAt f.hint 3
  | .stpair f => !bitAt f.hint 3
  | .br _ => true
  | .jal _ => true
  | .jalr _ => true
  | .loop _ => true
  | .fsqrt f => !bitAt f.hint 5
  | .frnd f => !bitAt f.hint 5
  | .mfs _ => true
  | .mts _ => true
  | .trap _ => true
  | .break _ => true
  | .rdcyc f => !bitAt f.hint 5
  | .setvl _ => true
  | .waitlt _ => true
  | .nop _ => true
  | .fence f => !bitAt f.hint 5
  | .slotq f => !bitAt f.hint 5
  | .slotgate _ => true
  | .cacheop f => !bitAt f.hint 3
  | .vadd f => !bitAt f.hint 5
  | .vsub f => !bitAt f.hint 5
  | .vmul f => !bitAt f.hint 5
  | .vfma f => !bitAt f.hint 5
  | .vdiv f => !bitAt f.hint 5
  | .vmin f => !bitAt f.hint 5
  | .vmax f => !bitAt f.hint 5
  | .vunary f => !bitAt f.hint 5
  | .vand f => !bitAt f.hint 5
  | .vor f => !bitAt f.hint 5
  | .vxor f => !bitAt f.hint 5
  | .vshl f => !bitAt f.hint 5
  | .vshr f => !bitAt f.hint 5
  | .vcvt f => !bitAt f.hint 5
  | .vcmp f => !bitAt f.hint 5
  | .vsel f => !bitAt f.hint 5
  | .vsfu f => !bitAt f.hint 5
  | .vclass f => !bitAt f.hint 5
  | .vrnd f => !bitAt f.hint 5
  | .vadds f => !bitAt f.hint 5
  | .vmuls f => !bitAt f.hint 5
  | .vfmas f => !bitAt f.hint 5
  | .vmins f => !bitAt f.hint 5
  | .vmaxs f => !bitAt f.hint 5
  | .vshli _ => true
  | .vshri _ => true
  | .vcmps f => !bitAt f.hint 5
  | .vsplat _ => true
  | .viota _ => true
  | .vbcast f => !bitAt f.hint 5
  | .vslide _ => true
  | .vmov f => !bitAt f.hint 5
  | .vld f => !bitAt f.hint 3
  | .vldx f => !bitAt f.hint 3
  | .vtread f => !bitAt f.hint 3
  | .vkld f => !bitAt f.hint 3
  | .vst f => !bitAt f.hint 3
  | .vstx f => !bitAt f.hint 3
  | .vcst f => !bitAt f.hint 3
  | .vkst f => !bitAt f.hint 3
  | .vred f => !bitAt f.hint 3
  | .vsegred f => !bitAt f.hint 5
  | .vscan f => !bitAt f.hint 5
  | .vforce f => !bitAt f.hint 5
  | .vpass f => !bitAt f.hint 5
  | .kop f => !bitAt f.hint 5
  | .kpop f => !bitAt f.hint 5
  | .vflags f => !bitAt f.hint 5
  | .lqopPush f => !bitAt f.hint 5
  | .lqopPop f => !bitAt f.hint 5
  | .lqopDrop f => !bitAt f.hint 5
  | .vmulh f => !bitAt f.hint 5
  | .vpopc f => !bitAt f.hint 5
  | .mopa f => !bitAt f.hint 3
  | .mops f => !bitAt f.hint 3
  | .mzero f => !bitAt f.hint 3
  | .mscale f => !bitAt f.hint 3
  | .maddt f => !bitAt f.hint 3
  | .mtrn f => !bitAt f.hint 3
  | .mtld f => !bitAt f.hint 3
  | .mtst f => !bitAt f.hint 3
  | .mpack f => !bitAt f.hint 3
  | .mtwr f => !bitAt f.hint 3
  | .mrred f => !bitAt f.hint 3
  | .bload f => !bitAt f.hint 3
  | .bfromt f => !bitAt f.hint 3
  | .msave f => !bitAt f.hint 3
  | .mrest f => !bitAt f.hint 3
  | .mopt f => !bitAt f.hint 3
  | .sscfg _ => true
  | .sscan f => !bitAt f.hint 5
  | .ssstep f => !bitAt f.hint 5
  | .ssld f => !bitAt f.hint 3
  | .ssst f => !bitAt f.hint 3
  | .ssrst f => !bitAt f.hint 5
  | .cpy f => !bitAt f.hint 3
  | .cpy2d f => !bitAt f.hint 3
  | .cpyt f => !bitAt f.hint 3
  | .cpyx f => !bitAt f.hint 3
  | .cpyf f => !bitAt f.hint 3
  | .cpyr f => !bitAt f.hint 3
  | .cpypub f => !bitAt f.hint 3
  | .stcfg f => !bitAt f.hint 5
  | .stmap f => !bitAt f.hint 3
  | .stfl f => !bitAt f.hint 3
  | .arm f => !bitAt f.hint 3
  | .arwait f => !bitAt f.hint 3
  | .cinv f => !bitAt f.hint 3
  | .stinv f => !bitAt f.hint 3
  | .amo f => !bitAt f.hint 3
  | .amow f => !bitAt f.hint 3
  | .cas f => !bitAt f.hint 3
  | .vamo f => !bitAt f.hint 3
  | .ldaq f => !bitAt f.hint 3
  | .strl f => !bitAt f.hint 3
  | .semtas _ => true
  | .semclr _ => true
  | .cdrd _ => true
  | .cdwr _ => true
  | .cdamo _ => true
  | .cbar _ => true
  | .vtb f => !bitAt f.hint 3
  | .lfetch _ => true
  | .lstop _ => true
  | .lbr _ => true
  | .launch f => !bitAt f.hint 3
  | .yield _ => true
  | .taskend _ => true
  | .leaseq f => !bitAt f.hint 5
  | .tret _ => true
  | .ctxsv f => !bitAt f.hint 3
  | .ctxrs f => !bitAt f.hint 3
  | .tlbinv f => !bitAt f.hint 5
  | .pgsetSet f => !bitAt f.hint 5
  | .pgsetNorm f => !bitAt f.hint 5
  | .pgsetWbset f => !bitAt f.hint 5
  | .pgcnt f => !bitAt f.hint 5
  | .nqpost f => !bitAt f.hint 3
  | .waiti _ => true
  | .stepcmt _ => true
  | .stepabt _ => true
  | .qctlRd f => !bitAt f.hint 5
  | .qctlStop f => !bitAt f.hint 5
  | .qctlStart f => !bitAt f.hint 5
  | .qctlSetw f => !bitAt f.hint 5
  | .qctlSetp f => !bitAt f.hint 5
  | .addSlot _ _ => true
  | .subSlot _ _ => true
  | .andSlot _ _ => true
  | .orSlot _ _ => true
  | .xorSlot _ _ => true
  | .shlSlot _ _ => true
  | .shrSlot _ _ => true
  | .sraSlot _ _ => true
  | .addiSlot _ _ => true
  | .shliSlot _ _ => true
  | .shriSlot _ _ => true
  | .sltSlot _ _ => true
  | .minmaxSlot _ _ => true
  | .mulSlot _ _ => true
  | .faddSlot _ _ => true
  | .fmulSlot _ _ => true
  | .fminmaxSlot _ _ => true
  | .nopSlot _ _ => true
  | .vaddSlot _ _ => true
  | .vsubSlot _ _ => true
  | .vmulSlot _ _ => true
  | .vminSlot _ _ => true
  | .vmaxSlot _ _ => true
  | .vandSlot _ _ => true
  | .vorSlot _ _ => true
  | .vxorSlot _ _ => true
  | .vshliSlot _ _ => true
  | .vshriSlot _ _ => true
  | .vaddsSlot _ _ => true
  | .vmulsSlot _ _ => true
  | .vmovSlot _ _ => true
  | .vunarySlot _ _ => true
  | .vstartWrite _ => true
  | .fstatusAccess _ _ => true
  | .browbaseWrite _ => true
  | .instructionFetch => true
  | .loadDataReturn => true
  | .postedStorePerformed _ => true
  | .pollBackoffEnd => true
  | .entryStart => true
  | .passLaunch => true
  | .elementGroupCommit _ => true
  | .passComplete _ => true
  | .matrixUnit => true
  | .ssbUnit => true
  | .copyUnit => true
  | .operationComplete _ => true
  | .indirectStream => true
  | .versionedCopy _ => true
  | .deferredFaultDelivery => true
  | .droppedStoreDelivery => true
  | .waitTimeout => true
  | .waitiExpiry => true
  | .slotgateRelease => true
  | .uncorrectableError _ => true
  | .machineCheck => true
  | .channelOutOfService _ => true
  | .repairReload _ _ => true
  | .doorbell _ _ _ => true
  | .configWrite _ => true
  | .recordFetch _ _ => true
  | .waitConditionHold _ _ _ => true
  | .taskStart _ _ => true
  | .preload _ _ => true
  | .taskComplete _ => true
  | .preempt _ => true
  | .resume _ => true
  | .periodBoundary => true
  | .quiesce _ => true
  | .resumePartition _ => true
  | .drainHorizon _ => true
  | .slotStart _ => true
  | .overrun _ => true
  | .slotEnd _ => true
  | .slotExtensionEnd _ => true
  | .leapSlot _ => true
  | .hotRefreshAnnounce _ => true
  | .hotRefreshSwitch => true
  | .criticalTemperature => true
  | .linkTransaction _ _ => true
  | .flitReplay => true
  | .linkReset _ => true
  | .lrxdoneExchange _ => true
  | .powerLoss => true
  | .imageVerify _ => true
  | .cellReady _ => true
  | .attestationRequest _ _ => true
  | .matrixRowUnit _ => true
  | .boot => true
  | .correctableError => true
  | .peerrstClear => true

/-- A well-formed instruction: neither check of R76 refuses it. -/
def Instr.wf (i : Instr) : Bool := i.legal && i.hintOk

end Sys2Proof
end

