-- ==== Sys2Proof/Decode.lean ====
section
/-! DEFINITION. Decode.lean: words to instructions (R59 to R77), total and rejecting by name, and the encoder. -/

namespace Sys2Proof

/-- R65: the fields of a format X word. -/
def unpackX (w : W64) : FX :=
  ⟨slice w 49 6, slice w 43 6, slice w 37 6, slice w 31 6, slice w 27 4, slice w 24 3, slice w 21 3, slice w 15 6, slice w 0 15⟩

/-- R65: a format X word from its opcode and fields. -/
def packX (opc : BitVec 8) (f : FX) : W64 :=
  0#1 ++ opc ++ f.d ++ f.a ++ f.b ++ f.c ++ f.ty ++ f.k ++ f.ls ++ f.hint ++ f.fn

/-- R66: the fields of a format J word. -/
def unpackJ (w : W64) : FJ :=
  ⟨slice w 49 6, slice w 43 6, slice w 39 4, slice w 36 3, slice w 33 3, slice w 32 1, slice w 0 32⟩

/-- R66: a format J word from its opcode and fields. -/
def packJ (opc : BitVec 8) (f : FJ) : W64 :=
  0#1 ++ opc ++ f.d ++ f.a ++ f.ty ++ f.k ++ f.ls ++ f.h ++ f.imm

/-- R67: the fields of a format M word. -/
def unpackM (w : W64) : FM :=
  ⟨slice w 49 6, slice w 44 5, slice w 38 6, slice w 34 4, slice w 31 3, slice w 28 3, slice w 27 1, slice w 24 3, slice w 20 4, slice w 12 8, slice w 0 12⟩

/-- R67: a format M word from its opcode and fields. -/
def packM (opc : BitVec 8) (f : FM) : W64 :=
  0#1 ++ opc ++ f.d ++ f.a ++ f.b ++ f.ty ++ f.k ++ f.ls ++ f.cce ++ f.cc ++ f.hint ++ f.fn ++ f.ofs

/-- R68: the fields of a format B word. -/
def unpackB (w : W64) : FB :=
  ⟨slice w 50 5, slice w 45 5, slice w 41 4, slice w 32 9, slice w 0 32⟩

/-- R68: a format B word from its opcode and fields. -/
def packB (opc : BitVec 8) (f : FB) : W64 :=
  0#1 ++ opc ++ f.a ++ f.b ++ f.cnd ++ f.fn ++ f.ofs

/-- R69: the fields of a format S word. -/
def unpackS (w : W64) : FS :=
  ⟨slice w 49 6, slice w 43 6, slice w 31 12, slice w 15 16, slice w 0 15⟩

/-- R69: a format S word from its opcode and fields. -/
def packS (opc : BitVec 8) (f : FS) : W64 :=
  0#1 ++ opc ++ f.d ++ f.a ++ f.sn ++ f.imm ++ f.fn

/-- R70: the fields of a format T word. -/
def unpackT (w : W64) : FT :=
  ⟨slice w 52 3, slice w 49 3, slice w 43 6, slice w 37 6, slice w 33 4, slice w 29 4, slice w 26 3, slice w 23 3, slice w 22 1, slice w 19 3, slice w 15 4, slice w 0 15⟩

/-- R70: a format T word from its opcode and fields. -/
def packT (opc : BitVec 8) (f : FT) : W64 :=
  0#1 ++ opc ++ f.mt ++ f.ms ++ f.a ++ f.b ++ f.ty ++ f.tyb ++ f.k ++ f.ls ++ f.cce ++ f.cc ++ f.hint ++ f.fn

/-- R61: the slot whose lowest bit is bit `lo` of the word, with the 6-bit COP apart. -/
def unpackSlot (w : W64) (lo : Nat) : Slot :=
  ⟨slice w (lo + 25) 5, ⟨slice w (lo + 19) 6, slice w (lo + 13) 6, slice w (lo + 9) 4, slice w (lo + 6) 3, slice w lo 6⟩⟩

/-- R61: a slot's 31 bits. -/
def packSlot (s : Slot) : BitVec 31 :=
  0#1 ++ s.cop ++ s.args.d ++ s.args.a ++ s.args.ty ++ s.args.k ++ s.args.imm

/-- R61: a pair word. -/
def packPair (s0 s1 : Slot) : W64 := 1#1 ++ packSlot s0 ++ packSlot s1 ++ 0#1

/-- R62: the pair word whose slot 0 is `s`. -/
def pairInstr (s s1 : Slot) : Instr :=
  match s.cop.toNat with
  | 0x00 => .addSlot s.args s1
  | 0x01 => .subSlot s.args s1
  | 0x02 => .andSlot s.args s1
  | 0x03 => .orSlot s.args s1
  | 0x04 => .xorSlot s.args s1
  | 0x05 => .shlSlot s.args s1
  | 0x06 => .shrSlot s.args s1
  | 0x07 => .sraSlot s.args s1
  | 0x08 => .addiSlot s.args s1
  | 0x09 => .shliSlot s.args s1
  | 0x0A => .shriSlot s.args s1
  | 0x0B => .sltSlot s.args s1
  | 0x0C => .minmaxSlot s.args s1
  | 0x0D => .mulSlot s.args s1
  | 0x0E => .faddSlot s.args s1
  | 0x0F => .fmulSlot s.args s1
  | 0x10 => .fminmaxSlot s.args s1
  | 0x11 => .nopSlot s.args s1
  | 0x12 => .vaddSlot s.args s1
  | 0x13 => .vsubSlot s.args s1
  | 0x14 => .vmulSlot s.args s1
  | 0x15 => .vminSlot s.args s1
  | 0x16 => .vmaxSlot s.args s1
  | 0x17 => .vandSlot s.args s1
  | 0x18 => .vorSlot s.args s1
  | 0x19 => .vxorSlot s.args s1
  | 0x1A => .vshliSlot s.args s1
  | 0x1B => .vshriSlot s.args s1
  | 0x1C => .vaddsSlot s.args s1
  | 0x1D => .vmulsSlot s.args s1
  | 0x1E => .vmovSlot s.args s1
  | _ => .vunarySlot s.args s1

/-- R61, R63 rule 1: a pair word's slots; a COP of 0x20 or more or a set bit 0 is refused. -/
def decodePair (w : W64) : Option Instr :=
  if bitAt w 0 || bitAt w 62 || bitAt w 31 then none else some (pairInstr (unpackSlot w 32) (unpackSlot w 1))

/-- R44: an MFS of FSTATUS is a row of its own. -/
def decodeMfs (f : FS) : Instr := if f.sn == 0x007 then .fstatusAccess false f else .mfs f

/-- R44, R199, R253: MTS of FSTATUS, VSTART, BROWBASE and BROWLIM are rows of their own. -/
def decodeMts (f : FS) : Instr :=
  if f.sn == 0x007 then .fstatusAccess true f
  else if f.sn == 0x001 then .vstartWrite f
  else if f.sn == 0x00B || f.sn == 0x00C then .browbaseWrite f
  else .mts f

/-- R243: FN[2:0] selects the operation. -/
def decodeLqop (f : FX) : Option Instr :=
  match f.fnAt 0 3 with
  | 0 => some (.lqopPush f)
  | 1 => some (.lqopPop f)
  | 2 => some (.lqopDrop f)
  | _ => none

/-- R177: FN[1:0] selects the operation. -/
def decodePgset (f : FX) : Option Instr :=
  match f.fnAt 0 2 with
  | 0 => some (.pgsetSet f)
  | 1 => some (.pgsetNorm f)
  | 2 => some (.pgsetWbset f)
  | _ => none

/-- R182: FN[2:0] selects the operation. -/
def decodeQctl (f : FX) : Option Instr :=
  match f.fnAt 0 3 with
  | 0 => some (.qctlRd f)
  | 1 => some (.qctlStop f)
  | 2 => some (.qctlStart f)
  | 3 => some (.qctlSetw f)
  | 4 => some (.qctlSetp f)
  | _ => none

/-- R60, R74: the instruction of a single word whose opcode is `opc`, its fields not yet checked. -/
def decodeRow (opc : Nat) (w : W64) : Option Instr :=
  match opc with
  | 0x01 => some (.add (unpackX w))
  | 0x02 => some (.sub (unpackX w))
  | 0x03 => some (.and (unpackX w))
  | 0x04 => some (.or (unpackX w))
  | 0x05 => some (.xor (unpackX w))
  | 0x06 => some (.shl (unpackX w))
  | 0x07 => some (.shr (unpackX w))
  | 0x08 => some (.sra (unpackX w))
  | 0x09 => some (.mul (unpackX w))
  | 0x0A => some (.mulh (unpackX w))
  | 0x0B => some (.div (unpackX w))
  | 0x0C => some (.rem (unpackX w))
  | 0x0D => some (.slt (unpackX w))
  | 0x0E => some (.minmax (unpackX w))
  | 0x0F => some (.bitcnt (unpackX w))
  | 0x10 => some (.addi (unpackJ w))
  | 0x11 => some (.andi (unpackJ w))
  | 0x12 => some (.ori (unpackJ w))
  | 0x13 => some (.xori (unpackJ w))
  | 0x14 => some (.shli (unpackJ w))
  | 0x15 => some (.shri (unpackJ w))
  | 0x16 => some (.srai (unpackJ w))
  | 0x17 => some (.lui (unpackJ w))
  | 0x18 => some (.slti (unpackJ w))
  | 0x19 => some (.auipc (unpackJ w))
  | 0x1A => some (.csel (unpackX w))
  | 0x1B => some (.ext (unpackX w))
  | 0x1C => some (.ins (unpackX w))
  | 0x1D => some (.fadd (unpackX w))
  | 0x1E => some (.fmul (unpackX w))
  | 0x1F => some (.ffma (unpackX w))
  | 0x20 => some (.fdiv (unpackX w))
  | 0x21 => some (.fcmp (unpackX w))
  | 0x22 => some (.fcvt (unpackX w))
  | 0x23 => some (.fminmax (unpackX w))
  | 0x24 => some (.fclass (unpackX w))
  | 0x25 => some (.ld (unpackM w))
  | 0x26 => some (.st (unpackM w))
  | 0x27 => some (.ldpair (unpackM w))
  | 0x28 => some (.stpair (unpackM w))
  | 0x29 => some (.br (unpackB w))
  | 0x2A => some (.jal (unpackJ w))
  | 0x2B => some (.jalr (unpackJ w))
  | 0x2C => some (.loop (unpackB w))
  | 0x2D => some (.fsqrt (unpackX w))
  | 0x2E => some (.frnd (unpackX w))
  | 0x30 => some (decodeMfs (unpackS w))
  | 0x31 => some (decodeMts (unpackS w))
  | 0x32 => some (.trap (unpackJ w))
  | 0x33 => some (.break (unpackJ w))
  | 0x34 => some (.rdcyc (unpackX w))
  | 0x35 => some (.setvl (unpackJ w))
  | 0x36 => some (.waitlt (unpackJ w))
  | 0x37 => some (.nop (unpackJ w))
  | 0x38 => some (.fence (unpackX w))
  | 0x39 => some (.slotq (unpackX w))
  | 0x3A => some (.slotgate (unpackJ w))
  | 0x3B => some (.cacheop (unpackM w))
  | 0x40 => some (.vadd (unpackX w))
  | 0x41 => some (.vsub (unpackX w))
  | 0x42 => some (.vmul (unpackX w))
  | 0x43 => some (.vfma (unpackX w))
  | 0x44 => some (.vdiv (unpackX w))
  | 0x45 => some (.vmin (unpackX w))
  | 0x46 => some (.vmax (unpackX w))
  | 0x47 => some (.vunary (unpackX w))
  | 0x48 => some (.vand (unpackX w))
  | 0x49 => some (.vor (unpackX w))
  | 0x4A => some (.vxor (unpackX w))
  | 0x4B => some (.vshl (unpackX w))
  | 0x4C => some (.vshr (unpackX w))
  | 0x4D => some (.vcvt (unpackX w))
  | 0x4E => some (.vcmp (unpackX w))
  | 0x4F => some (.vsel (unpackX w))
  | 0x50 => some (.vsfu (unpackX w))
  | 0x51 => some (.vclass (unpackX w))
  | 0x52 => some (.vrnd (unpackX w))
  | 0x53 => some (.vadds (unpackX w))
  | 0x54 => some (.vmuls (unpackX w))
  | 0x55 => some (.vfmas (unpackX w))
  | 0x56 => some (.vmins (unpackX w))
  | 0x57 => some (.vmaxs (unpackX w))
  | 0x58 => some (.vshli (unpackJ w))
  | 0x59 => some (.vshri (unpackJ w))
  | 0x5A => some (.vcmps (unpackX w))
  | 0x5B => some (.vsplat (unpackJ w))
  | 0x5C => some (.viota (unpackJ w))
  | 0x5D => some (.vbcast (unpackX w))
  | 0x5E => some (.vslide (unpackJ w))
  | 0x5F => some (.vmov (unpackX w))
  | 0x60 => some (.vld (unpackM w))
  | 0x61 => some (.vldx (unpackM w))
  | 0x62 => some (.vtread (unpackT w))
  | 0x63 => some (.vkld (unpackM w))
  | 0x64 => some (.vst (unpackM w))
  | 0x65 => some (.vstx (unpackM w))
  | 0x66 => some (.vcst (unpackM w))
  | 0x67 => some (.vkst (unpackM w))
  | 0x68 => some (.vred (unpackM w))
  | 0x69 => some (.vsegred (unpackX w))
  | 0x6A => some (.vscan (unpackX w))
  | 0x6B => some (.vforce (unpackX w))
  | 0x6C => some (.vpass (unpackX w))
  | 0x6D => some (.kop (unpackX w))
  | 0x6E => some (.kpop (unpackX w))
  | 0x6F => some (.vflags (unpackX w))
  | 0x70 => decodeLqop (unpackX w)
  | 0x71 => some (.vmulh (unpackX w))
  | 0x72 => some (.vpopc (unpackX w))
  | 0x80 => some (.mopa (unpackT w))
  | 0x81 => some (.mops (unpackT w))
  | 0x82 => some (.mzero (unpackT w))
  | 0x83 => some (.mscale (unpackT w))
  | 0x84 => some (.maddt (unpackT w))
  | 0x85 => some (.mtrn (unpackT w))
  | 0x86 => some (.mtld (unpackT w))
  | 0x87 => some (.mtst (unpackT w))
  | 0x88 => some (.mpack (unpackT w))
  | 0x89 => some (.mtwr (unpackT w))
  | 0x8A => some (.mrred (unpackT w))
  | 0x8B => some (.bload (unpackT w))
  | 0x8C => some (.bfromt (unpackT w))
  | 0x8D => some (.msave (unpackT w))
  | 0x8E => some (.mrest (unpackT w))
  | 0x8F => some (.mopt (unpackT w))
  | 0xA0 => some (.sscfg (unpackJ w))
  | 0xA1 => some (.sscan (unpackX w))
  | 0xA2 => some (.ssstep (unpackX w))
  | 0xA3 => some (.ssld (unpackM w))
  | 0xA4 => some (.ssst (unpackM w))
  | 0xA5 => some (.ssrst (unpackX w))
  | 0xB0 => some (.cpy (unpackM w))
  | 0xB1 => some (.cpy2d (unpackM w))
  | 0xB2 => some (.cpyt (unpackM w))
  | 0xB3 => some (.cpyx (unpackM w))
  | 0xB4 => some (.cpyf (unpackM w))
  | 0xB5 => some (.cpyr (unpackM w))
  | 0xB6 => some (.cpypub (unpackM w))
  | 0xB7 => some (.stcfg (unpackX w))
  | 0xB8 => some (.stmap (unpackM w))
  | 0xB9 => some (.stfl (unpackM w))
  | 0xBA => some (.arm (unpackM w))
  | 0xBB => some (.arwait (unpackM w))
  | 0xBC => some (.cinv (unpackM w))
  | 0xBD => some (.stinv (unpackM w))
  | 0xC0 => some (.amo (unpackM w))
  | 0xC1 => some (.amow (unpackM w))
  | 0xC2 => some (.cas (unpackM w))
  | 0xC3 => some (.vamo (unpackM w))
  | 0xC4 => some (.ldaq (unpackM w))
  | 0xC5 => some (.strl (unpackM w))
  | 0xC6 => some (.semtas (unpackJ w))
  | 0xC7 => some (.semclr (unpackJ w))
  | 0xC8 => some (.cdrd (unpackJ w))
  | 0xC9 => some (.cdwr (unpackJ w))
  | 0xCA => some (.cdamo (unpackJ w))
  | 0xCB => some (.cbar (unpackJ w))
  | 0xD0 => some (.vtb (unpackM w))
  | 0xD1 => some (.lfetch (unpackJ w))
  | 0xD2 => some (.lstop (unpackJ w))
  | 0xD3 => some (.lbr (unpackB w))
  | 0xD8 => some (.launch (unpackM w))
  | 0xD9 => some (.yield (unpackJ w))
  | 0xDA => some (.taskend (unpackJ w))
  | 0xDB => some (.leaseq (unpackX w))
  | 0xE0 => some (.tret (unpackJ w))
  | 0xE1 => some (.ctxsv (unpackM w))
  | 0xE2 => some (.ctxrs (unpackM w))
  | 0xE3 => some (.tlbinv (unpackX w))
  | 0xE4 => decodePgset (unpackX w)
  | 0xE5 => some (.pgcnt (unpackX w))
  | 0xE6 => some (.nqpost (unpackM w))
  | 0xE7 => some (.waiti (unpackJ w))
  | 0xE8 => some (.stepcmt (unpackJ w))
  | 0xE9 => some (.stepabt (unpackJ w))
  | 0xEA => decodeQctl (unpackX w)
  | _ => none

/-- R60: the instruction a single word's opcode names. -/
def decodeOpc (w : W64) : Option Instr := decodeRow (slice w 55 8).toNat w

/-- R76: the two refusals a word's bits alone bring. -/
inductive DecodeRefusal where
  | illegalEncoding
  | hintUnsupported
  deriving DecidableEq, Repr

/-- R59, R76: an instruction word's instruction, or the refusal reported first. -/
def decode (w : W64) : Except DecodeRefusal Instr :=
  match (if bitAt w 63 then decodePair w else decodeOpc w) with
  | none => .error .illegalEncoding
  | some i => if !i.legal then .error .illegalEncoding else if !i.hintOk then .error .hintUnsupported else .ok i

/-- The word of an instruction; none for the rows that are steps of the machine and have no word. -/
def encode : Instr → Option W64
  | .add f => some (packX 0x01 f)
  | .sub f => some (packX 0x02 f)
  | .and f => some (packX 0x03 f)
  | .or f => some (packX 0x04 f)
  | .xor f => some (packX 0x05 f)
  | .shl f => some (packX 0x06 f)
  | .shr f => some (packX 0x07 f)
  | .sra f => some (packX 0x08 f)
  | .mul f => some (packX 0x09 f)
  | .mulh f => some (packX 0x0A f)
  | .div f => some (packX 0x0B f)
  | .rem f => some (packX 0x0C f)
  | .slt f => some (packX 0x0D f)
  | .minmax f => some (packX 0x0E f)
  | .bitcnt f => some (packX 0x0F f)
  | .addi f => some (packJ 0x10 f)
  | .andi f => some (packJ 0x11 f)
  | .ori f => some (packJ 0x12 f)
  | .xori f => some (packJ 0x13 f)
  | .shli f => some (packJ 0x14 f)
  | .shri f => some (packJ 0x15 f)
  | .srai f => some (packJ 0x16 f)
  | .lui f => some (packJ 0x17 f)
  | .slti f => some (packJ 0x18 f)
  | .auipc f => some (packJ 0x19 f)
  | .csel f => some (packX 0x1A f)
  | .ext f => some (packX 0x1B f)
  | .ins f => some (packX 0x1C f)
  | .fadd f => some (packX 0x1D f)
  | .fmul f => some (packX 0x1E f)
  | .ffma f => some (packX 0x1F f)
  | .fdiv f => some (packX 0x20 f)
  | .fcmp f => some (packX 0x21 f)
  | .fcvt f => some (packX 0x22 f)
  | .fminmax f => some (packX 0x23 f)
  | .fclass f => some (packX 0x24 f)
  | .ld f => some (packM 0x25 f)
  | .st f => some (packM 0x26 f)
  | .ldpair f => some (packM 0x27 f)
  | .stpair f => some (packM 0x28 f)
  | .br f => some (packB 0x29 f)
  | .jal f => some (packJ 0x2A f)
  | .jalr f => some (packJ 0x2B f)
  | .loop f => some (packB 0x2C f)
  | .fsqrt f => some (packX 0x2D f)
  | .frnd f => some (packX 0x2E f)
  | .mfs f => some (packS 0x30 f)
  | .mts f => some (packS 0x31 f)
  | .trap f => some (packJ 0x32 f)
  | .break f => some (packJ 0x33 f)
  | .rdcyc f => some (packX 0x34 f)
  | .setvl f => some (packJ 0x35 f)
  | .waitlt f => some (packJ 0x36 f)
  | .nop f => some (packJ 0x37 f)
  | .fence f => some (packX 0x38 f)
  | .slotq f => some (packX 0x39 f)
  | .slotgate f => some (packJ 0x3A f)
  | .cacheop f => some (packM 0x3B f)
  | .vadd f => some (packX 0x40 f)
  | .vsub f => some (packX 0x41 f)
  | .vmul f => some (packX 0x42 f)
  | .vfma f => some (packX 0x43 f)
  | .vdiv f => some (packX 0x44 f)
  | .vmin f => some (packX 0x45 f)
  | .vmax f => some (packX 0x46 f)
  | .vunary f => some (packX 0x47 f)
  | .vand f => some (packX 0x48 f)
  | .vor f => some (packX 0x49 f)
  | .vxor f => some (packX 0x4A f)
  | .vshl f => some (packX 0x4B f)
  | .vshr f => some (packX 0x4C f)
  | .vcvt f => some (packX 0x4D f)
  | .vcmp f => some (packX 0x4E f)
  | .vsel f => some (packX 0x4F f)
  | .vsfu f => some (packX 0x50 f)
  | .vclass f => some (packX 0x51 f)
  | .vrnd f => some (packX 0x52 f)
  | .vadds f => some (packX 0x53 f)
  | .vmuls f => some (packX 0x54 f)
  | .vfmas f => some (packX 0x55 f)
  | .vmins f => some (packX 0x56 f)
  | .vmaxs f => some (packX 0x57 f)
  | .vshli f => some (packJ 0x58 f)
  | .vshri f => some (packJ 0x59 f)
  | .vcmps f => some (packX 0x5A f)
  | .vsplat f => some (packJ 0x5B f)
  | .viota f => some (packJ 0x5C f)
  | .vbcast f => some (packX 0x5D f)
  | .vslide f => some (packJ 0x5E f)
  | .vmov f => some (packX 0x5F f)
  | .vld f => some (packM 0x60 f)
  | .vldx f => some (packM 0x61 f)
  | .vtread f => some (packT 0x62 f)
  | .vkld f => some (packM 0x63 f)
  | .vst f => some (packM 0x64 f)
  | .vstx f => some (packM 0x65 f)
  | .vcst f => some (packM 0x66 f)
  | .vkst f => some (packM 0x67 f)
  | .vred f => some (packM 0x68 f)
  | .vsegred f => some (packX 0x69 f)
  | .vscan f => some (packX 0x6A f)
  | .vforce f => some (packX 0x6B f)
  | .vpass f => some (packX 0x6C f)
  | .kop f => some (packX 0x6D f)
  | .kpop f => some (packX 0x6E f)
  | .vflags f => some (packX 0x6F f)
  | .lqopPush f => some (packX 0x70 f)
  | .lqopPop f => some (packX 0x70 f)
  | .lqopDrop f => some (packX 0x70 f)
  | .vmulh f => some (packX 0x71 f)
  | .vpopc f => some (packX 0x72 f)
  | .mopa f => some (packT 0x80 f)
  | .mops f => some (packT 0x81 f)
  | .mzero f => some (packT 0x82 f)
  | .mscale f => some (packT 0x83 f)
  | .maddt f => some (packT 0x84 f)
  | .mtrn f => some (packT 0x85 f)
  | .mtld f => some (packT 0x86 f)
  | .mtst f => some (packT 0x87 f)
  | .mpack f => some (packT 0x88 f)
  | .mtwr f => some (packT 0x89 f)
  | .mrred f => some (packT 0x8A f)
  | .bload f => some (packT 0x8B f)
  | .bfromt f => some (packT 0x8C f)
  | .msave f => some (packT 0x8D f)
  | .mrest f => some (packT 0x8E f)
  | .mopt f => some (packT 0x8F f)
  | .sscfg f => some (packJ 0xA0 f)
  | .sscan f => some (packX 0xA1 f)
  | .ssstep f => some (packX 0xA2 f)
  | .ssld f => some (packM 0xA3 f)
  | .ssst f => some (packM 0xA4 f)
  | .ssrst f => some (packX 0xA5 f)
  | .cpy f => some (packM 0xB0 f)
  | .cpy2d f => some (packM 0xB1 f)
  | .cpyt f => some (packM 0xB2 f)
  | .cpyx f => some (packM 0xB3 f)
  | .cpyf f => some (packM 0xB4 f)
  | .cpyr f => some (packM 0xB5 f)
  | .cpypub f => some (packM 0xB6 f)
  | .stcfg f => some (packX 0xB7 f)
  | .stmap f => some (packM 0xB8 f)
  | .stfl f => some (packM 0xB9 f)
  | .arm f => some (packM 0xBA f)
  | .arwait f => some (packM 0xBB f)
  | .cinv f => some (packM 0xBC f)
  | .stinv f => some (packM 0xBD f)
  | .amo f => some (packM 0xC0 f)
  | .amow f => some (packM 0xC1 f)
  | .cas f => some (packM 0xC2 f)
  | .vamo f => some (packM 0xC3 f)
  | .ldaq f => some (packM 0xC4 f)
  | .strl f => some (packM 0xC5 f)
  | .semtas f => some (packJ 0xC6 f)
  | .semclr f => some (packJ 0xC7 f)
  | .cdrd f => some (packJ 0xC8 f)
  | .cdwr f => some (packJ 0xC9 f)
  | .cdamo f => some (packJ 0xCA f)
  | .cbar f => some (packJ 0xCB f)
  | .vtb f => some (packM 0xD0 f)
  | .lfetch f => some (packJ 0xD1 f)
  | .lstop f => some (packJ 0xD2 f)
  | .lbr f => some (packB 0xD3 f)
  | .launch f => some (packM 0xD8 f)
  | .yield f => some (packJ 0xD9 f)
  | .taskend f => some (packJ 0xDA f)
  | .leaseq f => some (packX 0xDB f)
  | .tret f => some (packJ 0xE0 f)
  | .ctxsv f => some (packM 0xE1 f)
  | .ctxrs f => some (packM 0xE2 f)
  | .tlbinv f => some (packX 0xE3 f)
  | .pgsetSet f => some (packX 0xE4 f)
  | .pgsetNorm f => some (packX 0xE4 f)
  | .pgsetWbset f => some (packX 0xE4 f)
  | .pgcnt f => some (packX 0xE5 f)
  | .nqpost f => some (packM 0xE6 f)
  | .waiti f => some (packJ 0xE7 f)
  | .stepcmt f => some (packJ 0xE8 f)
  | .stepabt f => some (packJ 0xE9 f)
  | .qctlRd f => some (packX 0xEA f)
  | .qctlStop f => some (packX 0xEA f)
  | .qctlStart f => some (packX 0xEA f)
  | .qctlSetw f => some (packX 0xEA f)
  | .qctlSetp f => some (packX 0xEA f)
  | .addSlot a0 s1 => some (packPair ⟨0x00, a0⟩ s1)
  | .subSlot a0 s1 => some (packPair ⟨0x01, a0⟩ s1)
  | .andSlot a0 s1 => some (packPair ⟨0x02, a0⟩ s1)
  | .orSlot a0 s1 => some (packPair ⟨0x03, a0⟩ s1)
  | .xorSlot a0 s1 => some (packPair ⟨0x04, a0⟩ s1)
  | .shlSlot a0 s1 => some (packPair ⟨0x05, a0⟩ s1)
  | .shrSlot a0 s1 => some (packPair ⟨0x06, a0⟩ s1)
  | .sraSlot a0 s1 => some (packPair ⟨0x07, a0⟩ s1)
  | .addiSlot a0 s1 => some (packPair ⟨0x08, a0⟩ s1)
  | .shliSlot a0 s1 => some (packPair ⟨0x09, a0⟩ s1)
  | .shriSlot a0 s1 => some (packPair ⟨0x0A, a0⟩ s1)
  | .sltSlot a0 s1 => some (packPair ⟨0x0B, a0⟩ s1)
  | .minmaxSlot a0 s1 => some (packPair ⟨0x0C, a0⟩ s1)
  | .mulSlot a0 s1 => some (packPair ⟨0x0D, a0⟩ s1)
  | .faddSlot a0 s1 => some (packPair ⟨0x0E, a0⟩ s1)
  | .fmulSlot a0 s1 => some (packPair ⟨0x0F, a0⟩ s1)
  | .fminmaxSlot a0 s1 => some (packPair ⟨0x10, a0⟩ s1)
  | .nopSlot a0 s1 => some (packPair ⟨0x11, a0⟩ s1)
  | .vaddSlot a0 s1 => some (packPair ⟨0x12, a0⟩ s1)
  | .vsubSlot a0 s1 => some (packPair ⟨0x13, a0⟩ s1)
  | .vmulSlot a0 s1 => some (packPair ⟨0x14, a0⟩ s1)
  | .vminSlot a0 s1 => some (packPair ⟨0x15, a0⟩ s1)
  | .vmaxSlot a0 s1 => some (packPair ⟨0x16, a0⟩ s1)
  | .vandSlot a0 s1 => some (packPair ⟨0x17, a0⟩ s1)
  | .vorSlot a0 s1 => some (packPair ⟨0x18, a0⟩ s1)
  | .vxorSlot a0 s1 => some (packPair ⟨0x19, a0⟩ s1)
  | .vshliSlot a0 s1 => some (packPair ⟨0x1A, a0⟩ s1)
  | .vshriSlot a0 s1 => some (packPair ⟨0x1B, a0⟩ s1)
  | .vaddsSlot a0 s1 => some (packPair ⟨0x1C, a0⟩ s1)
  | .vmulsSlot a0 s1 => some (packPair ⟨0x1D, a0⟩ s1)
  | .vmovSlot a0 s1 => some (packPair ⟨0x1E, a0⟩ s1)
  | .vunarySlot a0 s1 => some (packPair ⟨0x1F, a0⟩ s1)
  | .vstartWrite f => some (packS 0x31 f)
  | .fstatusAccess w f => some (packS (if w then 0x31 else 0x30) f)
  | .browbaseWrite f => some (packS 0x31 f)
  | .instructionFetch => none
  | .loadDataReturn => none
  | .postedStorePerformed _ => none
  | .pollBackoffEnd => none
  | .entryStart => none
  | .passLaunch => none
  | .elementGroupCommit _ => none
  | .passComplete _ => none
  | .matrixUnit => none
  | .ssbUnit => none
  | .copyUnit => none
  | .operationComplete _ => none
  | .indirectStream => none
  | .versionedCopy _ => none
  | .deferredFaultDelivery => none
  | .droppedStoreDelivery => none
  | .waitTimeout => none
  | .waitiExpiry => none
  | .slotgateRelease => none
  | .uncorrectableError _ => none
  | .machineCheck => none
  | .channelOutOfService _ => none
  | .repairReload _ _ => none
  | .doorbell _ _ _ => none
  | .configWrite _ => none
  | .recordFetch _ _ => none
  | .waitConditionHold _ _ _ => none
  | .taskStart _ _ => none
  | .preload _ _ => none
  | .taskComplete _ => none
  | .preempt _ => none
  | .resume _ => none
  | .periodBoundary => none
  | .quiesce _ => none
  | .resumePartition _ => none
  | .drainHorizon _ => none
  | .slotStart _ => none
  | .overrun _ => none
  | .slotEnd _ => none
  | .slotExtensionEnd _ => none
  | .leapSlot _ => none
  | .hotRefreshAnnounce _ => none
  | .hotRefreshSwitch => none
  | .criticalTemperature => none
  | .linkTransaction _ _ => none
  | .flitReplay => none
  | .linkReset _ => none
  | .lrxdoneExchange _ => none
  | .powerLoss => none
  | .imageVerify _ => none
  | .cellReady _ => none
  | .attestationRequest _ _ => none
  | .matrixRowUnit _ => none
  | .boot => none
  | .correctableError => none
  | .peerrstClear => none

/-- R77, R246: the words a lane block accepts, with lane registers for register fields and K, LS and HINT 0. -/
def laneLegal : Instr → Bool
  | .vadd f | .vsub f | .vmul f =>
    f.fits { d := .lane, a := .lane, b := .lane, tys := tyIntFp, fn := 1 } && f.satOk && f.hint == 0
  | .vmin f | .vmax f => f.fits { d := .lane, a := .lane, b := .lane, tys := tyIntFp } && f.hint == 0
  | .vand f | .vor f | .vxor f => f.fits { d := .lane, a := .lane, b := .lane, tys := tyInt } && f.hint == 0
  | .vadds f | .vmuls f =>
    f.fits { d := .lane, a := .lane, b := .lane, tys := tyIntFp, fn := 1 } && f.satOk && f.hint == 0
  | .vshli f | .vshri f => f.fits { d := .lane, a := .lane, tys := tyInt } && f.imm.toNat < tyBits f.ty
  | .vmov f => f.fits { d := .lane, a := .lane } && f.hint == 0
  | .vunary f =>
    f.fits { d := .lane, a := .lane, tys := tyIntFp, fn := 0x3F } &&
      (f.fnAt 0 6 ≤ 1 || (f.fnAt 0 6 == 2 && f.ty.toNat < 8)) && f.hint == 0
  | .vcmp f =>
    f.fits { d := .lane, a := .lane, b := .lane, tys := tyNoSq, fn := 7 } &&
      (f.fnAt 0 3 ≤ 5 || (f.fnAt 0 3 == 6 && 8 ≤ f.ty.toNat)) && f.hint == 0
  | .vsel f => f.fits { d := .lane, a := .lane, b := .lane, c := .lane } && f.hint == 0
  | .vcvt f =>
    f.fits { d := .lane, a := .lane, tys := tyNoSq, fn := 0xF } && f.fnAt 0 4 ≤ 0xE && f.fnAt 0 4 != f.ty.toNat &&
      f.hint == 0
  | .vsfu f => f.fits { d := .lane, a := .lane, tys := 0x0400, fn := 7 } && f.fnAt 0 3 ≤ 5 && f.hint == 0
  | .lbr f => f.lbrOk
  | .lfetch f => f.fits { d := .cc }
  | .lstop f => f.fits {} && f.imm == 0
  | _ => false

/-- R77: a block word's instruction; a pair word and every other word is refused. -/
def decodeLane (w : W64) : Option Instr :=
  if bitAt w 63 then none else
    match decodeOpc w with
    | none => none
    | some i => if laneLegal i then some i else none

/-- The instruction of a word whose bits are `w`; the device's words are 64 bits (R59). -/
def decodeTableWord (nbits w : Nat) : Option Instr :=
  if 64 < nbits then none else
    match decode (BitVec.ofNat 64 w) with
    | .ok i => some i
    | .error _ => none

end Sys2Proof
end

