-- ==== Sys2Proof/Config.lean ====
section
/-! DEFINITION. Config.lean: what the spec leaves to the implementation or to an outside party, as constants with no
body (log entry 5). No statement rests on a value of one. -/

namespace Sys2Proof

/-- DEVREV.STEP (R78), less one: the spec says it is at least 1. -/
opaque Config.stepping : BitVec 15

/-- R46: whether a finite, in-range, inexact conversion to LNS6 raises NX. -/
opaque Config.lns6Inexact : Bool

/-- R383: the byte a read of a fabric window returns, at a count of free values. -/
opaque Config.fabricByte : Nat → Nat → Byte

/-- R385: whether the boot ROM's ECDSA check accepts an image. -/
opaque Config.imageGood : BootImage → Bool

/-- R386: the answer to an attestation request, from the partition's configuration (R341: its queues; R358: its fractions;
R98: its regions), the accepted images and the nonce. -/
opaque Config.attestation :
  PartConf → List (Nat × QueueConf) → List Fraction → List Region → List BootImage → List Byte → List Byte

/-- R357: the bytes at DRAM of a task or a fraction in a period or part of one, at a count of free values. -/
opaque Config.dramBytes : Nat → Nat

/-- R357: the SRAM accesses of a task or a fraction in a period or part of one, at a count of free values. -/
opaque Config.sramCount : Nat → Nat

/-- R369: the choice among requests in flight at an overrun, at a count of free values. -/
opaque Config.overrunPick : Nat → Nat

/-- A value the spec leaves undefined, at a count of free values. -/
opaque Config.freeWord : Nat → W64

end Sys2Proof
end

