-- ==== Sys2Proof/Machine/Flags.lean ====
section
/-! DEFINITION. Machine/Flags.lean: element values, conversions, rounding and the floating-point flags each raises
(R35 to R58). Values are exact: an irrational or non-dyadic one is cut far below any destination's precision with its
last bit set, which rounds as the exact value does. -/

namespace Sys2Proof.Machine

/-- The five flags in FSTATUS's order (R42): IV, DZ, OF, UF, NX at bits 4 to 0. -/
abbrev Flags := BitVec 5

def flagNone : Flags := 0
def flagIv : Flags := 0x10
def flagDz : Flags := 0x08
def flagOf : Flags := 0x04
def flagUf : Flags := 0x02
def flagNx : Flags := 0x01

/-- One flag when a condition holds. -/
def flagIf (c : Bool) (f : Flags) : Flags := if c then f else 0

/-- R45: the flags raised that FCTRL[12:8] enables. -/
def enabledFlags (fctrl : BitVec 13) (f : Flags) : Flags := f &&& slice fctrl 8 5

/-- The value of an element: a NaN (signalling or quiet), an infinity, or (-1)^neg · m · 2^e. -/
inductive Val where
  | nan (sig : Bool)
  | inf (neg : Bool)
  | fin (neg : Bool) (m : Nat) (e : Int)
  deriving DecidableEq, Repr

/-- The number of bits of `n`. -/
def bitLen (n : Nat) : Nat := if n == 0 then 0 else Nat.log2 n + 1

/-- m · 2^d, cut toward zero when d is negative. -/
def shiftBy (m : Nat) (d : Int) : Nat := if 0 ≤ d then m <<< d.toNat else m >>> (-d).toNat

/-- floor(√n), one result bit at a time from bit `fuel - 1` down. -/
def isqrtLoop (n : Nat) : Nat → Nat → Nat
  | 0, r => r
  | k + 1, r =>
    let c := r + (1 <<< k)
    isqrtLoop n k (if c * c ≤ n then c else r)

/-- floor(√n). -/
def isqrt (n : Nat) : Nat := isqrtLoop n (bitLen n / 2 + 1) 0

/-! ### Types -/

/-- A floating-point encoding (R37 to R39): exponent bits, fraction bits, bias, and the magnitude code of its largest
finite value; `ieee` has infinities and NaNs in the top exponent. -/
structure FloatFmt where
  eb : Nat
  fb : Nat
  bias : Int
  maxCode : Nat
  ieee : Bool
  deriving DecidableEq, Repr

def fmtFp16 : FloatFmt := ⟨5, 10, 15, 0x7BFF, true⟩
def fmtBf16 : FloatFmt := ⟨8, 7, 127, 0x7F7F, true⟩
def fmtFp32 : FloatFmt := ⟨8, 23, 127, 0x7F7FFFFF, true⟩
def fmtFp64 : FloatFmt := ⟨11, 52, 1023, 0x7FEFFFFFFFFFFFFF, true⟩
def fmtE4M3 : FloatFmt := ⟨4, 3, 7, 0x7E, false⟩
def fmtE5M2 : FloatFmt := ⟨5, 2, 15, 0x7B, true⟩
def fmtE2M3 : FloatFmt := ⟨2, 3, 1, 0x1F, false⟩
def fmtE3M2 : FloatFmt := ⟨3, 2, 3, 0x1F, false⟩

/-- The encoding of a floating-point type code (R35). -/
def floatFmt (ty : Nat) : FloatFmt :=
  match ty with
  | 0x8 => fmtFp16
  | 0x9 => fmtBf16
  | 0xA => fmtFp32
  | 0xB => fmtFp64
  | 0xC => fmtE4M3
  | _ => fmtE5M2

/-- Bits of an encoding: sign, exponent, fraction. -/
def FloatFmt.width (f : FloatFmt) : Nat := f.eb + f.fb + 1

/-- The element width in bits by type number (R35). -/
def widthOf (ty : Nat) : Nat := tyBits (BitVec.ofNat 4 ty)

/-- The element width in bytes of a type other than LNS6 and SQ. -/
def bytesOf (ty : Nat) : Nat := widthOf ty / 8

/-- R35: the canonical NaN. -/
def canonicalNan (ty : Nat) : Nat :=
  match ty with
  | 0x8 => 0x7E00
  | 0x9 => 0x7FC0
  | 0xA => 0x7FC00000
  | 0xB => 0x7FF8000000000000
  | 0xC => 0x7F
  | 0xD => 0x7E
  | _ => 0x30

/-- The smallest and largest value of an integer type (R35). -/
def intMin (ty : Nat) : Int := if ty % 2 == 0 then -(2 ^ (widthOf ty - 1) : Nat) else 0
def intMax (ty : Nat) : Int := if ty % 2 == 0 then (2 ^ (widthOf ty - 1) : Nat) - 1 else (2 ^ widthOf ty : Nat) - 1

/-- The bits of an integer modulo 2^width (R36). -/
def wrapInt (ty : Nat) (v : Int) : Nat := (v % (2 ^ widthOf ty : Nat)).toNat

/-- The integer an element's bits stand for. -/
def intOf (ty : Nat) (bits : Nat) : Int :=
  let b := bits % 2 ^ widthOf ty
  if ty % 2 == 0 && 2 ^ (widthOf ty - 1) ≤ b then (b : Int) - (2 ^ widthOf ty : Nat) else b

/-- R36: wrapped, or with `.sat` clamped to the type's range. -/
def storeInt (ty : Nat) (sat : Bool) (v : Int) : Nat :=
  if sat then wrapInt ty (if v < intMin ty then intMin ty else if intMax ty < v then intMax ty else v)
  else wrapInt ty v

/-- The value of a magnitude code of an encoding without infinities, or the finite part of one with them. -/
def FloatFmt.mag (f : FloatFmt) (code : Nat) : Nat × Int :=
  let ex := code / 2 ^ f.fb
  let fr := code % 2 ^ f.fb
  if ex == 0 then (fr, 1 - f.bias - f.fb) else (fr + 2 ^ f.fb, (ex : Int) - f.bias - f.fb)

/-- The value of an encoding's bits. Every NaN code of E4M3 and E5M2 is quiet (R147). -/
def FloatFmt.decode (f : FloatFmt) (bits : Nat) : Val :=
  let neg := bits / 2 ^ (f.eb + f.fb) % 2 == 1
  let code := bits % 2 ^ (f.eb + f.fb)
  if f.ieee && code / 2 ^ f.fb == 2 ^ f.eb - 1 then
    if code % 2 ^ f.fb == 0 then .inf neg else .nan (7 < f.fb + f.eb && code / 2 ^ (f.fb - 1) % 2 == 0)
  else if f == fmtE4M3 && code == 0x7F then .nan false
  else .fin neg (f.mag code).1 (f.mag code).2

/-- 2^(f/4) cut to 200 fraction bits, for f = 1, 2, 3. -/
def root4 (f : Nat) : Nat :=
  match f with
  | 1 => 0x1306fe0a31b7152de8d5a46305c85edecbc27343629f502f1af
  | 2 => 0x16a09e667f3bcc908b2fb1366ea957d3e3adec17512775099da
  | _ => 0x1ae89f995ad3ad5e8734d1773205a7fbc3ae675ea440b162d6b

/-- 2^(q/4) for an integer q, exact or cut with its last bit set. -/
def pow2Quarter (q : Int) : Nat × Int :=
  let f := (q % 4).toNat
  let i := q / 4
  if f == 0 then (1, i) else (2 * root4 f + 1, i - 201)

/-- The log of an LNS6 code in quarters (R40). -/
def lnsLog (code : Nat) : Int := if 16 ≤ code % 32 then (code % 32 : Int) - 32 else (code % 32 : Nat)

/-- R40: the value of an LNS6 code. -/
def decodeLns (code : Nat) : Val :=
  if code % 64 == 0x10 then .fin false 0 0
  else if code % 64 == 0x30 then .nan false
  else
    let p := pow2Quarter (lnsLog code)
    .fin (code / 32 % 2 == 1) p.1 p.2

/-- The value of an element's bits in a type (R35 to R40). -/
def valueOf (ty : Nat) (bits : Nat) : Val :=
  if ty < 8 then .fin (intOf ty bits < 0) (intOf ty bits).natAbs 0
  else if ty == 0xE then decodeLns bits
  else (floatFmt ty).decode bits

/-! ### Rounding -/

/-- How a rounding goes: RM (R42), or R48's stochastic rounding with its seed and index. -/
structure Rounding where
  rm : Nat
  sr : Option (W64 × Nat)
  deriving DecidableEq, Repr

/-- Round to nearest even. -/
def rne : Rounding := ⟨0, none⟩

/-- R58: the hash of stochastic rounding. -/
def srHash (seed : W64) (idx : Nat) : BitVec 32 :=
  let i := BitVec.ofNat 48 idx
  let x0 : BitVec 32 := slice seed 0 32 ^^^ slice seed 32 32
  let x1 : BitVec 32 := x0 + slice i 0 32 * 0x9E3779B1 + (slice i 32 16).setWidth 32 * 0x85EBCA77
  let x2 := (x1 ^^^ (x1 >>> 16)) * 0x7FEB352D
  let x3 := (x2 ^^^ (x2 >>> 15)) * 0x846CA68B
  x3 ^^^ (x3 >>> 16)

/-- Rounds m · 2^-sh in a direction: the integer and whether it is inexact. -/
def roundShift (m : Nat) (sh : Int) (neg : Bool) (rm : Nat) : Nat × Bool :=
  if sh ≤ 0 then (m <<< (-sh).toNat, false)
  else
    let s := sh.toNat
    let q := m >>> s
    let r := m - (q <<< s)
    let up : Bool :=
      match rm with
      | 0 => 2 ^ s < 2 * r || (2 * r == 2 ^ s && q % 2 == 1)
      | 1 => false
      | 2 => !neg && r != 0
      | _ => neg && r != 0
    (if up then q + 1 else q, r != 0)

/-- What a rounding into an encoding gives: the bits, the flags, and the overflow mask bit of a conversion (R47). -/
structure Rounded where
  bits : Nat
  flags : Flags
  ovf : Bool
  deriving DecidableEq, Repr

/-- The sign bit of an encoding. -/
def FloatFmt.signBit (f : FloatFmt) (neg : Bool) : Nat := if neg then 2 ^ (f.eb + f.fb) else 0

/-- R44, R46, R48: rounds a finite value. `sat` gives the largest finite value on overflow, with the mask bit; without
it overflow follows IEEE 754-2019. -/
def FloatFmt.round (f : FloatFmt) (sat : Bool) (r : Rounding) (neg : Bool) (m : Nat) (e : Int) : Rounded :=
  if m == 0 then ⟨f.signBit neg, 0, false⟩
  else
    let lead : Int := (bitLen m : Int) - 1 + e
    let emin := 1 - f.bias
    let q := (if lead < emin then emin else lead) - f.fb
    let sh := q - e
    let cut : Nat × Bool :=
      match r.sr with
      | some (seed, idx) =>
        if sh ≤ 0 then roundShift m sh neg r.rm
        else
          let t := m >>> sh.toNat
          let rest := m - (t <<< sh.toNat)
          (if rest != 0 && (srHash seed idx).toNat < (rest <<< 32) >>> sh.toNat then t + 1 else t, rest != 0)
      | none => roundShift m sh neg r.rm
    let carry : Bool := 2 ^ (f.fb + 1) ≤ cut.1
    let big := if carry then cut.1 / 2 else cut.1
    let qq := if carry then q + 1 else q
    let tiny : Bool :=
      lead < emin &&
        match r.sr with
        | some _ => big < 2 ^ f.fb
        | none => lead + 1 < emin || (roundShift m (lead - f.fb - e) neg r.rm).1 < 2 ^ (f.fb + 1)
    let nx := flagIf cut.2 flagNx ||| flagIf (cut.2 && tiny) flagUf
    let code : Nat := if big < 2 ^ f.fb then big else (qq + f.fb + f.bias).toNat * 2 ^ f.fb + big % 2 ^ f.fb
    if f.maxCode < code then
      if sat || !f.ieee then ⟨f.signBit neg + f.maxCode, flagOf ||| flagNx, true⟩
      else
        let toInf : Bool := r.rm == 0 || (r.rm == 2 && !neg) || (r.rm == 3 && neg)
        ⟨f.signBit neg + (if toInf then (2 ^ f.eb - 1) * 2 ^ f.fb else f.maxCode), flagOf ||| flagNx, false⟩
    else ⟨f.signBit neg + code, nx, false⟩

/-- An infinity of an encoding; one without infinities gives its largest finite value (R46). -/
def FloatFmt.infinity (f : FloatFmt) (neg : Bool) : Rounded :=
  if f.ieee then ⟨f.signBit neg + (2 ^ f.eb - 1) * 2 ^ f.fb, 0, false⟩
  else ⟨f.signBit neg + f.maxCode, flagOf ||| flagNx, true⟩

/-- The result of an arithmetic operation of an IEEE type: rounded, with the canonical NaN (R37). -/
def arith (ty : Nat) (r : Rounding) (v : Val) (raised : Flags) : Rounded :=
  match v with
  | .nan _ => ⟨canonicalNan ty, raised, false⟩
  | .inf neg => ⟨((floatFmt ty).infinity neg).bits, raised, false⟩
  | .fin neg m e =>
    let x := (floatFmt ty).round false r neg m e
    ⟨x.bits, raised ||| x.flags, false⟩

/-- R46: a value to an integer type; `srcInt` tells an integer source from a float one. An integer that a type as wide or
wider cannot hold saturates too and sets its mask bit (DEDUCED, log entry 100). -/
def toInt (ty : Nat) (srcInt : Bool) (rm : Nat) (v : Val) : Rounded :=
  match v with
  | .nan _ => ⟨0, flagIv, true⟩
  | .inf neg => ⟨wrapInt ty (if neg then intMin ty else intMax ty), flagIv, true⟩
  | .fin neg m e =>
    let c := roundShift m (-e) neg rm
    let x : Int := if neg then -(c.1 : Int) else c.1
    if x < intMin ty then ⟨wrapInt ty (intMin ty), flagIf (!srcInt) flagIv, true⟩
    else if intMax ty < x then ⟨wrapInt ty (intMax ty), flagIf (!srcInt) flagIv, true⟩
    else ⟨wrapInt ty x, flagIf c.2 flagNx, false⟩

/-- R46: the nearest LNS6 code in the log domain. Whether an in-range inexact result raises NX is not stated, and is
Config.lns6Inexact (log entry 5). -/
def toLns (v : Val) : Rounded :=
  match v with
  | .nan sig => ⟨0x30, flagIf sig flagIv, false⟩
  | .inf neg => ⟨(if neg then 0x20 else 0) + 0x0F, flagOf ||| flagNx, true⟩
  | .fin neg m e =>
    if m == 0 then ⟨0x10, 0, false⟩
    else
      let j : Int := (bitLen (m ^ 8) : Int) - 1 + 8 * e
      let q : Int := (j + 1) / 2
      if 15 < q then ⟨(if neg then 0x20 else 0) + 0x0F, flagOf ||| flagNx, true⟩
      else if q < -15 then ⟨0x10, flagUf ||| flagNx, false⟩
      else
        let exact : Bool := m == 2 ^ (bitLen m - 1)
        ⟨(if neg then 0x20 else 0) + (q % 32).toNat, flagIf (!exact && Config.lns6Inexact) flagNx, false⟩

/-- R48: the types a conversion rounds into stochastically. -/
def srType (ty : Nat) : Bool := ty == 0x8 || ty == 0x9 || ty == 0xC || ty == 0xD

/-- R46, R48: converts a value of type `src` into type `ty`. -/
def convertNum (ty src : Nat) (r : Rounding) (v : Val) : Rounded :=
  if ty < 8 then toInt ty (src < 8) r.rm v
  else if ty == 0xE then toLns v
  else
    let rr : Rounding := if srType ty then r else ⟨r.rm, none⟩
    match v with
    | .nan sig => ⟨canonicalNan ty, flagIf sig flagIv, false⟩
    | .inf neg => (floatFmt ty).infinity neg
    | .fin neg m e => (floatFmt ty).round true rr neg m e

/-- R46: converts an element's bits. -/
def convertBits (ty src : Nat) (r : Rounding) (bits : Nat) : Rounded := convertNum ty src r (valueOf src bits)

/-- The rounding a captured FCTRL gives to a conversion with index `idx` (R42, R43, R48). -/
def convRounding (fctrl : BitVec 13) (rseed : W64) (idx : Nat) : Rounding :=
  ⟨(slice fctrl 0 2).toNat, if bitAt fctrl 2 then some (rseed, idx) else none⟩

/-- The rounding a captured FCTRL gives to arithmetic. -/
def arithRounding (fctrl : BitVec 13) : Rounding := ⟨(slice fctrl 0 2).toNat, none⟩

/-! ### Arithmetic on values -/

def Val.isNan : Val → Bool
  | .nan _ => true
  | _ => false

def Val.isSig : Val → Bool
  | .nan s => s
  | _ => false

def Val.isZero : Val → Bool
  | .fin _ m _ => m == 0
  | _ => false

def Val.isInf : Val → Bool
  | .inf _ => true
  | _ => false

def Val.neg? : Val → Bool
  | .nan _ => false
  | .inf n => n
  | .fin n _ _ => n

/-- The value with its sign flipped. -/
def Val.flip (v : Val) (c : Bool) : Val :=
  if !c then v else
    match v with
    | .nan s => .nan s
    | .inf n => .inf !n
    | .fin n m e => .fin (!n) m e

/-- A finite value as an integer multiple of 2^e0, for e0 no larger than its exponent. -/
def scaled (neg : Bool) (m : Nat) (e e0 : Int) : Int :=
  let x : Int := (m <<< (e - e0).toNat : Nat)
  if neg then -x else x

/-- IV when an operand is a signalling NaN. -/
def sigFlag (vs : List Val) : Flags := flagIf (vs.any Val.isSig) flagIv

/-- The exact sum; a zero sum of unlike signs is -0 only when rounding down. -/
def addNum (rm : Nat) (a b : Val) : Val × Flags :=
  match a, b with
  | .nan s, .nan t => (.nan false, flagIf (s || t) flagIv)
  | .nan s, _ => (.nan false, flagIf s flagIv)
  | _, .nan t => (.nan false, flagIf t flagIv)
  | .inf n, .inf k => if n == k then (.inf n, 0) else (.nan false, flagIv)
  | .inf n, .fin _ _ _ => (.inf n, 0)
  | .fin _ _ _, .inf k => (.inf k, 0)
  | .fin n m e, .fin k p d =>
    let e0 := if e ≤ d then e else d
    let s := scaled n m e e0 + scaled k p d e0
    if s == 0 then
      (.fin (if m == 0 && p == 0 && n == k then n else rm == 3) 0 0, 0)
    else (.fin (s < 0) s.natAbs e0, 0)

/-- The exact product. -/
def mulNum (a b : Val) : Val × Flags :=
  match a, b with
  | .nan s, .nan t => (.nan false, flagIf (s || t) flagIv)
  | .nan s, _ => (.nan false, flagIf s flagIv)
  | _, .nan t => (.nan false, flagIf t flagIv)
  | .inf n, .inf k => (.inf (n != k), 0)
  | .inf n, .fin k p _ => if p == 0 then (.nan false, flagIv) else (.inf (n != k), 0)
  | .fin n m _, .inf k => if m == 0 then (.nan false, flagIv) else (.inf (n != k), 0)
  | .fin n m e, .fin k p d => (.fin (n != k) (m * p) (e + d), 0)

/-- R37, R58: a·b + c before its one rounding; ∞ × 0 raises IV whatever the addend. -/
def fmaNum (rm : Nat) (a b c : Val) : Val × Flags :=
  let p := mulNum a b
  let s := addNum rm p.1 c
  (s.1, p.2 ||| s.2)

/-- m / p with a set last bit when it is not exact. -/
def divMag (m : Nat) (e : Int) (p : Nat) (d : Int) : Nat × Int :=
  let k := 140 + bitLen p - (if bitLen m ≤ 140 + bitLen p then bitLen m else 140 + bitLen p)
  let n := m <<< k
  let q := n / p
  if q * p == n then (q, e - d - k) else (2 * q + 1, e - d - k - 1)

/-- The quotient; x / 0 for a finite nonzero x raises DZ (R144). -/
def divNum (a b : Val) : Val × Flags :=
  match a, b with
  | .nan s, .nan t => (.nan false, flagIf (s || t) flagIv)
  | .nan s, _ => (.nan false, flagIf s flagIv)
  | _, .nan t => (.nan false, flagIf t flagIv)
  | .inf _, .inf _ => (.nan false, flagIv)
  | .inf n, .fin k _ _ => (.inf (n != k), 0)
  | .fin n _ _, .inf k => (.fin (n != k) 0 0, 0)
  | .fin n m e, .fin k p d =>
    if p == 0 then (if m == 0 then (.nan false, flagIv) else (.inf (n != k), flagDz))
    else if m == 0 then (.fin (n != k) 0 0, 0)
    else
      let q := divMag m e p d
      (.fin (n != k) q.1 q.2, 0)

/-- √(m · 2^e) with a set last bit when it is not exact. -/
def sqrtMag (m : Nat) (e : Int) : Nat × Int :=
  let k0 := 280 - (if bitLen m ≤ 280 then bitLen m else 280)
  let k := if (e - k0) % 2 == 0 then k0 else k0 + 1
  let n := m <<< k
  let r := isqrt n
  if r * r == n then (r, (e - k) / 2) else (2 * r + 1, (e - k) / 2 - 1)

/-- The square root; a negative nonzero value is invalid (R144). -/
def sqrtNum (a : Val) : Val × Flags :=
  match a with
  | .nan s => (.nan false, flagIf s flagIv)
  | .inf n => if n then (.nan false, flagIv) else (.inf false, 0)
  | .fin n m e =>
    if m == 0 then (.fin n 0 0, 0)
    else if n then (.nan false, flagIv)
    else
      let r := sqrtMag m e
      (.fin false r.1 r.2, 0)

/-- The order of two values that are not NaN; -0 and +0 are equal. -/
def ltNum (a b : Val) : Bool :=
  match a, b with
  | .inf n, .inf k => n && !k
  | .inf n, .fin _ _ _ => n
  | .fin _ _ _, .inf k => !k
  | .fin n m e, .fin k p d =>
    let e0 := if e ≤ d then e else d
    scaled n m e e0 < scaled k p d e0
  | _, _ => false

def eqNum (a b : Val) : Bool := !a.isNan && !b.isNan && !ltNum a b && !ltNum b a

/-- Minimum or maximum of two elements of a type (R55, R144, R211): +0 is greater than -0, a NaN gives the canonical
NaN with IV. The bits of the chosen operand are kept. -/
def minMaxBits (ty : Nat) (isMax : Bool) (x y : Nat) : Nat × Flags :=
  let a := valueOf ty x
  let b := valueOf ty y
  if a.isNan || b.isNan then (canonicalNan ty, flagIv)
  else
    let less : Bool := ltNum a b || (eqNum a b && a.neg? && !b.neg?)
    (if less != isMax then x else y, 0)

/-- R144, R222: rounds to an integral value in the same type; `exact` raises NX when the value changes. -/
def roundIntegral (ty : Nat) (rm : Nat) (raise : Bool) (bits : Nat) : Rounded :=
  match valueOf ty bits with
  | .nan sig => ⟨canonicalNan ty, flagIf sig flagIv, false⟩
  | .inf _ => ⟨bits, 0, false⟩
  | .fin neg m e =>
    if 0 ≤ e then ⟨bits, 0, false⟩
    else
      let c := roundShift m (-e) neg rm
      ⟨((floatFmt ty).round false rne neg c.1 0).bits, flagIf (raise && c.2) flagNx, false⟩

/-- R147: the class of a floating-point element, as a bit number. -/
def classOf (ty : Nat) (bits : Nat) : Nat :=
  if ty == 0xE then
    (if bits % 64 == 0x10 then 4 else if bits % 64 == 0x30 then 9 else if bits % 64 < 32 then 6 else 1)
  else
    let f := floatFmt ty
    match f.decode bits with
    | .nan sig => if sig then 8 else 9
    | .inf neg => if neg then 0 else 7
    | .fin neg m _ =>
      if m == 0 then (if neg then 3 else 4)
      else if bits % 2 ^ (f.eb + f.fb) < 2 ^ f.fb then (if neg then 2 else 5)
      else if neg then 1 else 6

/-! ### Special functions (R223) -/

/-- ln 2 to 320 fraction bits. -/
def ln2Fixed : Nat := 0xb17217f7d1cf79abc9e3b39803f2f6af40f343267298b62d8a0d175b8baafa2be7b876206debac98

/-- e^z for 0 ≤ z < 1 with 320 fraction bits: the Taylor terms from the k-th on. -/
def expTerms (z : Nat) : Nat → Nat → Nat → Nat
  | 0, _, _ => 0
  | fuel + 1, k, t => t + expTerms z fuel (k + 1) ((t * z) >>> 320 / (k + 1))

/-- e^z for 0 ≤ z < 1, both with 320 fraction bits. -/
def expFixed (z : Nat) : Nat := expTerms z 90 0 (1 <<< 320)

/-- 2^(i + f) for an integer i and 0 < f < 1 given with 320 fraction bits. -/
def exp2Mag (i : Int) (f : Nat) : Nat × Int := (2 * expFixed ((f * ln2Fixed) >>> 320) + 1, i - 321)

/-- The integer part and the fraction (320 bits) of m · 2^e read with its sign. -/
def splitFixed (neg : Bool) (m : Nat) (e : Int) : Int × Nat :=
  let x : Int := shiftBy m (e + 320)
  let y : Int := if neg then -x else x
  (y / (2 ^ 320 : Nat), (y % (2 ^ 320 : Nat)).toNat)

/-- 2^v of a finite v, exact when v is an integer. Beyond ±2^12 the result is past every range, so v is held there. -/
def exp2Num (neg : Bool) (m : Nat) (e : Int) : Val :=
  if m == 0 then .fin false 1 0
  else if 12 < (bitLen m : Int) + e then .fin false 1 (if neg then -5000 else 5000)
  else
    let s := splitFixed neg m e
    if s.2 == 0 then .fin false 1 s.1
    else
      let r := exp2Mag s.1 s.2
      .fin false r.1 r.2

/-- t + t³/3 + t⁵/5 + … with 320 fraction bits, `p` the current odd power. -/
def atanhTerms (t2 : Nat) : Nat → Nat → Nat → Nat
  | 0, _, _ => 0
  | fuel + 1, k, p => p / k + atanhTerms t2 fuel (k + 2) ((p * t2) >>> 320)

/-- ln(1 + y) for 0 ≤ y < 1, both with 320 fraction bits. -/
def lnFixed (y : Nat) : Nat :=
  let t := (y <<< 320) / (y + (2 <<< 320))
  2 * atanhTerms ((t * t) >>> 320) 110 1 t

/-- log2 of a positive m · 2^e, exact when it is an integer. -/
def log2Num (m : Nat) (e : Int) : Val :=
  let l := bitLen m - 1
  let ex : Int := (l : Int) + e
  if m == 2 ^ l then .fin (ex < 0) ex.natAbs 0
  else
    let fr := ((lnFixed (((m - 2 ^ l) <<< 320) >>> l)) <<< 320) / ln2Fixed
    let v : Int := ex * (2 ^ 320 : Nat) + fr
    .fin (v < 0) (2 * v.natAbs + 1) (-321)

/-- 1 / (1 + e^-v) of a finite v. -/
def sigmNum (neg : Bool) (m : Nat) (e : Int) : Val :=
  if m == 0 then .fin false 1 (-1)
  else if 12 < (bitLen m : Int) + e then
    (if neg then .fin false 1 (-5000) else .fin false ((1 <<< 300) - 1) (-300))
  else
    -- e^-v = 2^(-v / ln 2), the quotient with 320 fraction bits
    let x : Int := ((shiftBy m (e + 320)) <<< 320) / ln2Fixed
    let y : Int := if neg then x else -x
    let i := y / (2 ^ 320 : Nat)
    let f := (y % (2 ^ 320 : Nat)).toNat
    let p := expFixed ((f * ln2Fixed) >>> 320)
    -- e^-v = p · 2^(i - 320); the denominator is 1 + that
    if 0 ≤ i then
      let den := (1 <<< 320) + (p <<< i.toNat)
      let r := divMag 1 0 den (-320)
      .fin false (2 * r.1 + 1) (r.2 - 1)
    else
      let den := (1 <<< (320 + (-i).toNat)) + p
      let r := divMag 1 0 den (-(320 + (-i).toNat : Nat))
      .fin false (2 * r.1 + 1) (r.2 - 1)

/-- R223: VSFU's functions on an FP32 element. -/
def sfu (fn : Nat) (rm : Nat) (bits : Nat) : Rounded :=
  let r : Rounding := ⟨rm, none⟩
  let v := valueOf 0xA bits
  let out (x : Val × Flags) : Rounded := arith 0xA r x.1 x.2
  match fn with
  | 0 =>
    match v with
    | .nan s => out (.nan false, flagIf s flagIv)
    | .inf n => out (if n then .fin false 0 0 else .inf false, 0)
    | .fin n m e => out (exp2Num n m e, 0)
  | 1 =>
    match v with
    | .nan s => out (.nan false, flagIf s flagIv)
    | .inf n => out (if n then (.nan false, flagIv) else (.inf false, 0))
    | .fin n m e =>
      out (if m == 0 then (.inf true, flagDz) else if n then (.nan false, flagIv) else (log2Num m e, 0))
  | 2 => out (divNum (.fin false 1 0) v)
  | 3 =>
    match v with
    | .nan s => out (.nan false, flagIf s flagIv)
    | .inf n => out (if n then (.nan false, flagIv) else (.fin false 0 0, 0))
    | .fin n m e =>
      if m == 0 then out (.inf n, flagDz)
      else if n then out (.nan false, flagIv)
      else
        let s := sqrtMag m e
        out (divNum (.fin false 1 0) (.fin false s.1 s.2))
  | 4 => out (sqrtNum v)
  | _ =>
    match v with
    | .nan s => out (.nan false, flagIf s flagIv)
    | .inf n => out (if n then .fin false 0 0 else .fin false 1 0, 0)
    | .fin n m e => out (sigmNum n m e, 0)

/-- R58: 2^v of an exact real v, rounded to nearest even into FP32. -/
def exp2Rne (v : Val) : Rounded :=
  match v with
  | .nan s => arith 0xA rne (.nan false) (flagIf s flagIv)
  | .inf n => arith 0xA rne (if n then .fin false 0 0 else .inf false) 0
  | .fin n m e => arith 0xA rne (exp2Num n m e) 0

/-! ### Squares -/

/-- The little-endian number of a list of bytes. -/
def leNat : List Byte → Nat
  | [] => 0
  | b :: bs => b.toNat + 256 * leNat bs

/-- `n` bytes of a number, little-endian. -/
def leBytes : Nat → Nat → List Byte
  | 0, _ => []
  | n + 1, v => BitVec.ofNat 8 v :: leBytes n (v / 256)

/-- A scaled square's block as its 512-bit number (R49). -/
structure Square where
  fmt : Nat
  scale : Nat
  mr : Nat
  mc : Nat
  elems : Nat
  deriving DecidableEq, Repr

/-- R49: a block's fields. -/
def Square.ofBytes (b : List Byte) : Square :=
  let v := leNat b
  ⟨v % 256, v / 2 ^ 8 % 256, v / 2 ^ 16 % 2 ^ 16, v / 2 ^ 32 % 2 ^ 16, v / 2 ^ 64 % 2 ^ 384⟩

/-- R49: a block's 64 bytes, reserved bytes zero. -/
def Square.toBytes (s : Square) : List Byte :=
  leBytes 64 (s.fmt + s.scale * 2 ^ 8 + s.mr * 2 ^ 16 + s.mc * 2 ^ 32 + s.elems * 2 ^ 64)

/-- Element code k of a square. -/
def Square.elem (s : Square) (k : Nat) : Nat := s.elems / 2 ^ (6 * k) % 64

/-- Micro-exponent i of a row or column field. -/
def microExp (field i : Nat) : Nat := field / 4 ^ i % 4

/-- The value of a six-bit element code in a square's format (R39, R40). -/
def sqCode (fmt code : Nat) : Val :=
  match fmt with
  | 1 => decodeLns code
  | 2 => fmtE2M3.decode code
  | _ => fmtE3M2.decode code

/-- R50: the exact value of an element, or none for SQ_FORMAT. -/
def decodeSq (s : Square) (i j : Nat) : Option Val :=
  if 3 < s.fmt then none
  else if s.fmt == 0 then some (.fin false 0 0)
  else if s.scale == 0xFF then some (.nan false)
  else
    match sqCode s.fmt (s.elem (8 * i + j)) with
    | .fin n m e => some (.fin n m (e + (s.scale : Int) - 127 - microExp s.mr i - microExp s.mc j))
    | v => some v

/-- The sum of six-bit codes laid at their places. -/
def packCodes : Nat → List Nat → Nat
  | _, [] => 0
  | k, c :: cs => c * 2 ^ (6 * k) + packCodes (k + 1) cs

/-- R51: the transposition of a block's fields. -/
def Square.transpose (s : Square) : Square :=
  ⟨s.fmt, s.scale, s.mc, s.mr, packCodes 0 ((List.range 64).map fun k => s.elem (8 * (k % 8) + k / 8))⟩

/-- R51: the transposition of a block's bytes, reserved bytes kept. -/
def transposeBlock (b : List Byte) : List Byte :=
  let t := (Square.ofBytes b).transpose.toBytes
  t.take 6 ++ (b.drop 6).take 2 ++ (t.drop 8).take 48 ++ b.drop 56

/-- R57: the 16-bit table of the matrix engine. -/
def logToLin (f : Nat) : Nat :=
  match f with
  | 0 => 0x8000
  | 1 => 0x9838
  | 2 => 0xB505
  | _ => 0xD746

/-- R256: an LNS6 factor's exact value from its log in quarters and its integer scale. -/
def lnsLin (neg : Bool) (q : Int) : Val := .fin neg (logToLin (q % 4).toNat) (q / 4 - 15)

/-- Bits a type's element keeps. -/
def maskBits (ty : Nat) (bits : Nat) : Nat := bits % 2 ^ widthOf ty

/-- R130: how an element stands in a 64-bit register: sign-extended for S types, zero-extended otherwise. -/
def extendTo64 (ty : Nat) (bits : Nat) : W64 :=
  if ty < 8 && ty % 2 == 0 then BitVec.ofInt 64 (intOf ty bits) else BitVec.ofNat 64 (maskBits ty bits)

end Sys2Proof.Machine
end

