-- ==== Sys2Proof/Machine/State.lean ====
section
/-! DEFINITION. Machine/State.lean: everything the spec gives the machine, as plain data, and the state at reset. -/

namespace Sys2Proof.Machine

/-- Why a step ends in a fault of the model. Every fault of the spec is a trap the machine takes, so only one is left. -/
inductive Fault where
  /-- Raised by `step` while the module has no power and nothing comes from outside: nothing runs until BOOT (R381, R384).
  Safe: no state follows. -/
  | noPower
  deriving DecidableEq, Repr

/-- Why an instruction has no meaning here. -/
inductive Refusal where
  /-- Raised by `exec` for an instruction that has no meaning yet. Safe: no state follows. -/
  | notModelled (mnemonic : String)
  deriving DecidableEq, Repr

/-- Device memory, and host memory behind it, as cells in one canonical form: addresses strictly rising, no cell that
holds what an unlisted byte reads as. -/
abbrev Memory := List Host.Cell

/-- An inclusive range of byte addresses (R196). -/
structure Rng where
  lo : Nat
  hi : Nat
  deriving DecidableEq, Repr

/-! ### Recipes -/

/-- A node record (R204), with the model's own recording number, part and ARIT ranges (R196). `part` is 1 for the
second node of a word that makes two (an overflow mask, R47, or the leaf of a VFORCE, R240). LSRC 5 is a known length.
`bits` holds the mask an MTST or MPACK delivered (R264), bit e for element e. -/
structure Node where
  idx : Nat
  seq : Nat
  part : Nat
  word : W64
  pc : W64
  lsrc : Nat
  len : Nat
  fctrl : BitVec 13
  rseed : W64
  va : W64
  vb : W64
  vc : W64
  sa : Option Nat
  sb : Option Nat
  sc : Option Nat
  sk : Option Nat
  reads : List Rng
  writes : List Rng
  smode : Bool
  bits : Nat
  deriving DecidableEq, Repr

/-- A slot of a length queue (R189). -/
structure LqSlot where
  no : Nat
  taken : Bool
  filled : Option Nat
  deriving DecidableEq, Repr

/-- A length queue, oldest slot first (R189); `next` is the slot number the next reservation takes. -/
structure Lq where
  next : Nat
  slots : List LqSlot
  deriving DecidableEq, Repr

/-- A dispatch entry (R168), with the model's own order number, node, length and ARIT ranges, and `d`, a fourth captured
value (R320), `serial` and `nojoin`, what a root captures of RECIPEMODE (R200), `aw`, a copy's arrival-word address, 0 without
one (R328), and `prog`, the progress that an entry stopped at its start is to begin at (R199). -/
structure Entry where
  word : W64
  pc : W64
  a : W64
  b : W64
  c : W64
  d : W64
  rseed : W64
  aw : W64
  stepno : W64
  fctrl : BitVec 13
  smode : Bool
  slot : Bool
  seq : Nat
  node : Option Nat
  lsrc : Nat
  len : Nat
  serial : Bool
  nojoin : Bool
  prog : Nat
  reads : List Rng
  writes : List Rng
  deriving DecidableEq, Repr

/-- The carry of a carrying node in a pass (R205): a value for each lane, `none` where a lane has none yet. -/
structure Carry where
  node : Nat
  lanes : List (Option W64)
  deriving DecidableEq, Repr

/-- The values kept across element groups that a structural node may still read (R224 to R227): outputs of a VSCAN or
VSEGRED with the flags they raised (R222), or source elements of a VBCAST (R225), the next element to be evaluated, and the
flags raised so far in the open segment of a VSEGRED. -/
structure Back where
  node : Nat
  next : Nat
  vals : List (Nat × W64 × BitVec 5)
  raised : BitVec 5
  deriving DecidableEq, Repr

/-- A stream parameter block as a pass read it at launch (R229, R323). -/
structure StreamBlock where
  ibase : W64
  itype : Nat
  count : Nat
  tbase : W64
  trows : Nat
  esize : Nat
  skew : Nat
  deriving DecidableEq, Repr

/-- A write of dispatched work that WB holds: since when, and the budget captured then (R115). -/
structure Hold where
  since : Nat
  budget : Nat
  deriving DecidableEq, Repr

/-- A pass in flight (R191): the launching word, its roots in recording order, P, the first element not committed,
the number of elements, the carries, whether a deferred fault stopped it, and whether its launch has been made and
checked. `serves` is set for a pass that streams an engine operation's recipe. `since` is the tick of its launch or of its
latest commit (R369), and `skipped` that a handler has moved its start to its end, so that it delivers nothing (R199). -/
structure Pass where
  pc : W64
  seq : Nat
  roots : List Nat
  p : Nat
  start : Nat
  len : Nat
  carries : List Carry
  back : List Back
  blocks : List (Nat × StreamBlock)
  serves : Option EngineUnit
  smode : Bool
  halted : Bool
  serial : Bool
  treeOnly : Bool
  hold : Option Hold
  ready : Bool
  since : Nat
  skipped : Bool
  deriving DecidableEq, Repr

/-- A started engine operation (R271, R288, R316): its entry, its length, its progress word, whether a deferred fault
stopped it, whether it has touched a DEV page (R319), a held write, the block of a CPYX (R325), whether it is a copy
that goes by single accesses (R319), bytes it has read and not yet written, and the tick of its start or of its latest
unit (R369). -/
structure Op where
  e : Entry
  n : Nat
  prog : Nat
  halted : Bool
  part : Bool
  hold : Option Hold
  block : Option StreamBlock
  dev : Bool
  keep : List Byte
  since : Nat
  deriving DecidableEq, Repr

/-- A dispatched operation a deferred fault can stop (R165): an entry at its start, a pass, or a started engine
operation, by its entry's order number; `restored` is everything CTXRS has loaded (R170). -/
inductive OpRef where
  | entry (seq : Nat)
  | pass (slot : PassSlot)
  | op (seq : Nat)
  | restored
  deriving DecidableEq, Repr

/-- What a trap reports (R162, R163). -/
structure TrapInfo where
  code : Nat
  acc : Nat
  root : W64
  node : W64
  elem : W64
  addr : W64
  src : Nat
  slot : Bool
  deriving DecidableEq, Repr

/-- A deferred fault outstanding (R165): the order number of its operation, what stopped, the mode it was dispatched
in, the report, and whether it is `late`: held for U mode because it was outstanding behind another. -/
structure DFault where
  seq : Nat
  ref : Option OpRef
  smode : Bool
  info : TrapInfo
  late : Bool
  deriving DecidableEq, Repr

/-! ### Memory accesses of a thread -/

/-- What a posted store does when it is performed (R150, R302). -/
inductive PostedKind where
  | store
  | atomic (op : Nat) (ty : Nat)
  deriving DecidableEq, Repr

/-- A posted store or AMOW not yet performed (R150): where it was issued, its virtual and physical address, the leaf
entry that translated it and that entry's address, its bytes, the step it carries, the order number of the dispatched
work that comes after it, for a release the order number below which dispatched work comes before it, and the tick it
was issued at. -/
structure Posted where
  seq : Nat
  pc : W64
  va : Nat
  pa : Nat
  leafPa : Nat
  leaf : W64
  bytes : List Byte
  stepno : W64
  kind : PostedKind
  smode : Bool
  order : Nat
  release : Option Nat
  since : Nat
  deriving DecidableEq, Repr

/-- A store the device dropped, its fault not yet delivered (R150, R168); `seq` is the number it was posted with. -/
structure Dropped where
  seq : Nat
  pc : W64
  addr : W64
  code : Nat
  acc : Nat
  smode : Bool
  deriving DecidableEq, Repr

/-- What a stalled word waits for. -/
inductive WaitKind where
  | counter
  | lqPop
  | flags
  | fence
  | drain
  | arrival
  | semaphore
  | barrier
  | notification
  | slotgate
  | writeBlock
  | serial
  | pageTable
  | taskEnd
  deriving DecidableEq, Repr

/-- A word that has begun to wait (R313): its address, what for, since which tick, the captured budget of a bounded
wait, and a value read when it began. -/
structure Wait where
  pc : W64
  kind : WaitKind
  since : Nat
  budget : Option Nat
  aux : Nat
  deriving DecidableEq, Repr

/-- A poll run of LOOP (R155): its LOOP, the tick of its first taken execution, and the captured budget. -/
structure Poll where
  pc : W64
  since : Nat
  budget : Nat
  deriving DecidableEq, Repr

/-- The instruction line last fetched (R131): its virtual address, its physical address, its bytes, and whether the
block is poisoned; `bad` holds the fault the fetch met. -/
structure Line where
  va : Nat
  pa : Nat
  bytes : List Byte
  poisoned : Bool
  bad : Option TrapInfo
  deriving DecidableEq, Repr

/-- The lane-block registers and place of the element being run (R201). -/
structure Lane where
  regs : List W64
  pc : W64
  base : W64
  len : Nat
  fetches : Nat
  done : Bool
  deriving DecidableEq, Repr

/-! ### Engine state -/

/-- A tile (R33, R252, R273): rows 0 to HWM - 1 of 128 FP32 elements; every later row is +0. `poisoned` lists its
poisoned 64-byte blocks, eight to a row (R121). -/
structure Tile where
  rows : List (List (BitVec 32))
  dirty : Bool
  saved : Bool
  poisoned : List Nat
  deriving DecidableEq, Repr

/-- A B-store load descriptor (R270), with the order number of its BLOAD and how many rows it has written. -/
structure BDesc where
  seq : Nat
  word : W64
  xa : W64
  xb : W64
  n : Nat
  done : Nat
  inc : Bool
  deriving DecidableEq, Repr

/-- The B-store rows of a thread (R254): physical row and its 512 bytes, zero rows unlisted, its poisoned 64-byte blocks,
eight to a row (R121), and the rows that count as written by BFROMT, with the live descriptors in order of issue. -/
structure BStore where
  rows : List (Nat × List Byte)
  poisoned : List Nat
  written : List Nat
  descs : List BDesc
  deriving DecidableEq, Repr

/-- The SSB state h[p][n] (R279), rows of FP32; what is not listed is +0. `poisoned` lists the poisoned 64-byte blocks
of its image (R121, R287). -/
structure Ssb where
  rows : List (List (BitVec 32))
  dirty : Bool
  saved : Bool
  poisoned : List Nat
  deriving DecidableEq, Repr

/-! ### A hardware thread -/

/-- Whether a hardware thread runs (R22, R360). -/
inductive RunState where
  | idle
  | running
  | ended
  | preempted
  deriving DecidableEq, Repr

/-- The scalar state registers of a thread (R172), those derived from other state apart. `weight` is LANEGRANT.WEIGHT,
`divided` the weight the last division used, `groups` the bitmap of groups held, `target` the target grant. -/
structure SRegs where
  vl : W64
  weight : Nat
  divided : Nat
  groups : BitVec 16
  target : Nat
  tilegrant : BitVec 16
  fctrl : W64
  fstatus : W64
  rseed : W64
  recipemode : W64
  browbase : Nat
  browlim : Nat
  remoteflags : W64
  ssinfo : W64
  waitbudget : W64
  coord : W64
  stage : W64
  shape : W64
  taskarg : W64
  deriving DecidableEq, Repr

/-- The trap registers of a thread and CTXAREA (R162, R170). -/
structure TrapRegs where
  trapvec : W64
  trappc : W64
  trapcause : W64
  traproot : W64
  trapnode : W64
  trapelem : W64
  trapaddr : W64
  trapstat : W64
  ctxarea : W64
  deriving DecidableEq, Repr

/-- The recipe state of a thread (R183, R189, R191). -/
structure Recipe where
  vnames : Vector (Option Nat) 64
  knames : Vector (Option Nat) 8
  nodes : List Node
  budget : Nat
  lqs : Vector Lq 4
  pending : List Nat
  deriving DecidableEq, Repr

/-- The dispatch queue and everything dispatched that has started (R12, R13, R31). `shelf` holds stopped operations
whose engine an S-mode operation of the thread uses meanwhile (R272). `paused` tells that CTXSV or CTXRS has left
operations stopped for TRET to resume (R170), `nested` that a fault of S-mode work has been delivered and its handler has
not yet returned (R165), and `waitU` and `waitS` that a VPASS with `.wait` of that mode holds the thread's issue (R241). -/
structure Dispatch where
  queue : List Entry
  nextSeq : Nat
  pass0 : Option Pass
  pass1 : Option Pass
  matrix : Option Op
  bloads : List Op
  ssb : Option Op
  copy : Option Op
  shelf : List Op
  deferred : List DFault
  stopped : Option OpRef
  paused : Bool
  nested : Bool
  waitU : Bool
  waitS : Bool
  deriving DecidableEq, Repr

/-- A blocking access whose data has not returned (R150): its word, its address, what the x registers it wrote held,
whether it only reads memory, its kind as TRAPCAUSE.ACC has it, the tick it was issued at, and whether it stands on the
link and has not been performed (R381). -/
structure LoadWait where
  pc : W64
  va : W64
  old : List (Nat × W64)
  reads : Bool
  acc : Nat
  since : Nat
  unsent : Bool
  deriving DecidableEq, Repr

/-- The accesses and stalls of the scalar front end (R131, R150, R155, R313); `since` is the tick the latest word
completed at. -/
structure Front where
  line : Option Line
  loadWait : Option LoadWait
  posted : List Posted
  dropped : List Dropped
  wait : Option Wait
  poll : Option Poll
  backoff : Option Nat
  since : Nat
  deriving DecidableEq, Repr

/-- A hardware thread: place, registers, recipe, dispatched work and engine state. -/
structure Thread where
  cluster : Nat
  pair : Nat
  slot : Nat
  task : Nat
  run : RunState
  endStatus : Nat
  xs : Vector W64 32
  pc : W64
  smode : Bool
  sr : SRegs
  cc : Vector (BitVec 16) 8
  tr : TrapRegs
  rcp : Recipe
  dsp : Dispatch
  fe : Front
  tiles : Vector Tile 8
  bst : BStore
  ssb : Ssb
  lane : Lane
  deriving DecidableEq, Repr

/-! ### Tasks, pairs, clusters -/

/-- A declared lease range (R92). -/
structure LeaseRange where
  base : Nat
  len : Nat
  w : Bool
  deriving DecidableEq, Repr

/-- A kernel header (R91). -/
structure Kernel where
  entry : W64
  codelen : Nat
  nodes : Nat
  stages : Nat
  lanes : Nat
  tiles : Nat
  ranges : List (Nat × Nat × Nat × Bool)
  deriving DecidableEq, Repr

/-- A launch record in its version-2 form (R344): wait conditions as (kind, value, address), the groups present. -/
structure Record where
  sa : Bool
  shape : BitVec 18
  khdr : W64
  args : W64
  compl : W64
  tag : W64
  cmask : BitVec 32
  waits : List (Nat × Nat × W64)
  tbudget : Nat
  ebudget : Nat
  stash : Option (Nat × List (W64 × Nat × Nat))
  doneaw : Option W64
  deriving DecidableEq, Repr

/-- Where a task stands: running, on its way to a pre-emption, or pre-empted (R31, R352, R356). -/
inductive TaskState where
  | running
  | leaving
  | preempted
  deriving DecidableEq, Repr

/-- A lease being set up (R351): the ranges once the argument dwords are read, whether every page's leaf has been found
valid, the pages notified, and whether to try again. -/
structure Letting where
  ranges : Option (List (Nat × LeaseRange))
  ready : Bool
  noted : List Nat
  retry : Bool
  deriving DecidableEq, Repr

/-- Activity counters (R357): MACs by format, bytes at DRAM, bytes across a link, and SRAM accesses. -/
structure Activity where
  fp32 : Nat
  half : Nat
  quarter : Nat
  lns : Nat
  dram : Nat
  link : Nat
  sram : Nat
  deriving DecidableEq, Repr

/-- A task and its context (R99, R112 to R116, R352 to R357). A range of the lease keeps its declared index. `started` is
the order of its latest start among all starts, `letting` the lease that a migrated task sets up again (R359), `activity` its
counters, and `points` how much of their energy has been charged. -/
structure Task where
  id : Nat
  state : TaskState
  part : Nat
  queue : Nat
  index : Nat
  record : Record
  kernel : Kernel
  pairs : List (Nat × Nat)
  ranges : List (Nat × LeaseRange)
  ptbase : W64
  ctxid : W64
  pgctrbase : W64
  pgthresh : W64
  nqbase : W64
  stepno : W64
  stepdone : W64
  cmap : BitVec 256
  areas : List W64
  started : Nat
  letting : Option Letting
  turnTime : Nat
  turnPoints : Nat
  tused : Nat
  activity : Activity
  points : Nat
  status : Nat
  deriving DecidableEq, Repr

/-- A mapped stash slot (R109, R333). -/
structure StashSlot where
  g : Nat
  off : Nat
  len : Nat
  deriving DecidableEq, Repr

/-- A filled stash line (R109): its virtual and physical address, whether its page is COH, and the bytes and poisoned
blocks its home still holds. Memory holds the line's current bytes, which every agent reads; the line is dirty when they
differ, and STINV puts the home's back (R334). -/
structure StashLine where
  va : Nat
  pa : Nat
  coh : Bool
  home : List Byte
  homePoison : List Nat
  deriving DecidableEq, Repr

/-- A pair: instruction cache lines by physical address, oldest first (R131), stash ways, slots and filled lines, the task
whose stash it is (R331), and the thread last served by the SFE (R134), the stream sequencer (R13), the matrix array and
the copy engine (R14). -/
structure Pair where
  cluster : Nat
  pair : Nat
  icache : List (Nat × List Byte)
  ways : Nat
  slots : Vector (Option StashSlot) 16
  lines : List StashLine
  owner : Option Nat
  sfeLast : Nat
  seqLast : Nat
  arrayLast : Nat
  copyLast : Nat
  deriving DecidableEq, Repr

/-- A thread waiting on a semaphore, or arrived at the barrier, by its pair and slot (R309, R311). -/
structure HwId where
  cluster : Nat
  pair : Nat
  slot : Nat
  deriving DecidableEq, Repr

/-- A task's communication set on one cluster (R308, R309, R311): waiters oldest first, and who has arrived at the
barrier. -/
structure Comm where
  cluster : Nat
  task : Nat
  sems : BitVec 64
  waiters : List (Nat × HwId)
  cds : Vector W64 64
  arrived : List HwId
  deriving DecidableEq, Repr

/-! ### Memory side -/

/-- Whose translations an access uses (R99, R116): a partition, the number of the context, none for the launch engine's own
accesses, and the table base. -/
structure Ctx where
  part : Nat
  id : Option W64
  ptbase : W64
  deriving DecidableEq, Repr

/-- A cached translation (R104): its context, virtual page number (64 KiB), where the leaf lies, what it held, and whether
it maps 512 MiB. -/
structure Xlat where
  ctx : Ctx
  vpn : Nat
  leafPa : Nat
  leaf : W64
  big : Bool
  deriving DecidableEq, Repr

/-- Traffic of the device itself, as it is to be performed: an increment of a page-access counter, with the threshold and
the entry to post (R113, R114); a notification entry (R179); bytes at an address; an arrival word counted up (R328), for a
unit of a copy by its thread and order number, or for none (R352); the DONE of a queue, after the writes at some addresses
(R352); the write-back of a dirty line of host memory, with the counter it counts at (R113, R382). -/
inductive OwedKind where
  | count (at_ : Nat) (threshold : Nat) (nq : Nat) (lo hi : W64)
  | post (nq : Nat) (lo hi : W64)
  | write (pa : Nat) (bytes : List Byte)
  | arrive (pa n : Nat) (op : Option (HwId × Nat))
  | done (part q index : Nat) (after : List Nat)
  | writeBack (line : Nat) (counter : Option (Nat × Nat × Nat × W64 × W64))
  deriving DecidableEq, Repr

/-- Traffic with no owning instruction, not yet performed (R369, R382): a number, the tick it was made at, and for a
count the thread whose load it belongs to, while that load is unfinished. -/
structure Owed where
  no : Nat
  kind : OwedKind
  since : Nat
  load : Option HwId
  deriving DecidableEq, Repr

/-- A stash line preloaded for a record (R353): the pair, its addresses, whether its page is COH, and the record it is for. -/
structure Preload where
  place : Nat × Nat
  va : Nat
  pa : Nat
  coh : Bool
  record : Nat × Nat × Nat
  deriving DecidableEq, Repr

/-! ### Launch engine -/

/-- A record fetched and not yet started (R343, R345): its index, what it holds, which conditions hold, and its lease. -/
structure Fetched where
  index : Nat
  record : Record
  kernel : Kernel
  held : List Bool
  letting : Letting
  deriving DecidableEq, Repr

/-- A launch queue (R341, R355). `again` lists pre-empted tasks waiting to resume ahead of later records. -/
structure Queue where
  part : Nat
  q : Nat
  conf : QueueConf
  prod : Nat
  cons : Nat
  done : Nat
  fetching : Bool
  ct : Int
  ce : Int
  fetched : Option Fetched
  finished : List Nat
  again : List Nat
  deriving DecidableEq, Repr

/-- A partition (R341, R358, R359): its configuration, the free context areas, the migration bits, and for each priority
the queue served last (R355). -/
structure Part where
  conf : PartConf
  pool : List W64
  quiesce : Bool
  quiesced : Bool
  lastServed : List (Nat × Nat)
  deriving DecidableEq, Repr

/-! ### Calendar, link, bring-up -/

/-- A scheduled leap slot (R371). -/
structure LeapSlot where
  period : Nat
  dram : Bool
  links : Bool
  len : Nat
  deriving DecidableEq, Repr

/-- The calendar (R365 to R372). `tick` counts since the calendar started, `done` says up to which of its events have been
taken, `warm` that the stacks are above 85 °C, `announced` the switch under way and its tick, `lastSwitch` the tick of
the latest. For DRAM and for links: held back, stopped, and the slot extended (R368 to R370). -/
structure Cal where
  started : Bool
  tick : Nat
  done : Nat
  hot : Bool
  warm : Bool
  announced : Option (Bool × Nat)
  lastSwitch : Option Nat
  leaps : List LeapSlot
  calrev : BitVec 32
  dramHeld : Bool
  linkHeld : Bool
  dramStopped : Bool
  linkStopped : Bool
  dramExt : Bool
  linkExt : Bool
  deriving DecidableEq, Repr

/-- A request that may be unfinished when an overrun (R369) or a link reset (R381) strikes, by its owner; of the device's own,
a piece of its traffic, a walk for a context, or a step of the launch engine for a queue (R382). -/
inductive Flying where
  | posted (h : HwId) (seq : Nat)
  | load (h : HwId)
  | pass (h : HwId) (i : PassSlot)
  | op (h : HwId) (seq : Nat)
  | word (h : HwId)
  | owed (no : Nat)
  | fetch (h : HwId)
  | walk (c : Ctx) (va : W64)
  | record (part q : Nat)
  deriving DecidableEq, Repr

/-- A device-issued transaction over the link and not acknowledged (R379, R381): its number, and its owner. -/
structure LinkOut where
  seq : Nat
  req : Flying
  deriving DecidableEq, Repr

/-- Triath Link on the device's side (R379, R380). `waiting` holds host transactions that cannot cross yet (R367),
`trained` the width in force once the link carries traffic. -/
structure Link where
  txseq : Nat
  rxdone : Nat
  peerdone : Nat
  width : Nat
  trained : Nat
  peerrst : Bool
  received : List (Nat × LinkBody)
  waiting : List (Nat × LinkBody)
  out : List LinkOut
  exchanging : Bool
  deriving DecidableEq, Repr

/-- What management is told, and keeps counts of (R121, R123, R161, R164, R349, R370, R387). -/
inductive Report where
  | machineCheck (task : Nat)
  | slotExtension (r : SlotRes)
  | completionLost (part queue index : Nat)
  | countLost (part queue index : Nat)
  | correctedError
  | uncorrectable (place : ErrorPlace)
  | channelOut (ch : Nat)
  | critical
  | badImage (kind : Nat)
  deriving DecidableEq, Repr

/-- Bring-up and what boot and attestation leave (R384 to R387). -/
structure Boot where
  power : Bool
  stage : Nat
  ready : List Nat
  failed : Option Nat
  images : List BootImage
  answers : List (Nat × List Byte)
  deriving DecidableEq, Repr

/-- The machine. `th` is the hardware thread in focus and `rest` the others that a task holds; a pre-empted thread stands
outside every cluster. `stale` lists the channels back in service with the blocks written whole since (R124), `starts`
counts task starts, `tokens` are a port group's tokens (R358), negative where a request took more than there were,
`activity` counts per fraction (R357), `owed` is traffic of the device not yet performed, numbered up to `owedNext`, and
`draining` what had been issued for a resource at its last drain horizon (R368, R369). The last five fields are the
model's own: events from outside not yet taken, the schedule's choices (an empty list answers 0 to every one), whom the
schedule served last, the ticks each coming step lasts (an empty list answers 1), and the counter of free values. -/
structure State where
  th : Thread
  rest : List Thread
  pairs : List Pair
  comms : List Comm
  tasks : List Task
  mem : Memory
  poison : List Nat
  stale : List (Nat × List Nat)
  tlb : List Xlat
  regions : List Region
  fractions : List Fraction
  tokens : List (Nat × Int)
  activity : List (Nat × Activity)
  channelsOut : List Nat
  parts : List Part
  queues : List Queue
  nextTask : Nat
  starts : Nat
  preloaded : List Preload
  owed : List Owed
  owedNext : Nat
  draining : List (SlotRes × Flying)
  config : List (Nat × W64)
  wallclock : W64
  cal : Cal
  link : Link
  boot : Boot
  reports : List Report
  inputs : List Instr
  choices : List Nat
  turn : Nat
  pace : List Nat
  free : Nat
  deriving DecidableEq, Repr

/-! ### Reset -/

/-- An empty length queue. -/
def Lq.empty : Lq := ⟨0, []⟩

/-- R252: a tile that holds +0 everywhere. -/
def Tile.zero : Tile := ⟨[], false, false, []⟩

/-- The state registers of a thread no task has started (R129 where it gives a value, log entry 2 elsewhere). -/
def SRegs.reset : SRegs :=
  { vl := 0, weight := 0, divided := 0, groups := 0, target := 0, tilegrant := 0, fctrl := 0, fstatus := 0, rseed := 0,
    recipemode := 0, browbase := 0, browlim := 0, remoteflags := 0, ssinfo := 0, waitbudget := 0x100000000, coord := 0,
    stage := 0, shape := 0, taskarg := 0 }

/-- Trap registers no task has set (log entry 2). -/
def TrapRegs.reset : TrapRegs := ⟨0, 0, 0, 0, 0, 0, 0, 0, 0⟩

/-- R183: every name unbound, no node, empty length queues. -/
def Recipe.reset (budget : Nat) : Recipe :=
  { vnames := Vector.replicate 64 none, knames := Vector.replicate 8 none, nodes := [], budget := budget,
    lqs := Vector.replicate 4 Lq.empty, pending := [] }

/-- Nothing dispatched. -/
def Dispatch.reset : Dispatch :=
  { queue := [], nextSeq := 0, pass0 := none, pass1 := none, matrix := none, bloads := [], ssb := none, copy := none,
    shelf := [], deferred := [], stopped := none, paused := false, nested := false, waitU := false, waitS := false }

/-- Nothing fetched, posted or waited for. -/
def Front.reset : Front :=
  { line := none, loadWait := none, posted := [], dropped := [], wait := none, poll := none, backoff := none,
    since := 0 }

/-- A lane that runs no block. -/
def Lane.reset : Lane := ⟨List.replicate 16 0, 0, 0, 0, 0, true⟩

/-- A hardware thread no task holds. -/
def Thread.reset : Thread :=
  { cluster := 0, pair := 0, slot := 0, task := 0, run := .idle, endStatus := 0, xs := Vector.replicate 32 0, pc := 0,
    smode := false, sr := SRegs.reset, cc := Vector.replicate 8 0, tr := TrapRegs.reset, rcp := Recipe.reset 256,
    dsp := Dispatch.reset, fe := Front.reset, tiles := Vector.replicate 8 Tile.zero, bst := ⟨[], [], [], []⟩,
    ssb := ⟨[], false, false, []⟩, lane := Lane.reset }

/-- A record that asks for nothing. -/
def Record.empty : Record :=
  { sa := false, shape := 0, khdr := 0, args := 0, compl := 0, tag := 0, cmask := 0, waits := [], tbudget := 0,
    ebudget := 0, stash := none, doneaw := none }

/-- A kernel with no code. -/
def Kernel.empty : Kernel := ⟨0, 0, 256, 0, 1, 0, []⟩

/-- R357: nothing counted. -/
def Activity.zero : Activity := ⟨0, 0, 0, 0, 0, 0, 0⟩

/-- R116: a task with a new context, an empty lease and no place. -/
def Task.empty : Task :=
  { id := 0, state := .running, part := 0, queue := 0, index := 0, record := Record.empty, kernel := Kernel.empty,
    pairs := [], ranges := [], ptbase := 0, ctxid := 0, pgctrbase := 0, pgthresh := 256, nqbase := 0, stepno := 1,
    stepdone := 0, cmap := 0, areas := [], started := 0, letting := none, turnTime := 0, turnPoints := 0, tused := 0,
    activity := Activity.zero, points := 0, status := 0 }

/-- A pair with an empty instruction cache and no stash; thread 0 is the first to be served (log entry 83). -/
def Pair.reset (cluster pair : Nat) : Pair :=
  { cluster := cluster, pair := pair, icache := [], ways := 0, slots := Vector.replicate 16 none, lines := [],
    owner := none, sfeLast := 3, seqLast := 3, arrayLast := 3, copyLast := 3 }

/-- A calendar that has not started (R365, R384). -/
def Cal.reset : Cal :=
  { started := false, tick := 0, done := 0, hot := false, warm := false, announced := none, lastSwitch := none,
    leaps := [], calrev := 0, dramHeld := false, linkHeld := false, dramStopped := false, linkStopped := false,
    dramExt := false, linkExt := false }

/-- R380: the link's counters at power-up. -/
def Link.reset : Link :=
  { txseq := 0, rxdone := 0, peerdone := 0, width := 0, trained := 0, peerrst := false, received := [], waiting := [],
    out := [], exchanging := false }

/-- R384: power is applied and the boot ROM is at stage 0. -/
def Boot.reset : Boot := ⟨true, 0, [], none, [], []⟩

/-- The machine right after reset: power applied, stage 0, no task, nothing configured (R384, log entries 1 to 4). -/
def State.reset : State :=
  { th := Thread.reset, rest := [], pairs := [], comms := [], tasks := [], mem := [], poison := [], stale := [], tlb := [],
    regions := [], fractions := [], tokens := [], activity := [], channelsOut := [], parts := [], queues := [],
    nextTask := 0, starts := 0, preloaded := [], owed := [], owedNext := 0, draining := [], config := [], wallclock := 0, cal := Cal.reset,
    link := Link.reset, boot := Boot.reset,
    reports := [], inputs := [], choices := [], turn := 0, pace := [], free := 0 }

end Sys2Proof.Machine
end

