-- ==== Sys2Proof/Machine/Ops.lean ====
section
/-! DEFINITION. Machine/Ops.lean: the named operations over registers and memory, and taking a trap (R160). -/

namespace Sys2Proof.Machine

/-! ### Memory -/

/-- What a byte nothing has written reads as (log entry 3). -/
def Memory.blank : Byte := 0

/-- The byte at an address. -/
def Memory.read : Memory → Nat → Byte
  | [], _ => Memory.blank
  | c :: m, a => if c.1 == a then c.2 else Memory.read m a

/-- Stores a byte; storing the blank value removes the cell. -/
def Memory.write : Memory → Nat → Byte → Memory
  | [], a, b => if b == Memory.blank then [] else [(a, b)]
  | c :: m, a, b =>
    if c.1 < a then c :: Memory.write m a b
    else if c.1 == a then (if b == Memory.blank then m else (a, b) :: m)
    else (if b == Memory.blank then c :: m else (a, b) :: c :: m)

/-- Every cell lies at or above `lo`, addresses rise strictly, and no cell holds the blank value. -/
def Memory.wfFrom : Nat → Memory → Bool
  | _, [] => true
  | lo, c :: m => lo ≤ c.1 && c.2 != Memory.blank && Memory.wfFrom (c.1 + 1) m

/-- The canonical form. -/
def Memory.wf (m : Memory) : Bool := Memory.wfFrom 0 m

/-- `n` bytes from an address up. -/
def Memory.readN (m : Memory) (a n : Nat) : List Byte :=
  let t := m.dropWhile (fun c => c.1 < a)
  (List.range n).map fun i => Memory.read t (a + i)

/-- Stores bytes from an address up. -/
def Memory.writeN : Memory → Nat → List Byte → Memory
  | m, _, [] => m
  | m, a, b :: bs => Memory.writeN (Memory.write m a b) (a + 1) bs

/-- A little-endian 64-bit word (R3). -/
def Memory.word (m : Memory) (a : Nat) : W64 := BitVec.ofNat 64 (leNat (m.readN a 8))

/-! ### Free values, choices, time -/

/-- A free value: the counter it is taken at, and the state with the counter advanced (log entry 5). -/
def State.fresh (s : State) : Nat × State := (s.free, { s with free := s.free + 1 })

/-- The next choice of the schedule; with none left every choice is 0 (log entry 4). -/
def State.choose (s : State) : Nat × State :=
  match s.choices with
  | [] => (0, s)
  | c :: cs => (c, { s with choices := cs })

/-- The calendar tick (R174). -/
def State.now (s : State) : Nat := s.cal.tick

/-! ### Registers -/

/-- x register `n`; x0 reads zero (R129). -/
def Thread.x (t : Thread) (n : Nat) : W64 := if n == 0 then 0 else t.xs[n]?.getD 0

/-- Writes x register `n`; a write of x0 is discarded (R129). -/
def Thread.setX (t : Thread) (n : Nat) (v : W64) : Thread :=
  if n == 0 then t else { t with xs := t.xs.setIfInBounds n v }

/-- x register named by a field. -/
def State.x (s : State) (r : BitVec 6) : W64 := s.th.x r.toNat

/-- x register named by a 5-bit field. -/
def State.x5 (s : State) (r : BitVec 5) : W64 := s.th.x r.toNat

/-- The state with an x register of the thread in focus written. -/
def State.setX (s : State) (r : BitVec 6) (v : W64) : State := { s with th := s.th.setX r.toNat v }

/-- Moves past the word just issued (R59). -/
def State.nextPc (s : State) : State := { s with th := { s.th with pc := s.th.pc + 8 } }

/-- Sends the thread to another address; the word that sends it has completed. -/
def State.jump (s : State) (target : W64) : State := { s with th := { s.th with pc := target, fe.wait := none } }

/-- Writes an x register and moves past the word: the whole effect of a scalar word with one result. -/
def State.result (s : State) (r : BitVec 6) (v : W64) : State := (s.setX r v).nextPc

/-- R44: ORs flags into FSTATUS. -/
def State.raiseFlags (s : State) (f : Flags) : State :=
  { s with th.sr.fstatus := s.th.sr.fstatus ||| f.setWidth 64 }

/-- FCTRL[12:0], as an operation captures it (R43). -/
def State.fctrl (s : State) : BitVec 13 := slice s.th.sr.fctrl 0 13

/-- xA + sext(OFS) of a format M word (R67). -/
def State.address (s : State) (f : FM) : W64 := s.x5 f.a + f.ofs.signExtend 64

/-! ### Completion counters (R156) -/

/-- Counter `n` raised by one, saturating at 2^16 - 1. -/
def Thread.ccUp (t : Thread) (n : Nat) : Thread :=
  let v := t.cc[n]?.getD 0
  { t with cc := t.cc.setIfInBounds n (if v == 0xFFFF then v else v + 1) }

/-- Counter `n` lowered by one; it stays at 0. -/
def Thread.ccDown (t : Thread) (n : Nat) : Thread :=
  let v := t.cc[n]?.getD 0
  { t with cc := t.cc.setIfInBounds n (if v == 0 then v else v - 1) }

/-! ### Threads and tasks -/

/-- The hardware place of a thread (R10, R19). -/
def Thread.hw (t : Thread) : HwId := ⟨t.cluster, t.pair, t.slot⟩

/-- Every hardware thread a task holds. -/
def State.threads (s : State) : List Thread := s.th :: s.rest

/-- Brings the thread at a place into focus. -/
def State.focus (s : State) (h : HwId) : State :=
  if s.th.hw == h then s
  else
    match s.rest.find? (fun t => t.hw == h) with
    | none => s
    | some t => { s with th := t, rest := s.th :: s.rest.filter (fun u => u.hw != h) }

/-- Updates every thread for which a test holds. -/
def State.mapThreads (s : State) (p : Thread → Bool) (f : Thread → Thread) : State :=
  { s with th := if p s.th then f s.th else s.th, rest := s.rest.map fun t => if p t then f t else t }

/-- A task by number; with none, a task with an empty lease. -/
def State.taskOf (s : State) (id : Nat) : Task := (s.tasks.find? (fun t => t.id == id)).getD Task.empty

/-- The task of the thread in focus. -/
def State.task (s : State) : Task := s.taskOf s.th.task

/-- Updates a task. -/
def State.mapTask (s : State) (id : Nat) (f : Task → Task) : State :=
  { s with tasks := s.tasks.map fun t => if t.id == id then f t else t }

/-- Updates the task of the thread in focus. -/
def State.updTask (s : State) (f : Task → Task) : State := s.mapTask s.th.task f

/-- The pair of the thread in focus. -/
def State.pairOf (s : State) (cluster pair : Nat) : Pair :=
  (s.pairs.find? (fun p => p.cluster == cluster && p.pair == pair)).getD (Pair.reset cluster pair)

def State.pair (s : State) : Pair := s.pairOf s.th.cluster s.th.pair

/-- Writes a pair back, listing it if it was not. -/
def State.setPair (s : State) (p : Pair) : State :=
  if s.pairs.any (fun q => q.cluster == p.cluster && q.pair == p.pair) then
    { s with pairs := s.pairs.map fun q => if q.cluster == p.cluster && q.pair == p.pair then p else q }
  else { s with pairs := s.pairs ++ [p] }

/-- Adds a report to management. -/
def State.report (s : State) (r : Report) : State := { s with reports := s.reports ++ [r] }

/-! ### Taking a trap -/

/-- A trap's report with no root, node, element or address. -/
def TrapInfo.plain (code acc : Nat) : TrapInfo := ⟨code, acc, 0, 0, 0, 0, 0, false⟩

/-- A trap's report with an address. -/
def TrapInfo.at (code acc : Nat) (addr : W64) : TrapInfo := ⟨code, acc, 0, 0, 0, addr, 0, false⟩

/-- Cause codes (R164). -/
def causeIllegal : Nat := 0x01
def causeHint : Nat := 0x02
def causePrivileged : Nat := 0x03
def causeRange : Nat := 0x04
def causeMisaligned : Nat := 0x05
def causeFetchAccess : Nat := 0x06
def causeFetchPoison : Nat := 0x07
def causeDataAccess : Nat := 0x08
def causeLease : Nat := 0x09
def causePoison : Nat := 0x0A
def causeSkew : Nat := 0x0B
def causeSqPartial : Nat := 0x0C
def causeSqFormat : Nat := 0x0D
def causeDevice : Nat := 0x0E
def causeCapacity : Nat := 0x0F
def causeLength : Nat := 0x10
def causeHazard : Nat := 0x11
def causeFp : Nat := 0x12
def causeRunaway : Nat := 0x13
def causeTileUnsaved : Nat := 0x14
def causeUnreleasable : Nat := 0x15
def causeTimeout : Nat := 0x16
def causeOverrun : Nat := 0x17
def causeStep : Nat := 0x18
def causeBreakpoint : Nat := 0x19
def causeSoftware : Nat := 0x1A
def causeMachineCheck : Nat := 0x1B

/-- TRAPSTAT's bits (R162). -/
def trapStat (src : Nat) (slot pm stop pend part pidx : Bool) : W64 :=
  BitVec.ofNat 64 (src * 0x1000 + (if slot then 0x800 else 0) + (if pm then 0x400 else 0) +
    (if stop then 0x200 else 0) + (if pend then 0x100 else 0) + (if part then 0x80 else 0) +
    (if pidx then 0x40 else 0))

/-- TRAPSTAT.STOP. -/
def TrapRegs.stop (t : TrapRegs) : Bool := bitAt t.trapstat 9
/-- TRAPSTAT.PM. -/
def TrapRegs.pm (t : TrapRegs) : Bool := bitAt t.trapstat 10
/-- TRAPSTAT.PART. -/
def TrapRegs.part (t : TrapRegs) : Bool := bitAt t.trapstat 7
/-- TRAPSTAT.PIDX. -/
def TrapRegs.pidx (t : TrapRegs) : Bool := bitAt t.trapstat 6
/-- TRAPSTAT.SRC. -/
def TrapRegs.src (t : TrapRegs) : Nat := (slice t.trapstat 12 4).toNat

/-- R309, R311: a thread whose wait ends without completing leaves every semaphore's queue and withdraws its arrival. -/
def State.leaveComm (s : State) (h : HwId) : State :=
  { s with comms := s.comms.map fun c =>
      { c with waiters := c.waiters.filter fun w => w.2 != h, arrived := c.arrived.filter fun a => a != h } }

/-- R160: take_trap. Saves the report, enters S mode and goes to TRAPVEC; the line held is fetched again under the new
mode (R131), and a wait or poll run of the interrupted word ends. R273, R289: every SAVED bit is cleared. -/
def State.takeTrap (s : State) (pc : W64) (i : TrapInfo) (stop pend part pidx : Bool) : State :=
  { s.leaveComm s.th.hw with th :=
    { s.th with
      tr := { s.th.tr with
        trappc := pc
        trapcause := BitVec.ofNat 64 (i.acc * 0x100 + i.code)
        traproot := i.root
        trapnode := i.node
        trapelem := i.elem
        trapaddr := i.addr
        trapstat := trapStat i.src i.slot s.th.smode stop pend part pidx }
      smode := true
      pc := s.th.tr.trapvec
      fe := { s.th.fe with line := none, wait := none, poll := none, backoff := none }
      tiles := s.th.tiles.map fun t => { t with saved := false }
      ssb.saved := false } }

/-- R160, R162: a deferred fault or a dropped store is held that has not been delivered. -/
def Thread.faultHeld (t : Thread) : Bool := !t.dsp.deferred.isEmpty || !t.fe.dropped.isEmpty

/-- A precise trap at the word about to complete (R163, R164): TRAPPC and TRAPROOT hold its address. A trap taken while
an operation is stopped leaves that operation stopped, and TRAPSTAT.STOP as R160 gives it for the new trap. -/
def State.trap (s : State) (i : TrapInfo) : State :=
  s.takeTrap s.th.pc { i with root := s.th.pc } false s.th.faultHeld false false

/-- A precise trap with only a cause. -/
def State.trapCode (s : State) (code : Nat) : State := s.trap (TrapInfo.plain code 0)

/-! ### The lane allocation table (R26 to R30) -/

/-- The passes in flight. -/
def Dispatch.passes (d : Dispatch) : List Pass := d.pass0.toList ++ d.pass1.toList

/-- R27: the targets of threads by weight, in slot order. -/
def laneShares (ws : List Nat) : List Nat :=
  let r := 16 - ws.length
  let total := ws.sum
  let base := ws.map fun w => 1 + r * w / total
  let frac := ws.map fun w => r * w % total
  let left := 16 - base.sum
  (List.range ws.length).map fun i =>
    let f := frac.getD i 0
    let rank := ((List.range ws.length).filter fun j =>
      f < frac.getD j 0 || (frac.getD j 0 == f && j < i)).length
    base.getD i 0 + (if rank < left then 1 else 0)

/-- R27: an active thread of a pair. -/
def Thread.activeOn (t : Thread) (cluster pair : Nat) : Bool :=
  t.run == .running && t.cluster == cluster && t.pair == pair

/-- The threads active on a pair, in slot order. -/
def State.activeThreads (s : State) (cluster pair : Nat) : List Thread :=
  (List.range 4).filterMap fun i => s.threads.find? fun t => t.activeOn cluster pair && t.slot == i

/-- Sets a field of each active thread of a pair from a value for each slot. -/
def State.onSlots (s : State) (cluster pair : Nat) (f : Thread → Thread) : State :=
  s.mapThreads (fun t => t.activeOn cluster pair) f

/-- R27: divides the lane groups of a pair anew. -/
def State.divideLanes (s : State) (cluster pair : Nat) : State :=
  let ts := s.activeThreads cluster pair
  let shares := laneShares (ts.map fun t => max 1 t.sr.divided)
  s.onSlots cluster pair fun t =>
    { t with sr.target := ((ts.zip shares).find? fun u => u.1.slot == t.slot).elim t.sr.target Prod.snd }

/-- The groups of a bitmap, lowest first. -/
def groupList (g : BitVec 16) : List Nat := (List.range 16).filter fun i => bitAt g i

/-- A bitmap of groups. -/
def groupBits (l : List Nat) : BitVec 16 := l.foldl (fun g i => g ||| BitVec.twoPow 16 i) 0

/-- R29: a thread with more than its target gives up its highest groups (log entry 16) at once when it has no pass in
flight, and at `boundary` otherwise. -/
def Thread.shrinkLanes (t : Thread) (boundary : Option HwId) : Thread :=
  if t.dsp.passes.all (fun p => p.halted) || boundary == some t.hw then
    { t with sr.groups := groupBits ((groupList t.sr.groups).take t.sr.target) }
  else t

/-- R29: each thread below its target takes the lowest free groups, in slot order (log entry 16). -/
def growLanes : List Nat → List Thread → List (Nat × BitVec 16)
  | _, [] => []
  | free, t :: ts =>
    let have_ := groupList t.sr.groups
    let take := free.take (t.sr.target - have_.length)
    (t.slot, groupBits (have_ ++ take)) :: growLanes (free.drop take.length) ts

/-- R29: moves the lane groups of a pair as far as they may move now. -/
def State.moveLanes (s : State) (cluster pair : Nat) (boundary : Option HwId) : State :=
  let s1 := s.onSlots cluster pair fun t => t.shrinkLanes boundary
  let ts := s1.activeThreads cluster pair
  let held := ts.flatMap fun t => groupList t.sr.groups
  let grown := growLanes ((List.range 16).filter fun i => !held.contains i) ts
  s1.onSlots cluster pair fun t =>
    { t with sr.groups := (grown.find? fun u => u.1 == t.slot).elim t.sr.groups Prod.snd }

/-- R27, R29: the division when a thread of a pair executes SETVL, becomes active or stops being active. -/
def State.recomputeLanes (s : State) (cluster pair : Nat) : State :=
  (s.divideLanes cluster pair).moveLanes cluster pair none

/-- R29: the lane groups of the thread in focus at a boundary of one of its passes, or at a pass's end. -/
def State.laneBoundary (s : State) : State := s.moveLanes s.th.cluster s.th.pair (some s.th.hw)

/-! ### The link's unfinished transactions (R379) -/

/-- R379: the host has acknowledged everything below the oldest transaction it has not performed. -/
def Link.acked (l : Link) : Link :=
  { l with peerdone := match l.out with
      | [] => l.txseq
      | o :: _ => o.seq - 1 }

/-- The traffic that some threads' loads brought is no longer tied to them: their data has come, or they are gone. -/
def State.freeOwed (s : State) (h : HwId → Bool) : State :=
  { s with owed := s.owed.map fun o => if o.load.any h then { o with load := none } else o }

/-- R379: what stands on the link for some threads' loads has been answered. -/
def State.endLoads (s : State) (h : HwId → Bool) : State :=
  let mine (o : LinkOut) : Bool := match o.req with
    | .load g => h g
    | _ => false
  let s1 := s.freeOwed h
  if s.link.out.any mine then
    { s1 with link := { s.link with out := s.link.out.filter fun o => !mine o : Link }.acked }
  else s1

/-- The thread whose unfinished word or unit a request belongs to; posted stores go on without it. -/
def Flying.owner? : Flying → Option HwId
  | .load h | .pass h _ | .op h _ | .word h | .fetch h => some h
  | _ => none

/-- A posted store's request, its thread having moved. -/
def Flying.moved (old new : HwId) (u : Flying) : Flying :=
  match u with
  | .posted h seq => if h == old then .posted new seq else u
  | _ => u

/-- R167: the posted stores of a thread that moves go on at its new place. -/
def State.moveStores (s : State) (old new : HwId) : State :=
  { s with link.out := s.link.out.map fun o => { o with req := o.req.moved old new }
           draining := s.draining.map fun u => (u.1, u.2.moved old new) }

/-- R379: what stands on the link for some threads that are gone keeps its number until the exchange, and is nobody's. -/
def State.disown (s : State) (h : HwId → Bool) : State :=
  let mine (o : LinkOut) : Bool := o.req.owner?.any h
  if s.link.exchanging && s.link.out.any mine then
    { s with owedNext := s.owedNext + 1
             link.out := s.link.out.map fun o => if mine o then { o with req := .owed s.owedNext } else o }
  else s

/-! ### Ending a task -/

/-- R112, R164, R360: every thread of a task ends at once and everything it dispatched is abandoned. `status` is the
completion status (R348). -/
def State.endTask (s : State) (id status : Nat) : State :=
  let done (t : Thread) : Thread :=
    { t with run := .ended, dsp := { Dispatch.reset with nextSeq := t.dsp.nextSeq }, rcp := Recipe.reset t.rcp.budget,
             fe := { Front.reset with posted := t.fe.posted } }
  let places := (s.threads.filter fun t => t.task == id && t.run == .running).map Thread.hw
  let s0 := (s.disown places.contains).endLoads places.contains
  let s1 := (s0.mapThreads (fun t => t.task == id && t.run != .idle) done).mapTask id fun t => { t with status := status }
  places.foldl (fun s h => (s.leaveComm h).recomputeLanes h.cluster h.pair) s1

/-- R112: LEASE_VIOLATION ends the task, and no handler runs. -/
def State.leaseViolation (s : State) : State := s.endTask s.th.task 0x0006

/-- R164: MACHINE_CHECK ends the task and is reported to management. -/
def State.machineCheck (s : State) : State :=
  (s.report (.machineCheck s.th.task)).endTask s.th.task 0x0007

end Sys2Proof.Machine
end

