-- ==== Sys2Proof/Machine/Access.lean ====
section
/-! DEFINITION. Machine/Access.lean: translation (R97 to R104), the page classes (R105), versioned pages (R116 to
R120), poison (R121 to R124), leases (R112), counters (R113, R114), the register space (R392) and notifications. -/

namespace Sys2Proof.Machine

/-! ### Addresses -/

/-- R97: bits [63:55] equal bit 54. -/
def canonical (va : W64) : Bool := slice va 55 9 == (if bitAt va 54 then 0x1FF else 0)

/-- R97: the parts of the physical address space. -/
def isDram (pa : Nat) : Bool := pa < 0x24000000000
def isRegSpace (pa : Nat) : Bool := 0x4000000000000 ≤ pa && pa < 0x4000100000000
def isHost (pa : Nat) : Bool := 0x8000000000000 ≤ pa && pa < 0x10000000000000

/-- R111: the largest prime not above 128·S, for a stack set of S stacks. -/
def skewPrime (ns : Nat) : Nat :=
  match ns with
  | 1 => 127
  | 3 => 383
  | 6 => 761
  | 12 => 1531
  | _ => 3067

/-- R98: the region that holds a physical address. -/
def State.regionOf (s : State) (pa : Nat) : Option Region :=
  s.regions.find? fun r => r.base ≤ pa && pa < r.base + r.size

/-- R110: the stack index and channel of granule `g` of a region. -/
def skewPlace (mode : Nat) (ns g : Nat) : Nat × Nat :=
  match mode with
  | 0 => ((g / 128) % ns, g % 128)
  | 1 => ((g / 128) % ns, (g ^^^ g >>> 7 ^^^ g >>> 14 ^^^ g >>> 21 ^^^ g >>> 28) % 128)
  | 2 => (g % skewPrime ns / 128, g % skewPrime ns % 128)
  | _ => ((g / 256) % ns, g % 128)

/-- R110: the offset of granule `g` within its channel, before the region's base offset. -/
def skewOffset (mode ns g : Nat) : Nat :=
  match mode with
  | 0 | 1 => g / (128 * ns) * 256
  | 2 => g / skewPrime ns * 256
  | _ => (g / 256 / ns * 2 + g % 256 / 128) * 256

/-- R98, R110: where an address lies: its pseudo-channel, numbered 128·stack + channel, and its offset in that channel;
outside every region, none. -/
def State.locate (s : State) (pa : Nat) : Option (Nat × Nat) :=
  match s.regionOf pa with
  | none => none
  | some r =>
    let g := (pa - r.base) / 256
    let p := skewPlace r.skew.toNat r.stackSet.length g
    match r.stackSet[p.1]? with
    | none => none
    | some st => some (128 * st + p.2, r.offset + skewOffset r.skew.toNat r.stackSet.length g + pa % 256)

/-- The pseudo-channel of an address. -/
def State.channelOf (s : State) (pa : Nat) : Option Nat := (s.locate pa).map Prod.fst

/-- R124: an address in a channel out of service. -/
def State.channelLost (s : State) (pa : Nat) : Bool :=
  match s.channelOf pa with
  | none => false
  | some c => s.channelsOut.contains c

/-- R124: a block of a channel back in service that has not been written whole since. -/
def State.staleAt (s : State) (pa : Nat) : Bool :=
  !s.stale.isEmpty && match s.channelOf pa with
    | none => false
    | some c => s.stale.any fun u => u.1 == c && !u.2.contains (pa / 64 * 64)

/-- R122, R124: a 64-byte block that reads as poisoned. -/
def State.poisoned (s : State) (pa : Nat) : Bool :=
  s.poison.contains (pa / 64 * 64) || s.channelLost pa || s.staleAt pa

/-- Any block of a span reads as poisoned; the first such block. -/
def State.poisonIn (s : State) (pa n : Nat) : Option Nat :=
  ((List.range ((pa % 64 + n + 63) / 64)).map fun i => pa / 64 * 64 + 64 * i).find? s.poisoned

/-! ### Physical reads and writes -/

/-- Bytes of memory, DRAM or host. -/
def State.physRead (s : State) (pa n : Nat) : List Byte := s.mem.readN pa n

/-- R121: the poisoned blocks once a span has been written: a block written whole is clean. -/
def State.clearPoison (s : State) (pa n : Nat) : List Nat := s.poison.filter fun b => !(pa ≤ b && b + 64 ≤ pa + n)

/-- The 64-byte blocks that lie whole in a span. -/
def blocksIn (pa n : Nat) : List Nat :=
  ((List.range (n / 64 + 1)).map fun i => (pa + 63) / 64 * 64 + 64 * i).filter fun b => b + 64 ≤ pa + n

/-- R124: the blocks of a channel back in service once a span has been written. -/
def State.clearStale (s : State) (pa n : Nat) : List (Nat × List Nat) :=
  if s.stale.isEmpty then []
  else s.stale.map fun u =>
    (u.1, u.2 ++ (blocksIn pa n).filter fun b => s.channelOf b == some u.1 && !u.2.contains b)

/-- A write of bytes in channels that are in service. -/
def State.storeBytes (s : State) (pa : Nat) (bytes : List Byte) : State :=
  { s with mem := s.mem.writeN pa bytes, poison := s.clearPoison pa bytes.length, stale := s.clearStale pa bytes.length }

/-- A span of bytes cut at the 256-byte granules that channels take turns with (R110). -/
def granules (pa : Nat) (bytes : List Byte) : List (Nat × List Byte) :=
  (List.range ((pa % 256 + bytes.length + 255) / 256)).map fun i =>
    let lo := max pa ((pa / 256 + i) * 256)
    (lo, (bytes.drop (lo - pa)).take ((pa / 256 + i + 1) * 256 - lo))

/-- A write of bytes; what falls into a channel out of service is discarded (R124). -/
def State.physWrite (s : State) (pa : Nat) (bytes : List Byte) : State :=
  if s.channelsOut.isEmpty then s.storeBytes pa bytes
  else (granules pa bytes).foldl (fun s g => if s.channelLost g.1 then s else s.storeBytes g.1 g.2) s

/-- A dword written physically, by the device itself. -/
def State.physWriteWord (s : State) (pa : Nat) (v : W64) : State := s.physWrite pa (leBytes 8 v.toNat)

/-! ### Activity (R357) and the link (R379) -/

/-- R358: the fraction whose quota a request of the thread in focus takes tokens from. -/
def State.quota (s : State) : Option Fraction :=
  s.fractions.find? fun f => f.cell == s.th.cluster / 4 && bitAt f.pairMask (8 * (s.th.cluster % 4) + s.th.pair)

/-- The sum of two counts. -/
def Activity.add (a b : Activity) : Activity :=
  ⟨a.fp32 + b.fp32, a.half + b.half, a.quarter + b.quarter, a.lns + b.lns, a.dram + b.dram, a.link + b.link, a.sram + b.sram⟩

/-- R357: the energy of some activity, in points, by the published weights. -/
def Activity.points (a : Activity) : Nat :=
  48 * a.fp32 + 12 * a.half + 6 * a.quarter + 3 * a.lns + 1126 * a.dram + 2304 * a.link + 640 * a.sram

/-- R357: a fraction's counters. -/
def State.activityOf (s : State) (frac : Nat) : Activity :=
  ((s.activity.find? fun u => u.1 == frac).map Prod.snd).getD Activity.zero

/-- R357: activity of the thread in focus, for its task and its fraction. -/
def State.spend (s : State) (a : Activity) : State :=
  let s1 := s.updTask fun t => { t with activity := t.activity.add a }
  match s.quota with
  | none => s1
  | some f => { s1 with activity := (f.id, (s.activityOf f.id).add a) :: s.activity.filter fun u => u.1 != f.id }

/-- R379: a device-issued transaction takes a number and is performed. -/
def State.crossLink (s : State) (bytes : Nat) : State :=
  let s1 := { s with link := { s.link with txseq := s.link.txseq + 1 }.acked }
  if bytes == 0 then s1 else s1.spend { Activity.zero with link := bytes }

/-- R383: bytes cross a scale-up port. -/
def State.crossPort (s : State) (bytes : Nat) : State := s.spend { Activity.zero with link := bytes }

/-! ### The register space (R392) and doorbells (R342) -/

/-- Queue `q` of partition `n`. -/
def State.queue? (s : State) (n q : Nat) : Option Queue := s.queues.find? fun u => u.part == n && u.q == q

/-- Updates a queue. -/
def State.mapQueue (s : State) (n q : Nat) (f : Queue → Queue) : State :=
  { s with queues := s.queues.map fun u => if u.part == n && u.q == q then f u else u }

/-- R342: a doorbell write; an invalid value, or a doorbell on a LAUNCH-fed queue, stops fetching. -/
def Queue.ring (u : Queue) (v : W64) : Queue :=
  let prod := v.toNat % 2 ^ 32
  let bad : Bool := u.conf.feedLaunch || 2 ^ u.conf.size < (prod + 2 ^ 32 - u.cons) % 2 ^ 32
  { u with prod := prod, fetching := u.fetching && !bad }

/-- The partition and queue of a doorbell's address. -/
def doorbellOf (pa : Nat) : Nat × Nat := ((pa - 0x4000000000000) / 0x10000, (pa - 0x4000000000000) % 0x10000 / 8)

/-- R383: an address in a fabric window mapped for a partition. -/
def State.fabricWindow (s : State) (part pa : Nat) : Bool :=
  s.parts.any fun p => p.conf.id == part && p.conf.windows.any fun w => w.1 ≤ pa && pa < w.1 + w.2

/-- An address in a fabric window of any partition. -/
def State.anyWindow (s : State) (pa : Nat) : Bool := s.parts.any fun p => s.fabricWindow p.conf.id pa

/-- A queue whose doorbell an 8-byte access reaches. -/
def State.doorbell? (s : State) (pa n : Nat) : Option Queue :=
  let d := doorbellOf pa
  if n == 8 && pa % 8 == 0 && d.2 < 64 then
    match s.queue? d.1 d.2 with
    | some u => if u.conf.en then some u else none
    | none => none
  else none

/-- R392: a read of the register space, but for fabric windows: what the host reads. -/
def State.spaceRead (s : State) (pa n : Nat) : List Byte :=
  match s.doorbell? pa n with
  | some u => leBytes n u.prod
  | none => List.replicate n 0

/-- R392: a read of the register space by a thread. The bytes of a fabric window of its partition are free values (log
entry 5). -/
def State.devRead (s : State) (pa n : Nat) : List Byte × State :=
  if s.fabricWindow s.task.part pa then
    let f := s.fresh
    ((List.range n).map fun i => Config.fabricByte (pa + i) f.1, f.2.crossPort n)
  else (s.spaceRead pa n, s)

/-- R392: a write of the register space. -/
def State.devWrite (s : State) (pa : Nat) (bytes : List Byte) : State :=
  match s.doorbell? pa bytes.length with
  | some u => s.mapQueue u.part u.q fun w => w.ring (BitVec.ofNat 64 (leNat bytes))
  | none => if s.fabricWindow s.task.part pa then s.crossPort bytes.length else s

/-! ### Resources (R358, R366 to R368) -/

/-- R367: the resource whose slot stops an access of a physical address: the scale-up ports stop with the link. -/
def State.resOf (s : State) (pa : Nat) : Option SlotRes :=
  if isDram pa then some .dram
  else if isHost pa || s.anyWindow pa then some .link
  else none

/-- R368, R381: a resource held back by a drain horizon, stopped by a slot, or a link that retrains. -/
def State.shut (s : State) (r : SlotRes) : Bool :=
  match r with
  | .dram => s.cal.dramHeld || s.cal.dramStopped
  | .link => s.cal.linkHeld || s.cal.linkStopped || s.link.exchanging

/-- R368, R381: no new request reaches an address now. A link that retrains alone stops no scale-up port. -/
def State.shutAt (s : State) (pa : Nat) : Bool :=
  match s.resOf pa with
  | none => false
  | some .link => if isHost pa then s.shut .link else s.cal.linkHeld || s.cal.linkStopped
  | some .dram => s.shut .dram

/-- R367: an access that must wait for its resource; whether an on-die copy serves it instead is a choice, but on a DEV
page, which no cache holds (log entry 8). -/
def State.barred (s : State) (dev : Bool) (pa : Nat) : Bool × State :=
  if !s.shutAt pa then (false, s)
  else if dev then (true, s)
  else
    let c := s.choose
    (c.1 == 0, c.2)

/-- R358: the token bucket of the port group of the pair in focus. -/
def State.bucket (s : State) : Int :=
  ((s.tokens.find? fun u => u.1 == 8 * s.th.cluster + s.th.pair).map Prod.snd).getD 0

/-- R358: tokens taken by requests that go on. -/
def State.spendTokens (s : State) (n : Nat) : State :=
  match s.quota with
  | none => s
  | some _ =>
    let i := 8 * s.th.cluster + s.th.pair
    { s with tokens := (i, s.bucket - n) :: s.tokens.filter fun u => u.1 != i }

/-- R358: a request bound for DRAM takes tokens equal to its bytes, and waits for those of its first 256 bytes; with a RATE
of 0 it waits for good. Whether a cache serves it instead is a choice, but on a DEV page (log entry 8). -/
def State.takeTokens (s : State) (dev : Bool) (n : Nat) : Bool × State :=
  match s.quota with
  | none => (false, s)
  | some f =>
    let c := if dev then (0, s) else s.choose
    if c.1 != 0 then (false, c.2)
    else if f.rate == 0 || c.2.bucket < (min n 256 : Nat) then (true, c.2)
    else (false, c.2.spendTokens n)

/-- R358, R368: an access of `n` bytes on a DEV page or not that its resource keeps waiting. -/
def State.held (s : State) (dev : Bool) (pa n : Nat) : Bool × State :=
  let b := s.barred dev pa
  if b.1 then b
  else if isDram pa && !s.shutAt pa then b.2.takeTokens dev n
  else b

/-- R358: the crossbar mask lets the fraction of the pair in focus reach the stash of another pair. -/
def State.reaches (s : State) (p : Pair) : Bool :=
  p.cluster / 4 == s.th.cluster / 4 &&
    match s.quota with
    | some f => bitAt f.crossbar (8 * (p.cluster % 4) + p.pair)
    | none => true

/-- A pair with what one of its stash lines' homes holds changed. -/
def Pair.mapLines (p : Pair) (test : StashLine → Bool) (f : StashLine → StashLine) : Pair :=
  { p with lines := p.lines.map fun l => if test l then f l else l }

/-- R358: a COH line that an access of the pair in focus meets in a stash outside its fraction's crossbar mask is written
back, and its home serves the access. -/
def State.recall (s : State) (pa n : Nat) : State :=
  let hit (l : StashLine) : Bool := l.coh && l.pa < pa + n && pa < l.pa + 128
  if s.pairs.all fun p => p.lines.isEmpty then s
  else
    { s with pairs := s.pairs.map fun p =>
        if (p.cluster == s.th.cluster && p.pair == s.th.pair) || s.reaches p then p
        else { p with lines := p.lines.filter fun l => !hit l } }

/-- The bytes of a 128-byte line at `line` once a span has been written. -/
def overlay (line : Nat) (old : List Byte) (pa : Nat) (bytes : List Byte) : List Byte :=
  old.zipIdx.map fun b =>
    let a := line + b.2
    if pa ≤ a && a < pa + bytes.length then bytes.getD (a - pa) 0 else b.1

/-- R15, R105, R109: a write that is not the pair's own reaches the home of a mapped PRIV or RSHR line; one to a mapped
COH line reaches the stash alone. -/
def State.spread (s : State) (own : Nat × Nat) (pa : Nat) (bytes : List Byte) : State :=
  if s.pairs.all fun p => p.lines.isEmpty then s
  else
    { s with pairs := s.pairs.map fun p =>
        if p.cluster == own.1 && p.pair == own.2 then p
        else p.mapLines (fun l => !l.coh && l.pa < pa + bytes.length && pa < l.pa + 128) fun l =>
          { l with home := overlay l.pa l.home pa bytes
                   homePoison := l.homePoison.filter fun b => !(pa ≤ b && b + 64 ≤ pa + bytes.length) } }

/-- A write of bytes by the device itself or by the host. -/
def State.deviceWrite (s : State) (pa : Nat) (bytes : List Byte) : State := (s.physWrite pa bytes).spread (32, 0) pa bytes

/-! ### Notifications (R179) -/

/-- R179: the address of the next entry of a notification queue. -/
def State.nqSlot (s : State) (nq : Nat) : Nat :=
  leNat (s.physRead nq 8) + 16 * (leNat (s.physRead (nq + 16) 4) % 2 ^ leNat (s.physRead (nq + 8) 4))

/-- R179: posts a 16-byte entry into the queue whose descriptor lies at a physical address. -/
def State.postNow (s : State) (nq : Nat) (lo hi : W64) : State :=
  let size := leNat (s.physRead (nq + 8) 4)
  let prod := leNat (s.physRead (nq + 16) 4)
  let cons := leNat (s.physRead (nq + 24) 4)
  let drop := s.deviceWrite (nq + 32) (leBytes 8 (s.mem.word (nq + 32) + 1).toNat)
  if size < 4 || 16 < size then drop
  else if (prod + 2 ^ 32 - cons) % 2 ^ 32 < 2 ^ size then
    (s.deviceWrite (s.nqSlot nq) (leBytes 8 lo.toNat ++ leBytes 8 hi.toNat)).deviceWrite (nq + 16)
      (leBytes 4 ((prod + 1) % 2 ^ 32))
  else drop

/-! ### Traffic of the device itself (R367, R369, R382) -/

/-- Traffic with no owning instruction is made, and performed later. -/
def State.oweFor (s : State) (load : Option HwId) (k : OwedKind) : State :=
  { s with owed := s.owed ++ [⟨s.owedNext, k, s.now, load⟩], owedNext := s.owedNext + 1 }

def State.owe (s : State) (k : OwedKind) : State := s.oweFor none k

/-- R179: the device posts an entry. -/
def State.post (s : State) (nq : Nat) (lo hi : W64) : State := s.owe (.post nq lo hi)

/-- Where a piece of the device's traffic goes. -/
def State.owedAt (s : State) (k : OwedKind) : List Nat :=
  match k with
  | .count a _ _ _ _ => [a]
  | .post nq _ _ => [nq, s.nqSlot nq]
  | .write a _ => [a]
  | .arrive a _ _ => [a]
  | .done _ _ _ as => as
  | .writeBack a _ => [a]

/-- R327, R328: the fields of an arrival word. -/
def arrivalField (w i : Nat) : Nat := w / 2 ^ (32 * i) % 2 ^ 32

/-- R327: an arrival word from TARGET, COUNT, GEN and its last four bytes. -/
def arrivalWord (target count gen armed : Nat) : Nat :=
  target + count * 2 ^ 32 + gen * 2 ^ 64 + armed * 2 ^ 96

/-- R328: an arrival word once `n` bytes, or a completed task (R352), have been counted. A TARGET of 0, which R327 does not
allow, completes no generation (log entry 20). -/
def arriveWord (old n : Nat) : Nat :=
  let target := arrivalField old 0
  let count := (arrivalField old 1 + n) % 2 ^ 32
  let armed := arrivalField old 3
  if armed % 2 == 1 && target != 0 then
    arrivalWord target (count % target) ((arrivalField old 2 + count / target) % 2 ^ 32) armed
  else arrivalWord target count (arrivalField old 2) armed

/-- R113, R114: a counter goes up by one, saturating, and posts when it reaches the threshold. -/
def State.countUp (s : State) (at_ threshold nq : Nat) (lo hi : W64) : State :=
  let old := leNat (s.physRead at_ 2)
  let new := if old == 0xFFFF then old else old + 1
  let s1 := s.deviceWrite at_ (leBytes 2 new)
  if threshold != 0 && old + 1 == threshold && new == threshold then s1.post nq lo hi else s1

/-- A piece of traffic that is a transaction of its own. -/
def OwedKind.crosses (k : OwedKind) : Bool :=
  match k with
  | .done _ _ _ _ => false
  | _ => true

/-- R352: a record has completed; DONE advances past every completed one. -/
def Queue.finish (u : Queue) (index : Nat) : Queue :=
  let f := index :: u.finished
  let n := ((List.range (f.length + 1)).find? fun i => !f.contains ((u.done + i) % 2 ^ 32)).getD 0
  { u with done := (u.done + n) % 2 ^ 32
           finished := f.filter fun i => !((List.range n).any fun j => (u.done + j) % 2 ^ 32 == i) }

/-- A piece of the device's traffic performed. -/
def State.performOwed (s : State) (k : OwedKind) : State :=
  let s1 := if k.crosses && (s.owedAt k).any isHost then s.crossLink 0 else s
  match k with
  | .count a th nq lo hi => s1.countUp a th nq lo hi
  | .post nq lo hi => s1.postNow nq lo hi
  | .write a bytes => s1.deviceWrite a bytes
  | .arrive a n _ => s1.deviceWrite a (leBytes 16 (arriveWord (leNat (s1.physRead a 16)) n))
  | .done part q index _ => s1.mapQueue part q fun u => u.finish index
  | .writeBack _ (some c) => s1.owe (.count c.1 c.2.1 c.2.2.1 c.2.2.2.1 c.2.2.2.2)
  | .writeBack _ none => s1

/-- R382: a dirty line may stay in its cache; whether it does is a choice (log entry 4). -/
def State.keepsLine (s : State) (k : OwedKind) : Bool × State :=
  match k with
  | .writeBack _ _ =>
    let c := s.choose
    (c.1 != 0, c.2)
  | _ => (false, s)

/-- R368, R382: pieces of the device's traffic are performed in order. What a slot, a horizon or a link that retrains keeps
back waits, and keeps back what comes after it on the same resource. `age` holds back what was made at or after a tick. -/
def State.payFrom (age : Option Nat) : List Owed → List SlotRes → State → State
  | [], _, s => s
  | o :: os, kept, s =>
    let res := (s.owedAt o.kind).filterMap s.resOf
    if o.load.isSome then State.payFrom age os kept { s with owed := s.owed ++ [o] }
    else if age.any (fun t => t ≤ o.since) || res.any (fun r => s.shut r || kept.contains r) then
      State.payFrom age os (res ++ kept) { s with owed := s.owed ++ [o] }
    else
      let c := s.keepsLine o.kind
      if c.1 then State.payFrom age os kept { c.2 with owed := c.2.owed ++ [o] }
      else State.payFrom age os kept (c.2.performOwed o.kind)

/-- The device's traffic goes on as far as it may. -/
def State.payOwed (s : State) (age : Option Nat) : State :=
  if s.owed.isEmpty then s else State.payFrom age s.owed [] { s with owed := [] }

/-! ### Page-table entries (R100, R101) -/

def leafFrame (e : W64) : Nat := (slice e 16 36).toNat * 0x10000
def leafStag (e : W64) : BitVec 8 := slice e 52 8
def leafD (e : W64) : Bool := bitAt e 15
def leafA (e : W64) : Bool := bitAt e 14
def leafLoc (e : W64) : Bool := bitAt e 13
def leafAcc (e : W64) : Bool := bitAt e 12
def leafWb (e : W64) : Bool := bitAt e 11
def leafH (e : W64) : Bool := bitAt e 10
def leafVer (e : W64) : Bool := bitAt e 9
def leafSkew (e : W64) : Nat := (slice e 7 2).toNat
def leafSd (e : W64) : Bool := bitAt e 6
def leafCls (e : W64) : Nat := (slice e 4 2).toNat
def leafU (e : W64) : Bool := bitAt e 3
def leafX (e : W64) : Bool := bitAt e 2
def leafW (e : W64) : Bool := bitAt e 1
def leafV (e : W64) : Bool := bitAt e 0

def clsPriv : Nat := 0
def clsRshr : Nat := 1
def clsCoh : Nat := 2
def clsDev : Nat := 3

/-- R100: a valid table pointer with its reserved bits zero. -/
def tableOk (e : W64) : Bool := bitAt e 63 && bitAt e 0 && slice e 52 11 == 0 && slice e 1 15 == 0

/-- Kinds of access, numbered as TRAPCAUSE.ACC (R162). -/
def accRead : Nat := 0
def accWrite : Nat := 1
def accFetch : Nat := 2
def accAtomic : Nat := 3
def accWalk : Nat := 4

/-- Why an access is not performed: a fault, a breach of the lease, a write that WB holds (R115), a write whose step is
over (R119), or a resource that a maintenance slot stops (R368). -/
inductive Stop where
  | trap (i : TrapInfo)
  | lease
  | held
  | conflict
  | busy
  deriving DecidableEq, Repr

/-- The fault of a failed check (R102). -/
def accessFault (kind : Nat) (va : W64) : Stop :=
  .trap (TrapInfo.at (if kind == accFetch then causeFetchAccess else causeDataAccess) kind va)

/-- A translation: the leaf entry's address, the leaf, and the physical address before R117's choice of half. -/
structure Xl where
  leafPa : Nat
  leaf : W64
  pa : Nat
  deriving DecidableEq, Repr

/-- Where a walk ended: the leaf's address, the leaf, and whether it maps 512 MiB. -/
structure Walked where
  leafPa : Nat
  leaf : W64
  big : Bool
  deriving DecidableEq, Repr

/-- A walk's read of a table entry; a poisoned entry faults with ACC = 4 (R122). -/
def State.walkRead (s : State) (pa : Nat) (va : W64) : Except Stop W64 :=
  if s.poisoned pa then .error (.trap (TrapInfo.at causePoison accWalk va)) else .ok (s.mem.word pa)

/-- R99, R102: the walk, with its structural checks. -/
def State.walk (s : State) (ptbase : W64) (kind : Nat) (va : W64) : Except Stop Walked := do
  let p0 := leafFrame ptbase + 8 * (slice va 42 13).toNat
  let e0 ← s.walkRead p0 va
  if !tableOk e0 then .error (accessFault kind va)
  else
    let p1 := leafFrame e0 + 8 * (slice va 29 13).toNat
    let e1 ← s.walkRead p1 va
    if bitAt e1 63 then
      if !tableOk e1 then .error (accessFault kind va)
      else
        let p2 := leafFrame e1 + 8 * (slice va 16 13).toNat
        let e2 ← s.walkRead p2 va
        if bitAt e2 63 then .error (accessFault kind va) else .ok ⟨p2, e2, false⟩
    else .ok ⟨p1, e1, true⟩

/-- R102: the checks of a leaf, all but the last. -/
def leafOk (w : Walked) (kind : Nat) (smode : Bool) : Bool :=
  let e := w.leaf
  let f := leafFrame e
  leafV e && slice e 60 4 == 0 &&
    !(w.big && (slice e 16 13 != 0 || leafVer e)) &&
    !(leafVer e && (bitAt e 16 || leafCls e == clsRshr || leafCls e == clsDev)) &&
    !(leafSd e && leafCls e == clsDev) &&
    !(isRegSpace f && leafCls e != clsDev) &&
    (if leafLoc e then isHost f else isDram f || isRegSpace f) &&
    (smode || leafU e) &&
    !((kind == accWrite || kind == accAtomic) && !leafW e) &&
    !(kind == accFetch && (!leafX e || (smode && leafU e)))

/-- R102: the SKEW check. A leaf with LOC = 0 whose frame no region holds has no mode to agree with; its SKEW must then be
0 (DESIGN CHOICE, log entry 85). -/
def State.skewOk (s : State) (e : W64) : Bool :=
  if leafLoc e then leafSkew e == 0
  else if isRegSpace (leafFrame e) then leafSkew e == 0
  else
    match s.regionOf (leafFrame e) with
    | some r => leafSkew e == r.skew.toNat
    | none => leafSkew e == 0

/-- The physical address a leaf gives a virtual address, half 0 of a versioned page. -/
def leafAddr (w : Walked) (va : W64) : Nat :=
  leafFrame w.leaf + (if w.big then (slice va 0 29).toNat else (slice va 0 16).toNat)

/-- The fields of a leaf that a cached translation holds: all but A, D, and H and STAG of a versioned page (R116). -/
def cachedPart (e : W64) : W64 := e &&& (if leafVer e then 0xF00FFFFFFFFF3BFF else 0xFFFFFFFFFFFF3FFF)

/-- The virtual page number of an address. -/
def vpnOf (va : W64) : Nat := (slice va 16 39).toNat

/-- A cached translation of an address. -/
def Xlat.covers (x : Xlat) (ctx : Ctx) (va : W64) : Bool := x.ctx == ctx && x.vpn == vpnOf va

/-- A cached translation that is the walk's, A and D apart. -/
def Xlat.same (x : Xlat) (w : Walked) : Bool :=
  cachedPart x.leaf == cachedPart w.leaf && x.leafPa == w.leafPa && x.big == w.big

/-- R103: the bits an access sets in the entry: A, and D for a write. -/
def adBits (write : Bool) : W64 := if write then 0xC000 else 0x4000

/-- R104: the cached translations an access may still use, which differ from what a walk finds, in A or D too. One with
D = 0 is not used for a write (R103). -/
def State.stales (s : State) (ctx : Ctx) (w : Option Walked) (write : Bool) (va : W64) : List Xlat :=
  s.tlb.filter fun x => x.covers ctx va && x.leaf &&& adBits write == adBits write &&
    w.all fun u => !(x.same u && u.leaf &&& adBits write == adBits write)

/-- R103: the entry in memory has the bits an access sets; none while the entry cannot be reached. While the link is shut it is
reached in an on-die copy alone (R367). -/
def State.setAd (s : State) (w : Walked) (write : Bool) : Option State :=
  if w.leaf &&& adBits write == adBits write then some s
  else
    let b := s.barred false w.leafPa
    if b.1 then none
    else
      let s1 := if isHost w.leafPa && !s.shutAt w.leafPa then b.2.crossLink 8 else b.2
      some (s1.deviceWrite w.leafPa (leBytes 8 (w.leaf ||| adBits write).toNat))

/-- R104: holds a translation in the caches, the ones it differs from beside it until they are invalidated. -/
def State.cacheXlat (s : State) (ctx : Ctx) (w : Walked) (write : Bool) (va : W64) : State :=
  { s with tlb := ⟨ctx, vpnOf va, w.leafPa, w.leaf ||| adBits write, w.big⟩ ::
      s.tlb.filter fun x => !(x.covers ctx va && x.same w) }

/-- R99: the table entries a walk reads, as far as it comes. -/
def State.walkPath (s : State) (ptbase va : W64) : List Nat :=
  let p0 := leafFrame ptbase + 8 * (slice va 42 13).toNat
  let e0 := s.mem.word p0
  if !tableOk e0 then [p0]
  else
    let p1 := leafFrame e0 + 8 * (slice va 29 13).toNat
    let e1 := s.mem.word p1
    if tableOk e1 then [p0, p1, leafFrame e1 + 8 * (slice va 16 13).toNat] else [p0, p1]

/-- R367, R379: a walk's reads of entries in host memory cross the link; none while one must wait. -/
def State.walkReads : List Nat → State → Option State
  | [], s => some s
  | p :: ps, s =>
    let b := s.barred false p
    if b.1 then none else State.walkReads ps (if isHost p && !s.shutAt p then b.2.crossLink 8 else b.2)

/-- A translation is cached, and no walk is needed. -/
def State.cached (s : State) (ctx : Ctx) (w : Walked) (va : W64) : Bool :=
  s.tlb.any fun x => x.covers ctx va && x.same w

/-- R102: the checks of the leaf an access uses; a write also meets RSHR (R105), and WB (R115). `pub` is set for CPYPUB,
which writes RSHR pages. -/
def State.leafStop (pub : Bool) (s : State) (w : Walked) (smode : Bool) (kind : Nat) (va : W64) : Option Stop :=
  let write : Bool := kind == accWrite || kind == accAtomic
  if !leafOk w kind smode then some (accessFault kind va)
  else if !s.skewOk w.leaf then some (.trap (TrapInfo.at causeSkew kind va))
  else if !pub && write && leafCls w.leaf == clsRshr then some (accessFault kind va)
  else if write && leafWb w.leaf then some .held
  else none

/-- R102 to R104: the translation a walk gives: its reads are made unless it is cached, and A and D are set. -/
def State.walked (pub : Bool) (s : State) (ctx : Ctx) (w : Except Stop Walked) (smode : Bool) (kind : Nat) (va : W64) :
    Except Stop (Xl × State) :=
  match (match w with
    | .ok u => if s.cached ctx u va then some s else State.walkReads (s.walkPath ctx.ptbase va) s
    | .error _ => State.walkReads (s.walkPath ctx.ptbase va) s) with
  | none => .error .busy
  | some s1 =>
    match w with
    | .error e => .error e
    | .ok u =>
      match s1.leafStop pub u smode kind va with
      | some e => .error e
      | none =>
        let write : Bool := kind == accWrite || kind == accAtomic
        match s1.setAd u write with
        | none => .error .busy
        | some s2 => .ok (⟨u.leafPa, u.leaf, leafAddr u va⟩, s2.cacheXlat ctx u write va)

/-- R102 to R104: translates an address, with every check of a translation. A cached translation that software has since
changed may be used instead of the entry in memory (log entry 4). -/
def State.translateAs (pub : Bool) (s : State) (ctx : Ctx) (smode : Bool) (kind : Nat) (va : W64) :
    Except Stop (Xl × State) :=
  if !canonical va then .error (accessFault kind va)
  else
    let w := s.walk ctx.ptbase kind va
    let olds := s.stales ctx w.toOption (kind == accWrite || kind == accAtomic) va
    let c := if olds.isEmpty then (0, s) else s.choose
    match (if c.1 == 0 then none else olds[c.1 - 1]?) with
    | none => c.2.walked pub ctx w smode kind va
    | some x =>
      let u : Walked := ⟨x.leafPa, x.leaf, x.big⟩
      match c.2.leafStop pub u smode kind va with
      | some e => .error e
      | none => .ok (⟨u.leafPa, u.leaf, leafAddr u va⟩, c.2)

def State.translate (s : State) (ctx : Ctx) (smode : Bool) (kind : Nat) (va : W64) : Except Stop (Xl × State) :=
  s.translateAs false ctx smode kind va

/-- The context of the thread in focus. -/
def State.ctx (s : State) : Ctx := ⟨s.task.part, some s.task.ctxid, s.task.ptbase⟩

/-! ### Leases -/

/-- Whether ranges cover the bytes from `a` up to but not including `e`; each range is passed at most once. -/
def coverTo (rs : List LeaseRange) : Nat → Nat → Nat → Bool
  | 0, a, e => e ≤ a
  | fuel + 1, a, e =>
    e ≤ a || match rs.find? fun r => r.base ≤ a && a < r.base + r.len with
      | some r => coverTo rs fuel (r.base + r.len) e
      | none => false

/-- R112: every byte of a span lies in a declared range, with W = 1 for a write. -/
def Task.leaseOk (t : Task) (write : Bool) (a n : Nat) : Bool :=
  let rs := (t.ranges.map Prod.snd).filter fun r => !write || r.w
  coverTo rs (rs.length + 1) a (a + n)

/-- R92: the implicit execute range. -/
def Task.inCode (t : Task) (a n : Nat) : Bool :=
  t.kernel.entry.toNat ≤ a && a + n ≤ t.kernel.entry.toNat + t.kernel.codelen

/-- R149 checks 2 to 4 for `n` bytes at an address, in order: canonical, lease, translation. -/
def State.checkAs (pub : Bool) (s : State) (smode : Bool) (kind : Nat) (va : W64) (n : Nat) : Except Stop (Xl × State) :=
  if !canonical va then .error (accessFault kind va)
  else if !smode && !s.task.leaseOk (kind != accRead) va.toNat n then .error .lease
  else s.translateAs pub s.ctx smode kind va

def State.check (s : State) (smode : Bool) (kind : Nat) (va : W64) (n : Nat) : Except Stop (Xl × State) :=
  s.checkAs false smode kind va n

/-! ### Versioned pages -/

/-- R117: the half that holds the committed data of an entry. -/
def Task.committed (t : Task) (e : W64) : Bool :=
  if leafStag e == slice t.stepno 0 8 then leafH e else leafH e != bitAt t.cmap (leafStag e).toNat

/-- The physical address in half `h` of a versioned page. -/
def inHalf (pa : Nat) (h : Bool) : Nat := if h then pa + 0x10000 else pa

/-- R117: where a read of a translated address goes; H and STAG are read from the entry's home. -/
def State.readPa (s : State) (x : Xl) : Nat :=
  if leafVer x.leaf then inHalf x.pa (s.task.committed (s.mem.word x.leafPa)) else x.pa

/-- The cells of a memory with those of one 64 KiB frame replaced by another's. -/
def Memory.copyFrame (m : Memory) (src dst : Nat) : Memory :=
  (m.filter fun c => c.1 < dst) ++
    ((m.filter fun c => src ≤ c.1 && c.1 < src + 0x10000).map fun c => (c.1 - src + dst, c.2)) ++
    m.filter fun c => dst + 0x10000 ≤ c.1

/-- Copies a 64 KiB frame onto another, the poison of its blocks with it (R121). -/
def State.copyFrame (s : State) (src dst : Nat) : State :=
  let bad : List Nat :=
    if s.poison.isEmpty && s.channelsOut.isEmpty && s.stale.isEmpty then []
    else ((List.range 1024).filter fun i => s.poisoned (src + 64 * i)).map fun i => dst + 64 * i
  let s1 : State :=
    if s.channelsOut.isEmpty then
      { s with mem := s.mem.copyFrame src dst
               poison := s.poison.filter fun b => !(dst ≤ b && b < dst + 0x10000)
               stale := s.clearStale dst 0x10000 }
    else s.physWrite dst (s.physRead src 0x10000)
  { s1 with poison := s1.poison ++ bad }

/-- R117: the first write of a step to a page copies the committed half and updates H and STAG. -/
def State.normalise (s : State) (leafPa : Nat) : State :=
  let e := s.mem.word leafPa
  let step := slice s.task.stepno 0 8
  if leafStag e == step then s
  else
    let c := s.task.committed e
    let f := leafFrame e
    let s1 := s.copyFrame (inHalf f c) (inHalf f (!c))
    let e1 : W64 := (e &&& 0xF00FFFFFFFFFFBFF) ||| (step.setWidth 64 <<< 52) ||| (if c then 0x400 else 0)
    s1.physWriteWord leafPa e1

/-- R367: a write that must first have its versioned page copied, and whose copy a resource keeps waiting. -/
def State.copyShut (s : State) (x : Xl) : Bool :=
  leafVer x.leaf && leafStag (s.mem.word x.leafPa) != slice s.task.stepno 0 8 && (s.shutAt x.pa || s.shutAt x.leafPa)

/-- R358, R367, R368: a write of `n` bytes that its resource, or the copy it needs, keeps waiting. -/
def State.heldWrite (s : State) (dev : Bool) (x : Xl) (n : Nat) : Bool × State :=
  if s.copyShut x then (true, s) else s.held dev x.pa n

/-- R117: where a write that carries step `sw` goes, after the copy of a first write; none when it is dropped. -/
def State.writePa (s : State) (x : Xl) (sw : W64) : Option (Nat × State) :=
  if !leafVer x.leaf then some (x.pa, s)
  else if sw != s.task.stepno then none
  else
    let s1 := s.normalise x.leafPa
    some (inHalf x.pa (!leafH (s1.mem.word x.leafPa)), s1)

/-! ### Counters (R113, R114) -/

/-- R113, R114: the counter of a request of a host page whose leaf has ACC set, with the threshold and the entry it may post. -/
def State.counterOf (s : State) (x : Xl) : Option (Nat × Nat × Nat × W64 × W64) :=
  let t := s.task
  if !(leafAcc x.leaf && bitAt t.pgctrbase 0 && x.pa % 2 ^ 51 < 2 ^ 40) then none
  else
    let th := (slice t.pgthresh 0 16).toNat
    some (leafFrame t.pgctrbase + 2 * (x.pa % 2 ^ 40 / 0x10000), th, t.nqbase.toNat,
      BitVec.ofNat 64 (1 + th * 2 ^ 16 + t.ctxid.toNat % 2 ^ 32 * 2 ^ 32), BitVec.ofNat 64 (x.pa / 0x10000 * 0x10000))

/-- R113, R114: a request of a host page will be counted, one to half 1 of a versioned page at the counter of half 0's physical
address (DESIGN CHOICE, log entry 114). -/
def State.countPage (s : State) (x : Xl) : State :=
  match s.counterOf x with
  | none => s
  | some c => s.owe (.count c.1 c.2.1 c.2.2.1 c.2.2.2.1 c.2.2.2.2)

/-- R113, R379: the requests for some bytes of a host page. -/
def State.requests (x : Xl) (cross : Bool) : List Nat → State → State
  | [], s => s
  | n :: ns, s => State.requests x cross ns ((if cross then s.crossLink n else s).countPage x)

/-- R113: a span of a page as requests of at most 256 bytes, cut where a multiple of 256 lies (log entry 45). -/
def requestSizes (pa n : Nat) : List Nat :=
  (List.range ((pa % 256 + n + 255) / 256)).map fun i =>
    min (pa + n) ((pa / 256 + i + 1) * 256) - max pa ((pa / 256 + i) * 256)

/-- R382: the lines of a host page that a write on the die has made dirty will be written back, each once. -/
def State.dirtyLines (s : State) (x : Xl) (n : Nat) : State :=
  ((List.range ((x.pa % 128 + n + 127) / 128)).map fun i => x.pa / 128 * 128 + 128 * i).foldl (fun s a =>
    if s.owed.any fun o => match o.kind with
      | .writeBack b _ => a == b
      | _ => false
    then s else s.owe (.writeBack a (s.counterOf x))) s

/-- R367: whether an access of a host page is served on the die: a choice, but no choice while the link is shut, nor on a DEV
page (log entry 4). -/
def State.servedHere (s : State) (x : Xl) : Bool × State :=
  if leafCls x.leaf == clsDev then (false, s)
  else if s.shutAt x.pa then (true, s)
  else
    let c := s.choose
    (c.1 != 0, c.2)

/-- R113, R379, R382: requests for a host page cross the link and are counted, unless a cache serves them; a write then
leaves dirty lines. -/
def State.countAccess (s : State) (write : Bool) (x : Xl) (n : Nat) : State :=
  if !leafLoc x.leaf then s
  else
    let c := s.servedHere x
    if !c.1 then State.requests x true (requestSizes x.pa n) c.2 else if write then c.2.dirtyLines x n else c.2

/-- R339: a stream's read of a row, or of a part of one: one request, or consecutive pieces of 256 bytes, each counted
whether or not an on-die copy serves it. -/
def State.countStream (s : State) (x : Xl) (n : Nat) : State :=
  if !leafLoc x.leaf then s
  else
    let c := s.servedHere x
    State.requests x (!c.1) (requestSizes 0 n) c.2

/-! ### The stash -/

/-- R109: a stash slot of the pair in focus that maps a virtual address. -/
def State.stashSlot? (s : State) (va : Nat) : Bool :=
  s.pair.slots.toList.any fun q =>
    match q with
    | none => false
    | some t => t.g ≤ va && va < t.g + t.len

/-- A stash line as it is filled. -/
def State.fillLine (s : State) (va pa : Nat) (coh : Bool) : StashLine :=
  ⟨va / 128 * 128, pa / 128 * 128, coh, s.mem.readN (pa / 128 * 128) 128,
    [pa / 128 * 128, pa / 128 * 128 + 64].filter s.poisoned⟩

/-- R109: the line of an access to a mapped range fills on its first touch. -/
def State.stashTouch (s : State) (x : Xl) (va : W64) (pa : Nat) : State :=
  if !s.stashSlot? va.toNat then s
  else
    let p := s.pair
    if p.lines.any (fun l => l.pa == pa / 128 * 128) then s
    else s.setPair { p with lines := p.lines ++ [s.fillLine va.toNat pa (leafCls x.leaf == clsCoh)] }

/-! ### Reading and writing through a translation -/

/-- The traffic of a checked access that is not of the register space. A stream's row fills no line (R339). -/
def State.touch (s : State) (stream write : Bool) (x : Xl) (va : W64) (pa n : Nat) : State :=
  if stream then (s.countStream x n).recall pa n else ((s.countAccess write x n).recall pa n).stashTouch x va pa

/-- R112: whether the host refuses an access to one of its pages, which it does if it breaks its obligation to a lease
(log entry 86). -/
def State.hostRefuses (s : State) (x : Xl) : Bool × State :=
  if leafLoc x.leaf then
    let c := s.choose
    (c.1 == 1, c.2)
  else (false, s)

/-- Reads the bytes of a checked access that the host does not refuse, which a stream makes or not: a poisoned block faults
(R122), a DEV page is read once (R105). -/
def State.loadNow (stream : Bool) (s : State) (kind : Nat) (x : Xl) (va : W64) (n : Nat) : Except Stop (List Byte × State) :=
  let pa := s.readPa x
  if isRegSpace pa then .ok (s.devRead pa n)
  else
    match s.poisonIn pa n with
    | some b => .error (.trap (TrapInfo.at causePoison kind (va + BitVec.ofNat 64 b - BitVec.ofNat 64 pa)))
    | none =>
      let s1 := s.touch stream (kind == accWrite || kind == accAtomic) x va pa n
      .ok (s1.physRead pa n, s1)

/-- Reads the bytes of a checked access, unless the host refuses it. -/
def State.loadAs (stream : Bool) (s : State) (kind : Nat) (x : Xl) (va : W64) (n : Nat) : Except Stop (List Byte × State) :=
  let h := s.hostRefuses x
  if h.1 then .error (accessFault kind va) else h.2.loadNow stream kind x va n

def State.load (s : State) (kind : Nat) (x : Xl) (va : W64) (n : Nat) : Except Stop (List Byte × State) :=
  s.loadAs false kind x va n

/-- Writes bytes at a checked address, carrying step `sw`; none where the step is over (R117, R119). -/
def State.storeNow (s : State) (x : Xl) (va sw : W64) (bytes : List Byte) : Option State :=
  match s.writePa x sw with
  | none => none
  | some (pa, s1) =>
    if isRegSpace pa then some (s1.devWrite pa bytes)
    else some (((s1.touch false true x va pa bytes.length).physWrite pa bytes).spread (s1.th.cluster, s1.th.pair) pa bytes)

/-- The same, unless the host refuses the access. -/
def State.store (s : State) (x : Xl) (va sw : W64) (bytes : List Byte) : Except Stop State :=
  let h := s.hostRefuses x
  if h.1 then .error (accessFault accWrite va)
  else
    match h.2.storeNow x va sw bytes with
    | none => .error .conflict
    | some t => .ok t

/-- Checks and reads `n` bytes for data (R149). -/
def State.readVa (s : State) (smode : Bool) (va : W64) (n : Nat) : Except Stop (List Byte × Xl × State) := do
  let c ← s.check smode accRead va n
  let r ← c.2.load accRead c.1 va n
  .ok (r.1, c.1, r.2)

end Sys2Proof.Machine
end

