-- ==== Sys2Proof/Machine/Ranges.lean ====
section
/-! DEFINITION. Machine/Ranges.lean: the types of nodes (R207), and the address ranges that dispatched work holds in the
ARIT (R196, R391). -/

namespace Sys2Proof.Machine

/-! ### Nodes and names -/

/-- The type of a node's value (R207): a mask, or elements of a TY. -/
inductive NTy where
  | mask
  | elem (ty : Nat)
  deriving DecidableEq, Repr

/-- The instruction a node was recorded by. -/
def Node.instr (n : Node) : Option Instr := decodeOpc n.word

/-- R207: the type of a node. -/
def Node.nty (n : Node) : NTy :=
  match n.instr with
  | some (.vcmp _) | some (.vcmps _) | some (.vclass _) | some (.vflags _) | some (.kop _) | some (.vkld _)
  | some (.mtst _) | some (.mpack _) => .mask
  | some (.vld f) => if n.part == 1 then .mask else .elem (if f.ty == 0xF then 0xA else f.ty.toNat)
  | some (.vcvt f) => if n.part == 1 then .mask else .elem f.ty.toNat
  | some (.vtread _) | some (.mrred _) => .elem 0xA
  | some (.vldx f) | some (.vtb f) => .elem f.ty.toNat
  | some (.vsplat f) | some (.viota f) | some (.vslide f) | some (.vshli f) | some (.vshri f) => .elem f.ty.toNat
  | _ => .elem (slice n.word 27 4).toNat

/-- R191, R234: the words that record roots. -/
def rootWord (i : Instr) : Bool :=
  match i with
  | .vst _ | .vstx _ | .vcst _ | .vkst _ | .vred _ | .kpop _ | .vforce _ | .vamo _ => true
  | .mopa _ | .mops _ | .mopt _ | .mscale _ | .mtwr _ | .sscan _ | .ssstep _ | .cpyx _ => true
  | _ => false

/-- A root node (R186): the first node of a root word. -/
def Node.isRoot (n : Node) : Bool :=
  n.part == 0 && match n.instr with
    | some i => rootWord i
    | none => false

/-- R64, R204: the slot of a pair word that recorded a node; a node of a whole word counts as slot 0. -/
def Node.pairSlot (n : Node) : Bool :=
  match n.instr with
  | some (.vadd _) | some (.vsub _) | some (.vmul _) | some (.vmin _) | some (.vmax _) | some (.vand _) | some (.vor _)
  | some (.vxor _) | some (.vshli _) | some (.vshri _) | some (.vadds _) | some (.vmuls _) | some (.vunary _) =>
    bitAt n.vc 0
  | _ => false

/-- R64: the slot of the node that was recorded at an address as number `seq`. -/
def Recipe.slotAt (r : Recipe) (pc : W64) (seq : Nat) : Bool :=
  r.nodes.any fun n => n.pc == pc && n.seq == seq && n.pairSlot

/-- A memory leaf (R186). -/
def Node.isMemLeaf (n : Node) : Bool :=
  match n.instr with
  | some (.vld _) => n.part == 0
  | some (.vldx _) | some (.vkld _) => true
  | some (.vforce _) => n.part == 1
  | _ => false

/-- The node at an index. -/
def Recipe.node? (r : Recipe) (i : Nat) : Option Node := r.nodes.find? fun n => n.idx == i

/-- A length known now. -/
def knownLen (lsrc len : Nat) : Option Nat := if lsrc == 0 || lsrc == 5 then some len else none

/-- R188: a node's length once it is known; a VSEGRED records its input's (R227). -/
def Node.known (n : Node) : Option Nat :=
  let l := match n.instr with
    | some (.vsegred _) => n.len / n.va.toNat
    | _ => n.len
  knownLen n.lsrc l

/-! ### Ranges (R196, R391) -/

/-- A range that covers no byte. -/
def Rng.none : Rng := ⟨1, 0⟩

def Rng.meets (a b : Rng) : Bool := a.lo ≤ a.hi && b.lo ≤ b.hi && a.lo ≤ b.hi && b.lo ≤ a.hi

/-- `n` bytes from an address. -/
def Rng.span (a n : Nat) : Rng := if n == 0 then Rng.none else ⟨a, a + n - 1⟩

/-- The hull of `n` elements of `w` bytes at a signed stride. -/
def Rng.strided (b : Nat) (s : Int) (n w : Nat) : Rng :=
  if n == 0 then Rng.none
  else
    let far : Int := (n - 1 : Nat) * s
    ⟨((b : Int) + (if far < 0 then far else 0)).toNat, ((b : Int) + (if far < 0 then 0 else far) + w - 1).toNat⟩

/-- The smallest range that holds two. -/
def Rng.hull (a b : Rng) : Rng :=
  if a.hi < a.lo then b else if b.hi < b.lo then a else ⟨min a.lo b.lo, max a.hi b.hi⟩

/-- Any of some ranges meets a range. -/
def Rng.meetsAny (r : Rng) (rs : List Rng) : Bool := rs.any fun q => q.meets r

/-- Any of some ranges meets any of others. -/
def rangesMeet (a b : List Rng) : Bool := a.any fun x => x.meetsAny b

/-- R391: the first and last byte of the lease range that holds an address, or with none the canonical addresses with its
bit 54. -/
def State.around (s : State) (smode : Bool) (a : Nat) : Rng :=
  let r := if smode then Option.none else s.task.ranges.find? fun r => r.2.base ≤ a && a < r.2.base + r.2.len
  match r with
  | some r => ⟨r.2.base, r.2.base + r.2.len - 1⟩
  | Option.none => if a.testBit 54 then ⟨2 ^ 64 - 2 ^ 54, 2 ^ 64 - 1⟩ else ⟨0, 2 ^ 54 - 1⟩

/-- R391: from an address to the end of what lies around it. -/
def State.openRange (s : State) (smode : Bool) (a : Nat) : Rng := ⟨a, (s.around smode a).hi⟩

/-- R228, R391: the same toward lower addresses, for elements of `w` bytes of which the first lies at the address. -/
def State.openDown (s : State) (smode : Bool) (a w : Nat) : Rng := ⟨(s.around smode a).lo, a + w - 1⟩

/-- R228: the range of elements at a signed stride while their number is not known. -/
def State.openStrided (s : State) (n : Node) (strided : Bool) (w : Nat) : Rng :=
  if strided && bitAt n.vb 63 then s.openDown n.smode n.va.toNat w else s.openRange n.smode n.va.toNat

/-- R236, R391: every writable range of the lease. -/
def State.writableRanges (s : State) (smode : Bool) : List Rng :=
  if smode then [⟨0, 2 ^ 64 - 1⟩]
  else
    let w := s.task.ranges.filter fun r => r.2.w && r.2.len != 0
    match w with
    | [] => [Rng.none]
    | r :: rs =>
      [⟨rs.foldl (fun m q => min m q.2.base) r.2.base,
        rs.foldl (fun m q => max m (q.2.base + q.2.len - 1)) (r.2.base + r.2.len - 1)⟩]

/-- The bytes of `n` elements of a type laid contiguously (R35, R41). -/
def packedBytes (ty n : Nat) : Nat := if ty == 0xE then (6 * n + 7) / 8 else n * bytesOf ty

/-- R228: the squares that elements 0 to n - 1 of a tensor of H rows and W columns reach: how many bytes from its base
the last of them ends. -/
def squaresEnd (w h n : Nat) (t : Bool) : Nat :=
  if n == 0 || w == 0 || h == 0 then 0
  else
    let cw := (w + 7) / 8
    let last : Nat :=
      if t then
        let x := (n - 1) / h
        let y := if x % 8 == 0 then (n - 1) % h else h - 1
        let here := y / 8 * cw + x / 8
        if 8 ≤ x then max here ((h - 1) / 8 * cw + x / 8 - 1) else here
      else
        let y := (n - 1) / w
        let x := if y % 8 == 0 then (n - 1) % w else w - 1
        let here := y / 8 * cw + x / 8
        if 8 ≤ y then max here ((y / 8 - 1) * cw + (w - 1) / 8) else here
    64 * (last + 1)

/-- R228: the first and the last square that elements `i` to `n - 1` of a tensor of H rows and W columns reach, numbered from
its base. -/
def squaresFrom (w h i n : Nat) (t : Bool) : Nat × Nat :=
  let cw := (w + 7) / 8
  let sq (y x : Nat) : Nat := y / 8 * cw + x / 8
  if t then
    let x := i / h
    let z := (n - 1) / h
    (if x < z then min (sq (i % h) x) (sq 0 (x + 1)) else sq (i % h) x,
      if x < z then max (sq ((n - 1) % h) z) (sq (h - 1) (z - 1)) else sq ((n - 1) % h) z)
  else
    let y := i / w
    let z := (n - 1) / w
    (if y < z then min (sq y (i % w)) (sq (y + 1) 0) else sq y (i % w),
      if y < z then max (sq z ((n - 1) % w)) (sq (z - 1) (w - 1)) else sq z ((n - 1) % w))

/-- The stride of a VLD or VST: xB with `.s`, else the element width (R228). -/
def strideOf (ty : Nat) (strided : Bool) (xb : W64) : Int := if strided then xb.toInt else bytesOf ty

/-- The memory ranges of a node with a known length: what a leaf reads, what a root writes. `none` where they do not
follow from the node alone. -/
def Node.rangesAt (n : Node) (len : Nat) : Option (List Rng × List Rng) :=
  let b := n.va.toNat
  match n.instr with
  | some (.vld f) =>
    if n.part == 1 then some ([], [])
    else if f.ty == 0xF then
      let w := (slice n.vb 0 24).toNat
      let h := (slice n.vb 24 24).toNat
      some ([Rng.span b (squaresEnd w h len (bitAt f.fn 1))], [])
    else if f.ty == 0xE then some ([Rng.span b (packedBytes 0xE len)], [])
    else some ([Rng.strided b (strideOf f.ty.toNat (bitAt f.fn 0) n.vb) len (bytesOf f.ty.toNat)], [])
  | some (.vkld _) => some ([Rng.span b ((len + 7) / 8)], [])
  | some (.vst f) =>
    if f.ty == 0xE then some ([], [Rng.span b (packedBytes 0xE len)])
    else some ([], [Rng.strided b (strideOf f.ty.toNat (bitAt f.fn 1) n.vb) len (bytesOf f.ty.toNat)])
  | some (.vcst f) => some ([], [Rng.span b (len * bytesOf f.ty.toNat)])
  | some (.vkst _) => some ([], [Rng.span b ((len + 7) / 8)])
  | some (.vred f) =>
    if f.fnAt 2 2 == 2 then some ([], [Rng.span b (if f.fnAt 6 2 == 3 then 8 else bytesOf f.ty.toNat)])
    else some ([], [])
  | some (.vforce f) =>
    let r := Rng.span b (packedBytes f.ty.toNat len)
    if n.part == 1 then some ([r], []) else some ([], [r])
  | some (.vldx _) | some (.vstx _) | some (.vamo _) => none
  | _ => some ([], [])

/-- The ranges of a node while its length is an unfilled pop (R228, R391). -/
def State.openRanges (s : State) (n : Node) : List Rng × List Rng :=
  let up := [s.openRange n.smode n.va.toNat]
  match n.instr with
  | some (.vld f) =>
    if n.part == 1 then ([], [])
    else ([s.openStrided n (f.ty != 0xF && bitAt f.fn 0) (bytesOf f.ty.toNat)], [])
  | some (.vkld _) => (up, [])
  | some (.vst f) => ([], [s.openStrided n (bitAt f.fn 1) (bytesOf f.ty.toNat)])
  | some (.vcst _) | some (.vkst _) => ([], up)
  | some (.vforce _) =>
    if n.part == 1 then (up, []) else ([], up)
  | _ => (n.rangesAt 0).getD ([], [])

/-- The ranges a node takes at recording. A VLDX leaf's are formed from its block and given apart. -/
def State.nodeRanges (s : State) (n : Node) : List Rng × List Rng :=
  match n.instr with
  | some (.vstx _) | some (.vamo _) => ([], s.writableRanges n.smode)
  | _ =>
    match n.known with
    | none => s.openRanges n
    | some l => (n.rangesAt l).getD (n.reads, n.writes)

/-! ### Ranges of engine transfers -/

/-- R262: the end of the bytes of `n` tile rows in memory. -/
def tileRowsEnd (ty n pitch : Nat) (t : Bool) : Nat :=
  if n == 0 then 0
  else if ty == 0xF then
    (if t then 15 * pitch + 64 * ((n + 7) / 8) else ((n + 7) / 8 - 1) * pitch + 1024)
  else if ty == 0xE then (n - 1) * pitch + 96
  else if t then 127 * pitch + n * bytesOf ty
  else (n - 1) * pitch + 128 * bytesOf ty

/-- R320: source and destination hulls of CPYT, in bytes from their bases. -/
def cpytEnds (ty r c sp dp : Nat) : Nat × Nat :=
  if r == 0 || c == 0 then (0, 0)
  else if ty == 0xF then
    (((r + 7) / 8 - 1) * sp + 64 * ((c + 7) / 8), ((c + 7) / 8 - 1) * dp + 64 * ((r + 7) / 8))
  else ((r - 1) * sp + c * bytesOf ty, (c - 1) * dp + r * bytesOf ty)

/-- The ranges of an engine transfer of known length (R266, R268, R274, R287, R318, R333, R334); `none` where they do
not follow from the entry alone. -/
def Entry.rangesAt (e : Entry) (n : Nat) : Option (List Rng × List Rng) :=
  let a := e.a.toNat
  let d := e.c.toNat
  let pitch := (slice e.b 0 32).toNat
  match decodeOpc e.word with
  | some (.mtld f) => some ([Rng.span a (tileRowsEnd f.ty.toNat n pitch (bitAt f.fn 0))], [Rng.none])
  | some (.mtst f) => some ([Rng.none], [Rng.span a (tileRowsEnd f.ty.toNat n pitch (bitAt f.fn 0))])
  | some (.mpack f) => some ([Rng.none], [Rng.span a (tileRowsEnd 0xF n pitch (bitAt f.fn 3))])
  | some (.bload f) => some ([Rng.span a (tileRowsEnd f.ty.toNat n pitch (bitAt f.fn 0))], [])
  | some (.msave _) => some ([Rng.none], [Rng.span a 65536])
  | some (.mrest _) => some ([Rng.span a 65536], [Rng.none])
  | some (.ssld _) => some ([Rng.span a 65536], [Rng.none])
  | some (.ssst _) => some ([Rng.none], [Rng.span a 65536])
  | some (.cpy _) | some (.cpypub _) => some ([Rng.span a n], [Rng.span d n])
  | some (.cpy2d _) =>
    let dp := (slice e.b 32 32).toNat
    let rb := e.d.toNat
    some ([Rng.span a (if n == 0 then 0 else (n - 1) * pitch + rb)], [Rng.span d (if n == 0 then 0 else (n - 1) * dp + rb)])
  | some (.cpyt f) =>
    let p := cpytEnds f.ty.toNat n e.d.toNat pitch (slice e.b 32 32).toNat
    some ([Rng.span a p.1], [Rng.span d p.2])
  | some (.cpyf f) => some ([Rng.none], [Rng.span d (n * bytesOf f.ty.toNat)])
  | some (.cpyr f) => some ([Rng.span a (n * bytesOf f.ty.toNat)], [Rng.span d (n * bytesOf f.ty.toNat)])
  | some (.cpyx _) =>
    some (e.reads, if e.d == 0 then e.writes else [Rng.span d (n * e.d.toNat)])
  | some (.stfl _) | some (.stinv _) => some ([Rng.none], [Rng.span a e.b.toNat])
  | _ => none

/-- R196, R326: the index range of `n` indices. -/
def StreamBlock.indexRng (b : StreamBlock) (n : Nat) : Rng := Rng.span b.ibase.toNat (n * bytesOf b.itype)

/-- R196, R326: the table range. -/
def StreamBlock.tableRng (b : StreamBlock) : Rng := Rng.span b.tbase.toNat (b.trows * b.esize)

/-- R325: the read hull of a CPYX of `n` rows. -/
def StreamBlock.reads (b : StreamBlock) (idx : Bool) (n : Nat) : Rng :=
  if idx then (b.indexRng n).hull b.tableRng else b.tableRng

/-- R151, R324: the same once `i` indices have been read. -/
def StreamBlock.readsFrom (b : StreamBlock) (idx : Bool) (n i : Nat) : Rng :=
  if idx then (Rng.span (b.ibase.toNat + i * bytesOf b.itype) ((n - i) * bytesOf b.itype)).hull b.tableRng else b.tableRng

/-- `n` rows of `rb` bytes at a pitch, from byte `p` of their sequence on: the hull of what is left. -/
def Rng.rowsFrom (a pitch rb n p : Nat) : Rng :=
  if rb == 0 || n * rb ≤ p then Rng.none
  else
    let r := p / rb
    let lo := r * pitch + p % rb
    let lo := if r + 1 < n then min lo ((r + 1) * pitch) else lo
    Rng.span (a + lo) (max (r * pitch) ((n - 1) * pitch) + rb - lo)

/-- `n` tile rows from row `r` on, in bytes from their base: where the first of them begins. -/
def tileRowsStart (ty r pitch : Nat) (t : Bool) : Nat :=
  if ty == 0xF then (if t then 64 * (r / 8) else r / 8 * pitch)
  else if ty != 0xE && t then r * bytesOf ty
  else r * pitch

/-- What is left of `n` tile rows from row `r` on. -/
def Rng.tileRows (a ty n pitch : Nat) (t : Bool) (r : Nat) : Rng :=
  if n ≤ r then Rng.none
  else Rng.span (a + tileRowsStart ty r pitch t) (tileRowsEnd ty n pitch t - tileRowsStart ty r pitch t)

/-- R151: the ranges of an engine transfer of `n` items that has come to `p` of its progress word (R199): what it has not
performed. -/
def Entry.left (e : Entry) (n p : Nat) : List Rng × List Rng :=
  let a := e.a.toNat
  let d := e.c.toNat
  let pitch := (slice e.b 0 32).toNat
  let dp := (slice e.b 32 32).toNat
  let rb := e.d.toNat
  match decodeOpc e.word with
  | some (.mtld f) => ([Rng.tileRows a f.ty.toNat n pitch (bitAt f.fn 0) p], [Rng.none])
  | some (.mtst f) => ([Rng.none], [Rng.tileRows a f.ty.toNat n pitch (bitAt f.fn 0) p])
  | some (.mpack f) => ([Rng.none], [Rng.tileRows a 0xF n pitch (bitAt f.fn 3) p])
  | some (.bload f) => ([Rng.tileRows a f.ty.toNat n pitch (bitAt f.fn 0) p], [])
  | some (.cpy _) | some (.cpypub _) => ([Rng.span (a + p) (n - p)], [Rng.span (d + p) (n - p)])
  | some (.cpy2d _) => ([Rng.rowsFrom a pitch rb n p], [Rng.rowsFrom d dp rb n p])
  | some (.cpyt f) =>
    let ends := cpytEnds f.ty.toNat n rb pitch dp
    let row := if f.ty == 0xF then n / 8 * 64 else n * bytesOf f.ty.toNat
    let col := p / max 1 row * (if f.ty == 0xF then 64 else bytesOf f.ty.toNat)
    ([Rng.span (a + col) (ends.1 - col)], [Rng.rowsFrom d dp row (if f.ty == 0xF then rb / 8 else rb) p])
  | some (.cpyf f) => ([Rng.none], [Rng.span (d + p) (n * bytesOf f.ty.toNat - p)])
  | some (.cpyr f) =>
    ([Rng.span (a + p) (n * bytesOf f.ty.toNat - p)], [Rng.span (d + p) (n * bytesOf f.ty.toNat - p)])
  | some (.cpyx _) => (e.reads, if rb == 0 then e.writes else [Rng.span (d + p) (n * rb - p)])
  | _ => (e.reads, e.writes)

/-- The ranges of an engine transfer whose length is an unfilled pop (R318, R391). -/
def State.openEntry (s : State) (e : Entry) : List Rng × List Rng :=
  let a := s.openRange e.smode e.a.toNat
  let d := s.openRange e.smode e.c.toNat
  match decodeOpc e.word with
  | some (.mtld _) => ([a], [Rng.none])
  | some (.mtst _) | some (.mpack _) => ([Rng.none], [a])
  | some (.bload _) => ([a], [])
  | some (.cpyf _) => ([Rng.none], [d])
  | _ => ([a], [d])

/-- The ranges an entry takes as it enters the queue; those of a stream root stand with its node. -/
def State.entryRanges (s : State) (e : Entry) : List Rng × List Rng :=
  match e.rangesAt 0, knownLen e.lsrc e.len with
  | none, _ => (e.reads, e.writes)
  | some _, none => s.openEntry e
  | some r, some l => (e.rangesAt l).getD r

end Sys2Proof.Machine
end

