-- ==== Sys2Proof/Machine/Operands.lean ====
section
/-! DEFINITION. Machine/Operands.lean: how a word issues, waits or traps; the operand forms of dispatched words: node
names, masks, length sources, captured values and ranges (R25, R185 to R191, R196, R207, R391); the dispatch queue. -/

namespace Sys2Proof.Machine

/-! ### How a word ends its issue -/

/-- What issuing a word gives: it completes, it waits where it stands, it traps, or its access breaks the lease. -/
inductive Issue where
  | done (s : State)
  | wait (kind : WaitKind) (bounded : Bool) (aux : Nat)
  | trap (i : TrapInfo)
  | lease

/-- R115, R313: the report of a bounded wait whose budget has run out. A held write's `aux` holds its address times 16
plus its kind of access. -/
def timeoutInfo (kind : WaitKind) (aux : Nat) : TrapInfo :=
  if kind == .writeBlock then TrapInfo.at causeTimeout (aux % 16) (BitVec.ofNat 64 (aux / 16))
  else TrapInfo.plain causeTimeout 0

/-- R312: the budget a bounded wait captures as it begins. -/
def State.budget (s : State) : Nat := (slice s.th.sr.waitbudget 0 48).toNat

/-- R313: the word at the PC waits; a wait already begun by it goes on, with the budget captured then. A bounded wait
that begins with a budget of 0 faults at once. -/
def State.beginWait (s : State) (kind : WaitKind) (bounded : Bool) (aux : Nat) : State :=
  let old : Bool := match s.th.fe.wait with
    | some w => w.pc == s.th.pc && w.kind == kind
    | none => false
  if old then s
  else if bounded && s.budget == 0 then s.trap (timeoutInfo kind aux)
  else { s with th.fe.wait := some ⟨s.th.pc, kind, s.now, if bounded then some s.budget else none, aux⟩ }

/-- The word has completed: its wait, if any, is over and the next word follows. -/
def State.retire (s : State) : State := { s with th := { s.th with pc := s.th.pc + 8, fe.wait := none } }

/-- The outcome of issuing a word. -/
def State.settle (s : State) (i : Issue) : Host.Outcome State Fault Refusal :=
  match i with
  | .done t => .next t
  | .wait k b a => .next (s.beginWait k b a)
  | .trap t => .next (s.trap t)
  | .lease => .next s.leaseViolation

/-- An access that is not performed, at the word that makes it. -/
def Stop.issue (va : W64) (acc : Nat) : Stop → Issue
  | .trap i => .trap i
  | .lease => .lease
  | .held => .wait .writeBlock true (va.toNat * 16 + acc)
  | .conflict => .trap (TrapInfo.plain causeStep accWrite)
  | .busy => .wait .drain false 0

/-- A word that completes with a result in an x register. -/
def State.finish (s : State) (r : BitVec 6) (v : W64) : Issue := .done (s.setX r v).retire

/-- R197 and R163 leave TRAPADDR 0 for a fault with no address. -/
def Issue.fault (code : Nat) : Issue := .trap (TrapInfo.plain code 0)

/-! ### Names and live nodes -/

/-- R183: free nodes of the thread's budget. -/
def Recipe.free (r : Recipe) : Nat := r.budget - r.nodes.length

/-- The lowest free index. -/
def Recipe.freeIdx (r : Recipe) : Nat :=
  ((List.range 256).find? fun i => !r.nodes.any fun n => n.idx == i).getD 0

/-- The sources and mask of a node. -/
def Node.srcs (n : Node) : List Nat := n.sa.toList ++ n.sb.toList ++ n.sc.toList ++ n.sk.toList

/-- R184: the nodes to keep, newest first: roots, named nodes, and what a kept node names. -/
def liveNodes (named : List Nat) : List Node → List Nat × List Node
  | [] => (named, [])
  | n :: ns =>
    let r := liveNodes named ns
    if n.isRoot || r.1.contains n.idx then (n.srcs ++ r.1, n :: r.2) else r

/-- R184: frees every node that is no longer live. -/
def Recipe.collect (r : Recipe) : Recipe :=
  let named := r.vnames.toList.filterMap id ++ r.knames.toList.filterMap id
  { r with nodes := (liveNodes named r.nodes).2 }

/-- Removes root nodes whose pass or operation is over, and frees what they held. -/
def Recipe.dropRoots (r : Recipe) (roots : List Nat) : Recipe :=
  { r with nodes := r.nodes.filter (fun n => !roots.contains n.idx)
           pending := r.pending.filter fun i => !roots.contains i }.collect

/-- R185, R207: the node a vector name is bound to, if its type is one the entry accepts. -/
def State.vsrc (s : State) (r : BitVec 6) (ok : NTy → Bool) : Except Nat Nat :=
  match s.th.rcp.vnames[r.toNat]?.getD none with
  | none => .error causeRange
  | some i =>
    match s.th.rcp.node? i with
    | none => .error causeRange
    | some n => if ok n.nty then .ok i else .error causeRange

/-- A vector source of one type. -/
def State.vsrcTy (s : State) (r : BitVec 6) (ty : BitVec 4) : Except Nat Nat := s.vsrc r fun t => t == .elem ty.toNat

/-- A vector source of an integer type. -/
def State.vsrcInt (s : State) (r : BitVec 6) : Except Nat Nat :=
  s.vsrc r fun t => match t with
    | .elem y => y < 8
    | .mask => false

/-- R187: the node a mask name is bound to; k0 is the all-true mask. -/
def State.ksrc (s : State) (k : Nat) : Except Nat (Option Nat) :=
  if k == 0 then .ok none
  else
    match s.th.rcp.knames[k]?.getD none with
    | none => .error causeRange
    | some i =>
      match s.th.rcp.node? i with
      | none => .error causeRange
      | some n => if n.nty == .mask then .ok (some i) else .error causeRange

/-! ### Length queues (R189) -/

/-- R189: slots that are both taken and filled are released. -/
def Lq.release (q : Lq) : Lq := { q with slots := q.slots.filter fun t => !(t.taken && t.filled.isSome) }

/-- R189: the number of the next slot: the first from `next` on that no occupied slot has. -/
def Lq.freeNo (q : Lq) : Nat :=
  (((List.range 16).map fun i => (q.next + i) % 16).find? fun i => !q.slots.any fun t => t.no == i).getD q.next

/-- R189: a producer reserves the next slot. -/
def Lq.reserve (q : Lq) : Nat × Lq := (q.freeNo, ⟨(q.freeNo + 1) % 16, q.slots ++ [⟨q.freeNo, false, none⟩]⟩)

/-- R189: a producer reserves several slots. -/
def Lq.reserveN : Lq → Nat → Lq
  | q, 0 => q
  | q, n + 1 => Lq.reserveN q.reserve.2 n

/-- R189: the oldest slot no node has taken. -/
def Lq.oldest (q : Lq) : Option LqSlot := q.slots.find? fun t => !t.taken

/-- R189: marks a slot taken. -/
def Lq.take (q : Lq) (no : Nat) : Lq :=
  Lq.release { q with slots := q.slots.map fun t => if t.no == no then { t with taken := true } else t }

/-- R189: fills a slot. -/
def Lq.fill (q : Lq) (no len : Nat) : Lq :=
  Lq.release { q with slots := q.slots.map fun t => if t.no == no then { t with filled := some len } else t }

/-- Length queue `q` of the thread in focus. -/
def Thread.lq (t : Thread) (q : Nat) : Lq := t.rcp.lqs[q]?.getD Lq.empty

def Thread.setLq (t : Thread) (q : Nat) (v : Lq) : Thread := { t with rcp.lqs := t.rcp.lqs.setIfInBounds q v }

/-! ### What the queue launches -/

/-- The nodes some roots reach, newest first: the roots and what a reached node names. Nodes stand in recording order,
so a node's consumers come after it. -/
def reachFrom (roots : List Nat) : List Node → List Nat × List Node
  | [] => (roots, [])
  | n :: ns =>
    let r := reachFrom roots ns
    if r.1.contains n.idx then (n.srcs ++ r.1, n :: r.2) else r

/-- The nodes some roots reach, in recording order. -/
def Recipe.reach (r : Recipe) (roots : List Nat) : List Node := (reachFrom roots r.nodes).2

/-- The root an entry records. -/
def Thread.rootsOf (t : Thread) (e : Entry) : List Nat :=
  match e.node with
  | some i => (match t.rcp.node? i with
    | some n => if n.isRoot then [i] else []
    | none => [])
  | none => []

/-- A root with `.g`, which NOJOIN takes away (R200): it stays pending. -/
def Entry.joins (e : Entry) : Bool :=
  !e.nojoin && match decodeOpc e.word with
    | some (.vst f) | some (.vstx f) | some (.vcst f) | some (.vkst f) | some (.vred f) | some (.vamo f) => bitAt f.fn 0
    | some (.vforce f) | some (.kpop f) => bitAt f.fn 0
    | _ => false

/-- An entry launches the roots pending before it. -/
def Entry.launches (e : Entry) : Bool :=
  match decodeOpc e.word with
  | some (.vpass _) => true
  | some i => rootWord i && !e.joins
  | none => false

/-- The roots that some entries of the queue launch: every pending root and every root among them, up to the last word
that launches (log entry 14). -/
def Thread.launchedIn (t : Thread) (es : List Entry) : List Nat :=
  let upTo := (es.reverse.dropWhile fun e => !e.launches).reverse
  if upTo.isEmpty then [] else t.rcp.pending ++ upTo.flatMap t.rootsOf

/-- The roots that stand in the dispatch queue with their launch. -/
def Thread.queuedRoots (t : Thread) : List Nat := t.launchedIn t.dsp.queue

/-- R188, R189: a length taken by LS: the LSRC code, the length or slot number, and the thread after the pop. -/
def Thread.takeLen (t : Thread) (ls : Nat) : Except Nat (Nat × Nat × Thread) :=
  if ls == 0 then .ok (0, (slice t.sr.vl 0 48).toNat, t)
  else
    let q := t.lq (ls - 1)
    match q.oldest with
    | none => .error causeRange
    | some p =>
      let t1 := t.setLq (ls - 1) (q.take p.no)
      match p.filled with
      | some n => .ok (5, n, t1)
      | none => .ok (ls, p.no, t1)

/-! ### The ARIT (R196) -/

/-- The started engine operations of a thread. -/
def Dispatch.ops (d : Dispatch) : List Op :=
  d.matrix.toList ++ d.bloads ++ d.ssb.toList ++ d.copy.toList ++ d.shelf

/-- ARIT entries in use. -/
def Thread.aritUsed (t : Thread) : Nat :=
  (t.rcp.nodes.map fun n => n.reads.length + n.writes.length).sum +
    (t.dsp.queue.map fun e => e.reads.length + e.writes.length).sum +
    (t.dsp.ops.map fun o => o.e.reads.length + o.e.writes.length).sum

/-- R196: whether `n` entries can be had: yes, not ready, or RECIPE_CAPACITY. -/
inductive Room where
  | yes
  | wait
  | never
  deriving DecidableEq, Repr

/-- An ARIT entry of work in flight: dispatched and not over. -/
def Thread.aritInFlight (t : Thread) : Bool :=
  let nodes (roots : List Nat) : Bool := (t.rcp.reach roots).any fun n => !n.reads.isEmpty || !n.writes.isEmpty
  (t.dsp.queue.any fun e => !e.reads.isEmpty || !e.writes.isEmpty) || nodes t.queuedRoots ||
    (t.dsp.passes.any fun p => nodes p.roots) ||
    t.dsp.ops.any fun o => !o.e.reads.isEmpty || !o.e.writes.isEmpty || nodes o.e.node.toList

def Thread.aritRoom (t : Thread) (n : Nat) : Room :=
  if t.aritUsed + n ≤ 64 then .yes else if t.aritInFlight then .wait else .never

/-! ### The dispatch queue (R12, R168) -/

/-- R12: the queue has room for `n` more entries. -/
def Dispatch.room (d : Dispatch) (n : Nat) : Bool := d.queue.length + n ≤ 32

/-- R12, R134: a word that puts entries into the dispatch queue is not ready while it has no room for them. -/
def State.whenRoom (s : State) (n : Nat) (k : Host.Outcome State Fault Refusal) : Host.Outcome State Fault Refusal :=
  if s.th.dsp.room n then k else s.settle (.wait .drain false 0)

/-- R25, R43, R117: an entry as it enters the queue, with the values it captures. -/
def State.newEntry (s : State) (word a b c : W64) : Entry :=
  { word := word, pc := s.th.pc, a := a, b := b, c := c, d := 0, rseed := s.th.sr.rseed, aw := 0, stepno := s.task.stepno,
    fctrl := s.fctrl, smode := s.th.smode, slot := false, seq := s.th.dsp.nextSeq, node := none, lsrc := 0, len := 0,
    serial := false, nojoin := false, prog := 0, reads := [], writes := [] }

/-- Places an entry in the queue. -/
def Thread.enqueue (t : Thread) (e : Entry) : Thread :=
  { t with dsp.queue := t.dsp.queue ++ [{ e with seq := t.dsp.nextSeq }], dsp.nextSeq := t.dsp.nextSeq + 1 }

/-- R156: a counted word raises its counter at queue entry. -/
def Thread.count (t : Thread) (cc : Option Nat) : Thread :=
  match cc with
  | some n => t.ccUp n
  | none => t

/-- R156: a counter at 2^16 - 1 keeps a word that would raise it from issuing. -/
def Thread.counterRoom (t : Thread) (cc : Option Nat) : Bool :=
  match cc with
  | some n => t.cc[n]?.getD 0 != 0xFFFF
  | none => true

/-- The counter a format M word names. -/
def counterM (f : FM) : Option Nat := if f.cce == 1 then some f.cc.toNat else none
/-- The counter a format T word names. -/
def counterT (f : FT) : Option Nat := if f.cce == 1 then some f.cc.toNat else none

/-- The counter an entry's or node's word names (R156): formats M and T, and the SSB words of format X (R285). -/
def wordCounter (word : W64) : Option Nat :=
  match decodeOpc word with
  | some (.sscan f) | some (.ssstep f) | some (.ssrst f) => if bitAt f.fn 3 then some (f.fnAt 0 3) else none
  | some (.mopa f) | some (.mops f) | some (.mopt f) | some (.mzero f) | some (.mscale f) | some (.maddt f)
  | some (.mtrn f) | some (.mtld f) | some (.mtst f) | some (.mpack f) | some (.mtwr f) | some (.bload f)
  | some (.bfromt f) | some (.msave f) | some (.mrest f) => counterT f
  | some (.vst f) | some (.vstx f) | some (.vcst f) | some (.vkst f) | some (.vred f) | some (.vamo f)
  | some (.ssld f) | some (.ssst f) | some (.cpy f) | some (.cpy2d f) | some (.cpyt f) | some (.cpyx f)
  | some (.cpyf f) | some (.cpyr f) | some (.cpypub f) | some (.stmap f) | some (.stfl f) | some (.stinv f) =>
    counterM f
  | _ => none

/-! ### Recording (R185) -/

/-- What a recording word asks for. `parts` is how many nodes it makes: none for an engine word with no recipe operand.
`own` is set for a word whose length relation is its own; `caps` gives the values its node captures (R204) where they do
not stand at the entry's places; `fixedLen` for a length not taken from LS; `lenMul` is the
elements of its node for each unit of its length. `nodeRng` and `entryRng` give ARIT ranges that do not follow from the
captured values alone. `d` and `arrival` are the entry's fourth value and arrival word address (R320, R317), and `slot`
tells slot 1 of a pair word (R64). -/
structure Rec where
  word : W64
  sa : Option Nat := none
  sb : Option Nat := none
  sc : Option Nat := none
  sk : Option Nat := none
  va : W64 := 0
  vb : W64 := 0
  vc : W64 := 0
  d : W64 := 0
  arrival : Option W64 := none
  parts : Nat := 1
  nodeRng : Option (List Rng × List Rng) := none
  entryRng : Option (List Rng × List Rng) := none
  own : Option (Option Nat → Bool) := none
  caps : Option (W64 × W64 × W64) := none
  fixedLen : Option Nat := none
  lenMul : Nat := 1
  dest : Option Nat := none
  kdest : Option Nat := none
  ovf : Option Nat := none
  leafDest : Option Nat := none
  reserve : Option (Nat × Nat) := none
  cc : Option Nat := none
  slot : Bool := false
  entry : Bool := true

/-- R191, R200: a recording of a root. -/
def Rec.isRoot (q : Rec) : Bool := q.parts != 0 && (decodeOpc q.word).any rootWord

/-- R188: whether the sources and mask of a recording have its length, where both are known. -/
def Recipe.lengthsOk (r : Recipe) (srcs : List Nat) (len : Option Nat) : Bool :=
  srcs.all fun i =>
    match r.node? i, len with
    | some n, some l => (match n.known with
      | some k => k == l
      | none => true)
    | _, _ => true

/-- Binds a vector name. -/
def Recipe.bindV (r : Recipe) (d : Option Nat) (n : Option Nat) : Recipe :=
  match d with
  | some i => { r with vnames := r.vnames.setIfInBounds i n }
  | none => r

/-- Binds a mask name; k0 is never bound (R183). -/
def Recipe.bindK (r : Recipe) (d : Option Nat) (n : Option Nat) : Recipe :=
  match d with
  | some i => if i == 0 then r else { r with knames := r.knames.setIfInBounds i n }
  | none => r

/-- A length in a node's elements: a slot number stays as it is. -/
def Rec.nodeLen (q : Rec) (lsrc len : Nat) : Nat := if (knownLen lsrc len).isSome then q.lenMul * len else len

/-- The node an accepted recording fills (R204), its ARIT ranges formed. -/
def State.newNode (s : State) (q : Rec) (idx lsrc len : Nat) : Node :=
  let v := q.caps.getD (q.va, q.vb, q.vc)
  let n : Node :=
    { idx := idx, seq := s.th.dsp.nextSeq, part := 0, word := q.word, pc := s.th.pc, lsrc := lsrc,
      len := q.nodeLen lsrc len, fctrl := s.fctrl, rseed := s.th.sr.rseed, va := v.1, vb := v.2.1, vc := v.2.2,
      sa := q.sa, sb := q.sb, sc := q.sc, sk := q.sk, reads := [], writes := [], smode := s.th.smode, bits := 0 }
  let r := q.nodeRng.getD (s.nodeRanges n)
  { n with reads := r.1, writes := r.2 }

/-- R47, R240: the second node of a word that makes two: an overflow mask, or VFORCE's leaf. -/
def Node.second (n : Node) (idx : Nat) (leaf : Bool) : Node :=
  { n with idx := idx, part := 1, sa := if leaf then none else some n.idx, sb := none, sc := none,
           sk := none, reads := if leaf then n.writes else [], writes := [] }

/-- The nodes of a recording. -/
def State.newNodes (s : State) (q : Rec) (lsrc len : Nat) : List Node :=
  if q.parts == 0 then []
  else
    let n0 := s.newNode q s.th.rcp.freeIdx lsrc len
    if q.parts == 2 then [n0, n0.second { s.th.rcp with nodes := s.th.rcp.nodes ++ [n0] }.freeIdx q.leafDest.isSome]
    else [n0]

/-- The entry of a recording. -/
def State.newRecEntry (s : State) (q : Rec) (node : Option Nat) (lsrc len : Nat) : Entry :=
  let e : Entry :=
    { s.newEntry q.word q.va q.vb q.vc with
      node := node, lsrc := lsrc, len := len, d := q.d, slot := q.slot, aw := q.arrival.getD 0,
      serial := q.isRoot && bitAt s.th.sr.recipemode 0, nojoin := q.isRoot && bitAt s.th.sr.recipemode 1 }
  let r := q.entryRng.getD (s.entryRanges e)
  { e with reads := r.1, writes := r.2 }

/-- R185 after its checks: allocates the nodes, binds the names, reserves queue slots, raises the counter, and places
the entry. `t` is the thread after the length's pop. -/
def State.commitRec (s : State) (q : Rec) (t : Thread) (ns : List Node) (e : Entry) : State :=
  let i0 := (ns[0]?).map fun n => n.idx
  let i1 := (ns[1]?).map fun n => n.idx
  let r0 := { t.rcp with nodes := t.rcp.nodes ++ ns }
  let r1 := if i0.isSome then (r0.bindV q.dest i0).bindK q.kdest i0 else r0
  let r2 := if i1.isSome then (r1.bindK q.ovf i1).bindV q.leafDest i1 else r1
  let t1 := { t with rcp := r2.collect }
  let t2 := match q.reserve with
    | some (lq, k) => t1.setLq lq ((t1.lq lq).reserveN k)
    | none => t1
  { s with th := if q.entry then (t2.enqueue e).count q.cc else { t2 with dsp.nextSeq := t2.dsp.nextSeq + 1 } }

/-- R64, R185, R188, R189, R196: records a word without moving past it, or says why it is not recorded. -/
def State.recordHere (s : State) (ls : Nat) (q : Rec) : Issue :=
  if q.entry && !(s.th.dsp.room 1 && s.th.counterRoom q.cc) then .wait .drain false 0
  else
    let lr : Except Nat (Nat × Nat × Thread) := match q.fixedLen with
      | some n => .ok (5, n, s.th)
      | none => s.th.takeLen ls
    match lr with
    | .error c => Issue.fault c
    | .ok (lsrc, len, t) =>
      let full : Bool := match q.reserve with
        | some (lq, k) => 16 < (s.th.lq lq).slots.length + k
        | none => false
      let ns := s.newNodes q lsrc len
      let e := s.newRecEntry q ((ns[0]?).map fun n => n.idx) lsrc len
      let need := (ns.map fun n => n.reads.length + n.writes.length).sum + e.reads.length + e.writes.length
      let known := knownLen lsrc len
      if full then Issue.fault causeRange
      else if s.th.rcp.free < q.parts then Issue.fault causeCapacity
      else
        match s.th.aritRoom need with
        | .wait => .wait .drain false 0
        | .never => Issue.fault causeCapacity
        | .yes =>
          let ok : Bool := match q.own with
            | some f => f known
            | none => t.rcp.lengthsOk (q.sa.toList ++ q.sb.toList ++ q.sc.toList ++ q.sk.toList) known
          if !ok then Issue.fault causeLength
          else .done (s.commitRec q t ns e)

/-- Records a word. -/
def State.record (s : State) (ls : Nat) (q : Rec) : Issue :=
  match s.recordHere ls q with
  | .done t => .done t.retire
  | i => i

/-- R189: a producer fills a slot of queue `q`; nodes and entries that took it learn their length and ranges (R228). -/
def Node.learn (n : Node) (q no len : Nat) : Node :=
  if n.lsrc == q + 1 && n.len == no then
    let m := match n.instr with
      | some (.mtst _) | some (.mpack _) => 128
      | _ => 1
    let n1 := { n with lsrc := 5, len := m * len }
    let r := (n1.rangesAt (m * len)).getD (n.reads, n.writes)
    { n1 with reads := r.1, writes := r.2 }
  else n

def Entry.learn (e : Entry) (q no len : Nat) : Entry :=
  if e.lsrc == q + 1 && e.len == no then
    let r := (e.rangesAt len).getD (e.reads, e.writes)
    { e with lsrc := 5, len := len, reads := r.1, writes := r.2 }
  else e

def Thread.fillLq (t : Thread) (q no len : Nat) : Thread :=
  let t := t.setLq q ((t.lq q).fill no len)
  { t with
    rcp.nodes := t.rcp.nodes.map fun n => n.learn q no len
    dsp.queue := t.dsp.queue.map fun e => e.learn q no len }

/-- A recording whose operands may already refuse it; with no room in the queue the word is not ready (R12). -/
def State.recordE (s : State) (ls : Nat) (q : Except Nat Rec) : Host.Outcome State Fault Refusal :=
  s.whenRoom 1 (match q with
    | .error c => s.settle (Issue.fault c)
    | .ok q => s.settle (s.record ls q))

/-! ### Order among a thread's own work -/

/-- R272, R296: the entries a word in the thread's current mode comes after: in S mode those of S mode. -/
def Thread.ownQueue (t : Thread) : List Entry := if t.smode then t.dsp.queue.filter fun e => e.smode else t.dsp.queue

/-- Dispatched work that has not completed. -/
def Dispatch.busy (d : Dispatch) : Bool := !d.queue.isEmpty || !d.passes.isEmpty || !d.ops.isEmpty

/-- Work a word in the thread's current mode must wait for: in S mode, U-mode entries not started are passed over
(R272). An operation that a deferred fault has stopped keeps it waiting (R298, R389, log entry 57). -/
def Thread.unfinished (t : Thread) : Bool := !t.ownQueue.isEmpty || !t.dsp.passes.isEmpty || !t.dsp.ops.isEmpty

/-- R296: roots that no word issued so far launches, whatever mode recorded them, and that a releasing word launches. -/
def Thread.hasPending (t : Thread) : Bool :=
  let launched := t.launchedIn t.ownQueue
  (t.rcp.pending ++ t.ownQueue.flatMap t.rootsOf).any fun i => !launched.contains i

/-- The word of VPASS with no mask of its own: FN 0 (R241). -/
def vpassWord : W64 := packX 0x6C ⟨0, 0, 0, 0, 0, 0, 0, 0, 0⟩

/-- R296: pending roots are launched by an entry of the releasing word's own address that stands for VPASS. -/
def State.flushRoots (s : State) : State :=
  if s.th.hasPending then { s with th := s.th.enqueue (s.newEntry vpassWord 0 0 0) } else s

/-- R115: WB holds a write of the thread's dispatched work. -/
def Thread.writeHeld (t : Thread) : Bool :=
  (t.dsp.passes.any fun p => p.hold.isSome) || t.dsp.ops.any fun o => o.hold.isSome

/-- R298, R313: a fence waits. Only while WB holds a write of the thread does its wait count against the BUDGET it captured
as the first such hold began; what is then left, plus 1, stands in `aux` while no write is held. -/
def State.fenceWait (s : State) : State :=
  let old := s.th.fe.wait.filter fun w => w.pc == s.th.pc && w.kind == .fence
  let left : Nat := match old with
    | none => s.budget
    | some w => w.budget.elim (if w.aux == 0 then s.budget else w.aux - 1) fun b => b - (s.now - w.since)
  let counting := old.any fun w => w.budget.isSome
  if s.th.writeHeld then
    if left == 0 then s.trap (timeoutInfo .fence 0)
    else if counting then s
    else { s with th.fe.wait := some ⟨s.th.pc, .fence, s.now, some left, 0⟩ }
  else if counting then { s with th.fe.wait := some ⟨s.th.pc, .fence, s.now, none, left + 1⟩ }
  else s.beginWait .fence false 0

/-- R296, R297: a word that releases at its issue. Pending roots are launched first; the word then waits, as `wait` says,
until every earlier access of the thread is performed, and goes on as `k` says. `stores` tells whether it waits for posted
stores. -/
def State.releasingAs (s : State) (wait : State → State) (stores : Bool) (k : State → Host.Outcome State Fault Refusal) :
    Host.Outcome State Fault Refusal :=
  if s.th.hasPending then
    (if s.th.dsp.room 1 then .next (wait s.flushRoots) else .next (s.beginWait .drain false 0))
  else if s.th.unfinished || (stores && !s.th.fe.posted.isEmpty) then .next (wait s)
  else k s

/-- A releasing word other than FENCE waits without a bound (R313). -/
def State.releasing (s : State) (stores : Bool) (k : State → Host.Outcome State Fault Refusal) :
    Host.Outcome State Fault Refusal :=
  s.releasingAs (fun s => s.beginWait .fence false 0) stores k

/-- An entry that a fault at its start has stopped. -/
def Dispatch.stoppedEntry (d : Dispatch) (e : Entry) : Bool :=
  d.stopped == some (.entry e.seq) || d.deferred.any fun f => f.ref == some (.entry e.seq)

/-- R165, R272: an entry the stream sequencer may take in the thread's mode: in S mode the S-mode entries alone, in U
mode any, unless a deferred fault holds them until TRET. -/
def Thread.mayTake (t : Thread) (e : Entry) : Bool :=
  if t.smode then e.smode && !t.dsp.stoppedEntry e else t.dsp.deferred.isEmpty && t.dsp.stopped.isNone

/-- R13, R272: the entry the stream sequencer takes next. -/
def Thread.headEntry (t : Thread) : Option Entry := t.dsp.queue.find? t.mayTake

/-- R241: a VPASS with `.wait` of the thread's mode holds its issue, or holds it no more. -/
def Thread.setWait (t : Thread) (on : Bool) : Thread :=
  if t.smode then { t with dsp.waitS := on } else { t with dsp.waitU := on }

/-- R44, R171: work whose flags FSTATUS may still receive. Stopped and held work, and roots still pending, are not
waited for. -/
def Thread.flagsDue (t : Thread) : Bool :=
  t.dsp.passes.any (fun p => !p.halted) || t.headEntry.isSome ||
    (t.dsp.matrix.toList ++ t.dsp.bloads ++ t.dsp.ssb.toList).any fun o => !o.halted

end Sys2Proof.Machine
end

