-- ==== Sys2Proof/Machine/Remaining.lean ====
section
/-! DEFINITION. Machine/Remaining.lean: which elements a pass or an engine's unit evaluates of each node (R390), and what
started work has not yet read and written (R151, R195). -/

namespace Sys2Proof.Machine

/-! ### What is evaluated -/

/-- The elements of a node that the group itself evaluates, `lo` up to `hi`, and for a VSEGRED its input elements. A
node reached only through a VBCAST has none. -/
structure Own where
  node : Nat
  lo : Nat
  hi : Nat
  inLo : Nat
  inHi : Nat
  deriving DecidableEq, Repr

/-- What is being evaluated: the nodes in recording order, their own ranges, and the blocks read at launch (R229). -/
structure Group where
  nodes : List Node
  own : List Own
  blocks : List (Nat × StreamBlock)
  deriving DecidableEq, Repr

/-- The length of a node's value. -/
def Node.size (n : Node) : Nat := n.known.getD 0

def Group.own? (g : Group) (i : Nat) : Option Own := g.own.find? fun o => o.node == i

/-- What is kept of a structural node. -/
def keptOf (bs : List Back) (i : Nat) : Option Back := bs.find? fun b => b.node == i

/-- Where a carrying node's evaluation goes on: at the group's own first element, or for a node reached only through a
VBCAST where it stopped. -/
def Group.nextOf (g : Group) (bs : List Back) (i : Nat) : Nat :=
  match g.own? i with
  | some o => o.lo
  | none => ((keptOf bs i).map fun b => b.next).getD 0

/-- The first element from which a carrying node's outputs are kept. -/
def Group.keptFrom (g : Group) (bs : List Back) (i : Nat) : Nat :=
  match keptOf bs i with
  | some b => (match b.vals with
    | v :: _ => v.1
    | [] => g.nextOf bs i)
  | none => g.nextOf bs i

/-- R188: a node that takes only its own length, whatever its mask's. -/
def Node.ownLength (n : Node) : Bool :=
  match n.instr with
  | some (.vsplat _) | some (.viota _) => true
  | _ => false

/-- The length of a node among some nodes. -/
def sizeIn (nodes : List Node) (i : Nat) : Nat := ((nodes.find? fun n => n.idx == i).map Node.size).getD 0

/-- R390: how many of a pass's elements each node's element stands for, for the reached nodes in recording order. -/
def factors (nodes : List Node) : List (Nat × Nat) :=
  nodes.foldl (fun fs n =>
    let of_ (i : Nat) : Nat := ((fs.find? fun u => u.1 == i).map Prod.snd).getD 1
    let f := match n.instr with
      | some (.vbcast _) => 1
      | some (.vsegred _) => of_ (n.sa.getD 0) * n.va.toNat
      | _ => (n.srcs.filter fun i => !n.ownLength || sizeIn nodes i == n.size).foldl (fun m i => max m (of_ i)) 1
    (n.idx, f) :: fs) []

def factorOf (fs : List (Nat × Nat)) (i : Nat) : Nat := max 1 (((fs.find? fun u => u.1 == i).map Prod.snd).getD 1)

/-- A VSEGRED node. -/
def Node.isSegred (n : Node) : Bool :=
  match n.instr with
  | some (.vsegred _) => true
  | _ => false

def Node.isBcast (n : Node) : Bool :=
  match n.instr with
  | some (.vbcast _) => true
  | _ => false

/-- The nodes reached from some roots otherwise than through a VBCAST alone, newest first. -/
def mainFrom (roots : List Nat) : List Node → List Nat
  | [] => roots
  | n :: ns =>
    let r := mainFrom roots ns
    if r.contains n.idx && !n.isBcast then n.srcs ++ r else r

/-- R390: the own ranges of a pass's nodes in the group of its elements `first` to `last - 1`. Every VSEGRED folds its
inputs with their group. -/
def passOwn (nodes : List Node) (roots : List Nat) (first last : Nat) : List Own :=
  let fs := factors nodes
  let main := mainFrom roots nodes
  nodes.filterMap fun n =>
    let f := factorOf fs n.idx
    let size := n.size
    if n.isSegred then
      let g := factorOf fs (n.sa.getD 0)
      let len := size * n.va.toNat
      some ⟨n.idx, first / f, min (last / f) size, min (first / g) len, min (last / g) len⟩
    else if main.contains n.idx then some ⟨n.idx, min (first / f) size, min (last / f) size, 0, 0⟩
    else none

/-- The own ranges of the nodes that serve an engine's unit, from the elements of its sources that the unit takes. -/
def engineOwn : List Node → List Own → List Own
  | [], os => os
  | n :: ns, os =>
    let r := engineOwn ns os
    match r.find? fun o => o.node == n.idx with
    | none => r
    | some o =>
      let add (r : List Own) (i lo hi : Nat) : List Own :=
        match r.find? fun o => o.node == i with
        | none => ⟨i, lo, hi, 0, 0⟩ :: r
        | some q => { q with lo := min q.lo lo, hi := max q.hi hi } :: r.filter fun o => o.node != i
      if n.isRoot || n.isBcast then r
      else if n.isSegred then
        let m := n.va.toNat
        { o with inLo := o.lo * m, inHi := o.hi * m } ::
          (n.srcs.foldl (fun r i => add r i (o.lo * m) (o.hi * m)) r).filter fun q => q.node != n.idx
      else n.srcs.foldl (fun r i => add r i o.lo o.hi) r

/-! ### What is left of a leaf or a root -/

/-- The ranges of a memory leaf or root from element `e` on. What lies contiguously, at a stride or in squares shrinks as
elements pass, and so do the indices of a VLDX, by the block its pass read; a VCST has written `c` elements. -/
def Node.rangesFrom (n : Node) (rs : List Rng) (e c : Nat) (blk : Option StreamBlock) : List Rng :=
  let b := n.va.toNat
  let from_ (ty : Nat) (strided : Bool) : List Rng :=
    if ty == 0xE then [Rng.span (b + 6 * e / 8) (packedBytes 0xE n.len - 6 * e / 8)]
    else
      let w := bytesOf ty
      let s : Int := if strided then n.vb.toInt else w
      [Rng.strided ((b : Int) + e * s).toNat s (n.len - e) w]
  let bits : List Rng := [Rng.span (b + e / 8) ((n.len + 7) / 8 - e / 8)]
  if n.known.isNone || e == 0 then rs
  else
    match n.instr with
    | some (.vld f) =>
      if f.ty.toNat == 0xF then
        let q := squaresFrom (slice n.vb 0 24).toNat (slice n.vb 24 24).toNat e n.len (bitAt f.fn 1)
        if e < n.len then [Rng.span (b + 64 * q.1) (64 * (q.2 + 1 - q.1))] else []
      else from_ f.ty.toNat (bitAt f.fn 0)
    | some (.vldx _) =>
      (match rs, blk with
        | r :: rs, some k => if e < n.len then ⟨k.ibase.toNat + e * bytesOf k.itype, r.hi⟩ :: rs else []
        | _, _ => rs)
    | some (.vst f) => from_ f.ty.toNat (bitAt f.fn 1)
    | some (.vforce f) => from_ f.ty.toNat false
    | some (.vcst f) => [Rng.span (b + c * bytesOf f.ty.toNat) ((n.len - e) * bytesOf f.ty.toNat)]
    | some (.vkld _) | some (.vkst _) => bits
    | _ => rs

/-! ### The first elements still needed (R151, R193) -/

/-- Element `e` of a node, and what follows it, is needed. -/
def needFrom (q : List (Nat × Nat)) (i : Option Nat) (e : Nat) : List (Nat × Nat) :=
  match i with
  | none => q
  | some i =>
    match q.find? fun u => u.1 == i with
    | some u => if u.2 ≤ e then q else (i, e) :: q.filter fun v => v.1 != i
    | none => (i, e) :: q

/-- R225: the first source element that a VBCAST of `n` elements still needs from element `e` on, those kept apart. -/
def bcastFrom (rep : Bool) (n m e : Nat) (have_ : List Nat) : Option Nat :=
  if n ≤ e || m == 0 then none
  else if rep then
    let all := if m ≤ n - e then List.range m else (List.range' e (n - e)).map fun i => i % m
    (all.filter fun i => !have_.contains i).foldl (fun r i => some (r.elim i (min i))) none
  else
    let i := e / (n / m)
    if !have_.contains i then some i else if i + 1 < m then some (i + 1) else none

/-- What a node, of which the elements from one on are needed, still needs of its sources. -/
def Group.lowNode (g : Group) (bs : List Back) (q : List (Nat × Nat)) (n : Node) : List (Nat × Nat) :=
  let low := (q.find? fun u => u.1 == n.idx).map Prod.snd
  match n.instr with
  | some (.vslide f) =>
    low.elim q fun e =>
      let q1 := needFrom q n.sa ((e : Int) + f.imm.toInt).toNat
      if n.sk.isSome then needFrom (needFrom q1 n.sk e) n.sa e else q1
  | some (.vbcast f) =>
    let kept := ((keptOf bs n.idx).map fun b => b.vals.map fun v => v.1).getD []
    (low.bind fun e => bcastFrom (f.fnAt 0 1 == 0) n.size n.va.toNat e kept).elim q fun i => needFrom q n.sa i
  | some (.vscan _) =>
    let e := if low.any fun e => e < g.keptFrom bs n.idx then 0 else g.nextOf bs n.idx
    needFrom (needFrom q n.sa e) n.sk e
  | some (.vsegred _) =>
    let i := (g.own? n.idx).elim 0 fun o => o.inLo
    needFrom q n.sa ((low.filter fun e => e < g.keptFrom bs n.idx).elim i fun e => min i (e * n.va.toNat))
  | _ => low.elim q fun e => n.srcs.foldl (fun q i => needFrom q (some i) e) q

/-- The first element of each node that is still needed: a node's consumers stand after it. -/
def Group.lows (g : Group) (bs : List Back) (wants : List (Nat × Nat)) : List (Nat × Nat) :=
  g.nodes.reverse.foldl (fun q n => g.lowNode bs q n) wants

/-- What the leaves of a group still read. -/
def Group.leavesLeft (g : Group) (bs : List Back) (wants : List (Nat × Nat)) : List Rng :=
  let lows := g.lows bs wants
  g.nodes.flatMap fun n =>
    if !n.isMemLeaf then []
    else
      match lows.find? fun u => u.1 == n.idx with
      | some u => n.rangesFrom n.reads u.2 0 ((g.blocks.find? fun b => b.1 == n.idx).map Prod.snd)
      | none => []

/-! ### What is left of passes and operations -/

/-- R151: what a pass has not yet read and written. One that serves an engine reads for its operation. -/
def Thread.passLeft (t : Thread) (p : Pass) : List Rng × List Rng :=
  if p.serves.isSome then ([], [])
  else
    let ns := t.rcp.reach p.roots
    let g : Group := ⟨ns, passOwn ns p.roots p.start p.start, p.blocks⟩
    let roots := ns.filter fun n => p.roots.contains n.idx
    let at_ (n : Node) : Nat := (g.own? n.idx).elim 0 fun o => o.lo
    let wants := roots.foldl (fun q n => if p.treeOnly || n.size ≤ at_ n then q else
      n.srcs.foldl (fun q i => needFrom q (some i) (at_ n)) q) []
    let count (n : Node) : Nat :=
      (((p.carries.find? fun (c : Carry) => c.node == n.idx).bind fun (c : Carry) => (c.lanes[0]?).getD none).getD 0).toNat
    (if p.treeOnly then [] else g.leavesLeft p.back wants, roots.flatMap fun n => n.rangesFrom n.writes (at_ n) (count n) none)

/-- SSINFO.NM1 plus 1 (R279). -/
def ssN (w : W64) : Nat := (slice w 46 7).toNat + 1
/-- SSINFO.PM1 plus 1. -/
def ssP (w : W64) : Nat := (slice w 39 7).toNat + 1

/-- R324: the indices a CPYX has read once `p` bytes of its rows are written. -/
def rowsBegun (p esize : Nat) : Nat := (p + esize - 1) / max 1 esize

/-- R151: what a started engine operation has not yet read and written, its recipe apart. A copy that touches DEV pages
writes the rest of its one unit at its end (R316). -/
def Op.left (o : Op) : List Rng × List Rng :=
  if o.prog == 0 || o.dev then (o.e.reads, o.e.writes)
  else
    match decodeOpc o.e.word, o.block with
    | some (.cpyx f), some b =>
      ([b.readsFrom (!bitAt f.fn 0) o.e.len (rowsBegun o.prog b.esize)], (o.e.left o.e.len o.prog).2)
    | _, _ => o.e.left o.e.len o.prog

/-- R151: from which element on an operation still takes each source of its root. -/
def Thread.takesFrom (t : Thread) (o : Op) (r : Node) : List (Nat × Nat) :=
  let w := t.sr.ssinfo
  if o.n ≤ o.prog then []
  else
    match decodeOpc o.e.word with
    | some (.mopa _) | some (.mops _) | some (.mopt _) => (r.sa.toList ++ r.sb.toList).map fun i => (i, 128 * o.prog)
    | some (.sscan _) | some (.ssstep _) =>
      [(r.sa, o.prog * ssP w), (r.sb, o.prog), (r.sc, o.prog * ssN w), (r.sk, o.prog * ssN w)].foldl
        (fun q u => needFrom q u.1 u.2) []
    | some (.cpyx _) => r.sa.toList.map fun i => (i, rowsBegun o.prog ((o.block.map fun b => b.esize).getD 1))
    | _ => r.srcs.map fun i => (i, 0)

/-- R151: what the recipe of a started operation has not yet read. -/
def Thread.recipeLeft (t : Thread) (o : Op) : List Rng :=
  match o.e.node with
  | none => []
  | some i =>
    match t.rcp.node? i with
    | none => []
    | some r =>
      let ns := (t.rcp.reach [i]).filter fun n => n.idx != i
      let wants := t.takesFrom o r
      let p := t.dsp.passes.find? fun p => p.serves.isSome && p.seq == o.e.seq
      let g : Group := ⟨ns, engineOwn ns (wants.map fun u => ⟨u.1, u.2, u.2, 0, 0⟩), (p.map fun p => p.blocks).getD []⟩
      g.leavesLeft ((p.map fun p => p.back).getD []) wants

/-- R151: what a started operation has not yet read and written. A scan writes y step by step (R286). -/
def Thread.opLeft (t : Thread) (o : Op) : List Rng × List Rng :=
  (o.left.1 ++ t.recipeLeft o,
    match decodeOpc o.e.word with
    | some (.sscan f) | some (.ssstep f) =>
      o.left.2.map fun r => ⟨max r.lo (o.e.b.toNat + o.prog * ssP t.sr.ssinfo * bytesOf f.ty.toNat), r.hi⟩
    | _ => o.left.2)

end Sys2Proof.Machine
end

