-- ==== Sys2Proof/Machine/Scalar.lean ====
section
/-! DEFINITION. Machine/Scalar.lean: integer, bit-field and floating-point words (R139 to R147), branches, jumps and
LOOP (R152 to R155), and WAITLT (R157). -/

namespace Sys2Proof.Machine

/-! ### Integer values -/

/-- R36: a result held to the range of signed 64-bit integers. -/
def satSigned (v : Int) : W64 := BitVec.ofNat 64 (storeInt 6 true v)

/-- R36: a result held to the range of unsigned 64-bit integers. -/
def satUnsigned (v : Int) : W64 := BitVec.ofNat 64 (storeInt 7 true v)

/-- R139: ADD by its FN[1:0]. -/
def addVal (fn : Nat) (x y : W64) : W64 :=
  match fn with
  | 0 => x + y
  | 1 => satSigned (x.toInt + y.toInt)
  | _ => satUnsigned ((x.toNat : Int) + y.toNat)

/-- R139: SUB by its FN[1:0]. -/
def subVal (fn : Nat) (x y : W64) : W64 :=
  match fn with
  | 0 => x - y
  | 1 => satSigned (x.toInt - y.toInt)
  | _ => satUnsigned ((x.toNat : Int) - y.toNat)

/-- R139: the shift count of xB[5:0]. -/
def shiftCount (y : W64) : Nat := (slice y 0 6).toNat

/-- R139: MULH by its FN[1:0]: the high half of the 128-bit product. -/
def mulhVal (fn : Nat) (x y : W64) : W64 :=
  match fn with
  | 0 => slice (x.signExtend 128 * y.signExtend 128) 64 64
  | 1 => slice (x.setWidth 128 * y.setWidth 128) 64 64
  | _ => slice (x.signExtend 128 * y.setWidth 128) 64 64

/-- R140: DIV, signed or unsigned. -/
def divVal (uns : Bool) (x y : W64) : W64 :=
  if y == 0 then 0xFFFFFFFFFFFFFFFF else if uns then x / y else x.sdiv y

/-- R140: REM, signed or unsigned. -/
def remVal (uns : Bool) (x y : W64) : W64 :=
  if y == 0 then x else if uns then x % y else x.srem y

/-- R139: SLT. -/
def sltVal (uns : Bool) (x y : W64) : W64 := if (if uns then x.ult y else x.slt y) then 1 else 0

/-- R139: MINMAX by its FN[1:0]. -/
def minmaxVal (fn : Nat) (x y : W64) : W64 :=
  match fn with
  | 0 => if x.slt y then x else y
  | 1 => if y.slt x then x else y
  | 2 => if x.ult y then x else y
  | _ => if y.ult x then x else y

/-- The number of set bits among the lowest `n`. -/
def popCount (x : W64) : Nat → Nat
  | 0 => 0
  | n + 1 => popCount x n + (if bitAt x n then 1 else 0)

/-- The number of clear bits below the lowest set one. -/
def ctzCount (x : W64) : Nat := ((List.range 64).find? fun i => bitAt x i).getD 64

/-- R139: BITCNT by its FN[1:0]. -/
def bitcntVal (fn : Nat) (x : W64) : W64 :=
  match fn with
  | 0 => BitVec.ofNat 64 (popCount x 64)
  | 1 => BitVec.ofNat 64 (64 - bitLen x.toNat)
  | _ => BitVec.ofNat 64 (ctzCount x)

/-! ### Integer words -/

/-- R139: ADD. -/
def execAdd (f : FX) (s : State) : Host.Outcome State Fault Refusal :=
  s.settle (s.finish f.d (addVal (f.fnAt 0 2) (s.x f.a) (s.x f.b)))

/-- R139: SUB. -/
def execSub (f : FX) (s : State) : Host.Outcome State Fault Refusal :=
  s.settle (s.finish f.d (subVal (f.fnAt 0 2) (s.x f.a) (s.x f.b)))

/-- R139: AND. -/
def execAnd (f : FX) (s : State) : Host.Outcome State Fault Refusal := s.settle (s.finish f.d (s.x f.a &&& s.x f.b))

/-- R139: OR. -/
def execOr (f : FX) (s : State) : Host.Outcome State Fault Refusal := s.settle (s.finish f.d (s.x f.a ||| s.x f.b))

/-- R139: XOR. -/
def execXor (f : FX) (s : State) : Host.Outcome State Fault Refusal := s.settle (s.finish f.d (s.x f.a ^^^ s.x f.b))

/-- R139: SHL. -/
def execShl (f : FX) (s : State) : Host.Outcome State Fault Refusal :=
  s.settle (s.finish f.d (s.x f.a <<< shiftCount (s.x f.b)))

/-- R139: SHR. -/
def execShr (f : FX) (s : State) : Host.Outcome State Fault Refusal :=
  s.settle (s.finish f.d (s.x f.a >>> shiftCount (s.x f.b)))

/-- R139: SRA. -/
def execSra (f : FX) (s : State) : Host.Outcome State Fault Refusal :=
  s.settle (s.finish f.d ((s.x f.a).sshiftRight (shiftCount (s.x f.b))))

/-- R139: MUL. -/
def execMul (f : FX) (s : State) : Host.Outcome State Fault Refusal := s.settle (s.finish f.d (s.x f.a * s.x f.b))

/-- R139: MULH. -/
def execMulh (f : FX) (s : State) : Host.Outcome State Fault Refusal :=
  s.settle (s.finish f.d (mulhVal (f.fnAt 0 2) (s.x f.a) (s.x f.b)))

/-- R140: DIV. -/
def execDiv (f : FX) (s : State) : Host.Outcome State Fault Refusal :=
  s.settle (s.finish f.d (divVal (bitAt f.fn 0) (s.x f.a) (s.x f.b)))

/-- R140: REM. -/
def execRem (f : FX) (s : State) : Host.Outcome State Fault Refusal :=
  s.settle (s.finish f.d (remVal (bitAt f.fn 0) (s.x f.a) (s.x f.b)))

/-- R139: SLT. -/
def execSlt (f : FX) (s : State) : Host.Outcome State Fault Refusal :=
  s.settle (s.finish f.d (sltVal (bitAt f.fn 0) (s.x f.a) (s.x f.b)))

/-- R139: MINMAX. -/
def execMinmax (f : FX) (s : State) : Host.Outcome State Fault Refusal :=
  s.settle (s.finish f.d (minmaxVal (f.fnAt 0 2) (s.x f.a) (s.x f.b)))

/-- R139: BITCNT. -/
def execBitcnt (f : FX) (s : State) : Host.Outcome State Fault Refusal :=
  s.settle (s.finish f.d (bitcntVal (f.fnAt 0 2) (s.x f.a)))

/-- R141: the immediate, sign-extended. -/
def immJ (f : FJ) : W64 := f.imm.signExtend 64

/-- R141: ADDI. -/
def execAddi (f : FJ) (s : State) : Host.Outcome State Fault Refusal := s.settle (s.finish f.d (s.x f.a + immJ f))

/-- R141: ANDI. -/
def execAndi (f : FJ) (s : State) : Host.Outcome State Fault Refusal := s.settle (s.finish f.d (s.x f.a &&& immJ f))

/-- R141: ORI. -/
def execOri (f : FJ) (s : State) : Host.Outcome State Fault Refusal := s.settle (s.finish f.d (s.x f.a ||| immJ f))

/-- R141: XORI. -/
def execXori (f : FJ) (s : State) : Host.Outcome State Fault Refusal := s.settle (s.finish f.d (s.x f.a ^^^ immJ f))

/-- R141: the shift count IMM[5:0]. -/
def countJ (f : FJ) : Nat := (slice f.imm 0 6).toNat

/-- R141: SHLI. -/
def execShli (f : FJ) (s : State) : Host.Outcome State Fault Refusal := s.settle (s.finish f.d (s.x f.a <<< countJ f))

/-- R141: SHRI. -/
def execShri (f : FJ) (s : State) : Host.Outcome State Fault Refusal := s.settle (s.finish f.d (s.x f.a >>> countJ f))

/-- R141: SRAI. -/
def execSrai (f : FJ) (s : State) : Host.Outcome State Fault Refusal :=
  s.settle (s.finish f.d ((s.x f.a).sshiftRight (countJ f)))

/-- R141: LUI. -/
def execLui (f : FJ) (s : State) : Host.Outcome State Fault Refusal := s.settle (s.finish f.d (immJ f <<< 32))

/-- R141: SLTI. -/
def execSlti (f : FJ) (s : State) : Host.Outcome State Fault Refusal :=
  s.settle (s.finish f.d (sltVal false (s.x f.a) (immJ f)))

/-- R141: AUIPC. -/
def execAuipc (f : FJ) (s : State) : Host.Outcome State Fault Refusal :=
  s.settle (s.finish f.d (s.th.pc + (immJ f <<< 3)))

/-! ### Bit fields and select (R142) -/

/-- R142: the low `n` bits set. -/
def lowMask (n : Nat) : W64 := BitVec.ofNat 64 (2 ^ n - 1)

/-- R142: the `w` bits of `x` from `pos` up, sign- or zero-extended. -/
def extVal (pos w : Nat) (sgn : Bool) (x : W64) : W64 :=
  let field := (x >>> pos) &&& lowMask w
  if sgn && bitAt field (w - 1) then field ||| ~~~lowMask w else field

/-- R142: `x` placed in the `w` bits of `old` from `pos` up. -/
def insVal (pos w : Nat) (old x : W64) : W64 :=
  (old &&& ~~~(lowMask w <<< pos)) ||| ((x &&& lowMask w) <<< pos)

/-- R142: CSEL. -/
def execCsel (f : FX) (s : State) : Host.Outcome State Fault Refusal :=
  s.settle (s.finish f.d (if s.x f.c != 0 then s.x f.a else s.x f.b))

/-- R142: EXT. -/
def execExt (f : FX) (s : State) : Host.Outcome State Fault Refusal :=
  s.settle (s.finish f.d (extVal (f.fnAt 0 6) (f.fnAt 6 6 + 1) (bitAt f.fn 12) (s.x f.a)))

/-- R142: INS. -/
def execIns (f : FX) (s : State) : Host.Outcome State Fault Refusal :=
  s.settle (s.finish f.d (insVal (f.fnAt 0 6) (f.fnAt 6 6 + 1) (s.x f.d) (s.x f.a)))

/-! ### Scalar floating point (R143 to R147) -/

/-- What a scalar floating-point word computes: the register value and the flags it raises. -/
structure FpRes where
  val : W64
  flags : Flags
  deriving DecidableEq, Repr

/-- R130: a rounded result as it stands in a register. -/
def Rounded.fp (ty : Nat) (r : Rounded) : FpRes := ⟨extendTo64 ty r.bits, r.flags⟩

/-- R130: the value of a register read as a type. -/
def regVal (ty : Nat) (x : W64) : Val := valueOf ty (maskBits ty x.toNat)

/-- R45, R143: a scalar floating-point word completes, or traps before any of its effect. -/
def State.finishFp (s : State) (r : BitVec 6) (v : FpRes) : Issue :=
  if enabledFlags s.fctrl v.flags != 0 then Issue.fault causeFp
  else .done ((s.raiseFlags v.flags).setX r v.val).retire

/-- R144: FADD. -/
def faddVal (ty : Nat) (fctrl : BitVec 13) (neg : Bool) (x y : W64) : FpRes :=
  let r := arithRounding fctrl
  let v := addNum r.rm (regVal ty x) ((regVal ty y).flip neg)
  (arith ty r v.1 v.2).fp ty

/-- R144: FMUL. -/
def fmulVal (ty : Nat) (fctrl : BitVec 13) (x y : W64) : FpRes :=
  let v := mulNum (regVal ty x) (regVal ty y)
  (arith ty (arithRounding fctrl) v.1 v.2).fp ty

/-- R144: FFMA. -/
def ffmaVal (ty : Nat) (fctrl : BitVec 13) (np nc : Bool) (x y z : W64) : FpRes :=
  let r := arithRounding fctrl
  let v := fmaNum r.rm ((regVal ty x).flip np) (regVal ty y) ((regVal ty z).flip nc)
  (arith ty r v.1 v.2).fp ty

/-- R144: FDIV. -/
def fdivVal (ty : Nat) (fctrl : BitVec 13) (x y : W64) : FpRes :=
  let v := divNum (regVal ty x) (regVal ty y)
  (arith ty (arithRounding fctrl) v.1 v.2).fp ty

/-- R144: FSQRT. -/
def fsqrtVal (ty : Nat) (fctrl : BitVec 13) (x : W64) : FpRes :=
  let v := sqrtNum (regVal ty x)
  (arith ty (arithRounding fctrl) v.1 v.2).fp ty

/-- R144: FMINMAX. -/
def fminmaxVal (ty : Nat) (isMax : Bool) (x y : W64) : FpRes :=
  let v := minMaxBits ty isMax (maskBits ty x.toNat) (maskBits ty y.toNat)
  ⟨extendTo64 ty v.1, v.2⟩

/-- R144: the rounding direction FRND's FN[2:0] selects. -/
def frndRm (sel : Nat) (fctrl : BitVec 13) : Nat :=
  match sel with
  | 0 => 0
  | 1 => 1
  | 2 => 2
  | 3 => 3
  | _ => (slice fctrl 0 2).toNat

/-- R144: FRND. -/
def frndVal (ty : Nat) (fctrl : BitVec 13) (sel : Nat) (raise : Bool) (x : W64) : FpRes :=
  (roundIntegral ty (frndRm sel fctrl) raise (maskBits ty x.toNat)).fp ty

/-- R145, R218: a comparison of two values by predicate: eq, lt, le, un, ne. -/
def compareVal (pred : Nat) (a b : Val) : Bool × Flags :=
  let nan : Bool := a.isNan || b.isNan
  let quiet := sigFlag [a, b]
  match pred with
  | 0 => (eqNum a b, quiet)
  | 1 => (!nan && ltNum a b, flagIf nan flagIv)
  | 2 => (!nan && (ltNum a b || eqNum a b), flagIf nan flagIv)
  | 3 => (nan, quiet)
  | _ => (!eqNum a b, quiet)

/-- R145: FCMP. -/
def fcmpVal (ty pred : Nat) (x y : W64) : FpRes :=
  let c := compareVal pred (regVal ty x) (regVal ty y)
  ⟨if c.1 then 1 else 0, c.2⟩

/-- R146: FCVT. -/
def fcvtVal (ty src : Nat) (fctrl : BitVec 13) (rseed x y : W64) : FpRes :=
  (convertBits ty src (convRounding fctrl rseed (slice y 0 48).toNat) (maskBits src x.toNat)).fp ty

/-- R147: FCLASS. -/
def fclassVal (ty : Nat) (x : W64) : W64 := BitVec.ofNat 64 (2 ^ classOf ty (maskBits ty x.toNat))

/-- R144: FADD. -/
def execFadd (f : FX) (s : State) : Host.Outcome State Fault Refusal :=
  s.settle (s.finishFp f.d (faddVal f.ty.toNat s.fctrl (bitAt f.fn 0) (s.x f.a) (s.x f.b)))

/-- R144: FMUL. -/
def execFmul (f : FX) (s : State) : Host.Outcome State Fault Refusal :=
  s.settle (s.finishFp f.d (fmulVal f.ty.toNat s.fctrl (s.x f.a) (s.x f.b)))

/-- R144: FFMA. -/
def execFfma (f : FX) (s : State) : Host.Outcome State Fault Refusal :=
  s.settle (s.finishFp f.d
    (ffmaVal f.ty.toNat s.fctrl (bitAt f.fn 0) (bitAt f.fn 1) (s.x f.a) (s.x f.b) (s.x f.c)))

/-- R144: FDIV. -/
def execFdiv (f : FX) (s : State) : Host.Outcome State Fault Refusal :=
  s.settle (s.finishFp f.d (fdivVal f.ty.toNat s.fctrl (s.x f.a) (s.x f.b)))

/-- R144: FSQRT. -/
def execFsqrt (f : FX) (s : State) : Host.Outcome State Fault Refusal :=
  s.settle (s.finishFp f.d (fsqrtVal f.ty.toNat s.fctrl (s.x f.a)))

/-- R144: FMINMAX. -/
def execFminmax (f : FX) (s : State) : Host.Outcome State Fault Refusal :=
  s.settle (s.finishFp f.d (fminmaxVal f.ty.toNat (bitAt f.fn 0) (s.x f.a) (s.x f.b)))

/-- R144: FRND. -/
def execFrnd (f : FX) (s : State) : Host.Outcome State Fault Refusal :=
  s.settle (s.finishFp f.d (frndVal f.ty.toNat s.fctrl (f.fnAt 0 3) (bitAt f.fn 3) (s.x f.a)))

/-- R145: FCMP. -/
def execFcmp (f : FX) (s : State) : Host.Outcome State Fault Refusal :=
  s.settle (s.finishFp f.d (fcmpVal f.ty.toNat (f.fnAt 0 3) (s.x f.a) (s.x f.b)))

/-- R146: FCVT. -/
def execFcvt (f : FX) (s : State) : Host.Outcome State Fault Refusal :=
  s.settle (s.finishFp f.d (fcvtVal f.ty.toNat (f.fnAt 0 4) s.fctrl s.th.sr.rseed (s.x f.a) (s.x f.b)))

/-- R147: FCLASS. -/
def execFclass (f : FX) (s : State) : Host.Outcome State Fault Refusal :=
  s.settle (s.finish f.d (fclassVal f.ty.toNat (s.x f.a)))

/-! ### Branches, jumps and LOOP -/

/-- R155: a taken control transfer ends the poll run of a LOOP at any other address. -/
def State.endPoll (s : State) : State :=
  { s with th.fe.poll := s.th.fe.poll.bind fun p => if p.pc == s.th.pc then some p else none }

/-- A taken control transfer. -/
def State.take (s : State) (target : W64) : State := s.endPoll.jump target

/-- R152: BR's conditions, CND 0 to 6. -/
def brTaken (cnd : Nat) (x y : W64) : Bool :=
  match cnd with
  | 0 => x == y
  | 1 => x != y
  | 2 => x.slt y
  | 3 => !x.slt y
  | 4 => x.ult y
  | 5 => !x.ult y
  | _ => true

/-- R152: the target PC + 8·OFS. -/
def State.branchTarget (s : State) (f : FB) : W64 := s.th.pc + (f.ofs.signExtend 64 <<< 3)

/-- R152: BR. -/
def execBr (f : FB) (s : State) : Host.Outcome State Fault Refusal :=
  s.settle (.done (if brTaken f.cnd.toNat (s.x5 f.a) (s.x5 f.b) then s.take (s.branchTarget f) else s.retire))

/-- R153: JAL. -/
def execJal (f : FJ) (s : State) : Host.Outcome State Fault Refusal :=
  s.settle (.done ((s.setX f.d (s.th.pc + 8)).take (s.th.pc + (immJ f <<< 3))))

/-- R153: JALR; a target that is not word-aligned faults with nothing written. -/
def execJalr (f : FJ) (s : State) : Host.Outcome State Fault Refusal :=
  let t := s.x f.a + immJ f
  s.settle
    (if slice t 0 3 != 0 then .trap (TrapInfo.at causeMisaligned 0 t)
     else .done ((s.setX f.d (s.th.pc + 8)).take t))

/-- R154: LOOP's poll forms, CND 1 to 3. -/
def pollTaken (cnd : Nat) (x y : W64) : Bool :=
  match cnd with
  | 1 => x == y
  | 2 => x != y
  | _ => x &&& y == 0

/-- R155: a taken poll-form LOOP: it starts or continues its run, faults when the run's budget is passed, and keeps the
thread not ready for 16 cycles. -/
def State.pollAgain (s : State) (target : W64) : Issue :=
  let run : Poll := match s.th.fe.poll with
    | some p => if p.pc == s.th.pc then p else ⟨s.th.pc, s.now, s.budget⟩
    | none => ⟨s.th.pc, s.now, s.budget⟩
  if run.budget < s.now - run.since || run.budget == 0 then Issue.fault causeTimeout
  else .done { s.jump target with th.fe.poll := some run, th.fe.backoff := some (s.now + 16) }

/-- R155: a LOOP that falls through ends its poll run. -/
def State.fallThrough (s : State) : State :=
  { s.retire with
    th.fe.poll := s.th.fe.poll.bind fun p => if p.pc == s.th.pc then none else some p }

/-- R154: LOOP. -/
def execLoop (f : FB) (s : State) : Host.Outcome State Fault Refusal :=
  if f.cnd == 0 then
    let v := s.x5 f.a - 1
    let s1 := s.setX (f.a.setWidth 6) v
    s.settle (.done (if v != 0 then s1.take (s.branchTarget f) else s1.retire))
  else if pollTaken f.cnd.toNat (s.x5 f.a) (s.x5 f.b) then s.settle (s.pollAgain (s.branchTarget f))
  else s.settle (.done s.fallThrough)

/-! ### WAITLT and NOP -/

/-- R157: WAITLT, counter D below IMM. -/
def execWaitlt (f : FJ) (s : State) : Host.Outcome State Fault Refusal :=
  s.settle
    (if f.imm == 0 then Issue.fault causeUnreleasable
     else if (s.th.cc[f.d.toNat]?.getD 0).toNat < f.imm.toNat then .done s.retire
     else .wait .counter false 0)

/-- R173: NOP. -/
def execNop (_f : FJ) (s : State) : Host.Outcome State Fault Refusal := s.settle (.done s.retire)

end Sys2Proof.Machine
end

