-- ==== Sys2Proof/Machine/LoadStore.lean ====
section
/-! DEFINITION. Machine/LoadStore.lean: what an S-agent access meets in the ARIT (R151), the checks of an access in
their order (R149), posted stores (R150), and LD, ST, LDPAIR and STPAIR (R148). -/

namespace Sys2Proof.Machine

/-! ### The ARIT as an S-agent access meets it (R151) -/

/-- What the table of R151 says of an access. -/
inductive Meet where
  | go
  | stall
  | hazard
  deriving DecidableEq, Repr

/-- The arrival word a copy names (R327). -/
def Entry.arrival? (e : Entry) : Option W64 :=
  match decodeOpc e.word with
  | some (.cpy f) | some (.cpy2d f) | some (.cpyt f) | some (.cpyx f) | some (.cpyf f) | some (.cpyr f)
  | some (.cpypub f) => if f.fnAt 3 5 == 0 then none else some e.aw
  | _ => none

/-- Whether a copy's arrival word meets a range. -/
def Entry.arrivesAt (e : Entry) (r : Rng) : Bool := e.arrival?.elim false fun a => (Rng.span a.toNat 16).meets r

/-- R125, R318, R328: a copy of the thread that has started still has an arrival word there to update. -/
def Thread.arriving (t : Thread) (r : Rng) : Bool := t.dsp.ops.any fun o => o.e.arrivesAt r

/-- R151, R196: the queued roots whose launch has forced their leaves: those that wait for no length. One whose slots are
unfilled leaves its leaves pending (log entry 14). -/
def Thread.forcedRoots (t : Thread) : List Nat :=
  t.queuedRoots.filter fun i => (t.rcp.reach [i]).all fun n => n.known.isSome

/-- R151: an access against the thread's ARIT. Work that a deferred fault has stopped keeps its ranges until it goes on
or is abandoned (R389, log entry 15). The arrival word of a started copy is met as a write is (R125). -/
def Thread.meetArit (t : Thread) (r : Rng) (store late : Bool) : Meet :=
  let queued := t.rcp.reach t.forcedRoots
  let started := t.dsp.passes.flatMap fun p => p.roots
  let read := t.rcp.reach (started ++ t.dsp.ops.filterMap fun o => o.e.node)
  let forced := (read ++ queued).map fun n => n.idx
  let pendingLeaf := t.rcp.nodes.any fun n => n.isMemLeaf && !forced.contains n.idx && r.meetsAny n.reads
  let passes := t.dsp.passes.map t.passLeft
  let ops := t.dsp.ops.map t.opLeft
  let queuedReads := queued.any (fun n => n.isMemLeaf && r.meetsAny n.reads) || t.dsp.queue.any fun e => r.meetsAny e.reads
  let rootWrites := t.rcp.nodes.any fun n => n.isRoot && !started.contains n.idx && r.meetsAny n.writes
  let queuedWrites := t.dsp.queue.any fun e => r.meetsAny e.writes
  if store && !late && pendingLeaf then .hazard
  else if rootWrites || queuedWrites || (passes ++ ops).any (fun u => r.meetsAny u.2) || t.arriving r then .stall
  else if store && (queuedReads || (passes ++ ops).any fun u => r.meetsAny u.1) then .stall
  else .go

/-! ### The checks of an access (R149) -/

/-- R149 checks 1 to 5, in order, for `n` bytes at an address. -/
def State.sCheck (s : State) (kind : Nat) (va : W64) (n : Nat) : Except Issue (Xl × State) :=
  if va.toNat % n != 0 then .error (.trap (TrapInfo.at causeMisaligned kind va))
  else
    match s.check s.th.smode kind va n with
    | .error e => .error (e.issue va kind)
    | .ok c =>
      if kind != accRead && leafSd c.1.leaf then .error (.trap (TrapInfo.at causeSqPartial kind va)) else .ok c

/-- R300: a page an atomic is accepted on, SD apart. -/
def atomicPage (e : W64) : Bool := leafCls e != clsRshr && leafCls e != clsDev && !leafVer e

/-- R300, R302: the checks of an atomic, as R149 orders them. -/
def State.atomicCheck (s : State) (va : W64) (n : Nat) : Except Issue (Xl × State) :=
  if va.toNat % n != 0 then .error (.trap (TrapInfo.at causeMisaligned accAtomic va))
  else
    match s.check s.th.smode accAtomic va n with
    | .error e => .error (e.issue va accAtomic)
    | .ok c =>
      if !atomicPage c.1.leaf then .error (.trap (TrapInfo.at causeDataAccess accAtomic va))
      else if leafSd c.1.leaf then .error (.trap (TrapInfo.at causeSqPartial accAtomic va))
      else .ok c

/-- R149 checks 1 to 6: an access that may be performed, and the state once it is translated. -/
def State.sAccess (s : State) (kind : Nat) (late : Bool) (va : W64) (n : Nat) : Except Issue (Xl × State) :=
  match s.sCheck kind va n with
  | .error i => .error i
  | .ok c =>
    match s.th.meetArit (Rng.span va.toNat n) (kind != accRead) late with
    | .hazard => .error (.trap (TrapInfo.at causeHazard kind va))
    | .stall => .error (.wait .drain false 0)
    | .go => .ok c

/-- A posted store on a DEV page. -/
def Posted.dev (p : Posted) : Bool := leafCls p.leaf == clsDev

/-- R105, R125: an earlier posted store that a later access of the thread must follow. -/
def Posted.blocks (p : Posted) (va n : Nat) (dev : Bool) : Bool :=
  (Rng.span p.va p.bytes.length).meets (Rng.span va n) || (p.dev && dev)

/-- R105, R319: a copy of the thread that goes by DEV accesses has started and is not over. -/
def Thread.devCopying (t : Thread) : Bool := t.dsp.ops.any fun o => o.dev

/-- R105, R125: a load comes after earlier posted stores it overlaps, and on a DEV page after every earlier DEV access. -/
def Thread.loadWaits (t : Thread) (va n : Nat) (dev : Bool) : Bool :=
  t.fe.posted.any (fun p => p.blocks va n dev) || (dev && t.devCopying)

/-- R369, R379: a load's request stands on the link, and its counts are not taken, until its data has returned; what the
access has sent since `before` is its own. -/
def State.onLink (s : State) (before : State) : State :=
  if s.link.txseq == before.link.txseq then s
  else
    { s with
      link := { s.link with out := s.link.out ++ [(⟨s.link.txseq, .load s.th.hw⟩ : LinkOut)] : Link }.acked
      owed := s.owed.map fun o => if before.owedNext ≤ o.no then { o with load := some s.th.hw } else o }

/-- A load's access: it follows earlier overlapping accesses, waits for its resource, and reads (R122). `stands` tells whether
its request is then outstanding until its data returns. -/
def State.sLoad (s : State) (stands : Bool) (va : W64) (n : Nat) : Except Issue (List Byte × State) :=
  match s.sAccess accRead false va n with
  | .error i => .error i
  | .ok (x, s1) =>
    let dev : Bool := leafCls x.leaf == clsDev
    if s.th.loadWaits va.toNat n dev then .error (.wait .drain false 0)
    else
      let h := s1.held dev x.pa n
      if h.1 then .error (.wait .drain false 0)
      else
        let r : Except Stop (List Byte × State) :=
          if n == 16 && dev then
            match h.2.load accRead x va 8 with
            | .error e => .error e
            | .ok a =>
              match a.2.load accRead { x with pa := x.pa + 8 } (va + 8) 8 with
              | .error e => .error e
              | .ok b => .ok (a.1 ++ b.1, b.2)
          else h.2.load accRead x va n
        match r with
        | .error e => .error (e.issue va accRead)
        | .ok r => .ok (r.1, if stands then r.2.onLink h.2 else r.2)

/-- R150: the load's data is awaited; the thread issues nothing until LOAD_DATA_RETURN. -/
def State.blockLoad (s : State) (before : State) (va : W64) (acc : Nat) : State :=
  let old := (List.range 32).filterMap fun i =>
    if before.th.x i == s.th.x i then none else some (i, before.th.x i)
  { s with th.fe.loadWait := some ⟨before.th.pc, va, old, acc == accRead, acc, s.now, false⟩ }

/-- R150: a posted store enters the list of those not yet performed. -/
def State.addPosted (s : State) (p : Posted) : State := { s with th.fe.posted := s.th.fe.posted ++ [p] }

/-- R150: the number that orders posted stores. -/
def Front.nextPosted (f : Front) : Nat :=
  max (f.posted.foldl (fun m p => max m (p.seq + 1)) 0) (f.dropped.foldl (fun m d => max m (d.seq + 1)) 0)

/-- The record of a posted store. -/
def State.postedOf (s : State) (x : Xl) (va : W64) (bytes : List Byte) (kind : PostedKind) (release : Option Nat) :
    Posted :=
  { seq := s.th.fe.nextPosted, pc := s.th.pc, va := va.toNat, pa := x.pa, leafPa := x.leafPa, leaf := x.leaf,
    bytes := bytes, stepno := s.task.stepno, kind := kind, smode := s.th.smode,
    order := s.th.dsp.nextSeq, release := release, since := s.now }

/-- R148 to R150: a store of bytes at an address. With 32 posted the word is not ready. On a DEV page the two halves of a
pair are two accesses, and a store follows the DEV accesses of a copy that has started (R105). -/
def State.sStore (s : State) (late : Bool) (va : W64) (bytes : List Byte) (release : Option Nat) :
    Except Issue State :=
  if 32 ≤ s.th.fe.posted.length then .error (.wait .drain false 0)
  else
    match s.sAccess accWrite late va bytes.length with
    | .error i => .error i
    | .ok (x, s1) =>
      let dev : Bool := leafCls x.leaf == clsDev
      let two : Bool := bytes.length == 16 && dev
      if (dev && s.th.devCopying) || (two && 31 ≤ s.th.fe.posted.length) then .error (.wait .drain false 0)
      else if two then
        let s2 := s1.addPosted (s1.postedOf x va (bytes.take 8) .store release)
        .ok (s2.addPosted (s2.postedOf { x with pa := x.pa + 8 } (va + 8) (bytes.drop 8) .store release))
      else .ok (s1.addPosted (s1.postedOf x va bytes .store release))

/-! ### What holds an access back from its issue (R134) -/

/-- R151: an access of the thread in focus that passes its checks `c` and is then held by the ARIT. -/
def State.aritHolds (s : State) (late : Bool) (kind : Nat) (va : W64) (n : Nat) (c : Except Issue (Xl × State)) : Bool :=
  match c with
  | .ok _ => s.th.meetArit (Rng.span va.toNat n) (kind != accRead) late == .stall
  | .error _ => false

/-- R150: no further store can be posted: of a pair on a DEV page, not both. -/
def State.postsFull (s : State) (n : Nat) (c : Except Issue (Xl × State)) : Bool :=
  32 ≤ s.th.fe.posted.length || match c with
    | .ok (x, _) => n == 16 && leafCls x.leaf == clsDev && 31 ≤ s.th.fe.posted.length
    | .error _ => false

/-- R134: the word is stalled: by a load or a store held under R151, by the limit of R150, or by WAITLT (R157). A word
that releases first launches the pending roots, and R151 does not hold it ahead of that (R296, R302). -/
def State.stalled (s : State) (i : Instr) : Bool :=
  let load (f : FM) (n : Nat) : Bool := s.aritHolds false accRead (s.address f) n (s.sCheck accRead (s.address f) n)
  let store (f : FM) (n : Nat) : Bool :=
    let c := s.sCheck accWrite (s.address f) n
    s.postsFull n c || s.aritHolds (bitAt f.fn 0) accWrite (s.address f) n c
  let atomic (f : FM) (rel : Bool) : Bool :=
    let n := bytesOf f.ty.toNat
    !rel && s.aritHolds false accAtomic (s.address f) n (s.atomicCheck (s.address f) n)
  match i with
  | .ld f | .ldaq f => load f (bytesOf f.ty.toNat)
  | .ldpair f => load f 16
  | .st f => store f (bytesOf f.ty.toNat)
  | .stpair f => store f 16
  | .strl _ => 32 ≤ s.th.fe.posted.length
  | .amo f => atomic f (bitAt f.fn 4)
  | .cas f => atomic f (bitAt f.fn 1)
  | .amow f => 32 ≤ s.th.fe.posted.length || atomic f (bitAt f.fn 4)
  | .waitlt f => f.imm != 0 && f.imm.toNat ≤ (s.th.cc[f.d.toNat]?.getD 0).toNat
  | _ => false

/-! ### LD, ST, LDPAIR, STPAIR (R148) -/

/-- R148: LD. -/
def State.loadWord (s : State) (f : FM) : Issue :=
  match s.sLoad true (s.address f) (bytesOf f.ty.toNat) with
  | .error i => i
  | .ok (b, s1) => .done ((s1.setX f.d (extendTo64 f.ty.toNat (leNat b))).blockLoad s (s.address f) accRead).retire

def execLd (f : FM) (s : State) : Host.Outcome State Fault Refusal := s.settle (s.loadWord f)

/-- R148: ST. -/
def State.storeWord (s : State) (f : FM) (late : Bool) (release : Option Nat) : Issue :=
  match s.sStore late (s.address f) (leBytes (bytesOf f.ty.toNat) (s.x f.d).toNat) release with
  | .error i => i
  | .ok s1 => .done s1.retire

def execSt (f : FM) (s : State) : Host.Outcome State Fault Refusal :=
  s.settle (s.storeWord f (bitAt f.fn 0) none)

/-- R148: LDPAIR. -/
def State.loadPair (s : State) (f : FM) : Issue :=
  match s.sLoad true (s.address f) 16 with
  | .error i => i
  | .ok (b, s1) =>
    .done (((s1.setX f.d (BitVec.ofNat 64 (leNat (b.take 8)))).setX f.b
      (BitVec.ofNat 64 (leNat (b.drop 8)))).blockLoad s (s.address f) accRead).retire

def execLdpair (f : FM) (s : State) : Host.Outcome State Fault Refusal := s.settle (s.loadPair f)

/-- R148: STPAIR. -/
def State.storePair (s : State) (f : FM) : Issue :=
  match s.sStore (bitAt f.fn 0) (s.address f) (leBytes 8 (s.x f.d).toNat ++ leBytes 8 (s.x f.b).toNat) none with
  | .error i => i
  | .ok s1 => .done s1.retire

def execStpair (f : FM) (s : State) : Host.Outcome State Fault Refusal := s.settle (s.storePair f)

/-! ### Performing a posted store -/

/-- The translation a posted store was given. -/
def Posted.xl (p : Posted) : Xl := ⟨p.leafPa, p.leaf, p.pa⟩

/-- R125, R105: a posted store may be performed once every earlier one it must follow has been. -/
def Thread.postedFree (t : Thread) (p : Posted) : Bool :=
  !t.fe.posted.any fun q => q.seq < p.seq && q.blocks p.va p.bytes.length p.dev

end Sys2Proof.Machine
end

