-- ==== Sys2Proof/Machine/Registers.lean ====
section
/-! DEFINITION. Machine/Registers.lean: the x registers a word reads or writes, for readiness (R134). -/

namespace Sys2Proof.Machine

/-- The x register a slot's field names. -/
def slotRegs (s : Slot) : List (BitVec 6) :=
  let u := copUse s.cop
  (if u.1 == .x then [s.args.d] else []) ++ (if u.2 == .x then [s.args.a] else [])

/-- R317: the x register that holds the address of a copy's arrival word; x0 names none. -/
def arrivalReg (f : FM) : BitVec 6 := (slice f.fn 3 5).setWidth 6

/-- R134: the x registers an instruction names, as its format's fields give (R71). -/
def Instr.xNames : Instr → List (BitVec 6)
  | .add f => [f.d, f.a, f.b]
  | .sub f => [f.d, f.a, f.b]
  | .and f => [f.d, f.a, f.b]
  | .or f => [f.d, f.a, f.b]
  | .xor f => [f.d, f.a, f.b]
  | .shl f => [f.d, f.a, f.b]
  | .shr f => [f.d, f.a, f.b]
  | .sra f => [f.d, f.a, f.b]
  | .mul f => [f.d, f.a, f.b]
  | .mulh f => [f.d, f.a, f.b]
  | .div f => [f.d, f.a, f.b]
  | .rem f => [f.d, f.a, f.b]
  | .slt f => [f.d, f.a, f.b]
  | .minmax f => [f.d, f.a, f.b]
  | .bitcnt f => [f.d, f.a]
  | .addi f => [f.d, f.a]
  | .andi f => [f.d, f.a]
  | .ori f => [f.d, f.a]
  | .xori f => [f.d, f.a]
  | .shli f => [f.d, f.a]
  | .shri f => [f.d, f.a]
  | .srai f => [f.d, f.a]
  | .lui f => [f.d]
  | .slti f => [f.d, f.a]
  | .auipc f => [f.d]
  | .csel f => [f.d, f.a, f.b, f.c]
  | .ext f => [f.d, f.a]
  | .ins f => [f.d, f.a]
  | .fadd f => [f.d, f.a, f.b]
  | .fmul f => [f.d, f.a, f.b]
  | .ffma f => [f.d, f.a, f.b, f.c]
  | .fdiv f => [f.d, f.a, f.b]
  | .fcmp f => [f.d, f.a, f.b]
  | .fcvt f => [f.d, f.a, f.b]
  | .fminmax f => [f.d, f.a, f.b]
  | .fclass f => [f.d, f.a]
  | .ld f => [f.a.setWidth 6, f.d]
  | .st f => [f.a.setWidth 6, f.d]
  | .ldpair f => [f.a.setWidth 6, f.d, f.b]
  | .stpair f => [f.a.setWidth 6, f.d, f.b]
  | .br f => [f.a.setWidth 6, f.b.setWidth 6]
  | .jal f => [f.d]
  | .jalr f => [f.d, f.a]
  | .loop f => [f.a.setWidth 6, f.b.setWidth 6]
  | .fsqrt f => [f.d, f.a]
  | .frnd f => [f.d, f.a]
  | .mfs f => [f.d]
  | .mts f => [f.a]
  | .trap _ => []
  | .break _ => []
  | .rdcyc f => [f.d]
  | .setvl f => [f.d, f.a]
  | .waitlt _ => []
  | .nop _ => []
  | .fence _ => []
  | .slotq f => [f.d]
  | .slotgate f => [f.a, f.d]
  | .cacheop f => [f.a.setWidth 6, f.b]
  | .vadd _ => []
  | .vsub _ => []
  | .vmul _ => []
  | .vfma _ => []
  | .vdiv _ => []
  | .vmin _ => []
  | .vmax _ => []
  | .vunary _ => []
  | .vand _ => []
  | .vor _ => []
  | .vxor _ => []
  | .vshl _ => []
  | .vshr _ => []
  | .vcvt _ => []
  | .vcmp _ => []
  | .vsel _ => []
  | .vsfu _ => []
  | .vclass _ => []
  | .vrnd _ => []
  | .vadds f => [f.b]
  | .vmuls f => [f.b]
  | .vfmas f => [f.b]
  | .vmins f => [f.b]
  | .vmaxs f => [f.b]
  | .vshli _ => []
  | .vshri _ => []
  | .vcmps f => [f.b]
  | .vsplat f => [f.a]
  | .viota f => [f.a]
  | .vbcast f => [f.b]
  | .vslide _ => []
  | .vmov _ => []
  | .vld f => [f.a.setWidth 6, f.b]
  | .vldx f => [f.a.setWidth 6]
  | .vtread f => [f.b]
  | .vkld f => [f.a.setWidth 6]
  | .vst f => [f.a.setWidth 6, f.b]
  | .vstx f => [f.a.setWidth 6]
  | .vcst f => [f.a.setWidth 6]
  | .vkst f => [f.a.setWidth 6]
  | .vred f => [f.a.setWidth 6, f.b]
  | .vsegred f => [f.b]
  | .vscan _ => []
  | .vforce f => [f.b]
  | .vpass _ => []
  | .kop _ => []
  | .kpop _ => []
  | .vflags _ => []
  | .lqopPush f => [f.a]
  | .lqopPop f => [f.d]
  | .lqopDrop _ => []
  | .vmulh _ => []
  | .vpopc _ => []
  | .mopa f => [f.b]
  | .mops f => [f.b]
  | .mzero _ => []
  | .mscale _ => []
  | .maddt _ => []
  | .mtrn _ => []
  | .mtld f => [f.a, f.b]
  | .mtst f => [f.a, f.b]
  | .mpack f => [f.a, f.b]
  | .mtwr f => [f.b]
  | .mrred _ => []
  | .bload f => [f.a, f.b]
  | .bfromt f => [f.b]
  | .msave f => [f.a]
  | .mrest f => [f.a]
  | .mopt _ => []
  | .sscfg f => [f.a]
  | .sscan f => [f.b, f.c]
  | .ssstep f => [f.b, f.c]
  | .ssld f => [f.a.setWidth 6]
  | .ssst f => [f.a.setWidth 6]
  | .ssrst _ => []
  | .cpy f => [f.a.setWidth 6, f.d, arrivalReg f]
  | .cpy2d f => [f.a.setWidth 6, f.d, f.b, f.b + 1, arrivalReg f]
  | .cpyt f => [f.a.setWidth 6, f.d, f.b, f.b + 1, arrivalReg f]
  | .cpyx f => [f.a.setWidth 6, f.d, arrivalReg f]
  | .cpyf f => [f.d, f.b, arrivalReg f]
  | .cpyr f => [f.a.setWidth 6, f.d, arrivalReg f]
  | .cpypub f => [f.a.setWidth 6, f.d, arrivalReg f]
  | .stcfg f => [f.d, f.a]
  | .stmap f => [f.a.setWidth 6, f.b]
  | .stfl f => [f.a.setWidth 6, f.b]
  | .arm f => [f.a.setWidth 6, f.b]
  | .arwait f => [f.a.setWidth 6, f.d, f.b]
  | .cinv f => [f.a.setWidth 6, f.b]
  | .stinv f => [f.a.setWidth 6, f.b]
  | .amo f => [f.a.setWidth 6, f.d, f.b]
  | .amow f => [f.a.setWidth 6, f.b]
  | .cas f => [f.a.setWidth 6, f.d, f.b]
  | .vamo f => [f.a.setWidth 6]
  | .ldaq f => [f.a.setWidth 6, f.d]
  | .strl f => [f.a.setWidth 6, f.d]
  | .semtas _ => []
  | .semclr _ => []
  | .cdrd f => [f.d]
  | .cdwr f => [f.a]
  | .cdamo f => [f.d, f.a]
  | .cbar _ => []
  | .vtb f => [f.a.setWidth 6]
  | .lfetch _ => []
  | .lstop _ => []
  | .lbr _ => []
  | .launch f => [f.a.setWidth 6, f.d, f.b]
  | .yield f => [f.d]
  | .taskend _ => []
  | .leaseq f => [f.d, f.a, f.b]
  | .tret _ => []
  | .ctxsv f => [f.a.setWidth 6]
  | .ctxrs f => [f.a.setWidth 6]
  | .tlbinv f => [f.a, f.b]
  | .pgsetSet f => [f.d, f.a, f.b]
  | .pgsetNorm f => [f.d, f.a]
  | .pgsetWbset f => [f.d, f.a]
  | .pgcnt f => [f.d, f.a]
  | .nqpost f => [f.a.setWidth 6, f.d, f.b]
  | .waiti f => [f.d]
  | .stepcmt f => [f.d]
  | .stepabt f => [f.d]
  | .qctlRd f => [f.d, f.a]
  | .qctlStop f => [f.d, f.a]
  | .qctlStart f => [f.d, f.a]
  | .qctlSetw f => [f.d, f.a, f.b]
  | .qctlSetp f => [f.d, f.a, f.b]
  | .addSlot a0 s1 => slotRegs ⟨0x0, a0⟩ ++ slotRegs s1
  | .subSlot a0 s1 => slotRegs ⟨0x1, a0⟩ ++ slotRegs s1
  | .andSlot a0 s1 => slotRegs ⟨0x2, a0⟩ ++ slotRegs s1
  | .orSlot a0 s1 => slotRegs ⟨0x3, a0⟩ ++ slotRegs s1
  | .xorSlot a0 s1 => slotRegs ⟨0x4, a0⟩ ++ slotRegs s1
  | .shlSlot a0 s1 => slotRegs ⟨0x5, a0⟩ ++ slotRegs s1
  | .shrSlot a0 s1 => slotRegs ⟨0x6, a0⟩ ++ slotRegs s1
  | .sraSlot a0 s1 => slotRegs ⟨0x7, a0⟩ ++ slotRegs s1
  | .addiSlot a0 s1 => slotRegs ⟨0x8, a0⟩ ++ slotRegs s1
  | .shliSlot a0 s1 => slotRegs ⟨0x9, a0⟩ ++ slotRegs s1
  | .shriSlot a0 s1 => slotRegs ⟨0xa, a0⟩ ++ slotRegs s1
  | .sltSlot a0 s1 => slotRegs ⟨0xb, a0⟩ ++ slotRegs s1
  | .minmaxSlot a0 s1 => slotRegs ⟨0xc, a0⟩ ++ slotRegs s1
  | .mulSlot a0 s1 => slotRegs ⟨0xd, a0⟩ ++ slotRegs s1
  | .faddSlot a0 s1 => slotRegs ⟨0xe, a0⟩ ++ slotRegs s1
  | .fmulSlot a0 s1 => slotRegs ⟨0xf, a0⟩ ++ slotRegs s1
  | .fminmaxSlot a0 s1 => slotRegs ⟨0x10, a0⟩ ++ slotRegs s1
  | .nopSlot a0 s1 => slotRegs ⟨0x11, a0⟩ ++ slotRegs s1
  | .vaddSlot a0 s1 => slotRegs ⟨0x12, a0⟩ ++ slotRegs s1
  | .vsubSlot a0 s1 => slotRegs ⟨0x13, a0⟩ ++ slotRegs s1
  | .vmulSlot a0 s1 => slotRegs ⟨0x14, a0⟩ ++ slotRegs s1
  | .vminSlot a0 s1 => slotRegs ⟨0x15, a0⟩ ++ slotRegs s1
  | .vmaxSlot a0 s1 => slotRegs ⟨0x16, a0⟩ ++ slotRegs s1
  | .vandSlot a0 s1 => slotRegs ⟨0x17, a0⟩ ++ slotRegs s1
  | .vorSlot a0 s1 => slotRegs ⟨0x18, a0⟩ ++ slotRegs s1
  | .vxorSlot a0 s1 => slotRegs ⟨0x19, a0⟩ ++ slotRegs s1
  | .vshliSlot a0 s1 => slotRegs ⟨0x1a, a0⟩ ++ slotRegs s1
  | .vshriSlot a0 s1 => slotRegs ⟨0x1b, a0⟩ ++ slotRegs s1
  | .vaddsSlot a0 s1 => slotRegs ⟨0x1c, a0⟩ ++ slotRegs s1
  | .vmulsSlot a0 s1 => slotRegs ⟨0x1d, a0⟩ ++ slotRegs s1
  | .vmovSlot a0 s1 => slotRegs ⟨0x1e, a0⟩ ++ slotRegs s1
  | .vunarySlot a0 s1 => slotRegs ⟨0x1f, a0⟩ ++ slotRegs s1
  | .vstartWrite f => [f.a]
  | .fstatusAccess _ f => [f.d, f.a]
  | .browbaseWrite f => [f.a]
  | .instructionFetch => []
  | .loadDataReturn => []
  | .postedStorePerformed _ => []
  | .pollBackoffEnd => []
  | .entryStart => []
  | .passLaunch => []
  | .elementGroupCommit _ => []
  | .passComplete _ => []
  | .matrixUnit => []
  | .ssbUnit => []
  | .copyUnit => []
  | .operationComplete _ => []
  | .indirectStream => []
  | .versionedCopy _ => []
  | .deferredFaultDelivery => []
  | .droppedStoreDelivery => []
  | .waitTimeout => []
  | .waitiExpiry => []
  | .slotgateRelease => []
  | .uncorrectableError _ => []
  | .machineCheck => []
  | .channelOutOfService _ => []
  | .repairReload _ _ => []
  | .doorbell _ _ _ => []
  | .configWrite _ => []
  | .recordFetch _ _ => []
  | .waitConditionHold _ _ _ => []
  | .taskStart _ _ => []
  | .preload _ _ => []
  | .taskComplete _ => []
  | .preempt _ => []
  | .resume _ => []
  | .periodBoundary => []
  | .quiesce _ => []
  | .resumePartition _ => []
  | .drainHorizon _ => []
  | .slotStart _ => []
  | .overrun _ => []
  | .slotEnd _ => []
  | .slotExtensionEnd _ => []
  | .leapSlot _ => []
  | .hotRefreshAnnounce _ => []
  | .hotRefreshSwitch => []
  | .criticalTemperature => []
  | .linkTransaction _ _ => []
  | .flitReplay => []
  | .linkReset _ => []
  | .lrxdoneExchange _ => []
  | .powerLoss => []
  | .imageVerify _ => []
  | .cellReady _ => []
  | .attestationRequest _ _ => []
  | .matrixRowUnit _ => []
  | .boot => []
  | .correctableError => []
  | .peerrstClear => []

/-- R239: the x registers that outstanding VREDs of the thread write when their pass completes. -/
def Thread.owedRegs (t : Thread) : List (BitVec 6) :=
  t.rcp.nodes.filterMap fun n => match n.instr with
    | some (.vred f) => if f.fnAt 2 2 == 0 && f.b != 0 then some f.b else none
    | _ => none

/-- R134: no incomplete earlier work writes a register the word names. -/
def Thread.regsReady (t : Thread) (i : Instr) : Bool :=
  let owed := t.owedRegs
  owed.isEmpty || !(Instr.xNames i).any fun r => owed.contains r

end Sys2Proof.Machine
end

