-- ==== Sys2Proof/Machine/Fetch.lean ====
section
/-! DEFINITION. Machine/Fetch.lean: instruction fetch and issue (R59, R76, R131 to R134, R123). -/

namespace Sys2Proof.Machine

/-- The address of the 64-byte line that holds a PC. -/
def lineOf (pc : W64) : Nat := pc.toNat / 64 * 64

/-- The fetched line holds the next word. -/
def Thread.lineHere (t : Thread) : Bool :=
  match t.fe.line with
  | some l => l.va == lineOf t.pc
  | none => false

/-- R131: the lines of a pair's instruction cache. -/
def icacheLines : Nat := 1024

/-- R131: a line enters the pair's instruction cache; of a full cache, a line of the schedule's choice leaves (log entry
4). -/
def State.cacheLine (s : State) (cluster pair pa : Nat) (bytes : List Byte) : State :=
  let p := s.pairOf cluster pair
  if p.icache.length < icacheLines then s.setPair { p with icache := p.icache ++ [(pa, bytes)] }
  else
    let c := s.choose
    c.2.setPair { p with icache := p.icache.eraseIdx (c.1 % p.icache.length) ++ [(pa, bytes)] }

/-- R131: a line from memory: none while its resource keeps it waiting (R368). What the host refuses is DATA_ACCESS
(R112). -/
def State.memoryLine (s : State) (x : Xl) (va pa : Nat) : Option (Line × State) :=
  let h := s.held false pa 64
  if h.1 then none
  else
    let r := h.2.hostRefuses x
    let s1 := (r.2.countAccess false x 64).recall pa 64
    let b := s1.physRead pa 64
    if r.1 then some (⟨va, 0, [], false, some (TrapInfo.at causeDataAccess accFetch (BitVec.ofNat 64 va))⟩, r.2)
    else if s1.poisoned pa then some (⟨va, pa, b, true, none⟩, s1)
    else some (⟨va, pa, b, false, none⟩, s1.cacheLine s1.th.cluster s1.th.pair pa b)

/-- R92, R112: the word at the PC lies in the execute range, which binds U mode. -/
def State.mayFetch (s : State) : Bool := s.th.smode || s.task.inCode s.th.pc.toNat 8

/-- R131: the line of the PC as a fetch finds it: canonical, then the execute range, then translation with X = 1, then the
pair's instruction cache or memory. Outside the range nothing is translated or read, and the word itself, which is checked
again as it issues, ends the task. None while the fetch must wait for a resource. -/
def State.fetchLine (s : State) : Option (Line × State) :=
  let va := lineOf s.th.pc
  let bad (i : TrapInfo) : Line := ⟨va, 0, [], false, some i⟩
  if !(canonical s.th.pc && s.mayFetch) then some (bad (TrapInfo.at causeFetchAccess accFetch s.th.pc), s)
  else
    match s.translate s.ctx s.th.smode accFetch (BitVec.ofNat 64 va) with
    | .error .busy => none
    | .error (.trap i) => some (bad i, s)
    | .error _ => some (bad (TrapInfo.at causeFetchAccess accFetch s.th.pc), s)
    | .ok (x, s1) =>
      let pa := s1.readPa x
      match s1.pair.icache.find? (fun l => l.1 == pa) with
      | some l => some (⟨va, pa, l.2, false, none⟩, s1)
      | none => s1.memoryLine x va pa

/-- R131: an instruction line arrives. -/
def execInstructionFetch (s : State) : Host.Outcome State Fault Refusal :=
  if s.th.run != .running || s.th.lineHere then .next s
  else
    match s.fetchLine with
    | some r => .next { r.2 with th.fe.line := some r.1 }
    | none => .next s

/-- The word of a line at a PC. -/
def Line.word (l : Line) (pc : W64) : W64 := BitVec.ofNat 64 (leNat ((l.bytes.drop (pc.toNat % 64)).take 8))

/-- R161: a FETCH_ACCESS or FETCH_POISON of the word at TRAPVEC itself is a machine check; any other fault of a fetch is
a precise trap. -/
def State.fetchFault (s : State) (i : TrapInfo) : State :=
  if s.th.smode && s.th.pc == s.th.tr.trapvec && (i.code == causeFetchAccess || i.code == causeFetchPoison) then
    s.machineCheck
  else s.trap i

/-- R131, R123: the next word of the thread in focus as it was fetched, or the state a failed check leaves. The checks
stand in the order of R131. -/
def State.fetched (s : State) : Except State W64 :=
  match s.th.fe.line with
  | none => .error s
  | some l =>
    if canonical s.th.pc && !s.mayFetch then .error s.leaseViolation
    else
      match l.bad with
      | some i => .error (s.fetchFault i)
      | none =>
        if l.poisoned then .error (s.fetchFault (TrapInfo.at causeFetchPoison accFetch (BitVec.ofNat 64 l.va)))
        else .ok (l.word s.th.pc)

/-- R76 up to PRIVILEGED: what the next word of the thread in focus is, or the state its fault leaves. -/
def State.nextWord (s : State) : Except State Instr :=
  match s.fetched with
  | .error t => .error t
  | .ok w =>
    match decode w with
    | .error .illegalEncoding => .error (s.trapCode causeIllegal)
    | .error .hintUnsupported => .error (s.trapCode causeHint)
    | .ok i => .ok i

/-- A thread once its word has been issued: with no wait begun, the word has completed at this tick. -/
def Thread.issued (t : Thread) (now : Nat) : Thread := if t.fe.wait.isNone then { t with fe.since := now } else t

/-- The thread at a place, once its word has been issued. -/
def State.noteIssue (s : State) (h : HwId) : State := s.mapThreads (fun t => t.hw == h) fun t => t.issued s.now

/-- R134: the SFE of the pair in focus has issued a word of the thread in focus. -/
def State.served (s : State) : State := s.setPair { s.pair with sfeLast := s.th.slot }

/-- Issues the next word of the thread in focus. A wait of VPASS that is over holds nothing any more (R241). -/
def State.issueWord (run : Instr → State → Host.Outcome State Fault Refusal) (s : State) :
    Host.Outcome State Fault Refusal :=
  match s.nextWord with
  | .error t => .next t
  | .ok i =>
    match run i { s.served with th := s.th.setWait false } with
    | .next t => .next (t.noteIssue s.th.hw)
    | .fault f => .fault f
    | .refused r => .refused r

/-- R200: a root recorded with SERIAL set holds the issue of its mode until its pass completes; a fault of the pass ends
the hold until TRET, so that it is delivered at the next word. -/
def Thread.serialRoot (t : Thread) : Bool :=
  t.dsp.queue.any (fun e => e.serial && e.smode == t.smode) ||
    t.dsp.passes.any fun p => p.serial && !p.halted && p.smode == t.smode

/-- R241: a VPASS with `.wait` in the thread's mode waits for passes still to launch or in flight. -/
def Thread.passHold (t : Thread) : Bool :=
  (if t.smode then t.dsp.waitS else t.dsp.waitU) &&
    ((t.dsp.queue.any fun e => e.launches && t.mayTake e) || t.dsp.passes.any fun p => !p.halted)

/-- R200, R241: passes hold the thread's issue. -/
def Thread.serialHold (t : Thread) : Bool := t.serialRoot || t.passHold

/-- The outstanding deferred fault whose operation entered the queue first. -/
def firstFault (fs : List DFault) : Option DFault :=
  fs.foldl (fun m f => match m with
    | some g => if f.seq < g.seq then some f else m
    | none => some f) none

/-- R161, R165: the deferred fault that the thread's next boundary delivers. In S mode those of U-mode work are held, and
so is every one that was outstanding before another of S-mode work was disposed of. -/
def Thread.dueFault (t : Thread) : Option DFault :=
  if t.smode then (if t.dsp.nested then none else firstFault (t.dsp.deferred.filter fun f => f.smode && !f.late))
  else if t.dsp.stopped.isSome then none
  else firstFault t.dsp.deferred

/-- The dropped store that was issued first. -/
def firstDrop (ds : List Dropped) : Option Dropped :=
  ds.foldl (fun m d => match m with
    | some e => if d.seq < e.seq then some d else m
    | none => some d) none

/-- R150: the dropped store that the thread's next boundary reports. -/
def Thread.dueDrop (t : Thread) : Option Dropped :=
  firstDrop (if t.smode then t.fe.dropped.filter fun d => d.smode else t.fe.dropped)

/-- R160: the thread stands at an instruction boundary. A PGSET that has made its change runs to its end. -/
def Thread.atBoundary (t : Thread) : Bool :=
  t.run == .running && t.fe.loadWait.isNone && t.fe.wait.all fun w => w.kind != .pageTable

/-- A fault that must be delivered before the next word is decoded. -/
def Thread.faultDue (t : Thread) : Bool := t.atBoundary && (t.dueFault.isSome || t.dueDrop.isSome)

/-- R12, R64: how many entries of the dispatch queue an instruction word takes, roots it would launch apart: one for each
vector slot of a pair word, one for a word that is not scalar, none for a scalar word. -/
def wordEntries (w : W64) : Nat :=
  if bitAt w 63 then
    (if 0x12 ≤ (slice w 57 5).toNat then 1 else 0) + (if 0x12 ≤ (slice w 26 5).toNat then 1 else 0)
  else
    let o := (slice w 55 8).toNat
    let vector : Bool := 0x40 ≤ o && o ≤ 0x72 && o != 0x70
    let engine : Bool := (0x80 ≤ o && o ≤ 0x8F) || (0xA0 ≤ o && o ≤ 0xA5) || (0xB0 ≤ o && o ≤ 0xB9 && o != 0xB7)
    if vector || engine || o == 0xBD || o == 0xC3 || o == 0xD0 || (o == 0x38 && slice w 0 2 == 2) then 1 else 0

/-- R12, R134, R156: the dispatch queue has room for the next word, whether or not it decodes, and the counter it raises
too; a word that was not fetched needs none. -/
def State.roomHere (s : State) : Bool :=
  match s.fetched with
  | .error _ => true
  | .ok w => s.th.dsp.room (wordEntries w) && s.th.counterRoom (wordCounter w)

/-- R134: the thread in focus stands at a word it has fetched, and no work of its own holds its issue. -/
def State.poised (s : State) : Bool :=
  s.th.run == .running && s.th.lineHere && s.th.fe.loadWait.isNone && s.th.fe.backoff.isNone && !s.th.serialHold &&
    !s.th.faultDue && s.task.state == .running

/-- R134: the thread in focus may issue its next word: for one with a field it refuses, nothing but the queue's room is
waited for. -/
def State.ready (s : State) : Bool :=
  s.poised && s.roomHere &&
    match s.nextWord with
    | .ok i => s.th.regsReady i && !s.stalled i
    | .error _ => true

/-! ### Placing a word (log entry 1) -/

/-- A task in whose code the PC lies. -/
def Task.aroundPc (t : Task) (pc : W64) : Task :=
  if t.inCode pc.toNat 8 then t
  else { t with kernel := { t.kernel with entry := BitVec.ofNat 64 (lineOf pc), codelen := 64 } }

/-- The state in which the word `w` is the next one the thread in focus issues: the thread runs for a task whose code
holds the PC, its line is fetched and holds the word there, nothing it does is pending or counted, no event from outside waits and
no calendar boundary is due, its turn has come, and the schedule's first choice is to issue. -/
def State.placeWord (s : State) (w : W64) : State :=
  let pc := s.th.pc
  let i := pc.toNat % 64
  let old : List Byte := match s.th.fe.line with
    | some l => if l.va == lineOf pc then (l.bytes ++ List.replicate 64 0).take 64 else List.replicate 64 0
    | none => List.replicate 64 0
  let bytes := old.take i ++ leBytes 8 w.toNat ++ old.drop (i + 8)
  let t := { s.task with id := s.th.task, state := .running }.aroundPc pc
  { s with
    th := { s.th with
      run := .running
      fe := { Front.reset with line := some ⟨lineOf pc, lineOf pc, bytes, false, none⟩ }
      dsp := { Dispatch.reset with nextSeq := s.th.dsp.nextSeq }
      cc := Vector.replicate 8 0
      rcp := Recipe.reset s.th.rcp.budget }
    tasks := t :: s.tasks.filter (fun u => u.id != s.th.task)
    pairs := { s.pair with sfeLast := (s.th.slot + 3) % 4 } ::
      s.pairs.filter fun p => !(p.cluster == s.th.cluster && p.pair == s.th.pair)
    inputs := []
    boot.power := true
    cal.started := false
    choices := 1 :: s.choices }

end Sys2Proof.Machine
end

