-- ==== Sys2Proof/Machine/Calendar.lean ====
section
/-! DEFINITION. Machine/Calendar.lean: the almanac's spans (R365, R366, R371), the calendar registers (R372), SLOTQ
(R373), SLOTGATE (R374) and RDCYC (R174). -/

namespace Sys2Proof.Machine

/-- Ticks of a period (R365). -/
def periodTicks : Nat := 6400

/-- Ticks of a frame (R365). -/
def frameTicks : Nat := 16 * periodTicks

/-- R371: whether the hot refresh is in force at the start of period `q`. -/
def Cal.hotAt (c : Cal) (q : Nat) : Bool :=
  let now : Bool := match c.lastSwitch with
    | some t => if q * periodTicks < t then !c.hot else c.hot
    | none => c.hot
  match c.announced with
  | some (on, t) => if t ≤ q * periodTicks then on else now
  | none => now

/-- The leap slots of a period that stop a resource. -/
def Cal.leapsAt (c : Cal) (q : Nat) (r : SlotRes) : List LeapSlot :=
  c.leaps.filter fun l => l.period == q && (match r with
    | .dram => l.dram
    | .link => l.links)

/-- R366, R371: the DRAM span of a period. -/
def Cal.dramSpan (c : Cal) (q : Nat) : Nat :=
  (if c.hotAt q then 896 else 448) + (if q % 16 == 0 then 64 else 0) + (if q % 256 == 0 then 1024 else 0) +
    ((c.leapsAt q .dram).map fun l => l.len).sum

/-- R366, R371: how long links are stopped from the start of a period. -/
def Cal.linkSpan (c : Cal) (q : Nat) : Nat :=
  (c.leapsAt q .link).foldl (fun m l => max m l.len) (if q % 16384 == 0 then 16000 else 0)

/-- The span of a resource from the start of a period. -/
def Cal.span (c : Cal) (r : SlotRes) (q : Nat) : Nat :=
  match r with
  | .dram => c.dramSpan q
  | .link => c.linkSpan q

/-- The periods whose slots can reach a tick. -/
def nearPeriods (tick : Nat) : List Nat :=
  let p := tick / periodTicks
  (List.range 4).filterMap fun i => if 3 ≤ p + i then some (p + i - 3) else none

/-- A resource is unavailable at a tick by the calendar alone. -/
def Cal.downAt (c : Cal) (r : SlotRes) (tick : Nat) : Bool :=
  (nearPeriods tick).any fun q => q * periodTicks ≤ tick && tick < q * periodTicks + c.span r q

/-- R370: a resource is unavailable, an extension of its slot included. -/
def Cal.down (c : Cal) (r : SlotRes) : Bool :=
  c.downAt r c.tick || (match r with
    | .dram => c.dramExt
    | .link => c.linkExt)

/-- R372: CALNEXT. Every period begins with a slot. -/
def Cal.calnext (c : Cal) : Nat :=
  if c.down .dram || c.down .link then 0 else (c.tick / periodTicks + 1) * periodTicks - c.tick

/-- R372: the period of the slot that contains the tick, else of the next slot to begin. -/
def Cal.nextSlot (c : Cal) : Nat :=
  ((nearPeriods c.tick).find? fun q =>
    q * periodTicks ≤ c.tick && c.tick < q * periodTicks + max (c.dramSpan q) (c.linkSpan q)).getD
    (c.tick / periodTicks + 1)

/-- R372: CALKIND. -/
def Cal.calkind (c : Cal) : Nat :=
  let q := c.nextSlot
  1 + (if q % 16 == 0 then 2 else 0) + (if q % 256 == 0 then 4 else 0) + (if q % 16384 == 0 then 8 else 0) +
    (if c.leaps.any (fun l => l.period == q) then 16 else 0) + (if c.hot then 32 else 0)

/-- R372: CALLEN. -/
def Cal.callen (c : Cal) : Nat := c.linkSpan c.nextSlot * 2 ^ 32 + c.dramSpan c.nextSlot

/-- R366: GMAX, with the refresh length in force. -/
def Cal.gmax (c : Cal) : Nat := 6400 - (if c.hot then 896 else 448)

/-- R373: SLOTQ's snapshot. -/
def Cal.snapshot (c : Cal) : W64 :=
  BitVec.ofNat 64 (c.calnext * 2 ^ 51 + c.calkind * 2 ^ 45 + c.dramSpan c.nextSlot * 2 ^ 30 +
    c.linkSpan c.nextSlot * 2 ^ 15 + c.calrev.toNat % 2 ^ 15)

/-- R174: RDCYC. -/
def execRdcyc (f : FX) (s : State) : Host.Outcome State Fault Refusal :=
  s.settle (s.finish f.d (BitVec.ofNat 64 s.cal.tick))

/-- R373: SLOTQ. -/
def execSlotq (f : FX) (s : State) : Host.Outcome State Fault Refusal := s.settle (s.finish f.d s.cal.snapshot)

/-- R374: SLOTGATE's operand: xA, or IMM with A = 0. -/
def State.gateGap (s : State) (f : FJ) : Nat := if f.a == 0 then f.imm.toNat else (s.x f.a).toNat

/-- R374: SLOTGATE as it stands at this tick. -/
def State.slotgate (s : State) (f : FJ) : Issue :=
  let n := s.gateGap f
  if 5800 < n then Issue.fault causeRange
  else
    let g := min n s.cal.gmax
    if g ≤ s.cal.calnext then s.finish f.d (BitVec.ofNat 64 s.cal.calnext) else .wait .slotgate false g

def execSlotgate (f : FJ) (s : State) : Host.Outcome State Fault Refusal := s.settle (s.slotgate f)

/-- A stalled SLOTGATE of the thread in focus whose gap has come. -/
def State.gateOpen (s : State) : Bool :=
  match s.th.fe.wait with
  | some w => w.kind == .slotgate && w.pc == s.th.pc && w.aux ≤ s.cal.calnext
  | none => false

/-- R374: a stalled SLOTGATE is released: xD holds CALNEXT at that tick. -/
def execSlotgateRelease (s : State) : Host.Outcome State Fault Refusal :=
  if s.th.run == .running && s.gateOpen then
    match s.nextWord with
    | .ok (.slotgate f) => .next (s.setX f.d (BitVec.ofNat 64 s.cal.calnext)).retire
    | _ => .next s
  else .next s

end Sys2Proof.Machine
end

