-- ==== Sys2Proof/Machine/Recording.lean ====
section
/-! DEFINITION. Machine/Recording.lean: the stream words as they issue (R211 to R245): what each records, VMOV, LQOP,
VPASS, and the read of a stream parameter block (R323, R326). -/

namespace Sys2Proof.Machine

/-! ### Small forms -/

/-- Tiles granted to the thread (R26). -/
def Thread.tileCount (t : Thread) : Nat := ((List.range 16).filter fun i => bitAt t.sr.tilegrant i).length

/-- R211, R214: vD := op(vA, vB) of one type. -/
def State.recBin (s : State) (opc : BitVec 8) (f : FX) : Except Nat Rec := do
  let a ← s.vsrcTy f.a f.ty
  let b ← s.vsrcTy f.b f.ty
  let k ← s.ksrc f.k.toNat
  .ok { word := packX opc f, sa := some a, sb := some b, sk := k, dest := some f.d.toNat }

/-- R211: vD := op(vA, xB). -/
def State.recScalar (s : State) (opc : BitVec 8) (f : FX) : Except Nat Rec := do
  let a ← s.vsrcTy f.a f.ty
  let k ← s.ksrc f.k.toNat
  .ok { word := packX opc f, sa := some a, sk := k, vb := s.x f.b, caps := some (s.x f.b, 0, 0), dest := some f.d.toNat }

/-- R215, R217, R223, R226: vD := op(vA). -/
def State.recUn (s : State) (opc : BitVec 8) (f : FX) : Except Nat Rec := do
  let a ← s.vsrcTy f.a f.ty
  let k ← s.ksrc f.k.toNat
  .ok { word := packX opc f, sa := some a, sk := k, dest := some f.d.toNat }

/-- R214, R224: vD := op(vA, IMM). -/
def State.recImm (s : State) (opc : BitVec 8) (f : FJ) : Except Nat Rec := do
  let a ← s.vsrcTy f.a f.ty
  let k ← s.ksrc f.k.toNat
  .ok { word := packJ opc f, sa := some a, sk := k, dest := some f.d.toNat }

/-! ### Element-wise words -/

/-- R211: VADD. -/
def execVadd (f : FX) (s : State) : Host.Outcome State Fault Refusal := s.recordE f.ls.toNat (s.recBin 0x40 f)
/-- R211: VSUB. -/
def execVsub (f : FX) (s : State) : Host.Outcome State Fault Refusal := s.recordE f.ls.toNat (s.recBin 0x41 f)
/-- R211: VMUL. -/
def execVmul (f : FX) (s : State) : Host.Outcome State Fault Refusal := s.recordE f.ls.toNat (s.recBin 0x42 f)
/-- R212: VDIV. -/
def execVdiv (f : FX) (s : State) : Host.Outcome State Fault Refusal := s.recordE f.ls.toNat (s.recBin 0x44 f)
/-- R211: VMIN. -/
def execVmin (f : FX) (s : State) : Host.Outcome State Fault Refusal := s.recordE f.ls.toNat (s.recBin 0x45 f)
/-- R211: VMAX. -/
def execVmax (f : FX) (s : State) : Host.Outcome State Fault Refusal := s.recordE f.ls.toNat (s.recBin 0x46 f)
/-- R211: VMULH. -/
def execVmulh (f : FX) (s : State) : Host.Outcome State Fault Refusal := s.recordE f.ls.toNat (s.recBin 0x71 f)
/-- R214: VAND. -/
def execVand (f : FX) (s : State) : Host.Outcome State Fault Refusal := s.recordE f.ls.toNat (s.recBin 0x48 f)
/-- R214: VOR. -/
def execVor (f : FX) (s : State) : Host.Outcome State Fault Refusal := s.recordE f.ls.toNat (s.recBin 0x49 f)
/-- R214: VXOR. -/
def execVxor (f : FX) (s : State) : Host.Outcome State Fault Refusal := s.recordE f.ls.toNat (s.recBin 0x4A f)
/-- R214: VSHL. -/
def execVshl (f : FX) (s : State) : Host.Outcome State Fault Refusal := s.recordE f.ls.toNat (s.recBin 0x4B f)
/-- R214: VSHR. -/
def execVshr (f : FX) (s : State) : Host.Outcome State Fault Refusal := s.recordE f.ls.toNat (s.recBin 0x4C f)
/-- R211: VADDS. -/
def execVadds (f : FX) (s : State) : Host.Outcome State Fault Refusal := s.recordE f.ls.toNat (s.recScalar 0x53 f)
/-- R211: VMULS. -/
def execVmuls (f : FX) (s : State) : Host.Outcome State Fault Refusal := s.recordE f.ls.toNat (s.recScalar 0x54 f)
/-- R211: VMINS. -/
def execVmins (f : FX) (s : State) : Host.Outcome State Fault Refusal := s.recordE f.ls.toNat (s.recScalar 0x56 f)
/-- R211: VMAXS. -/
def execVmaxs (f : FX) (s : State) : Host.Outcome State Fault Refusal := s.recordE f.ls.toNat (s.recScalar 0x57 f)
/-- R214: VSHLI. -/
def execVshli (f : FJ) (s : State) : Host.Outcome State Fault Refusal := s.recordE f.ls.toNat (s.recImm 0x58 f)
/-- R214: VSHRI. -/
def execVshri (f : FJ) (s : State) : Host.Outcome State Fault Refusal := s.recordE f.ls.toNat (s.recImm 0x59 f)
/-- R215: VUNARY. -/
def execVunary (f : FX) (s : State) : Host.Outcome State Fault Refusal := s.recordE f.ls.toNat (s.recUn 0x47 f)
/-- R215: VPOPC. -/
def execVpopc (f : FX) (s : State) : Host.Outcome State Fault Refusal := s.recordE f.ls.toNat (s.recUn 0x72 f)
/-- R217: VRND. -/
def execVrnd (f : FX) (s : State) : Host.Outcome State Fault Refusal := s.recordE f.ls.toNat (s.recUn 0x52 f)
/-- R223: VSFU. -/
def execVsfu (f : FX) (s : State) : Host.Outcome State Fault Refusal := s.recordE f.ls.toNat (s.recUn 0x50 f)
/-- R226: VSCAN. -/
def execVscan (f : FX) (s : State) : Host.Outcome State Fault Refusal := s.recordE f.ls.toNat (s.recUn 0x6A f)
/-- R224: VSLIDE. -/
def execVslide (f : FJ) (s : State) : Host.Outcome State Fault Refusal := s.recordE f.ls.toNat (s.recImm 0x5E f)

/-- R213: VFMA. -/
def State.recFma (s : State) (f : FX) : Except Nat Rec := do
  let q ← s.recBin 0x43 f
  let c ← s.vsrcTy f.c f.ty
  .ok { q with sc := some c }

def execVfma (f : FX) (s : State) : Host.Outcome State Fault Refusal := s.recordE f.ls.toNat (s.recFma f)

/-- R213: VFMAS. -/
def State.recFmas (s : State) (f : FX) : Except Nat Rec := do
  let q ← s.recScalar 0x55 f
  let c ← s.vsrcTy f.c f.ty
  .ok { q with sc := some c }

def execVfmas (f : FX) (s : State) : Host.Outcome State Fault Refusal := s.recordE f.ls.toNat (s.recFmas f)

/-- R216: VCVT; a named overflow mask makes a second node (R47). -/
def State.recCvt (s : State) (f : FX) : Except Nat Rec := do
  let a ← s.vsrc f.a fun t => t == .elem (f.fnAt 0 4)
  let q : Rec := { word := packX 0x4D f, sa := some a, dest := some f.d.toNat }
  .ok (if f.c == 0 then q else { q with parts := 2, ovf := some f.c.toNat })

def execVcvt (f : FX) (s : State) : Host.Outcome State Fault Refusal := s.recordE f.ls.toNat (s.recCvt f)

/-- R218: VCMP. -/
def State.recCmp (s : State) (f : FX) : Except Nat Rec := do
  let q ← s.recBin 0x4E f
  .ok { q with dest := none, kdest := some f.d.toNat }

def execVcmp (f : FX) (s : State) : Host.Outcome State Fault Refusal := s.recordE f.ls.toNat (s.recCmp f)

/-- R218: VCMPS. -/
def State.recCmps (s : State) (f : FX) : Except Nat Rec := do
  let q ← s.recScalar 0x5A f
  .ok { q with dest := none, kdest := some f.d.toNat }

def execVcmps (f : FX) (s : State) : Host.Outcome State Fault Refusal := s.recordE f.ls.toNat (s.recCmps f)

/-- R219: VCLASS. -/
def State.recClass (s : State) (f : FX) : Except Nat Rec := do
  let q ← s.recUn 0x51 f
  .ok { q with dest := none, kdest := some f.d.toNat }

def execVclass (f : FX) (s : State) : Host.Outcome State Fault Refusal := s.recordE f.ls.toNat (s.recClass f)

/-- R220: VSEL. -/
def State.recSel (s : State) (f : FX) : Except Nat Rec := do
  let q ← s.recBin 0x4F f
  let c ← s.ksrc f.c.toNat
  .ok { q with sc := c }

def execVsel (f : FX) (s : State) : Host.Outcome State Fault Refusal := s.recordE f.ls.toNat (s.recSel f)

/-- R221: KOP. -/
def State.recKop (s : State) (f : FX) : Except Nat Rec := do
  let a ← s.ksrc f.a.toNat
  let b ← s.ksrc f.b.toNat
  let k ← s.ksrc f.k.toNat
  .ok { word := packX 0x6D f, sa := a, sb := b, sk := k, kdest := some f.d.toNat }

def execKop (f : FX) (s : State) : Host.Outcome State Fault Refusal := s.recordE f.ls.toNat (s.recKop f)

/-- R222: VFLAGS. -/
def State.recFlags (s : State) (f : FX) : Except Nat Rec := do
  let a ← s.vsrc f.a fun _ => true
  .ok { word := packX 0x6F f, sa := some a, kdest := some f.d.toNat }

def execVflags (f : FX) (s : State) : Host.Outcome State Fault Refusal := s.recordE f.ls.toNat (s.recFlags f)

/-! ### Leaves -/

/-- R232: the element bits of VSPLAT. -/
def State.splatVal (s : State) (f : FJ) : W64 :=
  let ty := f.ty.toNat
  if f.a != 0 then BitVec.ofNat 64 (maskBits ty (s.x f.a).toNat)
  else if ty < 8 then BitVec.ofNat 64 (maskBits ty (f.imm.signExtend 64).toNat)
  else if ty == 0xB then BitVec.ofNat 64 (convertBits 0xB 0xA rne f.imm.toNat).bits
  else f.imm.setWidth 64

/-- R188, R232: VSPLAT; it takes only its own length, whatever its mask's. -/
def State.recSplat (s : State) (f : FJ) : Except Nat Rec := do
  let k ← s.ksrc f.k.toNat
  .ok { word := packJ 0x5B f, sk := k, va := s.splatVal f, dest := some f.d.toNat, own := some fun _ => true }

def execVsplat (f : FJ) (s : State) : Host.Outcome State Fault Refusal := s.recordE f.ls.toNat (s.recSplat f)

/-- R188, R233: VIOTA; it takes only its own length, whatever its mask's. -/
def State.recIota (s : State) (f : FJ) : Except Nat Rec := do
  let k ← s.ksrc f.k.toNat
  .ok { word := packJ 0x5C f, sk := k, va := s.x f.a, dest := some f.d.toNat, own := some fun _ => true }

def execViota (f : FJ) (s : State) : Host.Outcome State Fault Refusal := s.recordE f.ls.toNat (s.recIota f)

/-- R225, R227: a captured period or segment length. -/
def periodOk (m : W64) : Bool := m != 0 && m.toNat < 2 ^ 48

/-- R188, R225, R227: the relation of a node's length to the known length of its source, as far as both are known. -/
def State.lengthRel (s : State) (a : Nat) (rel : Nat → Option Nat → Bool) (n : Option Nat) : Bool :=
  match (s.th.rcp.node? a).bind Node.known with
  | some l => rel l n
  | none => true

/-- R225: VBCAST. vA has length m, and n is a multiple of m. -/
def State.recBcast (s : State) (f : FX) : Except Nat Rec := do
  let a ← s.vsrcTy f.a f.ty
  let m := s.x f.b
  if !periodOk m then .error causeRange
  else .ok { word := packX 0x5D f, sa := some a, vb := m, caps := some (m, 0, 0), dest := some f.d.toNat,
             own := some (s.lengthRel a fun l n => l == m.toNat && n.all fun n => n % m.toNat == 0) }

def execVbcast (f : FX) (s : State) : Host.Outcome State Fault Refusal := s.recordE f.ls.toNat (s.recBcast f)

/-- R227: VSEGRED. vA has length L, a multiple of m. -/
def State.recSegred (s : State) (f : FX) : Except Nat Rec := do
  let a ← s.vsrcTy f.a f.ty
  let m := s.x f.b
  if !periodOk m then .error causeRange
  else .ok { word := packX 0x69 f, sa := some a, vb := m, caps := some (m, 0, 0), dest := some f.d.toNat,
             own := some (s.lengthRel a fun l n => n.all fun n => l == n && n % m.toNat == 0) }

def execVsegred (f : FX) (s : State) : Host.Outcome State Fault Refusal := s.recordE f.ls.toNat (s.recSegred f)

/-- R228: a tensor's geometry in xB. -/
def geometryOk (xb : W64) : Bool := slice xb 48 16 == 0 && slice xb 0 24 != 0 && slice xb 24 24 != 0

/-- R228: VLD. -/
def State.recLd (s : State) (f : FM) : Except Nat Rec := do
  let k ← s.ksrc f.k.toNat
  let sq : Bool := f.ty == 0xF
  if sq && !geometryOk (s.x f.b) then .error causeRange
  else
    let q : Rec := { word := packM 0x60 f, sk := k, va := s.address f,
                     vb := if sq || bitAt f.fn 0 then s.x f.b else 0, dest := some f.d.toNat }
    .ok (if f.fnAt 2 3 == 0 then q else { q with parts := 2, ovf := some (f.fnAt 2 3) })

def execVld (f : FM) (s : State) : Host.Outcome State Fault Refusal := s.recordE f.ls.toNat (s.recLd f)

/-- R231: VKLD. -/
def State.recKld (s : State) (f : FM) : Except Nat Rec := do
  let k ← s.ksrc f.k.toNat
  .ok { word := packM 0x63 f, sk := k, va := s.address f, kdest := some f.d.toNat }

def execVkld (f : FM) (s : State) : Host.Outcome State Fault Refusal := s.recordE f.ls.toNat (s.recKld f)

/-- R230: VTREAD. -/
def State.recTread (s : State) (f : FT) : Except Nat Rec := do
  let k ← s.ksrc f.k.toNat
  if s.th.tileCount ≤ f.mt.toNat || 127 < (s.x f.b).toNat then .error causeRange
  else .ok { word := packT 0x62 f, sk := k, vb := s.x f.b, caps := some (s.x f.b, 0, 0), dest := some f.a.toNat }

def execVtread (f : FT) (s : State) : Host.Outcome State Fault Refusal := s.recordE f.ls.toNat (s.recTread f)

/-- R245: VTB. -/
def State.recTb (s : State) (f : FM) : Except Nat Rec := do
  let src (i : Nat) : Except Nat (Option Nat) :=
    if i < f.fnAt 0 2 then do
      let n ← s.vsrc (f.b + BitVec.ofNat 6 i) fun t => t != .mask && (i != 0 || f.k == 0 || t == .elem f.ty.toNat)
      .ok (some n)
    else .ok none
  let a ← src 0
  let b ← src 1
  let c ← src 2
  let k ← s.ksrc f.k.toNat
  let at_ := s.address f
  if at_.toNat % 8 != 0 then .error causeMisaligned
  else if !s.task.inCode at_.toNat (8 * (f.fnAt 2 3 + 1)) then .error causeRange
  else .ok { word := packM 0xD0 f, sa := a, sb := b, sc := c, sk := k, va := at_, dest := some f.d.toNat }

/-- R245: VTB; a misaligned block names its address. -/
def execVtb (f : FM) (s : State) : Host.Outcome State Fault Refusal :=
  s.whenRoom 1 (match s.recTb f with
    | .error c =>
      s.settle (.trap (if c == causeMisaligned then TrapInfo.at c accRead (s.address f) else TrapInfo.plain c 0))
    | .ok q => s.settle (s.record f.ls.toNat q))

/-! ### Stream parameter blocks (R323) -/

/-- R323: a block's bytes, or none where a field lies outside its values; `idx` tells whether IBASE and ITYPE are
read (R325). -/
def parseBlockOf (idx : Bool) (b : List Byte) : Option StreamBlock :=
  let at_ (i n : Nat) : Nat := leNat ((b.drop i).take n)
  let ity := at_ 36 1
  let es := at_ 32 4
  if at_ 38 26 != 0 || 3 < at_ 37 1 || (idx && (ity < 2 || 7 < ity)) then none
  else if !(es == 1 || es == 2 || es == 4 || (es % 8 == 0 && es != 0 && es ≤ 65536)) then none
  else if at_ 24 8 == 0 || 2 ^ 48 ≤ at_ 24 8 || 2 ^ 48 ≤ at_ 16 8 then none
  else if at_ 8 8 % min es 8 != 0 || (idx && at_ 0 8 % bytesOf ity != 0) then none
  else
    some { ibase := BitVec.ofNat 64 (at_ 0 8), itype := ity, count := at_ 16 8, tbase := BitVec.ofNat 64 (at_ 8 8),
           trows := at_ 24 8, esize := es, skew := at_ 37 1 }

def parseBlock (b : List Byte) : Option StreamBlock := parseBlockOf true b

/-- A page a block may lie on (R323). -/
def blockPage (e : W64) : Bool := leafCls e != clsDev && !leafSd e

/-- R326: the read of a block at the recording of a VLDX. -/
def State.blockAtIssue (s : State) (va : W64) : Except Issue (StreamBlock × State) :=
  match s.sAccess accRead false va 64 with
  | .error i => .error i
  | .ok (x, s1) =>
    if s.th.fe.posted.any fun p => p.blocks va.toNat 64 false then .error (.wait .drain false 0)
    else if !blockPage x.leaf then .error (Issue.fault causeRange)
    else
      let h := s1.held false x.pa 64
      if h.1 then .error (.wait .drain false 0)
      else
        match h.2.load accRead x va 64 with
        | .error e => .error (e.issue va accRead)
        | .ok (b, s2) =>
          match parseBlock b with
          | some p => .ok (p, s2)
          | none => .error (Issue.fault causeRange)

/-- R229: VLDX. -/
def execVldx (f : FM) (s : State) : Host.Outcome State Fault Refusal :=
  s.whenRoom 1 (match s.ksrc f.k.toNat with
    | .error c => s.settle (Issue.fault c)
    | .ok k =>
      match s.blockAtIssue (s.address f) with
      | .error i => s.settle i
      | .ok (b, s1) =>
        s.settle (s1.record f.ls.toNat
          { word := packM 0x61 f, sk := k, va := s.address f, dest := some f.d.toNat,
            nodeRng := some ([b.indexRng b.count, b.tableRng], []) }))

/-! ### Roots -/

/-- What every format M stream root asks for: the counter. -/
def rootM (q : Rec) (f : FM) : Rec := { q with cc := counterM f }

/-- R235: VST. -/
def State.recSt (s : State) (f : FM) : Except Nat Rec := do
  let a ← s.vsrcTy f.d f.ty
  let k ← s.ksrc f.k.toNat
  .ok (rootM { word := packM 0x64 f, sa := some a, sk := k, va := s.address f,
               vb := if bitAt f.fn 1 then s.x f.b else 0, vc := s.task.stepno } f)

def execVst (f : FM) (s : State) : Host.Outcome State Fault Refusal := s.recordE f.ls.toNat (s.recSt f)

/-- R236: VSTX. -/
def State.recStx (s : State) (f : FM) : Except Nat Rec := do
  let a ← s.vsrcTy f.d f.ty
  let b ← s.vsrcInt f.b
  let k ← s.ksrc f.k.toNat
  .ok (rootM { word := packM 0x65 f, sa := some a, sb := some b, sk := k, va := s.address f, vc := s.task.stepno } f)

def execVstx (f : FM) (s : State) : Host.Outcome State Fault Refusal := s.recordE f.ls.toNat (s.recStx f)

/-- R237: VCST. -/
def State.recCst (s : State) (f : FM) : Except Nat Rec := do
  let a ← s.vsrcTy f.d f.ty
  let k ← s.ksrc f.k.toNat
  .ok (rootM { word := packM 0x66 f, sa := some a, sk := k, va := s.address f, vc := s.task.stepno,
               reserve := if bitAt f.fn 1 then some (f.fnAt 2 2, f.fnAt 4 2 + 1) else none } f)

def execVcst (f : FM) (s : State) : Host.Outcome State Fault Refusal := s.recordE f.ls.toNat (s.recCst f)

/-- R238: VKST. -/
def State.recKst (s : State) (f : FM) : Except Nat Rec := do
  let a ← s.ksrc f.d.toNat
  let k ← s.ksrc f.k.toNat
  .ok (rootM { word := packM 0x67 f, sa := a, sk := k, va := s.address f, vc := s.task.stepno } f)

def execVkst (f : FM) (s : State) : Host.Outcome State Fault Refusal := s.recordE f.ls.toNat (s.recKst f)

/-- R239: VRED. -/
def State.recRed (s : State) (f : FM) : Except Nat Rec := do
  let a ← s.vsrcTy f.d f.ty
  let k ← s.ksrc f.k.toNat
  .ok (rootM { word := packM 0x68 f, sa := some a, sk := k, va := if f.fnAt 2 2 == 2 then s.address f else 0,
               vc := s.task.stepno, reserve := if f.fnAt 2 2 == 1 then some (f.fnAt 4 2, 1) else none } f)

def execVred (f : FM) (s : State) : Host.Outcome State Fault Refusal := s.recordE f.ls.toNat (s.recRed f)

/-- R240: VFORCE makes a root and a leaf over what it writes. -/
def State.recForce (s : State) (f : FX) : Except Nat Rec := do
  let a ← s.vsrcTy f.a f.ty
  .ok { word := packX 0x6B f, sa := some a, vb := s.x f.b, vc := s.task.stepno,
        caps := some (s.x f.b, 0, s.task.stepno), parts := 2, leafDest := some f.d.toNat }

def execVforce (f : FX) (s : State) : Host.Outcome State Fault Refusal := s.recordE f.ls.toNat (s.recForce f)

/-- R242: KPOP. -/
def State.recKpop (s : State) (f : FX) : Except Nat Rec := do
  let a ← s.ksrc f.a.toNat
  let k ← s.ksrc f.k.toNat
  .ok { word := packX 0x6E f, sa := a, sk := k, reserve := some (f.d.toNat, f.fnAt 1 2 + 1) }

def execKpop (f : FX) (s : State) : Host.Outcome State Fault Refusal := s.recordE f.ls.toNat (s.recKpop f)

/-! ### VPASS, VMOV, LQOP -/

/-- R241: VPASS; `.wait` holds the thread's issue until every pass of the thread has completed. -/
def State.vpass (s : State) (f : FX) : Issue :=
  if !s.th.dsp.room 1 then .wait .drain false 0
  else
    let t := s.th.enqueue (s.newEntry (packX 0x6C f) 0 0 0)
    .done { s with th := if bitAt f.fn 0 then t.setWait true else t }.retire

def execVpass (f : FX) (s : State) : Host.Outcome State Fault Refusal := s.settle (s.vpass f)

/-- R185, R244: VMOV binds D to A's node. -/
def State.moveName (s : State) (f : FX) : State :=
  let r := s.th.rcp
  let r1 := if bitAt f.fn 0 then r.bindK (some f.d.toNat) (if f.a == 0 then none else r.knames[f.a.toNat]?.getD none)
    else r.bindV (some f.d.toNat) (r.vnames[f.a.toNat]?.getD none)
  { s with th.rcp := r1.collect }

/-- R185, R244: VMOV. It makes no node, and takes its place in the queue as any recording does (R25). -/
def State.vmov (s : State) (f : FX) : Issue :=
  if !s.th.dsp.room 1 then .wait .drain false 0
  else
    let s1 := s.moveName f
    .done { s1 with th := s1.th.enqueue (s.newEntry (packX 0x5F f) 0 0 0) }.retire

def execVmov (f : FX) (s : State) : Host.Outcome State Fault Refusal := s.settle (s.vmov f)

/-- R243: LQOP push. -/
def State.lqPush (s : State) (f : FX) : Issue :=
  let q := f.fnAt 3 2
  let l := s.th.lq q
  if 2 ^ 48 ≤ (s.x f.a).toNat || 16 ≤ l.slots.length then Issue.fault causeRange
  else .done { s with th := s.th.setLq q (l.reserve.2.fill l.reserve.1 (s.x f.a).toNat) }.retire

def execLqopPush (f : FX) (s : State) : Host.Outcome State Fault Refusal := s.settle (s.lqPush f)

/-- R243: LQOP pop; it takes its slot as it completes. -/
def State.lqPop (s : State) (f : FX) : Issue :=
  let q := f.fnAt 3 2
  match (s.th.lq q).oldest with
  | none => Issue.fault causeRange
  | some p =>
    match p.filled with
    | none => .wait .lqPop false 0
    | some n => { s with th := s.th.setLq q ((s.th.lq q).take p.no) }.finish f.d (BitVec.ofNat 64 n)

def execLqopPop (f : FX) (s : State) : Host.Outcome State Fault Refusal := s.settle (s.lqPop f)

/-- R243: LQOP drop. -/
def State.lqDrop (s : State) (f : FX) : Issue :=
  let q := f.fnAt 3 2
  match (s.th.lq q).oldest with
  | none => Issue.fault causeRange
  | some p => .done { s with th := s.th.setLq q ((s.th.lq q).take p.no) }.retire

def execLqopDrop (f : FX) (s : State) : Host.Outcome State Fault Refusal := s.settle (s.lqDrop f)

end Sys2Proof.Machine
end

