-- ==== Sys2Proof/Machine/Lanes.lean ====
section
/-! DEFINITION. Machine/Lanes.lean: the size of a pass (R30) and SETVL (R210). -/

namespace Sys2Proof.Machine

/-- R30: P of a pass launched now. A thread that holds no lane group then, because others hold all sixteen with passes in
flight, launches with the P of one group; the spec gives it none (DESIGN CHOICE, log entry 84). -/
def Thread.passSize (t : Thread) : Nat := 8 * max 1 (groupList t.sr.groups).length

/-- R210: the length SETVL asks for. -/
def State.setvlLen (s : State) (f : FJ) : Nat := if f.a != 0 then (s.x f.a).toNat else f.imm.toNat

/-- R210: SETVL. -/
def State.setvl (s : State) (f : FJ) : Issue :=
  let n := s.setvlLen f
  if 2 ^ 48 ≤ n then Issue.fault causeRange
  else
    let s1 := { s with th.sr.vl := BitVec.ofNat 64 n, th.sr.divided := s.th.sr.weight }
    (s1.recomputeLanes s.th.cluster s.th.pair).finish f.d (BitVec.ofNat 64 n)

def execSetvl (f : FJ) (s : State) : Host.Outcome State Fault Refusal := s.settle (s.setvl f)

end Sys2Proof.Machine
end

