-- ==== Sys2Proof/Machine/System.lean ====
section
/-! DEFINITION. Machine/System.lean: state registers (R171, R172), TRAP and BREAK (R173), CACHEOP (R175), TLBINV (R176),
PGSET (R177), PGCNT (R178), NQPOST (R180), WAITI (R181), QCTL (R182) and LEASEQ (R363). -/

namespace Sys2Proof.Machine

/-- R75: an S-mode opcode. -/
def State.privileged (s : State) (k : Host.Outcome State Fault Refusal) : Host.Outcome State Fault Refusal :=
  if s.th.smode then k else .next (s.trapCode causePrivileged)

/-! ### State registers (R172) -/

/-- R199: the operation a deferred fault stopped, as TRAPSTAT.STOP shows it. -/
def Thread.stoppedRef (t : Thread) : Option OpRef := if t.tr.stop then t.dsp.stopped else none

/-- A started engine operation, by its entry's order number. -/
def Dispatch.op? (d : Dispatch) (seq : Nat) : Option Op := d.ops.find? fun o => o.e.seq == seq

/-- What an engine is running for the thread. -/
def Dispatch.unit (d : Dispatch) (u : EngineUnit) : Option Op :=
  match u with
  | .matrix => d.matrix
  | .bload i => d.bloads[i]?
  | .ssb => d.ssb
  | .copy => d.copy

/-- The pass in a slot. -/
def Dispatch.pass (d : Dispatch) (i : PassSlot) : Option Pass :=
  match i with
  | .p0 => d.pass0
  | .p1 => d.pass1

/-- R199: VSTART. -/
def Thread.vstart (t : Thread) : Nat :=
  match t.stoppedRef with
  | some (.pass i) => (t.dsp.pass i).elim 0 fun p => p.start
  | some (.op n) => (t.dsp.op? n).elim 0 fun o => if o.dev then 0 else o.prog
  | some (.entry n) => (t.dsp.queue.find? fun e => e.seq == n).elim 0 fun e => e.prog
  | some .restored =>
    (match t.tr.src with
      | 1 | 5 => (t.dsp.pass (if t.tr.pidx then .p1 else .p0)).elim 0 fun p => p.start
      | 2 => t.dsp.matrix.elim 0 fun o => o.prog
      | 3 => t.dsp.ssb.elim 0 fun o => o.prog
      | 4 => t.dsp.copy.elim 0 fun o => o.prog
      | _ => 0)
  | none => 0

/-- R190: LQDEPTH. -/
def Lq.depth (q : Lq) : Nat :=
  (q.slots.filter fun t => t.filled.isSome && !t.taken).length * 256 + q.slots.length

/-- R78: DEVREV. -/
def devrev : W64 := 0x03000000 ||| (Config.stepping.setWidth 64 + 1)

/-- R279: SSINFO with DIRTY as the state stands. -/
def Thread.ssinfo (t : Thread) : W64 := (t.sr.ssinfo &&& ~~~0x4000000000000000) ||| (if t.ssb.dirty then 0x4000000000000000 else 0)

/-- R172: what MFS reads at a state-register number. -/
def State.mfsVal (s : State) (sn : Nat) : W64 :=
  let t := s.th
  let k := s.task
  let num (n : Nat) : W64 := BitVec.ofNat 64 n
  match sn with
  | 0x000 => t.sr.vl
  | 0x001 => num t.vstart
  | 0x002 => num (8 * t.sr.target)
  | 0x003 => num (t.sr.weight * 2 ^ 16) ||| t.sr.groups.setWidth 64
  | 0x004 => t.sr.tilegrant.setWidth 64
  | 0x005 => 128
  | 0x006 => t.sr.fctrl
  | 0x007 => t.sr.fstatus
  | 0x008 => t.sr.rseed
  | 0x009 => t.sr.recipemode
  | 0x00A => num t.rcp.free
  | 0x00B => num t.sr.browbase
  | 0x00C => num t.sr.browlim
  | 0x00D => t.sr.remoteflags
  | 0x00E => t.ssinfo
  | 0x010 | 0x011 | 0x012 | 0x013 => num (t.lq (sn - 0x010)).depth
  | 0x020 => num (s.cal.tick / periodTicks)
  | 0x021 => num s.cal.calnext
  | 0x022 => num s.cal.calkind
  | 0x023 => num s.cal.callen
  | 0x024 => s.cal.calrev.setWidth 64
  | 0x030 | 0x031 | 0x032 | 0x033 | 0x034 | 0x035 | 0x036 | 0x037 => (t.cc[sn - 0x030]?.getD 0).setWidth 64
  | 0x040 => t.sr.waitbudget
  | 0x050 => t.sr.coord
  | 0x051 => t.sr.stage
  | 0x052 => t.sr.shape
  | 0x053 => t.sr.taskarg
  | 0x061 => devrev
  | 0x100 => t.tr.trapvec
  | 0x101 => t.tr.trappc
  | 0x102 => t.tr.trapcause
  | 0x103 => t.tr.traproot
  | 0x104 => t.tr.trapnode
  | 0x105 => t.tr.trapelem
  | 0x106 => t.tr.trapaddr
  | 0x107 => t.tr.trapstat
  | 0x108 => t.tr.ctxarea
  | 0x109 => k.ptbase
  | 0x10A => k.ctxid
  | 0x10B => num k.part
  | 0x10C => k.stepno
  | 0x10D => k.stepdone
  | 0x10E => k.pgctrbase
  | 0x10F => k.pgthresh
  | 0x110 => k.nqbase
  | _ => 0

/-- R172: registers closed to U mode. -/
def closedToU (sn : Nat) : Bool := 0x100 ≤ sn

/-- R172: registers U mode may write. -/
def writableInU (sn : Nat) : Bool := [0x003, 0x006, 0x007, 0x008, 0x009, 0x00D, 0x040].contains sn

/-- R171: the registers whose read waits as R44 gives: VSTART, FSTATUS and SSINFO. -/
def waitsToRead (sn : Nat) : Bool := sn == 0x001 || sn == 0x007 || sn == 0x00E

/-- R171, R172: MFS. -/
def State.mfs (s : State) (f : FS) : Issue :=
  let sn := f.sn.toNat
  if !s.th.smode && closedToU sn then Issue.fault causePrivileged
  else if waitsToRead sn && s.th.flagsDue then .wait .flags false 0
  else s.finish f.d (s.mfsVal sn)

def execMfs (f : FS) (s : State) : Host.Outcome State Fault Refusal := s.settle (s.mfs f)

/-- R114, R349, R351, R371: NQBASE names the partition's queue: it is one register for the partition and its tasks (DEDUCED,
log entry 33). -/
def State.setNqbase (s : State) (v : W64) : State :=
  let part := s.task.part
  { s with
    tasks := s.tasks.map fun k => if k.id == s.th.task || k.part == part then { k with nqbase := v } else k
    parts := s.parts.map fun p => if p.conf.id == part then { p with conf.nqbase := v } else p }

/-- R4, R172: what MTS does at a state-register number it may write; reserved bits stay 0. PTBASE, CTXAREA and NQBASE have
no field map of their own: they keep all 64 bits written (DESIGN CHOICE, log entry 87). -/
def State.mtsVal (s : State) (sn : Nat) (v : W64) : State :=
  let word8 : W64 := v &&& ~~~7
  match sn with
  | 0x000 => { s with th.sr.vl := v &&& 0xFFFFFFFFFFFF }
  | 0x003 => { s with th.sr.weight := max 1 (slice v 16 4).toNat }
  | 0x006 => { s with th.sr.fctrl := v &&& 0x1F07 }
  | 0x007 => { s with th.sr.fstatus := v &&& 0x1F }
  | 0x008 => { s with th.sr.rseed := v }
  | 0x009 => { s with th.sr.recipemode := v &&& 3 }
  | 0x00D => { s with th.sr.remoteflags := v &&& 0x1F }
  | 0x030 | 0x031 | 0x032 | 0x033 | 0x034 | 0x035 | 0x036 | 0x037 =>
    { s with th.cc := s.th.cc.setIfInBounds (sn - 0x030) (slice v 0 16) }
  | 0x040 => { s with th.sr.waitbudget := v &&& 0xFFFFFFFFFFFF }
  | 0x100 => { s with th.tr.trapvec := word8 }
  | 0x101 => { s with th.tr.trappc := word8 }
  | 0x102 => { s with th.tr.trapcause := v &&& 0xF3F }
  | 0x103 => { s with th.tr.traproot := v }
  | 0x104 => { s with th.tr.trapnode := v }
  | 0x105 => { s with th.tr.trapelem := v }
  | 0x106 => { s with th.tr.trapaddr := v }
  | 0x107 => { s with th.tr.trapstat := (s.th.tr.trapstat &&& ~~~0x400) ||| (v &&& 0x400) }
  | 0x108 => { s with th.tr.ctxarea := v }
  | 0x109 => s.updTask fun k => { k with ptbase := v }
  | 0x10E => s.updTask fun k => { k with pgctrbase := v &&& 0xFFFFFFFFF0001 }
  | 0x10F => s.updTask fun k => { k with pgthresh := v &&& 0xFFFF }
  | 0x110 => s.setNqbase v
  | _ => s

/-- R171: MTS. A register read-only in S mode ignores the write. -/
def State.mts (s : State) (f : FS) : Issue :=
  let sn := f.sn.toNat
  if !s.th.smode && !writableInU sn then Issue.fault causePrivileged
  else .done (s.mtsVal sn (s.x f.a)).retire

def execMts (f : FS) (s : State) : Host.Outcome State Fault Refusal := s.settle (s.mts f)

/-- R44: MFS and MTS of FSTATUS. -/
def State.fstatus (s : State) (write : Bool) (f : FS) : Issue :=
  if s.th.flagsDue then .wait .flags false 0
  else if write then .done (s.mtsVal 0x007 (s.x f.a)).retire
  else s.finish f.d s.th.sr.fstatus

def execFstatusAccess (write : Bool) (f : FS) (s : State) : Host.Outcome State Fault Refusal :=
  s.settle (s.fstatus write f)

/-- R253: the B-store range would be out of order, too large, or another active thread's. -/
def State.browBad (s : State) (base lim : Nat) : Bool :=
  lim < base || 16384 < lim ||
    (s.activeThreads s.th.cluster s.th.pair).any fun t =>
      t.slot != s.th.slot && t.sr.browbase < lim && base < t.sr.browlim && t.sr.browbase < t.sr.browlim

/-- R253: MTS of BROWBASE or BROWLIM. -/
def State.browWrite (s : State) (f : FS) : Issue :=
  let isBase : Bool := f.sn == 0x00B
  let v := s.x f.a
  let base := if isBase then (slice v 0 14).toNat else s.th.sr.browbase
  let lim := if isBase then s.th.sr.browlim else (slice v 0 15).toNat
  if !s.th.smode then Issue.fault causePrivileged
  else if s.browBad base lim then Issue.fault causeRange
  else .done { s with th.sr.browbase := base, th.sr.browlim := lim }.retire

def execBrowbaseWrite (f : FS) (s : State) : Host.Outcome State Fault Refusal := s.settle (s.browWrite f)

/-! ### TRAP and BREAK (R173) -/

/-- R163: TRAP's report names the next word. -/
def execTrap (f : FJ) (s : State) : Host.Outcome State Fault Refusal :=
  .next (s.takeTrap (s.th.pc + 8)
    { TrapInfo.plain causeSoftware 0 with root := s.th.pc, elem := f.imm.setWidth 64 } false s.th.faultHeld false false)

def execBreak (f : FJ) (s : State) : Host.Outcome State Fault Refusal :=
  .next (s.trap { TrapInfo.plain causeBreakpoint 0 with elem := f.imm.setWidth 64 })

/-! ### CACHEOP (R175) -/

/-- The 64 KiB pages that `n` bytes from an address touch. -/
def pagesOf (a n : Nat) : List Nat :=
  if n == 0 then [] else (List.range ((a + n - 1) / 65536 - a / 65536 + 1)).map fun i => (a / 65536 + i) * 65536

/-- R175: the physical lines that the named bytes lie in; a page that does not translate is skipped. -/
def State.linesNamed (s : State) (a n : Nat) (pa : Nat) : Bool :=
  (pagesOf a n).any fun v =>
    match s.walk s.task.ptbase accRead (BitVec.ofNat 64 v) with
    | .ok w =>
      let p := s.readPa ⟨w.leafPa, w.leaf, leafAddr w (BitVec.ofNat 64 v)⟩
      leafV w.leaf && p ≤ pa && pa < p + 65536 && a < v + (pa - p) + 64 && v + (pa - p) < a + n
    | .error _ => false

/-- R175: drops instruction-cache lines of the pair, and what its threads have fetched of them; the thread in focus
fetches its next word again. -/
def State.dropLines (s : State) (gone : Nat → Bool) : State :=
  let p := s.pair
  let s1 := s.setPair { p with icache := p.icache.filter fun l => !gone l.1 }
  let s2 := s1.mapThreads (fun t => t.cluster == s.th.cluster && t.pair == s.th.pair) fun t =>
    match t.fe.line with
    | some l => if gone l.pa then { t with fe.line := none } else t
    | none => t
  { s2 with th.fe.line := none }

/-- R175: CACHEOP. It waits for every entry dispatched, of whichever mode, stopped ones too (log entry 57). -/
def State.cacheop (s : State) (f : FM) : Issue :=
  let all : Bool := bitAt f.fn 0
  if !all && 2 ^ 32 < (s.x f.b).toNat then Issue.fault causeRange
  else if s.th.dsp.busy || !s.th.fe.posted.isEmpty then .wait .drain false 0
  else if all then .done (s.dropLines fun _ => true).retire
  else .done (s.dropLines (s.linesNamed (s.address f).toNat (s.x f.b).toNat)).retire

def execCacheop (f : FM) (s : State) : Host.Outcome State Fault Refusal := s.settle (s.cacheop f)

/-! ### TLBINV (R176) -/

/-- R176: whether TLBINV names a translation, by its context and its virtual page number. A `.range` over part of a 512 MiB page
names the translations of the 64 KiB parts it touches alone, not those of the page's other parts (DESIGN CHOICE, log entry
115). -/
def State.tlbNames (s : State) (f : FX) (c : Ctx) (vpn : Nat) : Bool :=
  let a := (s.x f.a).toNat % 2 ^ 55
  let n := (s.x f.b).toNat
  match f.fnAt 0 2 with
  | 0 => c.part == s.ctx.part && c.id == s.ctx.id && n != 0 && a / 65536 ≤ vpn && vpn ≤ (a + n - 1) / 65536
  | 1 => c.part == s.ctx.part && c.id == s.ctx.id
  | _ => c.part == s.ctx.part

/-- R176: the cached translations TLBINV leaves. -/
def State.tlbLeft (s : State) (f : FX) : List Xlat := s.tlb.filter fun x => !s.tlbNames f x.ctx x.vpn

/-- The context of a thread (R116). -/
def State.ctxOf (s : State) (t : Thread) : Ctx :=
  ⟨(s.taskOf t.task).part, some (s.taskOf t.task).ctxid, (s.taskOf t.task).ptbase⟩

/-- R104: a posted store of some thread still goes where a translation that TLBINV names has led it. -/
def State.tlbInUse (s : State) (f : FX) : Bool :=
  s.threads.any fun t => t.fe.posted.any fun p => s.tlbNames f (s.ctxOf t) (p.va % 2 ^ 55 / 65536)

/-- R104, R176: TLBINV completes when no copy of the translations is left, the copies that posted stores hold too. -/
def execTlbinv (f : FX) (s : State) : Host.Outcome State Fault Refusal :=
  s.privileged (s.settle
    (if s.tlbInUse f then .wait .drain false 0 else .done { s with tlb := s.tlbLeft f }.retire))

/-! ### PGSET (R177, R340) -/

/-- R112: the fields of a leaf that a lease keeps: VER, SKEW, SD, CLS and V. -/
def leafLocked : W64 := 0x3F1

/-- R112: a live lease covers bytes that a leaf maps. -/
def State.leased (s : State) (first size : Nat) : Bool :=
  s.tasks.any fun t => t.ptbase == s.task.ptbase &&
    ((t.ranges.any fun r => r.2.len != 0 && r.2.base < first + size && first < r.2.base + r.2.len) ||
      (t.kernel.codelen != 0 && t.kernel.entry.toNat < first + size &&
        first < t.kernel.entry.toNat + t.kernel.codelen))

/-- R177: drops every cached copy of the entry at an address. -/
def State.dropXlat (s : State) (leafPa : Nat) : State := { s with tlb := s.tlb.filter fun x => x.leafPa != leafPa }

/-- R115: a write already translated through the entry at an address is not yet performed. -/
def State.writesThrough (s : State) (leafPa : Nat) : Bool :=
  s.threads.any fun t => t.fe.posted.any fun p => p.leafPa == leafPa

/-- R345, R351, R359: a lease that waits for pages is tried again after a PGSET of its partition. -/
def Letting.again (l : Letting) : Letting := { l with retry := true }

def State.pgsetSeen (s : State) : State :=
  let p := s.task.part
  { s with
    queues := s.queues.map fun u =>
      if u.part == p then { u with fetched := u.fetched.map fun f => { f with letting := f.letting.again } } else u
    tasks := s.tasks.map fun t => if t.part == p then { t with letting := t.letting.map Letting.again } else t }

/-- R177: the change of the entry made; the word completes with the old leaf in xD, at once or, where the change set WB,
when no write through the old entry is left. -/
def State.pgsetDone (s : State) (f : FX) (leafPa : Nat) (old new : W64) : Host.Outcome State Fault Refusal :=
  let s1 := (((s.deviceWrite leafPa (leBytes 8 new.toNat))).dropXlat leafPa).pgsetSeen
  if leafWb new && !leafWb old && s1.writesThrough leafPa then .next (s1.beginWait .pageTable false old.toNat)
  else s1.settle (s1.finish f.d old)

/-- PGSET has made its change and waits for writes through the old entry: the old leaf. -/
def State.pgsetWaiting (s : State) : Option W64 :=
  match s.th.fe.wait with
  | some w => if w.pc == s.th.pc && w.kind == .pageTable then some (BitVec.ofNat 64 w.aux) else none
  | none => none

/-- R177, R368: the entries a PGSET reaches are read and written at their home, over the link where that is the host; none
while a resource must be waited for. -/
def State.pgsetReach (s : State) (va : W64) : Option State :=
  match s.walkReads (s.walkPath s.task.ptbase va) with
  | none => none
  | some s1 =>
    match s1.walk s.task.ptbase accRead va with
    | .error _ => some s1
    | .ok w => if isHost w.leafPa && !s1.shutAt w.leafPa then some (s1.crossLink 8) else some s1

/-- R177: PGSET, the change given by a function of the old leaf. -/
def State.pgset (s : State) (f : FX) (change : W64 → W64) (norm : Bool) : Host.Outcome State Fault Refusal :=
  let va := s.x f.a
  let none_ : Issue := .trap (TrapInfo.at causeDataAccess 0 va)
  match s.pgsetWaiting with
  | some old =>
    (match s.walk s.task.ptbase accRead va with
      | .ok w => if s.writesThrough w.leafPa then .next s else s.settle (s.finish f.d old)
      | .error _ => s.settle (s.finish f.d old))
  | none =>
    s.releasing true fun s =>
      if !canonical va then s.settle none_
      else
        match s.pgsetReach va with
        | none => s.settle (.wait .drain false 0)
        | some s =>
        match s.walk s.task.ptbase accRead va with
        | .error (.trap i) => s.settle (.trap (if i.code == causePoison then i else TrapInfo.at causeDataAccess 0 va))
        | .error _ => s.settle none_
        | .ok w =>
          if !leafV w.leaf then s.settle none_
          else if norm then
            if !leafVer w.leaf then s.settle (Issue.fault causeRange)
            else if s.copyShut ⟨w.leafPa, w.leaf, leafFrame w.leaf⟩ then s.settle (.wait .drain false 0)
            else
              let s1 := ((s.normalise w.leafPa).dropXlat w.leafPa).pgsetSeen
              s1.settle (s1.finish f.d w.leaf)
          else
            let size := if w.big then 2 ^ 29 else 2 ^ 16
            let new := change w.leaf
            if (w.leaf ^^^ new) &&& leafLocked != 0 && s.leased (va.toNat / size * size) size then
              s.settle (Issue.fault causeRange)
            else s.pgsetDone f w.leafPa w.leaf new

def execPgsetSet (f : FX) (s : State) : Host.Outcome State Fault Refusal :=
  s.privileged (s.pgset f (fun _ => s.x f.b) false)

def execPgsetNorm (f : FX) (s : State) : Host.Outcome State Fault Refusal := s.privileged (s.pgset f id true)

def execPgsetWbset (f : FX) (s : State) : Host.Outcome State Fault Refusal :=
  s.privileged (s.pgset f (fun e => e ||| 0x800) false)

/-! ### PGCNT (R178) -/

/-- R122, R178: PGCNT, an atomic access of the counter: a poisoned block faults and is left as it is. TRAPADDR is the
block's address, which PGCNT reaches as a physical one. -/
def State.pgcnt (s : State) (f : FX) : Issue :=
  let pa := (s.x f.a).toNat
  if pa % 65536 != 0 || !isHost pa || (slice (s.x f.a) 40 11) != 0 then Issue.fault causeRange
  else if !bitAt s.task.pgctrbase 0 then s.finish f.d 0
  else
    let at_ := leafFrame s.task.pgctrbase + 2 * (pa % 2 ^ 40 / 65536)
    let v := leNat (s.physRead at_ 2)
    if s.shutAt at_ then .wait .drain false 0
    else if s.poisoned at_ then .trap (TrapInfo.at causePoison accAtomic (BitVec.ofNat 64 (at_ / 64 * 64)))
    else (if bitAt f.fn 0 then s.deviceWrite at_ [0, 0] else s).finish f.d (BitVec.ofNat 64 v)

def execPgcnt (f : FX) (s : State) : Host.Outcome State Fault Refusal := s.privileged (s.settle (s.pgcnt f))

/-! ### NQPOST (R180) and WAITI (R181) -/

/-- R180: NQPOST; the post is performed before the next word issues. -/
def State.nqpost (s : State) (f : FM) : Issue :=
  let va := s.address f
  match s.sAccess accWrite false va 64 with
  | .error i => i
  | .ok (x, s1) =>
    if leafCls x.leaf != clsCoh then .trap (TrapInfo.at causeDataAccess accWrite va)
    else if s.th.fe.posted.any fun p => p.blocks va.toNat 64 false then .wait .drain false 0
    else
      let h := s1.held false x.pa 64
      if h.1 then .wait .drain false 0
      else
        match h.2.load accWrite x va 64 with
        | .error e => e.issue va accWrite
        | .ok (b, s2) =>
          let size := leNat ((b.drop 8).take 4)
          if (s.x f.d).toNat % 2 ^ 16 < 0x8000 || size < 4 || 16 < size then Issue.fault causeRange
          else .done (s2.postNow (s2.readPa x) (s.x f.d) (s.x f.b)).retire

def execNqpost (f : FM) (s : State) : Host.Outcome State Fault Refusal := s.privileged (s.settle (s.nqpost f))

/-- PROD of the queue at NQBASE (R179). -/
def State.nqProd (s : State) : Nat := leNat (s.physRead (s.task.nqbase.toNat + 16) 4)

/-- R181: how many ticks WAITI waits. -/
def State.waitiTicks (s : State) (f : FJ) : Nat := if f.imm == 0 then s.budget else f.imm.toNat

/-- WAITI's wait, if the word at the PC is in it. -/
def State.waitiWait (s : State) : Option Wait :=
  match s.th.fe.wait with
  | some w => if w.pc == s.th.pc && w.kind == .notification then some w else none
  | none => none

/-- R181: WAITI. Its wait holds PROD as it was when the word issued. -/
def State.waiti (s : State) (f : FJ) : Host.Outcome State Fault Refusal :=
  match s.waitiWait with
  | none => .next { s with th.fe.wait := some ⟨s.th.pc, .notification, s.now, some (s.waitiTicks f), s.nqProd⟩ }
  | some w => if s.nqProd != w.aux then s.settle (s.finish f.d 1) else .next s

def execWaiti (f : FJ) (s : State) : Host.Outcome State Fault Refusal := s.privileged (s.waiti f)

/-- A WAITI of the thread in focus whose ticks have passed. -/
def State.waitiOver (s : State) : Bool :=
  match s.waitiWait with
  | some w => w.budget.getD 0 ≤ s.now - w.since && s.nqProd == w.aux
  | none => false

/-- R181: a WAITI ends with xD = 0. -/
def execWaitiExpiry (s : State) : Host.Outcome State Fault Refusal :=
  if s.th.run == .running && s.waitiOver then
    match s.nextWord with
    | .ok (.waiti f) => s.settle (s.finish f.d 0)
    | _ => .next s
  else .next s

/-! ### QCTL (R182) -/

/-- R182: a QCTL on a configured queue of the partition. -/
def State.qctl (s : State) (f : FX) (k : Queue → Except Nat (W64 × Queue)) : Host.Outcome State Fault Refusal :=
  let a := s.x f.a
  s.privileged <| s.settle <|
    if slice a 6 58 != 0 then Issue.fault causeRange
    else
      match s.queue? s.task.part a.toNat with
      | none => Issue.fault causeRange
      | some u =>
        if !u.conf.en then Issue.fault causeRange
        else
          match k u with
          | .error c => Issue.fault c
          | .ok (v, u1) => (s.mapQueue u.part u.q fun _ => u1).finish f.d v

/-- Records rung for and not fetched. -/
def Queue.pending (u : Queue) : Nat := (u.prod + 2 ^ 32 - u.cons) % 2 ^ 32

/-- R342: the queue fetches, which it does not until PROD is valid. -/
def Queue.fetches (u : Queue) : Bool := u.fetching && u.pending ≤ 2 ^ u.conf.size

/-- R182: what `.rd` reads. -/
def Queue.summary (u : Queue) : W64 :=
  BitVec.ofNat 64 (u.pending % 2 ^ 17 * 2 ^ 32 + u.conf.weight * 256 + u.conf.prio * 16 +
    (if u.fetches then 1 else 0))

def execQctlRd (f : FX) (s : State) : Host.Outcome State Fault Refusal := s.qctl f fun u => .ok (u.summary, u)

def execQctlStop (f : FX) (s : State) : Host.Outcome State Fault Refusal :=
  s.qctl f fun u => .ok (0, { u with fetching := false })

def execQctlStart (f : FX) (s : State) : Host.Outcome State Fault Refusal :=
  s.qctl f fun u => .ok (0, { u with fetching := true })

def execQctlSetw (f : FX) (s : State) : Host.Outcome State Fault Refusal :=
  s.qctl f fun u =>
    let w := (slice (s.x f.b) 0 8).toNat
    if w == 0 then .error causeRange else .ok (BitVec.ofNat 64 u.conf.weight, { u with conf.weight := w })

def execQctlSetp (f : FX) (s : State) : Host.Outcome State Fault Refusal :=
  s.qctl f fun u =>
    let v := s.x f.b
    if slice v 2 62 != 0 then .error causeRange
    else .ok (BitVec.ofNat 64 u.conf.prio, { u with conf.prio := v.toNat })

/-! ### LEASEQ (R363) -/

/-- R363: what LEASEQ says of `n` bytes. -/
def Task.leaseq (t : Task) (a n : Nat) : W64 :=
  let i := t.ranges.foldl (init := (none : Option Nat)) fun m r =>
    if r.2.base ≤ a && a + n ≤ r.2.base + r.2.len then some (match m with
      | some j => min j r.1
      | none => r.1) else m
  let code := t.inCode a n
  if i.isNone && !code then 0
  else
    (1 <<< 63) ||| (if t.leaseOk true a n then 1 <<< 62 else 0) ||| (if code then 1 <<< 61 else 0) |||
      BitVec.ofNat 64 (i.getD 0)

def execLeaseq (f : FX) (s : State) : Host.Outcome State Fault Refusal :=
  s.settle (s.finish f.d (s.task.leaseq (s.x f.a).toNat (max (s.x f.b).toNat 1)))

end Sys2Proof.Machine
end

