-- ==== Sys2Proof/Machine/Sync.lean ====
section
/-! DEFINITION. Machine/Sync.lean: FENCE (R297, R298), LDAQ and STRL (R299), atomics (R300 to R305), VAMO's recording
(R306), and the communication registers (R308 to R311). -/

namespace Sys2Proof.Machine

/-! ### FENCE -/

/-- R305: REMOTEFLAGS merges into FSTATUS. -/
def State.mergeRemote (s : State) : State :=
  { s with th.sr.fstatus := s.th.sr.fstatus ||| s.th.sr.remoteflags, th.sr.remoteflags := 0 }

/-- R297: `.vv` takes a dispatch entry, after the launch of pending roots (R296). -/
def State.fenceVv (s : State) (f : FX) : Issue :=
  if !s.th.dsp.room (if s.th.hasPending then 2 else 1) then .wait .drain false 0
  else
    let s1 := s.flushRoots
    .done { s1 with th := s1.th.enqueue (s.newEntry (packX 0x38 f) 0 0 0) }.retire

/-- R297: FENCE. -/
def execFence (f : FX) (s : State) : Host.Outcome State Fault Refusal :=
  match f.fnAt 0 2 with
  | 0 =>
    if s.th.fe.posted.isEmpty then s.settle (.done s.mergeRemote.retire) else s.settle (.wait .fence false 0)
  | 1 => s.releasingAs State.fenceWait false fun s => s.settle (.done s.mergeRemote.retire)
  | 2 => s.settle (s.fenceVv f)
  | _ => s.releasingAs State.fenceWait true fun s => s.settle (.done s.mergeRemote.retire)

/-- R13, R297: the `.vv` fence at the head of the queue may start: everything started before it is over. -/
def Thread.fenceFree (t : Thread) : Bool := t.dsp.passes.isEmpty && t.dsp.ops.isEmpty

/-! ### LDAQ and STRL -/

/-- R299: LDAQ. -/
def execLdaq (f : FM) (s : State) : Host.Outcome State Fault Refusal := s.settle (s.loadWord f)

/-- R151, R302: the checks of a release, which meets the ARIT as a store without `.late` before it launches roots: a
pending leaf faults. What it would stall on is waited for once the roots are launched. -/
def State.releaseCheck (s : State) (kind : Nat) (va : W64) (n : Nat) (c : Except Issue (Xl × State)) : Except Issue Unit :=
  match c with
  | .error i => .error i
  | .ok _ =>
    match s.th.meetArit (Rng.span va.toNat n) true false with
    | .hazard => .error (.trap (TrapInfo.at causeHazard kind va))
    | _ => .ok ()

/-- R296, R299: a posted release: pending roots are launched first, and the write is then posted with the order number
of the dispatched work it follows. `post` says how it is posted. With 32 posted the word is not ready (R150). -/
def State.postRelease (s : State) (check : Except Issue Unit) (post : State → Nat → Except Issue State) :
    Host.Outcome State Fault Refusal :=
  if 32 ≤ s.th.fe.posted.length then .next (s.beginWait .drain false 0)
  else
    match check with
    | .error i => s.settle i
    | .ok _ =>
      if s.th.hasPending && !s.th.dsp.room 1 then .next (s.beginWait .drain false 0)
      else
        let s1 := s.flushRoots
        match post s1 s1.th.dsp.nextSeq with
        | .ok s2 => s.settle (.done s2.retire)
        | .error (.wait .drain _ _) => .next (s1.beginWait .fence false 0)
        | .error i => s.settle i

/-- R299: STRL. -/
def execStrl (f : FM) (s : State) : Host.Outcome State Fault Refusal :=
  let va := s.address f
  let bytes := leBytes (bytesOf f.ty.toNat) (s.x f.d).toNat
  s.postRelease (s.releaseCheck accWrite va bytes.length (s.sCheck accWrite va bytes.length)) fun s1 n => s1.sStore false va bytes (some n)

/-! ### Atomics -/

/-- What an atomic stores (R302, R304): the new bits and the flags. -/
def atomicVal (op ty : Nat) (old x : Nat) : Nat × Flags :=
  match op with
  | 0 => (maskBits ty x, 0)
  | 1 =>
    if ty < 8 then (wrapInt ty (intOf ty old + intOf ty x), 0)
    else
      let v := addNum 0 (valueOf ty old) (valueOf ty x)
      let a := valueOf ty old
      let b := valueOf ty x
      let r := arith ty rne v.1 (v.2 ||| flagIf (a.isNan || b.isNan) flagIv)
      (r.bits, r.flags)
  | 2 => (maskBits ty (old &&& x), 0)
  | 3 => (maskBits ty (old ||| x), 0)
  | 4 => (maskBits ty (old ^^^ x), 0)
  | 5 => (if intOf ty old ≤ intOf ty x then maskBits ty old else maskBits ty x, 0)
  | _ => (if intOf ty old ≤ intOf ty x then maskBits ty x else maskBits ty old, 0)

/-- A checked access that may be performed: clear of the ARIT (R151), of earlier posted stores (R125) and of its
resource's slot (R368). -/
def State.readyOf (s : State) (kind : Nat) (va : W64) (n : Nat) (c : Except Issue (Xl × State)) :
    Except Issue (Xl × State) :=
  match c with
  | .error i => .error i
  | .ok (x, s1) =>
    match s.th.meetArit (Rng.span va.toNat n) (kind != accRead) false with
    | .hazard => .error (.trap (TrapInfo.at causeHazard kind va))
    | .stall => .error (.wait .drain false 0)
    | .go =>
      if s.th.loadWaits va.toNat n false then .error (.wait .drain false 0)
      else
        let h := s1.held false x.pa n
        if h.1 then .error (.wait .drain false 0) else .ok (x, h.2)

/-- An atomic that may be performed. -/
def State.atomicReady (s : State) (va : W64) (n : Nat) : Except Issue (Xl × State) :=
  s.readyOf accAtomic va n (s.atomicCheck va n)

/-- R300: the read-modify-write of `n` bytes at a translated address that is not versioned, which the host does not refuse:
what it read and the state after it. `f` gives the bits to store, or none to store nothing. It counts once (R113). -/
def State.rmwNow (s : State) (x : Xl) (va : W64) (n : Nat) (f : Nat → Option Nat) : Except Stop (Nat × State) :=
  match s.loadNow false accAtomic x va n with
  | .error e => .error e
  | .ok (b, s1) =>
    match f (leNat b) with
    | none => .ok (leNat b, s1)
    | some v => .ok (leNat b, (s1.physWrite x.pa (leBytes n v)).spread (s1.th.cluster, s1.th.pair) x.pa (leBytes n v))

/-- The same, unless the host refuses it. -/
def State.rmw (s : State) (x : Xl) (va : W64) (n : Nat) (f : Nat → Option Nat) : Except Stop (Nat × State) :=
  let h := s.hostRefuses x
  if h.1 then .error (accessFault accAtomic va) else h.2.rmwNow x va n f

/-- R302, R304: AMO once it may be performed. -/
def State.amoNow (s : State) (f : FM) : Issue :=
  let ty := f.ty.toNat
  let va := s.address f
  let n := bytesOf ty
  let op := f.fnAt 0 3
  match s.atomicReady va n with
  | .error i => i
  | .ok (x, s1) =>
    match s1.rmw x va n fun old => some (atomicVal op ty old (s.x f.b).toNat).1 with
    | .error e => e.issue va accAtomic
    | .ok (old, s2) =>
      let fl := (atomicVal op ty old (s.x f.b).toNat).2
      if enabledFlags s.fctrl fl != 0 then Issue.fault causeFp
      else .done (((s2.raiseFlags fl).setX f.d (extendTo64 ty old)).blockLoad s va accAtomic).retire

/-- An atomic with release: its checks, then the release, then the atomic. -/
def State.withRelease (s : State) (rel : Bool) (va : W64) (n : Nat) (k : State → Issue) :
    Host.Outcome State Fault Refusal :=
  if !rel then s.settle (k s)
  else
    match s.releaseCheck accAtomic va n (s.atomicCheck va n) with
    | .error i => s.settle i
    | .ok _ => s.releasing true fun s => s.settle (k s)

/-- R302: AMO. -/
def execAmo (f : FM) (s : State) : Host.Outcome State Fault Refusal :=
  s.withRelease (bitAt f.fn 4) (s.address f) (bytesOf f.ty.toNat) fun s => s.amoNow f

/-- R302: AMOW is posted. -/
def State.amowNow (s : State) (f : FM) (release : Option Nat) : Except Issue State :=
  let ty := f.ty.toNat
  let va := s.address f
  let n := bytesOf ty
  if 32 < s.th.fe.posted.length + 1 then .error (.wait .drain false 0)
  else
    match s.atomicCheck va n with
    | .error i => .error i
    | .ok (x, s1) =>
      match s.th.meetArit (Rng.span va.toNat n) true false with
      | .hazard => .error (.trap (TrapInfo.at causeHazard accAtomic va))
      | .stall => .error (.wait .drain false 0)
      | .go =>
        match s1.poisonIn x.pa n with
        | some _ => .error (.trap (TrapInfo.at causePoison accAtomic (va &&& ~~~63)))
        | none =>
          .ok (s1.addPosted (s1.postedOf x va (leBytes n (s.x f.b).toNat) (.atomic (f.fnAt 0 3) ty) release))

def execAmow (f : FM) (s : State) : Host.Outcome State Fault Refusal :=
  if bitAt f.fn 4 then
    let va := s.address f
    let n := bytesOf f.ty.toNat
    s.postRelease (s.releaseCheck accAtomic va n (s.atomicCheck va n)) fun s1 n => s1.amowNow f (some n)
  else
    match s.amowNow f none with
    | .error i => s.settle i
    | .ok s1 => s.settle (.done s1.retire)

/-- R303: CAS once it may be performed. -/
def State.casNow (s : State) (f : FM) : Issue :=
  let ty := f.ty.toNat
  let va := s.address f
  let n := bytesOf ty
  match s.atomicReady va n with
  | .error i => i
  | .ok (x, s1) =>
    match s1.rmw x va n fun old => if old == maskBits ty (s.x f.d).toNat then some (s.x f.b).toNat else none with
    | .error e => e.issue va accAtomic
    | .ok (old, s2) => .done ((s2.setX f.d (extendTo64 ty old)).blockLoad s va accAtomic).retire

/-- R303: CAS. -/
def execCas (f : FM) (s : State) : Host.Outcome State Fault Refusal :=
  s.withRelease (bitAt f.fn 1) (s.address f) (bytesOf f.ty.toNat) fun s => s.casNow f

/-- R306: VAMO. -/
def State.recAmo (s : State) (f : FM) : Except Nat Rec := do
  let a ← s.vsrcTy f.d f.ty
  let b ← s.vsrcInt f.b
  let k ← s.ksrc f.k.toNat
  .ok (rootM { word := packM 0xC3 f, sa := some a, sb := some b, sk := k, va := s.address f, vc := s.task.stepno } f)

def execVamo (f : FM) (s : State) : Host.Outcome State Fault Refusal := s.recordE f.ls.toNat (s.recAmo f)

/-! ### Posted stores and AMOWs performed -/

/-- R150, R302: what a posted store or AMOW does when it is performed. A store with a step that is over is dropped
(R119), and its fault is delivered at the thread's next boundary. -/
def State.performPosted (s : State) (p : Posted) : State :=
  let gone := { s with th.fe.posted := s.th.fe.posted.filter fun q => q.seq != p.seq }
  let drop (code acc : Nat) : State :=
    { gone with th.fe.dropped := gone.th.fe.dropped ++ [⟨p.seq, p.pc, BitVec.ofNat 64 p.va, code, acc, p.smode⟩] }
  let va := BitVec.ofNat 64 p.va
  match p.kind with
  | .store =>
    match gone.store p.xl va p.stepno p.bytes with
    | .ok s1 => s1
    | .error (.trap i) => drop i.code accWrite
    | .error _ => drop causeStep accWrite
  | .atomic op ty =>
    match gone.rmw p.xl va p.bytes.length fun old => some (atomicVal op ty old (leNat p.bytes)).1 with
    | .error (.trap i) => drop i.code accAtomic
    | .error _ => drop causePoison accAtomic
    | .ok (old, s1) =>
      { s1 with th.sr.remoteflags := s1.th.sr.remoteflags ||| (atomicVal op ty old (leNat p.bytes)).2.setWidth 64 }

/-- R126, R234, R299: the accesses a release follows are all performed: earlier posted stores, and dispatched work below its
order number, for an S-mode release the U-mode entries not started apart (R272). A pre-empted thread's wait in its image, so
its release waits for it to resume. -/
def Thread.releaseFree (t : Thread) (p : Posted) : Bool :=
  match p.release with
  | none => true
  | some n =>
    t.run != .preempted && !(t.fe.posted.any fun q => q.seq < p.seq) &&
      !(t.dsp.queue.any fun e => e.seq < n && (e.smode || !p.smode)) &&
      !(t.dsp.passes.any fun q => q.seq < n) && !(t.dsp.ops.any fun o => o.e.seq < n)

/-- A posted store of the thread in focus that may be performed now, by its place in the list. -/
def State.postedReady (s : State) (i : Nat) : Option Posted :=
  match s.th.fe.posted[i]? with
  | some p => if s.th.postedFree p && s.th.releaseFree p then some p else none
  | none => none

/-- R150: POSTED_STORE_PERFORMED. A request for a resource a slot holds waits (R368). -/
def execPostedStorePerformed (i : Nat) (s : State) : Host.Outcome State Fault Refusal :=
  match s.postedReady i with
  | none => .next s
  | some p =>
    let h := s.heldWrite p.dev p.xl p.bytes.length
    if h.1 then .next h.2 else .next (h.2.performPosted p)

/-- R381: the load of the thread in focus stands on the link. -/
def State.loadOut (s : State) : Bool := s.link.out.any fun o => o.req == .load s.th.hw

/-- R150, R381: the data of the thread's blocking access may return: not while the link retrains, or before the access has
been performed. -/
def State.dataDue (s : State) : Bool :=
  match s.th.fe.loadWait with
  | some w => !w.unsent && !(s.link.exchanging && s.loadOut)
  | none => false

/-- R150: LOAD_DATA_RETURN. The host has answered what stood on the link (R379), and its counts go on. -/
def execLoadDataReturn (s : State) : Host.Outcome State Fault Refusal :=
  if s.dataDue then .next ({ s with th.fe.loadWait := none }.endLoads (· == s.th.hw)) else .next s

/-- R155: the back-off of a poll-form LOOP is over. -/
def execPollBackoffEnd (s : State) : Host.Outcome State Fault Refusal :=
  match s.th.fe.backoff with
  | some t => if t ≤ s.now then .next { s with th.fe.backoff := none } else .next s
  | none => .next s

/-! ### Communication registers -/

/-- A communication set with every register zero (R308). -/
def Comm.zero (cluster task : Nat) : Comm := ⟨cluster, task, 0, [], Vector.replicate 64 0, []⟩

/-- R308: the set of the thread in focus: its task's, on its own cluster. -/
def State.comm (s : State) : Comm :=
  (s.comms.find? fun c => c.cluster == s.th.cluster && c.task == s.th.task).getD (Comm.zero s.th.cluster s.th.task)

/-- Writes a set back. -/
def State.setComm (s : State) (c : Comm) : State :=
  { s with comms := c :: s.comms.filter fun d => !(d.cluster == c.cluster && d.task == c.task) }

/-- R309, R311: another thread's wait is over and its word has completed. -/
def State.completeAt (s : State) (h : HwId) : State := s.mapThreads (fun t => t.hw == h) fun t =>
  { t with pc := t.pc + 8, fe.wait := none }

/-- The word at the PC is in a wait of a kind. -/
def State.waitingFor (s : State) (k : WaitKind) : Bool :=
  match s.th.fe.wait with
  | some w => w.pc == s.th.pc && w.kind == k
  | none => false

/-- The register a communication word names. -/
def commReg (f : FJ) : Nat := (slice f.imm 0 6).toNat

/-- R309: SEMTAS. -/
def State.semtas (s : State) (n : Nat) : Host.Outcome State Fault Refusal :=
  let c := s.comm
  if s.waitingFor .semaphore then .next s
  else if !bitAt c.sems n && !(c.waiters.any fun w => w.1 == n) then
    s.settle (.done (s.setComm { c with sems := c.sems ||| BitVec.twoPow 64 n }).retire)
  else if s.budget == 0 then .next (s.trap (timeoutInfo .semaphore 0))
  else .next ((s.setComm { c with waiters := c.waiters ++ [(n, s.th.hw)] }).beginWait .semaphore true n)

def execSemtas (f : FJ) (s : State) : Host.Outcome State Fault Refusal := s.semtas (commReg f)

/-- R309: SEMCLR hands the semaphore to its oldest waiter, or clears it. -/
def State.semclr (s : State) (n : Nat) : State :=
  let c := s.comm
  match c.waiters.find? fun w => w.1 == n with
  | some w => (s.setComm { c with waiters := c.waiters.erase w }).completeAt w.2
  | none => s.setComm { c with sems := c.sems &&& ~~~(BitVec.twoPow 64 n) }

def execSemclr (f : FJ) (s : State) : Host.Outcome State Fault Refusal :=
  s.releasing true fun s => s.settle (.done (s.semclr (commReg f)).retire)

/-- R310: CDRD. -/
def execCdrd (f : FJ) (s : State) : Host.Outcome State Fault Refusal :=
  s.settle (s.finish f.d (s.comm.cds[commReg f]?.getD 0))

/-- R310: writes a data register. -/
def State.setCd (s : State) (n : Nat) (v : W64) : State :=
  s.setComm { s.comm with cds := s.comm.cds.setIfInBounds n v }

/-- R310: CDWR. -/
def execCdwr (f : FJ) (s : State) : Host.Outcome State Fault Refusal :=
  s.settle (.done (s.setCd (commReg f) (s.x f.a)).retire)

/-- R310: CDAMO's operations. -/
def cdamoVal (op : Nat) (old x : W64) : W64 :=
  match op with
  | 0 => x
  | 1 => old + x
  | 2 => old &&& x
  | 3 => old ||| x
  | 4 => old ^^^ x
  | 5 => minmaxVal 0 old x
  | 6 => minmaxVal 1 old x
  | 7 => minmaxVal 2 old x
  | _ => minmaxVal 3 old x

/-- R310: CDAMO. -/
def State.cdamo (s : State) (f : FJ) : Issue :=
  let n := commReg f
  let old := s.comm.cds[n]?.getD 0
  (s.setCd n (cdamoVal (slice f.imm 8 4).toNat old (s.x f.a))).finish f.d old

def execCdamo (f : FJ) (s : State) : Host.Outcome State Fault Refusal :=
  if bitAt f.imm 13 then s.releasing true fun s => s.settle (s.cdamo f) else s.settle (s.cdamo f)

/-- R311, R360: how many participants of a task's barrier on a cluster have yet to arrive or end. -/
def State.barrierLeft (s : State) (c : Comm) : Nat :=
  (s.threads.filter fun t =>
    t.task == c.task && t.cluster == c.cluster && t.run != .ended && !c.arrived.contains t.hw).length

/-- R311: every participant is released and the barrier's next generation begins. -/
def State.releaseBarrier (s : State) (c : Comm) : State :=
  c.arrived.foldl (fun t h => t.completeAt h) (s.setComm { c with arrived := [] })

/-- R311, R360: a thread's end can be the last arrival of a barrier on its cluster. -/
def State.barrierOnEnd (s : State) : State :=
  let c := s.comm
  if !c.arrived.isEmpty && s.barrierLeft c == 0 then s.releaseBarrier c else s

/-- R311: CBAR once it has released: it arrives, and the last arrival releases every participant. -/
def State.cbar (s : State) : Host.Outcome State Fault Refusal :=
  let c := s.comm
  if s.waitingFor .barrier then .next s
  else if s.barrierLeft c ≤ 1 then s.settle (.done (s.releaseBarrier c).retire)
  else if s.budget == 0 then .next (s.trap (timeoutInfo .barrier 0))
  else .next ((s.setComm { c with arrived := c.arrived ++ [s.th.hw] }).beginWait .barrier true 0)

def execCbar (_f : FJ) (s : State) : Host.Outcome State Fault Refusal := s.releasing true State.cbar

end Sys2Proof.Machine
end

