-- ==== Sys2Proof/Machine/Elements.lean ====
section
/-! DEFINITION. Machine/Elements.lean: what an element-wise node computes at an element (R211 to R223), and the fold of
scans and reductions (R55, R226, R227, R239). -/

namespace Sys2Proof.Machine

/-- An element of a node's value: its bits, or none where a fault leaves it without one; the flags the node raised
there; and the overflow mask bit of a conversion (R47). -/
structure EVal where
  val : Option W64
  flags : Flags
  ovf : Bool
  deriving DecidableEq, Repr

/-- A value with no flag. -/
def EVal.of (v : W64) : EVal := ⟨some v, 0, false⟩

/-- An element that depends on a fault. -/
def EVal.lost : EVal := ⟨none, 0, false⟩

/-- Bits and flags as an element. -/
def elemOf (r : Nat × Flags) : EVal := ⟨some (BitVec.ofNat 64 r.1), r.2, false⟩

def EVal.ofFp (r : FpRes) : EVal := ⟨some r.val, r.flags, false⟩

/-! ### Integer elements (R36, R211 to R215) -/

/-- An integer result of a type: wrapped, or saturated. -/
def intElem (ty : Nat) (sat : Bool) (v : Int) : EVal := EVal.of (BitVec.ofNat 64 (storeInt ty sat v))

/-- R211: the sum of two elements. -/
def addElem (ty : Nat) (sat : Bool) (fctrl : BitVec 13) (x y : W64) : EVal :=
  if ty < 8 then intElem ty sat (intOf ty x.toNat + intOf ty y.toNat) else .ofFp (faddVal ty fctrl false x y)

/-- R211: the difference. -/
def subElem (ty : Nat) (sat : Bool) (fctrl : BitVec 13) (x y : W64) : EVal :=
  if ty < 8 then intElem ty sat (intOf ty x.toNat - intOf ty y.toNat) else .ofFp (faddVal ty fctrl true x y)

/-- R211: the product. -/
def mulElem (ty : Nat) (sat : Bool) (fctrl : BitVec 13) (x y : W64) : EVal :=
  if ty < 8 then intElem ty sat (intOf ty x.toNat * intOf ty y.toNat) else .ofFp (fmulVal ty fctrl x y)

/-- R212: the quotient. -/
def divElem (ty : Nat) (fctrl : BitVec 13) (x y : W64) : EVal :=
  if ty < 8 then
    let d := intOf ty y.toNat
    if d == 0 then intElem ty false (-1) else intElem ty false ((intOf ty x.toNat).tdiv d)
  else .ofFp (fdivVal ty fctrl x y)

/-- R211: the minimum or maximum. -/
def minmaxElem (ty : Nat) (isMax : Bool) (x y : W64) : EVal :=
  if ty < 8 then
    let a := intOf ty x.toNat
    let b := intOf ty y.toNat
    intElem ty false (if isMax then max a b else min a b)
  else .ofFp (fminmaxVal ty isMax x y)

/-- R211: the high half of the product. -/
def mulhElem (ty : Nat) (x y : W64) : EVal :=
  intElem ty false (intOf ty x.toNat * intOf ty y.toNat / (2 ^ widthOf ty : Nat))

/-- R214: a left shift. -/
def shlElem (ty : Nat) (x : W64) (n : Nat) : EVal :=
  if widthOf ty ≤ n then EVal.of 0 else EVal.of (BitVec.ofNat 64 (maskBits ty (x.toNat <<< n)))

/-- R214: a right shift, arithmetic for S types. -/
def shrElem (ty : Nat) (x : W64) (n : Nat) : EVal := intElem ty false (intOf ty x.toNat >>> min n (widthOf ty))

/-- R215: VUNARY by its function code. -/
def unaryElem (ty op : Nat) (x : W64) : EVal :=
  let sign := 2 ^ (widthOf ty - 1)
  let b := maskBits ty x.toNat
  match op with
  | 0 => if ty < 8 then intElem ty false (-intOf ty b) else EVal.of (BitVec.ofNat 64 (b ^^^ sign))
  | 1 =>
    if ty < 8 then intElem ty false (intOf ty b).natAbs
    else EVal.of (BitVec.ofNat 64 (b % sign))
  | _ => EVal.of (BitVec.ofNat 64 (2 ^ widthOf ty - 1 - b))

/-- R215: VPOPC by its function code. -/
def popcElem (ty op : Nat) (x : W64) : EVal :=
  let w := widthOf ty
  let b := maskBits ty x.toNat
  let n : Nat :=
    match op with
    | 0 => popCount (BitVec.ofNat 64 b) w
    | 1 => w - bitLen b
    | _ => if b == 0 then w else ctzCount (BitVec.ofNat 64 b)
  EVal.of (BitVec.ofNat 64 n)

/-- R218: a comparison by predicate, as a mask element. -/
def cmpElem (ty pred : Nat) (x y : W64) : EVal :=
  let a := regVal ty x
  let b := regVal ty y
  let r : Bool × Flags :=
    match pred with
    | 0 => compareVal 0 a b
    | 1 => compareVal 4 a b
    | 2 => compareVal 1 a b
    | 3 => compareVal 2 a b
    | 4 => compareVal 1 b a
    | 5 => compareVal 2 b a
    | _ => compareVal 3 a b
  ⟨some (if r.1 then 1 else 0), r.2, false⟩

/-- R216: a conversion, with its overflow mask bit. -/
def cvtElem (ty src : Nat) (fctrl : BitVec 13) (rseed : W64) (e : Nat) (x : W64) : EVal :=
  let r := convertBits ty src (convRounding fctrl rseed e) (maskBits src x.toNat)
  ⟨some (BitVec.ofNat 64 r.bits), r.flags, r.ovf⟩

/-- R223: a special function. -/
def sfuElem (fn : Nat) (fctrl : BitVec 13) (x : W64) : EVal :=
  let r := sfu fn (slice fctrl 0 2).toNat (maskBits 0xA x.toNat)
  ⟨some (BitVec.ofNat 64 r.bits), r.flags, false⟩

/-- R213: a fused multiply-add. -/
def fmaElem (ty fn : Nat) (fctrl : BitVec 13) (x y z : W64) : EVal :=
  .ofFp (ffmaVal ty fctrl (fn % 2 == 1) (fn / 2 % 2 == 1) x y z)

/-- A mask element. -/
def maskElem (b : Bool) : EVal := EVal.of (if b then 1 else 0)

/-- R221: KOP by its function code. -/
def kopElem (op : Nat) (a b : Bool) : EVal :=
  maskElem (match op with
    | 0 => a && b
    | 1 => a || b
    | 2 => a ^^ b
    | 3 => a && !b
    | _ => !a)

/-! ### A node at an element -/

/-- What an element-wise interior node computes at element `e` from the elements of its sources. A source KOP or VSEL
does not name is k0, the all-true mask. -/
def Node.compute (n : Node) (e : Nat) (a b c : EVal) : EVal :=
  let av := a.val.getD 0
  let bv := b.val.getD 0
  let cv := c.val.getD 0
  let isTrue (s : Option Nat) (v : W64) : Bool := s.isNone || v != 0
  match n.instr with
  | some (.vadd f) => addElem f.ty.toNat (bitAt f.fn 0) n.fctrl av bv
  | some (.vadds f) => addElem f.ty.toNat (bitAt f.fn 0) n.fctrl av n.va
  | some (.vsub f) => subElem f.ty.toNat (bitAt f.fn 0) n.fctrl av bv
  | some (.vmul f) => mulElem f.ty.toNat (bitAt f.fn 0) n.fctrl av bv
  | some (.vmuls f) => mulElem f.ty.toNat (bitAt f.fn 0) n.fctrl av n.va
  | some (.vdiv f) => divElem f.ty.toNat n.fctrl av bv
  | some (.vmin f) => minmaxElem f.ty.toNat false av bv
  | some (.vmins f) => minmaxElem f.ty.toNat false av n.va
  | some (.vmax f) => minmaxElem f.ty.toNat true av bv
  | some (.vmaxs f) => minmaxElem f.ty.toNat true av n.va
  | some (.vmulh f) => mulhElem f.ty.toNat av bv
  | some (.vfma f) => fmaElem f.ty.toNat (f.fnAt 0 2) n.fctrl av bv cv
  | some (.vfmas f) => fmaElem f.ty.toNat (f.fnAt 0 2) n.fctrl av n.va cv
  | some (.vand _) => EVal.of (av &&& bv)
  | some (.vor _) => EVal.of (av ||| bv)
  | some (.vxor _) => EVal.of (av ^^^ bv)
  | some (.vshl f) => shlElem f.ty.toNat av bv.toNat
  | some (.vshr f) => shrElem f.ty.toNat av bv.toNat
  | some (.vshli f) => shlElem f.ty.toNat av f.imm.toNat
  | some (.vshri f) => shrElem f.ty.toNat av f.imm.toNat
  | some (.vunary f) => unaryElem f.ty.toNat (f.fnAt 0 6) av
  | some (.vpopc f) => popcElem f.ty.toNat (f.fnAt 0 2) av
  | some (.vcvt f) => if n.part == 1 then maskElem a.ovf else cvtElem f.ty.toNat (f.fnAt 0 4) n.fctrl n.rseed e av
  | some (.vld _) => maskElem a.ovf
  | some (.vrnd f) => .ofFp (frndVal f.ty.toNat n.fctrl (f.fnAt 0 3) (bitAt f.fn 3) av)
  | some (.vsfu f) => sfuElem (f.fnAt 0 3) n.fctrl av
  | some (.vcmp f) => cmpElem f.ty.toNat (f.fnAt 0 3) av bv
  | some (.vcmps f) => cmpElem f.ty.toNat (f.fnAt 0 3) av n.va
  | some (.vclass f) => maskElem (bitAt f.fn (classOf f.ty.toNat (maskBits f.ty.toNat av.toNat)))
  | some (.vflags f) => maskElem (a.flags &&& slice f.fn 0 5 != 0)
  | some (.vsel _) => EVal.of (if isTrue n.sc cv then av else bv)
  | some (.kop f) => kopElem (f.fnAt 0 3) (isTrue n.sa av) (isTrue n.sb bv)
  | _ => EVal.of 0

/-! ### Folds -/

/-- R226, R227, R239: one step of a fold; FP additions round to nearest even (R43). -/
def foldElem (op ty : Nat) (sat : Bool) (c a : W64) : EVal :=
  match op with
  | 0 => addElem ty sat 0 c a
  | 1 => minmaxElem ty false c a
  | _ => minmaxElem ty true c a

/-- R226: the identity of a scan or reduction: +0, the largest value for min, the smallest for max. -/
def foldIdentity (op ty : Nat) : W64 :=
  let b : Nat :=
    match op with
    | 0 => 0
    | 1 => if ty < 8 then wrapInt ty (intMax ty) else ((floatFmt ty).infinity false).bits
    | _ => if ty < 8 then wrapInt ty (intMin ty) else ((floatFmt ty).infinity true).bits
  BitVec.ofNat 64 b

/-- R55: a reduction's first element in a lane: a NaN operand of min or max already gives the canonical NaN with IV. -/
def foldFirst (op ty : Nat) (a : W64) : EVal :=
  if op != 0 && 8 ≤ ty && (regVal ty a).isNan then ⟨some (BitVec.ofNat 64 (canonicalNan ty)), flagIv, false⟩
  else EVal.of a

/-- R55: the pairs of one level of the final tree. -/
def treeLevel (f : W64 → W64 → EVal) : List W64 → List W64 × Flags
  | a :: b :: q =>
    let v := f a b
    let r := treeLevel f q
    (v.val.getD 0 :: r.1, v.flags ||| r.2)
  | q => (q, 0)

/-- R55: the final tree; each level at least halves the list. -/
def treeFold (f : W64 → W64 → EVal) : Nat → List W64 → Option W64 × Flags
  | 0, q => (q.head?, 0)
  | fuel + 1, q =>
    match q with
    | [] => (none, 0)
    | [a] => (some a, 0)
    | _ =>
      let r := treeLevel f q
      let t := treeFold f fuel r.1
      (t.1, r.2 ||| t.2)

end Sys2Proof.Machine
end

