-- ==== Sys2Proof/Machine/LaneBlock.lean ====
section
/-! DEFINITION. Machine/LaneBlock.lean: lane blocks (R77, R201, R202, R245 to R247): how a VTB node runs an element, and
LBR, LFETCH and LSTOP. -/

namespace Sys2Proof.Machine

/-! ### Fetching a block -/

/-- R245: the line that holds block words, read through the pair's instruction cache in the mode of the VTB. -/
def State.laneLine (s : State) (smode : Bool) (va : W64) : Except Stop (List Byte × State) :=
  match State.fetchLine { s with th := { s.th with pc := va, smode := smode } } with
  | none => .error .busy
  | some (l, s1) =>
    match l.bad with
    | some i => .error (.trap i)
    | none =>
      if l.poisoned then .error (.trap (TrapInfo.at causePoison accFetch (BitVec.ofNat 64 l.va)))
      else .ok (l.bytes, { s1 with th := s.th })

/-- The bytes of a block, which may lie across two lines. -/
def State.laneBytes (s : State) (smode : Bool) (base : W64) (n : Nat) : Except Stop (List Byte × State) := do
  let off := base.toNat % 64
  let a ← s.laneLine smode base
  if off + n ≤ 64 then .ok ((a.1.drop off).take n, a.2)
  else
    let b ← a.2.laneLine smode (BitVec.ofNat 64 (base.toNat / 64 * 64 + 64))
    .ok (a.1.drop off ++ b.1.take (off + n - 64), b.2)

/-- The words of a block's bytes, decoded. -/
def laneWords : Nat → List Byte → Option (List Instr)
  | 0, _ => some []
  | n + 1, b =>
    match decodeLane (BitVec.ofNat 64 (leNat (b.take 8))), laneWords n (b.drop 8) with
    | some i, some is => some (i :: is)
    | _, _ => none

/-- R77: the words of a block of `len` words, all decoded as it is fetched. -/
def State.laneBlock (s : State) (smode : Bool) (base : W64) (len : Nat) : Except Stop (List Instr × State) := do
  let b ← s.laneBytes smode base (8 * len)
  match laneWords len b.1 with
  | some is => .ok (is, b.2)
  | none => .error (.trap (TrapInfo.plain causeIllegal 0))

/-! ### Block words -/

/-- A lane register. -/
def Lane.l (l : Lane) (r : Nat) : W64 := l.regs.getD r 0

/-- An element's result in a lane register (R130). -/
def laneOut (ty : Nat) (e : EVal) : W64 × Flags := (extendTo64 ty (e.val.getD 0).toNat, e.flags)

/-- R246: the register a block word of arithmetic writes, its value and its flags. `fctrl`, `rseed` and `e` are those of
the VTB node. -/
def Lane.alu (l : Lane) (fctrl : BitVec 13) (rseed : W64) (e : Nat) (i : Instr) : Nat × W64 × Flags :=
  match i with
  | .vadd f | .vadds f =>
    (f.d.toNat, laneOut f.ty.toNat (addElem f.ty.toNat (bitAt f.fn 0) fctrl (l.l f.a.toNat) (l.l f.b.toNat)))
  | .vsub f =>
    (f.d.toNat, laneOut f.ty.toNat (subElem f.ty.toNat (bitAt f.fn 0) fctrl (l.l f.a.toNat) (l.l f.b.toNat)))
  | .vmul f | .vmuls f =>
    (f.d.toNat, laneOut f.ty.toNat (mulElem f.ty.toNat (bitAt f.fn 0) fctrl (l.l f.a.toNat) (l.l f.b.toNat)))
  | .vmin f => (f.d.toNat, laneOut f.ty.toNat (minmaxElem f.ty.toNat false (l.l f.a.toNat) (l.l f.b.toNat)))
  | .vmax f => (f.d.toNat, laneOut f.ty.toNat (minmaxElem f.ty.toNat true (l.l f.a.toNat) (l.l f.b.toNat)))
  | .vand f => (f.d.toNat, extendTo64 f.ty.toNat (l.l f.a.toNat &&& l.l f.b.toNat).toNat, 0)
  | .vor f => (f.d.toNat, extendTo64 f.ty.toNat (l.l f.a.toNat ||| l.l f.b.toNat).toNat, 0)
  | .vxor f => (f.d.toNat, extendTo64 f.ty.toNat (l.l f.a.toNat ^^^ l.l f.b.toNat).toNat, 0)
  | .vshli f => (f.d.toNat, laneOut f.ty.toNat (shlElem f.ty.toNat (l.l f.a.toNat) f.imm.toNat))
  | .vshri f => (f.d.toNat, laneOut f.ty.toNat (shrElem f.ty.toNat (l.l f.a.toNat) f.imm.toNat))
  | .vmov f => (f.d.toNat, l.l f.a.toNat, 0)
  | .vunary f => (f.d.toNat, laneOut f.ty.toNat (unaryElem f.ty.toNat (f.fnAt 0 6) (l.l f.a.toNat)))
  | .vcmp f =>
    let c := cmpElem f.ty.toNat (f.fnAt 0 3) (l.l f.a.toNat) (l.l f.b.toNat)
    (f.d.toNat, c.val.getD 0, c.flags)
  | .vsel f => (f.d.toNat, if l.l f.c.toNat != 0 then l.l f.a.toNat else l.l f.b.toNat, 0)
  | .vcvt f => (f.d.toNat, laneOut f.ty.toNat (cvtElem f.ty.toNat (f.fnAt 0 4) fctrl rseed e (l.l f.a.toNat)))
  | .vsfu f => (f.d.toNat, laneOut 0xA (sfuElem (f.fnAt 0 3) fctrl (l.l f.a.toNat)))
  | _ => (0, l.l 0, 0)

/-- R247: whether an LBR branches, and the flags it raises. -/
def laneCond (cnd ty : Nat) (x y : W64) : Bool × Flags :=
  let a := regVal ty x
  let b := regVal ty y
  if ty < 8 then
    let i := extendTo64 ty x.toNat
    let j := extendTo64 ty y.toNat
    (match cnd with
      | 0 => i == j
      | 1 => i != j
      | 2 => i.slt j
      | 3 => !i.slt j
      | 4 => i.ult j
      | 5 => !i.ult j
      | _ => true, 0)
  else
    match cnd with
    | 0 => compareVal 0 a b
    | 1 => let c := compareVal 0 a b; (!c.1, c.2)
    | 2 => compareVal 1 a b
    | 3 => compareVal 2 b a
    | _ => (true, 0)

/-- R247: LBR. A branch out of the block is refused. -/
def Lane.lbr (l : Lane) (f : FB) : Option (Lane × Flags) :=
  let c := laneCond f.cnd.toNat (slice f.fn 0 4).toNat (l.l f.a.toNat) (l.l f.b.toNat)
  if !c.1 then some ({ l with pc := l.pc + 8 }, c.2)
  else
    let t := l.pc + (f.ofs.signExtend 64 <<< 3)
    if l.base.toNat ≤ t.toNat && t.toNat < l.base.toNat + 8 * l.len then some ({ l with pc := t }, c.2) else none

/-- R202: an element's block fetches, its first counted. -/
def laneFetches : Nat := 65536

/-- R247: LFETCH: the lane at the first word of its next block, or the cause of its fault. One that is the element's last fetch
too many and leaves the code range reports OPERAND_RANGE (DESIGN CHOICE, log entry 117). -/
def Lane.lfetch (l : Lane) (t : Task) (f : FJ) : Except Nat Lane :=
  let a := l.pc + (f.imm.signExtend 64 <<< 3)
  let len := f.d.toNat + 1
  if !t.inCode a.toNat (8 * len) then .error causeRange
  else if laneFetches ≤ l.fetches then .error causeRunaway
  else .ok { l with pc := a, base := a, len := len, fetches := l.fetches + 1 }

/-- R247: LSTOP ends the element; l0 is its value. -/
def Lane.lstop (l : Lane) : Lane := { l with done := true }

/-- R201: the lane at an element's first block. -/
def Lane.begin (base : W64) (len : Nat) (l0 l1 l2 : W64) : Lane :=
  ⟨[l0, l1, l2] ++ List.replicate 13 0, base, base, len, 1, false⟩

/-! ### Running an element -/

/-- How an element's blocks end: at LSTOP, in a fault, or not at all. -/
inductive LaneEnd where
  | value (l : Lane) (flags : Flags) (s : State)
  | fault (r : Stop)
  | never

/-- R201, R202: runs the words of an element from where its lane stands. `fuel` bounds the words (log entry 17). -/
def State.runLane (smode : Bool) (fctrl : BitVec 13) (rseed : W64) (e : Nat) :
    Nat → List Instr → Lane → Flags → State → LaneEnd
  | 0, _, _, _, _ => .never
  | fuel + 1, blk, l, fl, s =>
    match blk[(l.pc - l.base).toNat / 8]? with
    | none => .fault (.trap (TrapInfo.plain causeIllegal 0))
    | some (.lstop _) => .value l.lstop fl s
    | some (.lbr f) =>
      (match l.lbr f with
        | none => .fault (.trap (TrapInfo.plain causeIllegal 0))
        | some (l1, g) => s.runLane smode fctrl rseed e fuel blk l1 (fl ||| g))
    | some (.lfetch f) =>
      (match l.lfetch s.task f with
        | .error c => .fault (.trap (TrapInfo.plain c 0))
        | .ok l1 =>
          match s.laneBlock smode l1.base l1.len with
          | .error r => .fault r
          | .ok (b, s1) => s1.runLane smode fctrl rseed e fuel b l1 fl)
    | some i =>
      let r := l.alu fctrl rseed e i
      s.runLane smode fctrl rseed e fuel blk { l with regs := l.regs.set r.1 r.2.1, pc := l.pc + 8 } (fl ||| r.2.2)

/-- R201: a VTB node at an element whose mask is true. -/
def State.runVtb (s : State) (n : Node) (f : FM) (e : Nat) (a b c : W64) : LaneEnd :=
  let len := f.fnAt 2 3 + 1
  match s.laneBlock n.smode n.va len with
  | .error r => .fault r
  | .ok (blk, s1) => s1.runLane n.smode n.fctrl n.rseed e (2 ^ 64) blk (Lane.begin n.va len a b c) 0

/-! ### LBR, LFETCH and LSTOP as words of the SFE (log entry 18) -/

/-- A lane control word issued by the SFE: it acts on the thread's lane alone. -/
def State.laneWord (s : State) (r : Except Nat Lane) : Issue :=
  match r with
  | .error c => Issue.fault c
  | .ok l => .done { s with th.lane := l }.retire

/-- R247: LBR. -/
def execLbr (f : FB) (s : State) : Host.Outcome State Fault Refusal :=
  s.settle (s.laneWord (match s.th.lane.lbr f with
    | some r => .ok r.1
    | none => .error causeIllegal))

/-- R247: LFETCH. -/
def execLfetch (f : FJ) (s : State) : Host.Outcome State Fault Refusal := s.settle (s.laneWord (s.th.lane.lfetch s.task f))

/-- R247: LSTOP. -/
def execLstop (_f : FJ) (s : State) : Host.Outcome State Fault Refusal := s.settle (s.laneWord (.ok s.th.lane.lstop))

end Sys2Proof.Machine
end

