-- ==== Sys2Proof/Machine/Evaluate.lean ====
section
/-! DEFINITION. Machine/Evaluate.lean: the evaluation of a recipe over a range of elements (R186, R187, R192, R193, R224
to R233, R390): what each node needs, what leaves read, and what interior nodes compute, with the faults it meets
(R197, R209). -/

namespace Sys2Proof.Machine

/-! ### What an evaluation carries -/

/-- A fault at an element: the element and the node that is blamed, with what is reported. `lease` ends the task
(R112). -/
structure PassFault where
  elem : Nat
  seq : Nat
  node : W64
  code : Nat
  acc : Nat
  addr : W64
  lease : Bool
  deriving DecidableEq, Repr

/-- Values of a node from element `lo` on. -/
structure Seg where
  lo : Nat
  vals : List EVal
  deriving DecidableEq, Repr

/-- An evaluation as it proceeds. `blocked` is set when an access waits or a lane block does not end, and `squares` holds the
squares that each leaf has read (R228). -/
structure Work where
  s : State
  memo : List (Nat × List Seg)
  faults : List PassFault
  flags : Flags
  carries : List Carry
  back : List Back
  blocked : Bool
  squares : List (Nat × W64 × List Byte)

/-- An evaluation that begins, with what is carried and kept. -/
def Work.start (s : State) (carries : List Carry) (back : List Back) : Work :=
  { s := s, memo := [], faults := [], flags := 0, carries := carries, back := back, blocked := false, squares := [] }

/-- A node's value at an element; what was not evaluated has no value. -/
def Work.val (w : Work) (i e : Nat) : EVal :=
  match w.memo.find? fun m => m.1 == i with
  | none => EVal.lost
  | some m =>
    match m.2.find? fun g => g.lo ≤ e && e < g.lo + g.vals.length with
    | none => EVal.lost
    | some g => g.vals.getD (e - g.lo) EVal.lost

/-- R187: the mask of a node at an element, none where a fault leaves it unknown. -/
def Work.mask (w : Work) (n : Node) (e : Nat) : Option Bool :=
  match n.sk with
  | none => some true
  | some k => (w.val k e).val.map fun v => v != 0

/-- A source of a node at an element; one the word does not name reads as zero. -/
def Work.src (w : Work) (i : Option Nat) (e : Nat) : EVal :=
  match i with
  | none => EVal.of 0
  | some j => w.val j e

/-- Blames a node at an element. -/
def Work.blame (w : Work) (n : Node) (e code acc : Nat) (addr : W64) : Work :=
  { w with faults := ⟨e, n.seq, n.pc, code, acc, addr, false⟩ :: w.faults }

/-- An access of a node at an element that is not performed. -/
def Work.stop (w : Work) (n : Node) (e acc : Nat) (addr : W64) (r : Stop) : Work :=
  match r with
  | .trap i => w.blame n e i.code i.acc i.addr
  | .lease => { w with faults := ⟨e, n.seq, n.pc, causeLease, acc, addr, true⟩ :: w.faults }
  | .held | .busy => { w with blocked := true }
  | .conflict => w.blame n e causeStep accWrite addr

/-- R45, R222: a node's flags at an element: an enabled one is a fault. -/
def Work.note (w : Work) (n : Node) (e : Nat) (f : Flags) : Work :=
  let w1 := { w with flags := w.flags ||| f }
  if enabledFlags n.fctrl f != 0 then w1.blame n e causeFp 0 0 else w1

/-- R187: zero of a type. -/
def zeroOf (t : NTy) : W64 := if t == .elem 0xE then 0x10 else 0

/-! ### Which elements of each node are needed -/

/-- Adds a range `[a, b)` to ascending disjoint ranges. -/
def mergeRange (a b : Nat) : List (Nat × Nat) → List (Nat × Nat)
  | [] => if a < b then [(a, b)] else []
  | (c, d) :: t =>
    if b ≤ a then (c, d) :: t
    else if b < c then (a, b) :: (c, d) :: t
    else if d < a then (c, d) :: mergeRange a b t
    else mergeRange (min a c) (max b d) t

/-- The needed ranges of each node. -/
abbrev Needs := List (Nat × List (Nat × Nat))

def Needs.of (q : Needs) (i : Nat) : List (Nat × Nat) := ((q.find? fun u => u.1 == i).map Prod.snd).getD []

def Needs.add (q : Needs) (i a b : Nat) : Needs :=
  (i, mergeRange a b (q.of i)) :: q.filter fun u => u.1 != i

def Needs.addAll (q : Needs) (i : Option Nat) (rs : List (Nat × Nat)) : Needs :=
  match i with
  | none => q
  | some j => rs.foldl (fun q r => q.add j r.1 r.2) q

/-- The last needed element, plus one. -/
def lastNeed (rs : List (Nat × Nat)) : Nat := rs.foldl (fun m r => max m r.2) 0

/-- R225: the source element of a VBCAST. -/
def bcastIdx (rep : Bool) (n m e : Nat) : Nat := if rep then e % m else e / (n / m)

/-- R225: source elements a range of a VBCAST reads, those kept apart. -/
def bcastNeeds (rep : Bool) (n m : Nat) (have_ : List (Nat × W64 × Flags)) (r : Nat × Nat) : List (Nat × Nat) :=
  let idx := ((List.range' r.1 (min (r.2 - r.1) (if rep then m else r.2 - r.1))).map (bcastIdx rep n m)).eraseDups
  (idx.filter fun i => !have_.any fun h => h.1 == i).map fun i => (i, i + 1)

/-- R224: source elements a range of a VSLIDE reads. -/
def slideNeeds (d : Int) (n : Nat) (r : Nat × Nat) : Nat × Nat :=
  (((r.1 : Int) + d).toNat, min n ((r.2 : Int) + d).toNat)

/-- What a node needs of its sources for the ranges of it that are needed. -/
def Group.needNode (g : Group) (bs : List Back) (q : Needs) (n : Node) : Needs :=
  let rs := q.of n.idx
  let plain := (((q.addAll n.sa rs).addAll n.sb rs).addAll n.sc rs).addAll n.sk
    (rs.map fun r => (r.1, (n.sk.filter fun _ => n.ownLength).elim r.2 fun k => min r.2 (sizeIn g.nodes k)))
  match n.instr with
  | some (.vslide f) =>
    let q1 := q.addAll n.sa (rs.map (slideNeeds f.imm.toInt n.size))
    if n.sk.isSome then (q1.addAll n.sk rs).addAll n.sa rs else q1
  | some (.vbcast f) =>
    let kept := ((keptOf bs n.idx).map fun b => b.vals).getD []
    q.addAll n.sa (rs.flatMap (bcastNeeds (f.fnAt 0 1 == 0) n.size n.va.toNat kept))
  | some (.vscan _) =>
    let next := g.nextOf bs n.idx
    let w0 := g.keptFrom bs n.idx
    let hi := max (lastNeed rs) (((g.own? n.idx).map fun o => o.hi).getD 0)
    let early := rs.filter fun r => r.1 < w0
    let want := [(next, hi)] ++ (if early.isEmpty then [] else [(0, min w0 (lastNeed early))])
    (q.addAll n.sa want).addAll n.sk want
  | some (.vsegred _) =>
    let m := n.va.toNat
    let o := (g.own? n.idx).getD ⟨n.idx, 0, 0, 0, 0⟩
    let w0 := g.keptFrom bs n.idx
    let hi := max o.inHi (lastNeed rs * m)
    let early := rs.filter fun r => r.1 < w0
    q.addAll n.sa ([(o.inLo, hi)] ++ early.map fun r => (r.1 * m, min r.2 w0 * m))
  | _ => plain

/-- Every node's needs: a node's consumers stand after it, so nodes are taken newest first. -/
def Group.needs (g : Group) (bs : List Back) (wants : Needs) : Needs :=
  g.nodes.reverse.foldl (fun q n => g.needNode bs q n) wants

/-! ### Leaves -/

/-- R209: a leaf's read of `n` bytes, on no DEV page; squares lie on SD pages (R50). A read of a resource that a slot
stops is held (R368). -/
def State.leafRead (s : State) (smode sq : Bool) (va : W64) (n : Nat) : Except Stop (List Byte × State) :=
  match s.check smode accRead va n with
  | .error e => .error e
  | .ok (x, s1) =>
    if leafCls x.leaf == clsDev then .error (.trap (TrapInfo.at causeDevice accRead va))
    else if sq && !leafSd x.leaf then .error (.trap (TrapInfo.at causeDataAccess accRead va))
    else
      let h := s1.held false x.pa n
      if h.1 then .error .busy else h.2.load accRead x va n

/-- An element read by a leaf from `n` bytes, or what stops it. -/
def Work.read (w : Work) (n : Node) (e : Nat) (sq : Bool) (va : W64) (len : Nat) (k : List Byte → EVal) : EVal × Work :=
  match w.s.leafRead n.smode sq va len with
  | .error r => (EVal.lost, w.stop n e accRead va r)
  | .ok (b, s1) => (k b, { w with s := s1 })

/-- R41: LNS6 element `e` of a packed run, from the bytes it occupies. -/
def Work.readLns (w : Work) (n : Node) (e : Nat) (base : W64) : EVal × Work :=
  let at_ := base + BitVec.ofNat 64 (6 * e / 8)
  let sh := 6 * e % 8
  let pick (v : Nat) : EVal := EVal.of (BitVec.ofNat 64 (v / 2 ^ sh % 64))
  let lo := w.read n e false at_ 1 fun b => EVal.of (BitVec.ofNat 64 (leNat b))
  if sh ≤ 2 then ((match lo.1.val with
    | some v => pick v.toNat
    | none => EVal.lost), lo.2)
  else
    let hi := lo.2.read n e false (at_ + 1) 1 fun b => EVal.of (BitVec.ofNat 64 (leNat b))
    ((match lo.1.val, hi.1.val with
      | some u, some v => pick (u.toNat + 256 * v.toNat)
      | _, _ => EVal.lost), hi.2)

/-- R228: an aligned element at a stride. -/
def Work.readElem (w : Work) (n : Node) (e ty : Nat) (base : W64) (stride : Int) : EVal × Work :=
  let va := base + BitVec.ofInt 64 (e * stride)
  let width := bytesOf ty
  if va.toNat % width != 0 || stride % width != 0 then (EVal.lost, w.blame n e causeMisaligned accRead va)
  else w.read n e false va width fun b => EVal.of (BitVec.ofNat 64 (leNat b))

/-- R228: a square as a leaf reads it, once in an element group. -/
def Work.square (w : Work) (n : Node) (va : W64) : Except Stop (List Byte × Work) :=
  match w.squares.find? fun q => q.1 == n.idx && q.2.1 == va with
  | some q => .ok (q.2.2, w)
  | none =>
    match w.s.leafRead n.smode true va 64 with
    | .error r => .error r
    | .ok (b, s1) => .ok (b, { w with s := s1, squares := (n.idx, va, b) :: w.squares })

/-- R50, R228: an element of a tensor of squares. -/
def Work.readSq (w : Work) (n : Node) (f : FM) (e : Nat) : EVal × Work :=
  let wd := (slice n.vb 0 24).toNat
  let ht := (slice n.vb 24 24).toNat
  let y := if bitAt f.fn 1 then e % ht else e / wd
  let x := if bitAt f.fn 1 then e / ht else e % wd
  let va := n.va + BitVec.ofNat 64 (64 * (y / 8 * ((wd + 7) / 8) + x / 8))
  if va.toNat % 64 != 0 then (EVal.lost, w.blame n e causeMisaligned accRead va)
  else
    match w.square n va with
    | .error r => (EVal.lost, w.stop n e accRead va r)
    | .ok (b, w1) =>
      match decodeSq (Square.ofBytes b) (y % 8) (x % 8) with
      | none => (EVal.lost, w1.blame n e causeSqFormat accRead va)
      | some v =>
        let r := convertNum 0xA 0xE ⟨(slice n.fctrl 0 2).toNat, none⟩ v
        (⟨some (BitVec.ofNat 64 r.bits), r.flags, r.ovf⟩, w1.note n e r.flags)

/-- Reads `n` bytes, a page at a time, each page passing a further test of its leaf, as a stream reads a row or not (R339);
each page's part makes requests of its own (DESIGN CHOICE, log entry 119). The last argument but two bounds the pages. -/
def State.readSpan (stream : Bool) (s : State) (smode : Bool) (ok : W64 → Option Nat) :
    Nat → W64 → Nat → Except Stop (List Byte × State)
  | 0, _, _ => .ok ([], s)
  | fuel + 1, va, n =>
    if n == 0 then .ok ([], s)
    else
      let k := min n (65536 - va.toNat % 65536)
      match s.check smode accRead va k with
      | .error e => .error e
      | .ok (x, s1) =>
        match ok x.leaf with
        | some c => .error (.trap (TrapInfo.at c accRead va))
        | none =>
          let h := s1.held (leafCls x.leaf == clsDev) x.pa k
          if h.1 then .error .busy
          else
            match h.2.loadAs stream accRead x va k with
            | .error e => .error e
            | .ok (b, s2) =>
              match State.readSpan stream s2 smode ok fuel (va + BitVec.ofNat 64 k) (n - k) with
              | .error e => .error e
              | .ok (c, s3) => .ok (b ++ c, s3)

/-- How many pages `n` bytes can touch. -/
def spanPages (n : Nat) : Nat := n / 65536 + 2

/-- R324: index `i` of a stream. -/
def State.streamIndex (s : State) (smode : Bool) (b : StreamBlock) (ok : W64 → Option Nat) (i : Nat) :
    Except Stop (Int × State) :=
  let n := bytesOf b.itype
  match State.readSpan false s smode ok 2 (b.ibase + BitVec.ofNat 64 (i * n)) n with
  | .error e => .error e
  | .ok (bs, s1) => .ok (intOf b.itype (leNat bs), s1)

/-- R324: the row an index selects; a table page has the block's skew mode. -/
def State.streamRow (s : State) (smode : Bool) (b : StreamBlock) (ok : W64 → Option Nat) (i : Int) :
    Except Stop (List Byte × State) :=
  if i < 0 || (b.trows : Int) ≤ i then .error (.trap (TrapInfo.plain causeRange accRead))
  else
    State.readSpan true s smode (fun leaf => if leafSkew leaf != b.skew then some causeSkew else ok leaf) (spanPages b.esize)
      (b.tbase + BitVec.ofNat 64 (i.toNat * b.esize)) b.esize

/-- R105, R197: no recipe touches a DEV page. -/
def noDevice (leaf : W64) : Option Nat := if leafCls leaf == clsDev then some causeDevice else none

/-- R229, R324: an element of a VLDX leaf, by the block its pass read at launch. -/
def Work.readGather (w : Work) (g : Group) (n : Node) (e : Nat) : EVal × Work :=
  match g.blocks.find? fun b => b.1 == n.idx with
  | none => (EVal.lost, { w with blocked := true })
  | some (_, b) =>
    match w.s.streamIndex n.smode b noDevice e with
    | .error r => (EVal.lost, w.stop n e accRead n.va r)
    | .ok (i, s1) =>
      match s1.streamRow n.smode b noDevice i with
      | .error r => (EVal.lost, { w with s := s1 }.stop n e accRead n.va r)
      | .ok (bs, s2) => (EVal.of (BitVec.ofNat 64 (leNat bs)), { w with s := s2 })

/-- An element of a tile. -/
def Tile.at (t : Tile) (r c : Nat) : BitVec 32 := ((t.rows[r]?.getD [])[c]?).getD 0

/-- The tile a word names. -/
def Thread.tile (t : Thread) (m : Nat) : Tile := t.tiles[m]?.getD Tile.zero

/-- R121, R122: an element of a tile as a reader finds it: a poisoned block cannot be read. -/
def Tile.read (t : Tile) (r c : Nat) : Option (BitVec 32) :=
  if t.poisoned.contains (8 * r + c / 16) then none else some (t.at r c)

/-- R267: the reduction of a row or column, element by element. -/
def mrredFold (op : Nat) (ts : List W64) : EVal :=
  match op with
  | 2 =>
    let m := ts.foldl (fun (m : EVal) t =>
      let x : W64 := t &&& 0x7FFFFFFF
      let v := minmaxElem 0xA true (m.val.getD 0) x
      ⟨v.val, m.flags ||| flagIf (regVal 0xA t).isNan flagIv, false⟩) (EVal.of 0)
    m
  | _ =>
    match ts with
    | [] => EVal.of 0
    | t :: ts =>
      let first : EVal := if op == 1 then .ofFp (fmulVal 0xA 0 t t) else EVal.of t
      ts.foldl (fun (m : EVal) t =>
        let c := m.val.getD 0
        let v := if op == 1 then fmaElem 0xA 0 0 t t c else addElem 0xA false 0 c t
        ⟨v.val, m.flags ||| v.flags, false⟩) first

/-- R267: element `i` of an MRRED leaf. -/
def Work.readMrred (w : Work) (n : Node) (f : FT) (i : Nat) : EVal × Work :=
  let t := w.s.th.tile f.mt.toNat
  let at_ (j : Nat) : Option (BitVec 32) := if bitAt f.fn 2 then t.read j i else t.read i j
  let ts := (List.range 128).filterMap at_
  if ts.length != 128 then (EVal.lost, w.blame n i causePoison accRead 0)
  else
    let v := mrredFold (f.fnAt 0 2) (ts.map fun b => b.setWidth 64)
    (v, w.note n i v.flags)

/-- R230: element `e` of a VTREAD leaf. -/
def Work.readTile (w : Work) (n : Node) (f : FT) (e : Nat) : EVal × Work :=
  let p := n.va.toNat + e / 128
  let t := w.s.th.tile f.mt.toNat
  match (if bitAt f.fn 0 then t.read (e % 128) p else t.read p (e % 128)) with
  | none => (EVal.lost, w.blame n e causePoison accRead 0)
  | some v => (EVal.of (v.setWidth 64), w)

/-- Element `e` of a leaf whose mask is true there. -/
def Work.leafElem (w : Work) (g : Group) (n : Node) (e : Nat) : EVal × Work :=
  match n.instr with
  | some (.vld f) =>
    if f.ty == 0xF then w.readSq n f e
    else if f.ty == 0xE then w.readLns n e n.va
    else w.readElem n e f.ty.toNat n.va (strideOf f.ty.toNat (bitAt f.fn 0) n.vb)
  | some (.vforce f) =>
    if f.ty == 0xE then w.readLns n e n.va else w.readElem n e f.ty.toNat n.va (bytesOf f.ty.toNat)
  | some (.vldx _) => w.readGather g n e
  | some (.vkld _) =>
    w.read n e false (n.va + BitVec.ofNat 64 (e / 8)) 1 fun b => maskElem (leNat b / 2 ^ (e % 8) % 2 == 1)
  | some (.vtread f) => w.readTile n f e
  | some (.mrred f) => w.readMrred n f e
  | some (.mtst _) | some (.mpack _) => (maskElem (n.bits.testBit e), w)
  | some (.vsplat _) => (EVal.of n.va, w)
  | some (.viota f) =>
    (EVal.of (BitVec.ofNat 64 (wrapInt f.ty.toNat ((n.va.toNat : Int) + e * f.imm.toInt))), w)
  | _ => (EVal.of 0, w)

/-- A leaf: a node with no source. -/
def Node.isLeaf (n : Node) : Bool :=
  match n.instr with
  | some (.vld _) => n.part == 0
  | some (.vforce _) => n.part == 1
  | some (.vldx _) | some (.vkld _) | some (.vtread _) | some (.mrred _) | some (.vsplat _) | some (.viota _)
  | some (.mtst _) | some (.mpack _) => true
  | _ => false

/-! ### Interior nodes -/

/-- R187: an element-wise node where its mask is true. A source that a fault left without a value leaves none here. An element of
a VTB that ends in a fault of its block reports that fault, and drops the flags its words raised before, enabled ones too
(DESIGN CHOICE, log entry 118). -/
def Work.interiorElem (w : Work) (n : Node) (e : Nat) : EVal × Work :=
  let a := w.src n.sa e
  let b := w.src n.sb e
  let c := w.src n.sc e
  if a.val.isNone || b.val.isNone || c.val.isNone then (EVal.lost, w)
  else
    match n.instr with
    | some (.vtb f) =>
      let reg (i : Option Nat) (v : EVal) : W64 :=
        match i.bind w.s.th.rcp.node? with
        | some m => (match m.nty with
          | .elem ty => extendTo64 ty (v.val.getD 0).toNat
          | .mask => v.val.getD 0)
        | none => 0
      (match w.s.runVtb n f e (reg n.sa a) (reg n.sb b) (reg n.sc c) with
        | .value l fl s1 =>
          let v := maskBits f.ty.toNat (l.l 0).toNat
          (⟨some (BitVec.ofNat 64 v), fl, false⟩, { w with s := { s1 with th.lane := l } }.note n e fl)
        | .fault r => (EVal.lost, w.stop n e accFetch 0 r)
        | .never => (EVal.lost, { w with blocked := true }))
    | _ =>
      let v := n.compute e a b c
      (v, w.note n e v.flags)

/-- An element whose value the spec leaves open: a free value of the node's type. -/
def Work.openElem (w : Work) (n : Node) : EVal × Work :=
  let f := w.s.fresh
  (EVal.of (match n.nty with
    | .elem ty => BitVec.ofNat 64 (maskBits ty (Config.freeWord f.1).toNat)
    | .mask => Config.freeWord f.1 &&& 1), { w with s := f.2 })

/-- R187: where the mask is false, source A unchanged; an unnamed mask A of a KOP is k0. A VTB with N = 0 has no source to
keep (DESIGN CHOICE, log entry 108). -/
def Work.keptElem (w : Work) (n : Node) (e : Nat) : EVal × Work :=
  match n.sa, n.instr with
  | some i, _ => (⟨(w.val i e).val, 0, false⟩, w)
  | none, some (.vtb _) => w.openElem n
  | none, _ => (EVal.of 1, w)

/-- R188: an element beyond the length of its node's mask, in a node that takes only its own length. -/
def Work.pastMask (w : Work) (n : Node) (e : Nat) : Bool :=
  n.ownLength && n.sk.any fun k => ((w.s.th.rcp.node? k).map Node.size).getD 0 ≤ e

/-- A node whose elements follow one by one from its sources' at the same index. What a mask says beyond its length is open
(DESIGN CHOICE, log entry 109). -/
def Work.plainElem (w : Work) (g : Group) (n : Node) (e : Nat) : EVal × Work :=
  if w.pastMask n e then w.openElem n
  else
  match w.mask n e with
  | none => (EVal.lost, w)
  | some false => if n.isLeaf then (EVal.of (zeroOf n.nty), w) else w.keptElem n e
  | some true => if n.isLeaf then w.leafElem g n e else w.interiorElem n e

/-- Elements `lo` to `hi - 1` of a node, given one element's rule. -/
def Work.span (w : Work) (f : Work → Nat → EVal × Work) (lo hi : Nat) : List EVal × Work :=
  let r := (List.range' lo (hi - lo)).foldl (fun (q : List EVal × Work) e =>
    let v := f q.2 e
    (v.1 :: q.1, v.2)) ([], w)
  (r.1.reverse, r.2)

/-- R224: an element of a VSLIDE. -/
def Work.slideElem (w : Work) (n : Node) (d : Int) (e : Nat) : EVal × Work :=
  match w.mask n e with
  | none => (EVal.lost, w)
  | some false => w.keptElem n e
  | some true =>
    let i := (e : Int) + d
    if 0 ≤ i && i < n.size then (⟨(w.src n.sa i.toNat).val, 0, false⟩, w) else (EVal.of (zeroOf n.nty), w)

/-! ### Carrying nodes -/

/-- The carry a node has, lane 0 of its set (R226, R227). -/
def Work.carry (w : Work) (i : Nat) : Option W64 :=
  ((w.carries.find? fun c => c.node == i).bind fun c => c.lanes.head?).bind id

/-- Sets lane 0 of a node's set. -/
def Work.setCarry (w : Work) (i : Nat) (v : Option W64) : Work :=
  { w with carries := ⟨i, [v]⟩ :: w.carries.filter fun c => c.node != i }

/-- A fold under way: the carry, and whether a fault has left it without a value. -/
structure Fold where
  c : Option W64
  lost : Bool

/-- R226: one element of a scan. -/
def Work.scanElem (w : Work) (n : Node) (f : FX) (q : Fold) (e : Nat) : EVal × Fold × Work :=
  let ty := f.ty.toNat
  let op := f.fnAt 0 2
  let excl := bitAt f.fn 2
  let a := w.src n.sa e
  match w.mask n e, a.val with
  | some false, v => (⟨v, 0, false⟩, q, w)
  | some true, some v =>
    if q.lost then (EVal.lost, q, w)
    else
      let r : EVal := match q.c with
        | none => EVal.of v
        | some c => foldElem op ty (bitAt f.fn 3) c v
      let out := if excl then some (q.c.getD (foldIdentity op ty)) else r.val
      (⟨out, r.flags, false⟩, ⟨r.val, false⟩, w.note n e r.flags)
  | _, _ => (EVal.lost, ⟨none, true⟩, w)

/-- R226: a scan's elements `lo` to `hi - 1` from a carry. -/
def Work.scanRun (w : Work) (n : Node) (f : FX) (q : Fold) (lo hi : Nat) : List EVal × Fold × Work :=
  let r := (List.range' lo (hi - lo)).foldl (fun (u : List EVal × Fold × Work) e =>
    let v := u.2.2.scanElem n f u.2.1 e
    (v.1 :: u.1, v.2.1, v.2.2)) ([], q, w)
  (r.1.reverse, r.2)

/-- R227: one input element of a segmented reduction: the output it completes, if any, and the open segment's partial
and flags. -/
def Work.segElem (w : Work) (n : Node) (f : FX) (q : Fold) (fl : Flags) (e : Nat) :
    Option EVal × Fold × Flags × Work :=
  let ty := f.ty.toNat
  let op := f.fnAt 0 2
  let m := n.va.toNat
  let q0 : Fold := if e % m == 0 then ⟨none, false⟩ else q
  let fl0 : Flags := if e % m == 0 then 0 else fl
  let r : EVal × Fold :=
    match (w.src n.sa e).val with
    | none => (EVal.lost, ⟨none, true⟩)
    | some v =>
      if q0.lost then (EVal.lost, q0)
      else
        let r := match q0.c with
          | none => foldFirst op ty v
          | some c => foldElem op ty (bitAt f.fn 3) c v
        (r, ⟨r.val, false⟩)
  let fl1 := fl0 ||| r.1.flags
  (if e % m + 1 == m then some ⟨r.1.val, fl1, false⟩ else none, r.2, fl1, w.note n (e / m) r.1.flags)

/-- R222, R227: input elements `lo` to `hi - 1` from the open segment's partial and flags: the outputs they complete, and the
partial and flags of the segment they leave open. -/
def Work.segRun (w : Work) (n : Node) (f : FX) (q : Fold) (fl : Flags) (lo hi : Nat) : List EVal × Fold × Flags × Work :=
  let r := (List.range' lo (hi - lo)).foldl (fun (u : List EVal × Fold × Flags × Work) e =>
    let v := u.2.2.2.segElem n f u.2.1 u.2.2.1 e
    (v.1.toList ++ u.1, v.2.1, v.2.2.1, v.2.2.2)) ([], q, fl, w)
  (r.1.reverse, r.2)

/-- How many values behind the next element are kept: more than any chain of slides reaches back. -/
def keepBehind : Nat := 16384

/-- Keeps a node's latest values, and the flags of an open segment. -/
def Work.keep (w : Work) (i next : Nat) (vals : List (Nat × W64 × Flags)) (raised : Flags) : Work :=
  { w with back := ⟨i, next, vals.drop (vals.length - keepBehind), raised⟩ :: w.back.filter fun b => b.node != i }

/-- Values with their indices and flags. -/
def indexed (lo : Nat) (vs : List EVal) : List (Nat × W64 × Flags) :=
  (vs.zipIdx lo).filterMap fun u => u.1.val.map fun v => (u.2, v, u.1.flags)

/-- The values a needed range shows: recomputed ones, kept ones, then new ones. -/
def assemble (kept : List (Nat × W64 × Flags)) (early : List EVal) (earlyLo w0 next : Nat) (new : List EVal)
    (r : Nat × Nat) : Seg :=
  ⟨r.1, (List.range' r.1 (r.2 - r.1)).map fun e =>
    if e < w0 then early.getD (e - earlyLo) EVal.lost
    else if e < next then ((kept.find? fun k => k.1 == e).map fun k => ⟨some k.2.1, k.2.2, false⟩).getD EVal.lost
    else new.getD (e - next) EVal.lost⟩

/-- R226: a VSCAN node. The carry at the end of the group's own elements is the one that is kept; what is read ahead is
evaluated again with its own group. -/
def Work.scanNode (w : Work) (g : Group) (n : Node) (f : FX) (rs : List (Nat × Nat)) : List Seg × Work :=
  let next := g.nextOf w.back n.idx
  let w0 := g.keptFrom w.back n.idx
  let kept := ((keptOf w.back n.idx).map fun b => b.vals).getD []
  let stop := match g.own? n.idx with
    | some o => max next o.hi
    | none => max next (lastNeed rs)
  let early := rs.filter fun r => r.1 < w0
  let e := w.scanRun n f ⟨none, false⟩ 0 (if early.isEmpty then 0 else min w0 (lastNeed early))
  let a := e.2.2.scanRun n f ⟨e.2.2.carry n.idx, false⟩ next stop
  let b := a.2.2.scanRun n f a.2.1 stop (max stop (lastNeed rs))
  let w1 := (b.2.2.setCarry n.idx a.2.1.c).keep n.idx stop (kept ++ indexed next a.1) 0
  (rs.map (assemble kept e.1 0 w0 next (a.1 ++ b.1)), w1)

/-- R227, R390: a VSEGRED node. -/
def Work.segNode (w : Work) (g : Group) (n : Node) (f : FX) (rs : List (Nat × Nat)) : List Seg × Work :=
  let m := n.va.toNat
  let o := (g.own? n.idx).getD ⟨n.idx, 0, 0, 0, 0⟩
  let next := o.inLo / m
  let w0 := min next (g.keptFrom w.back n.idx)
  let kept := ((keptOf w.back n.idx).map fun b => b.vals).getD []
  let early := rs.filter fun r => r.1 < w0
  let e0 := early.foldl (fun x r => min x r.1) w0
  let raised := ((keptOf w.back n.idx).map fun b => b.raised).getD 0
  let e := w.segRun n f ⟨none, false⟩ 0 (e0 * m) (min w0 (lastNeed early) * m)
  let a := e.2.2.2.segRun n f ⟨e.2.2.2.carry n.idx, false⟩ raised o.inLo o.inHi
  let b := a.2.2.2.segRun n f a.2.1 a.2.2.1 o.inHi (max o.inHi (lastNeed rs * m))
  let w1 := (b.2.2.2.setCarry n.idx (if o.inHi % m == 0 then none else a.2.1.c)).keep n.idx (o.inHi / m)
    (kept ++ indexed next a.1) a.2.2.1
  (rs.map (assemble kept e.1 e0 w0 next (a.1 ++ b.1)), w1)

/-- R225: a VBCAST node; a source element is evaluated once, when it is first needed. -/
def Work.bcastNode (w : Work) (n : Node) (f : FX) (rs : List (Nat × Nat)) : List Seg × Work :=
  let rep := f.fnAt 0 1 == 0
  let m := n.va.toNat
  let kept := ((keptOf w.back n.idx).map fun b => b.vals).getD []
  let get (i : Nat) : EVal :=
    match kept.find? fun k => k.1 == i with
    | some k => EVal.of k.2.1
    | none => ⟨(w.src n.sa i).val, 0, false⟩
  let segs := rs.map fun r => (⟨r.1, (List.range' r.1 (r.2 - r.1)).map fun e => get (bcastIdx rep n.size m e)⟩ : Seg)
  let new := (rs.flatMap (bcastNeeds rep n.size m kept)).filterMap fun u => (get u.1).val.map fun v => (u.1, v, 0)
  (segs, w.keep n.idx 0 (kept ++ new) 0)

/-! ### The evaluation -/

/-- A node over its needed ranges. -/
def Work.node (w : Work) (g : Group) (q : Needs) (n : Node) : Work :=
  let rs := q.of n.idx
  let put (r : List Seg × Work) : Work := { r.2 with memo := (n.idx, r.1) :: r.2.memo }
  match n.instr with
  | some (.vscan f) => put (w.scanNode g n f rs)
  | some (.vsegred f) => put (w.segNode g n f rs)
  | some (.vbcast f) => put (w.bcastNode n f rs)
  | _ =>
    let elem (w : Work) (e : Nat) : EVal × Work :=
      match n.instr with
      | some (.vslide f) => w.slideElem n f.imm.toInt e
      | _ => w.plainElem g n e
    put (rs.foldl (fun (u : List Seg × Work) r =>
      let v := u.2.span elem r.1 r.2
      (⟨r.1, v.1⟩ :: u.1, v.2)) ([], w))

/-- R192: evaluates nodes in recording order, roots apart, so that `wants` are all known. -/
def State.evaluate (s : State) (g : Group) (carries : List Carry) (back : List Back) (wants : Needs) : Work :=
  let q := g.needs back wants
  (g.nodes.filter fun n => !n.isRoot).foldl (fun w n => w.node g q n) (Work.start s carries back)

/-- R197: the fault reported: at the lowest element, then of the earliest-recorded node. -/
def pickFault : List PassFault → Option PassFault
  | [] => none
  | f :: fs =>
    match pickFault fs with
    | none => some f
    | some g => if f.elem < g.elem || (f.elem == g.elem && f.seq < g.seq) then some f else some g

end Sys2Proof.Machine
end

