-- ==== Sys2Proof/Machine/Passes.lean ====
section
/-! DEFINITION. Machine/Passes.lean: the stream sequencer's head entry (R13, R191), passes: launch, element groups and
completion (R191 to R200, R239), and how dispatched work stops (R165). -/

namespace Sys2Proof.Machine

/-! ### Stopping dispatched work (R165) -/

def Thread.setPass (t : Thread) (i : PassSlot) (p : Option Pass) : Thread :=
  match i with
  | .p0 => { t with dsp.pass0 := p }
  | .p1 => { t with dsp.pass1 := p }

def State.setPass (s : State) (i : PassSlot) (p : Option Pass) : State := { s with th := s.th.setPass i p }

/-- R165: a deferred fault is outstanding. -/
def State.defer (s : State) (f : DFault) : State := { s with th.dsp.deferred := s.th.dsp.deferred ++ [f] }

/-- R165: a pass stops before its next element group, a boundary at which lane groups may move (R29). -/
def State.haltPass (s : State) (i : PassSlot) (p : Pass) (info : TrapInfo) : State :=
  ((s.setPass i (some { p with halted := true, hold := none })).defer
    ⟨p.seq, some (.pass i), p.smode, info, false⟩).laneBoundary

/-- A free pass slot (R13). -/
def Dispatch.freeSlot (d : Dispatch) : Option PassSlot :=
  if d.pass0.isNone then some .p0 else if d.pass1.isNone then some .p1 else none

/-- R115, R313: a write held by WB: when its hold began, or none once its budget has run out. -/
def State.holdOn (s : State) (h : Option Hold) : Option Hold :=
  let q := h.getD ⟨s.now, s.budget⟩
  if q.budget ≤ s.now - q.since then none else some q

/-! ### Length-queue slots of a producer (R189) -/

/-- R189: the queue a root fills, and how many slots. -/
def Node.producer (n : Node) : Option (Nat × Nat) :=
  if !n.isRoot then none
  else
    match n.instr with
    | some (.vcst f) => if bitAt f.fn 1 then some (f.fnAt 2 2, f.fnAt 4 2 + 1) else none
    | some (.vred f) => if f.fnAt 2 2 == 1 then some (f.fnAt 4 2, 1) else none
    | some (.kpop f) => some (f.d.toNat, f.fnAt 1 2 + 1)
    | _ => none

/-- The slots a root reserved: producers reserve in recording order, so the unfilled slots of a queue belong to its
outstanding producers in that order. -/
def Thread.slotsOf (t : Thread) (n : Node) : Nat × List Nat :=
  match n.producer with
  | none => (0, [])
  | some (q, k) =>
    let before := ((t.rcp.nodes.filter fun m => m.seq < n.seq).filterMap fun m =>
      match m.producer with
      | some (p, j) => if p == q then some j else none
      | none => none).sum
    let free := (t.lq q).slots.filter fun u => u.filled.isNone
    (q, ((free.drop before).take k).map fun u => u.no)

/-- R189, R237, R242: slots of a queue filled with one length. -/
def Thread.fillSlots (t : Thread) (u : Nat × List Nat) (len : Nat) : Thread :=
  u.2.foldl (fun t no => t.fillLq u.1 no len) t

/-- R156: the counter a node's word names is lowered. -/
def Thread.lower (t : Thread) (word : W64) : Thread :=
  match wordCounter word with
  | some c => t.ccDown c
  | none => t

/-- R166: a pass is abandoned: its counters are lowered, slots it would fill are filled with 0 (R189), and its roots are
gone. -/
def Thread.abandonPass (t : Thread) (i : PassSlot) (p : Pass) : Thread :=
  let roots := p.roots.filterMap t.rcp.node?
  let t1 := roots.foldl (fun u n => (u.fillSlots (t.slotsOf n) 0).lower n.word) t
  { t1 with rcp := t1.rcp.dropRoots p.roots }.setPass i none

/-! ### The head entry (R13, R191) -/

/-- What the stream sequencer does with its head entry. -/
inductive Plan where
  | nothing
  | drop
  | pend (node : Nat)
  | launch (roots : List Nat) (taken : Bool)
  | fence
  | engine
  deriving DecidableEq, Repr

/-- Roots of passes, not of engines. -/
def streamRoot (i : Instr) : Bool :=
  match i with
  | .vst _ | .vstx _ | .vcst _ | .vkst _ | .vred _ | .vamo _ | .vforce _ | .kpop _ => true
  | _ => false

/-- Engine words: what the matrix engine, the SSB or the copy engine starts. -/
def engineWord (i : Instr) : Bool :=
  match i with
  | .mopa _ | .mops _ | .mopt _ | .mzero _ | .mscale _ | .maddt _ | .mtrn _ | .mtld _ | .mtst _ | .mpack _ | .mtwr _
  | .bload _ | .bfromt _ | .msave _ | .mrest _ | .sscfg _ | .sscan _ | .ssstep _ | .ssld _ | .ssst _ | .ssrst _
  | .cpy _ | .cpy2d _ | .cpyt _ | .cpyx _ | .cpyf _ | .cpyr _ | .cpypub _ | .stmap _ | .stfl _ | .stinv _ => true
  | _ => false

/-- R191: a group of roots is within the limits of one pass. -/
def Recipe.groupOk (r : Recipe) (roots : List Nat) : Bool :=
  roots.length ≤ 16 && ((r.reach roots).filter fun n => n.isMemLeaf).length ≤ 16

/-- R13, R191: what the head entry asks for. Every pending root is launched, whatever mode recorded it (log entry 58). -/
def Thread.plan (t : Thread) : Plan :=
  match t.headEntry with
  | none => .nothing
  | some e =>
    let pend := t.rcp.pending
    match decodeOpc e.word with
    | some (.vpass _) => if pend.isEmpty then .drop else .launch pend true
    | some (.fence _) => .fence
    | some i =>
      (match e.node with
        | some k =>
          if streamRoot i then
            if !pend.isEmpty && !t.rcp.groupOk (pend ++ [k]) then .launch pend false
            else if e.joins then .pend k
            else .launch (pend ++ [k]) true
          else if engineWord i then
            (if rootWord i && !pend.isEmpty then .launch pend false else .engine)
          else .drop
        | none => if engineWord i then .engine else .drop)
    | none => .drop

/-- The queue without an entry. -/
def Thread.unqueue (t : Thread) (e : Entry) : Thread :=
  { t with dsp.queue := t.dsp.queue.filter fun u => u.seq != e.seq }

/-! ### Order among dispatched work (R16, R195, R234) -/

/-- R229: the blocks that a launch of some roots reads. -/
def Recipe.launchReads (r : Recipe) (roots : List Nat) : List Rng :=
  (r.reach roots).flatMap fun n => match n.instr with
    | some (.vldx _) => [Rng.span n.va.toNat 64]
    | _ => []

/-- What a group of roots reads and writes: leaves, with the blocks of VLDX leaves, and roots. -/
def Recipe.touches (r : Recipe) (roots : List Nat) : List Rng × List Rng :=
  let ns := r.reach roots
  ((ns.filter fun n => n.isMemLeaf).flatMap (fun n => n.reads) ++ r.launchReads roots,
    (ns.filter fun n => n.isRoot && roots.contains n.idx).flatMap fun n => n.writes)

/-- The mode of the work with an order number: of a queued entry, or of a pass. -/
def Thread.smodeOf (t : Thread) (seq : Nat) : Bool :=
  (t.dsp.queue.any fun e => e.seq == seq && e.smode) || t.dsp.passes.any fun p => p.seq == seq && p.smode

/-- R293, R299: a posted release comes after queued work with an order number; an S-mode one does not wait for U-mode work
that has not started (R272). -/
def Thread.followsWork (t : Thread) (seq : Nat) (p : Posted) : Bool :=
  p.release.any fun n => seq < n && (t.smodeOf seq || !p.smode)

/-- R125, R388: the posted stores that work which starts now comes after: all but releases that follow it and stores that
follow those. -/
def Thread.postedFor (t : Thread) (seq : Nat) : List Posted :=
  let late := t.fe.posted.foldl (fun r p =>
    if t.followsWork seq p || r.any (fun q => q.blocks p.va p.bytes.length p.dev) then p :: r else r) []
  t.fe.posted.filter fun p => !late.contains p

/-- R13, R388: a pass takes its place before work with an order number: it has been launched, or it stood before it in the
queue. -/
def Pass.before (p : Pass) (seq : Nat) : Bool := p.seq != seq && (p.ready || p.seq < seq)

/-- R125, R195, R196, R388: what reads and writes given ranges and starts now, with the order number `seq`, must wait for:
started passes and operations and posted stores that overlap it, stopped ones included (R198), and arrival words of started
copies. -/
def Thread.mustWait (t : Thread) (seq : Nat) (reads writes : List Rng) : Bool :=
  let clash (u : List Rng × List Rng) : Bool :=
    rangesMeet reads u.2 || rangesMeet writes u.2 || rangesMeet writes u.1
  (t.dsp.passes.any fun p => p.before seq && clash (t.passLeft p)) ||
    (t.dsp.ops.any fun o => o.e.seq != seq && (clash (t.opLeft o) || (reads ++ writes).any o.e.arrivesAt)) ||
    (t.postedFor seq).any fun p => (reads ++ writes).any fun r => r.meets (Rng.span p.va p.bytes.length)

/-- R234: a root whose writes are releases. -/
def Node.releases (n : Node) : Bool :=
  match n.instr with
  | some (.vst f) | some (.vstx f) => n.isRoot && bitAt f.fn 2
  | some (.vamo f) => bitAt f.fn 4
  | _ => false

/-- The tile an entry's matrix operation writes. -/
def Entry.tile? (e : Entry) : Option Nat :=
  match decodeOpc e.word with
  | some (.mopa f) | some (.mops f) | some (.mopt f) | some (.mzero f) | some (.mscale f) | some (.maddt f)
  | some (.mtrn f) | some (.mtld f) | some (.mtwr f) | some (.mrest f) => some f.mt.toNat
  | _ => none

/-- R16: the tile a leaf reads. -/
def Node.tile? (n : Node) : Option Nat :=
  match n.instr with
  | some (.vtread f) | some (.mrred f) => some f.mt.toNat
  | _ => none

/-- R16, R264: leaves of a recipe wait for started matrix operations on the tile they read, and for the one whose mask they
are, started or not. -/
def Thread.leavesWait (t : Thread) (seq : Nat) (nodes : List Node) : Bool :=
  let mask (e : Entry) (n : Node) : Bool := e.node == some n.idx && e.seq == n.seq
  (t.dsp.ops.any fun o => o.e.seq != seq && nodes.any fun n => (n.tile?.isSome && n.tile? == o.e.tile?) || mask o.e n) ||
    t.dsp.queue.any fun e => e.seq != seq && nodes.any (mask e)

/-- R13, R195, R234: a pass of some roots that reads and writes given ranges may be launched, with the order number `seq`:
one with a release after everything the thread has started or posted. -/
def Thread.mayLaunch (t : Thread) (seq : Nat) (roots : List Nat) (u : List Rng × List Rng) : Bool :=
  let ns := t.rcp.reach roots
  (ns.all fun n => n.known.isSome) && !t.mustWait seq u.1 u.2 && !t.leavesWait seq ns &&
    (!(ns.any Node.releases) ||
      (!(t.dsp.passes.any fun p => p.before seq) && !(t.dsp.ops.any fun o => o.e.seq != seq) && (t.postedFor seq).isEmpty))

/-- R13, R195: a pass of some roots may be launched. -/
def Thread.launchable (t : Thread) (seq : Nat) (roots : List Nat) : Bool := t.mayLaunch seq roots (t.rcp.touches roots)

/-- R166, R203: a pass that stands in a slot may be launched again, with what it has left. -/
def Thread.relaunchable (t : Thread) (p : Pass) : Bool :=
  let u := t.passLeft p
  t.mayLaunch p.seq p.roots (u.1 ++ t.rcp.launchReads p.roots, u.2)

/-- The roots a pass streams: its own, or that of the operation it serves. -/
def Thread.passRoots (t : Thread) (p : Pass) : List Nat :=
  if p.serves.isNone then p.roots
  else (t.dsp.ops.find? fun o => o.e.seq == p.seq).elim [] fun o => o.e.node.toList

/-! ### Launch (R191) -/

/-- R188: a node's sources and mask all have one length. -/
def Recipe.srcsSized (r : Recipe) (n : Node) (k : Nat) : Bool :=
  n.srcs.all fun i => ((r.node? i).map Node.size).getD 0 == k

/-- R188, R225, R227: a reached node's sources and mask have the lengths its entry asks for; those of an engine's root are
checked at its start. -/
def Recipe.sizesOk (r : Recipe) (n : Node) : Bool :=
  match n.instr with
  | some (.vbcast _) => n.size % n.va.toNat == 0 && r.srcsSized n n.va.toNat
  | some (.vsegred _) => n.len % n.va.toNat == 0 && r.srcsSized n n.len
  | some i => n.ownLength || (rootWord i && !streamRoot i) || r.srcsSized n n.size
  | none => true

/-- R194, R377: a node that carries state across element groups. A VCST without `.q` carries the offset of its next write
(log entry 88). -/
def Node.carries (n : Node) : Bool :=
  match n.instr with
  | some (.vscan _) | some (.vsegred _) | some (.vred _) | some (.kpop _) | some (.vcst _) => true
  | _ => false

/-- R390: the first VSEGRED, whose input comes from no other, with another input length than the first such. -/
def Recipe.segMismatch (r : Recipe) (nodes : List Node) : Option Node :=
  let firsts := nodes.filter fun n => n.isSegred && !(r.reach n.sa.toList).any Node.isSegred
  match firsts with
  | [] => none
  | f :: fs => fs.find? fun n => n.len != f.len

/-- A launch fault of one reached node (R225, R228, R230, R273). -/
def Thread.leafBad (t : Thread) (n : Node) : Option Nat :=
  match n.instr with
  | some (.vbcast f) => if f.fnAt 0 1 == 0 && 4096 < n.va.toNat then some causeRange else none
  | some (.vld f) =>
    if n.part == 0 && f.ty == 0xF && (slice n.vb 0 24).toNat * (slice n.vb 24 24).toNat < n.size then some causeRange
    else none
  | some (.vtread f) =>
    if (128 - n.va.toNat) * 128 < n.size then some causeRange
    else if n.smode && !(t.tile f.mt.toNat).saved then some causeTileUnsaved
    else none
  | some (.mrred f) => if n.smode && !(t.tile f.mt.toNat).saved then some causeTileUnsaved else none
  | _ => none

/-- A fault found at a launch. -/
def launchFault (n : Node) (elem code : Nat) : PassFault := ⟨elem, n.seq, n.pc, code, 0, 0, false⟩

/-- R188, R191, R194, R390: the checks of a launch, in the model's order; `start` is VSTART. -/
def Thread.launchBad (t : Thread) (roots : List Nat) (start : Nat) : Option PassFault :=
  let ns := t.rcp.reach roots
  match ns.find? fun n => !t.rcp.sizesOk n with
  | some n => some (launchFault n start causeLength)
  | none =>
    match t.rcp.segMismatch ns with
    | some n => some (launchFault n 0 causeLength)
    | none =>
      match roots with
      | [r] =>
        if 16 < (ns.filter fun n => n.isMemLeaf).length then
          (t.rcp.node? r).map fun n => launchFault n 0 causeRange
        else (ns.findSome? fun n => (t.leafBad n).map (launchFault n start)).or
          (((ns.filter Node.carries)[16]?).map fun n => launchFault n start causeRange)
      | _ => (ns.findSome? fun n => (t.leafBad n).map (launchFault n start)).or
          (((ns.filter Node.carries)[16]?).map fun n => launchFault n start causeRange)

/-- R323: the read of a block by dispatched work. `idx` is set where the block's own indices are read; a copy meets a DEV page
as R319 says. -/
def State.readBlock (s : State) (smode copy idx : Bool) (va : W64) : Except Stop (StreamBlock × State) :=
  if va.toNat % 64 != 0 then .error (.trap (TrapInfo.at causeMisaligned accRead va))
  else
    match s.check smode accRead va 64 with
    | .error e => .error e
    | .ok (x, s1) =>
      if copy && leafCls x.leaf == clsDev then .error (accessFault accRead va)
      else if !blockPage x.leaf then .error (.trap (TrapInfo.plain causeRange 0))
      else
        let h := s1.held false x.pa 64
        if h.1 then .error .busy
        else
          match h.2.load accRead x va 64 with
          | .error e => .error e
          | .ok (b, s2) =>
            match parseBlockOf idx b with
            | none => .error (.trap (TrapInfo.plain causeRange 0))
            | some p => .ok (p, s2)

/-- R229, R326: the block of a VLDX leaf, read again at a launch. -/
def State.blockAtLaunch (s : State) (n : Node) (f : FM) : Except Stop (StreamBlock × State) :=
  match s.readBlock n.smode false true n.va with
  | .error e => .error e
  | .ok (p, s1) =>
    let within (r : Rng) (q : Option Rng) : Bool :=
      r.hi < r.lo || q.elim false fun u => u.lo ≤ r.lo && r.hi ≤ u.hi
    if p.esize != bytesOf f.ty.toNat || p.count < n.size || !within (p.indexRng p.count) n.reads[0]? ||
        !within p.tableRng n.reads[1]? then .error (.trap (TrapInfo.plain causeRange 0))
    else .ok (p, s1)

/-- R229: the blocks of the VLDX leaves of a launch, as it reads them, or the first fault. -/
def State.launchBlocks (start : Nat) : List Node → State → Work × List (Nat × StreamBlock)
  | [], s => (Work.start s [] [], [])
  | n :: ns, s =>
    match n.instr with
    | some (.vldx f) =>
      (match s.blockAtLaunch n f with
        | .error r => ((Work.start s [] []).stop n start accRead n.va r, [])
        | .ok (b, s1) =>
          let r := s1.launchBlocks start ns
          (r.1, (n.idx, b) :: r.2))
    | _ => s.launchBlocks start ns

/-- R197: a pass's report of a fault. A VAMO's own fault is reported as R163's last row gives. -/
def Thread.report (t : Thread) (p : Pass) (f : PassFault) : TrapInfo :=
  let vamo := p.roots.any fun i => match t.rcp.node? i with
    | some n => n.seq == f.seq && (match n.instr with
      | some (.vamo _) => true
      | _ => false)
    | none => false
  { code := f.code, acc := f.acc, root := if vamo then f.node else p.pc, node := if vamo then 0 else f.node,
    elem := BitVec.ofNat 64 f.elem, addr := f.addr, src := if vamo then 5 else 1, slot := t.rcp.slotAt f.node f.seq }

/-- A pass meets a fault: it stops, or its task ends (R112). -/
def State.passFault (s : State) (i : PassSlot) (p : Pass) (f : PassFault) : State :=
  if f.lease then s.leaseViolation else s.haltPass i p (s.th.report p f)

/-- R390: the number of elements of a pass. -/
def passLength (nodes : List Node) (roots : List Nat) : Nat :=
  let fs := factors nodes
  nodes.foldl (fun m n =>
    if n.isSegred then max m (n.len * factorOf fs (n.sa.getD 0))
    else if roots.contains n.idx then max m (n.size * factorOf fs n.idx)
    else m) 0

/-- R191: the launch of the pass in a slot: its checks, and the blocks it reads. A pass that has only its end left needs
neither (R199, R239). -/
def State.launchPass (s : State) (i : PassSlot) (p : Pass) : State :=
  let ns := s.th.rcp.reach p.roots
  if p.skipped || p.treeOnly then
    s.setPass i (some { p with ready := true, since := s.now, len := passLength ns p.roots })
  else
  match s.th.launchBad p.roots p.start with
  | some f => s.passFault i p f
  | none =>
    let r := s.launchBlocks p.start ns
    if r.1.blocked then s
    else
      match pickFault r.1.faults with
      | some f => r.1.s.passFault i p f
      | none => r.1.s.setPass i (some { p with
          ready := true, since := s.now, blocks := r.2, len := passLength ns p.roots })

/-- The pass that roots form as an entry launches it; pending roots launched ahead of the entry's own come before it. What
the launching root captured of SERIAL holds for either (R200). -/
def Thread.newPass (t : Thread) (now : Nat) (roots : List Nat) (e : Entry) (taken : Bool) : Pass :=
  let last := (roots.getLast?.bind t.rcp.node?).map fun n => n.seq
  { pc := e.pc, seq := if taken then e.seq else last.getD e.seq, roots := roots, p := t.passSize, start := 0, len := 0,
    carries := [], back := [], blocks := [], serves := none, smode := e.smode, halted := false, serial := e.serial,
    treeOnly := false, hold := none, ready := false, since := now, skipped := false }

/-- A pass in a slot that must still be launched, after a resumption (R166, R203). -/
def Dispatch.unready (d : Dispatch) : Option (PassSlot × Pass) :=
  let test (p : Option Pass) : Option Pass := p.filter fun p => !p.ready && !p.halted && p.serves.isNone
  match test d.pass0, test d.pass1 with
  | some p, some q => if p.seq < q.seq then some (.p0, p) else some (.p1, q)
  | some p, none => some (.p0, p)
  | none, some q => some (.p1, q)
  | none, none => none

/-- The launch the thread in focus can make now, if any, as the state after it. -/
def State.launchNow (s : State) : Option State :=
  match s.th.dsp.unready with
  | some (i, p) => if s.th.relaunchable p then some (s.launchPass i p) else none
  | none =>
    match s.th.plan, s.th.headEntry, s.th.dsp.freeSlot with
    | .launch roots taken, some e, some i =>
      if !s.th.launchable e.seq roots then none
      else
        let p := s.th.newPass s.now roots e taken
        let t0 := if taken then s.th.unqueue e else s.th
        let t1 := { t0 with rcp.pending := t0.rcp.pending.filter fun k => !roots.contains k }
        some (State.launchPass { s with th := t1.setPass i (some p) } i p)
    | _, _, _ => none

/-- R191: PASS_LAUNCH. -/
def execPassLaunch (s : State) : Host.Outcome State Fault Refusal :=
  if s.th.run == .running then .next (s.launchNow.getD s) else .next s

/-! ### Roots (R234 to R242) -/

/-- A write of a root's element: its bytes, and which bits of them are written. -/
structure RootWrite where
  node : Node
  elem : Nat
  va : W64
  x : Xl
  bytes : List Byte
  mask : List Byte
  deriving DecidableEq, Repr

/-- A VAMO element to be performed (R307). -/
structure AmoElem where
  node : Node
  elem : Nat
  va : W64
  x : Xl
  val : W64
  deriving DecidableEq, Repr

/-- What a root does to memory at an element. -/
inductive RootAct where
  | write (r : RootWrite)
  | amo (a : AmoElem)
  deriving DecidableEq, Repr

/-- A group's roots as they are prepared: what they do to memory, latest first, and the root, address and kind of an access
that WB holds. -/
structure Prep where
  w : Work
  acts : List RootAct
  held : Option (Node × W64 × Nat)

/-- R209: the check of a root's write of `n` bytes. -/
def Prep.check (q : Prep) (n : Node) (e acc : Nat) (va : W64) (len : Nat) (k : Prep → Xl → Prep) : Prep :=
  match q.w.s.check n.smode acc va len with
  | .error .held => { q with held := q.held.or (some (n, va, acc)) }
  | .error r => { q with w := q.w.stop n e acc va r }
  | .ok (x, s1) =>
    if leafCls x.leaf == clsDev then { q with w := q.w.blame n e causeDevice acc va }
    else if acc == accAtomic && leafVer x.leaf then { q with w := q.w.blame n e causeDataAccess acc va }
    else if leafSd x.leaf then { q with w := q.w.blame n e causeSqPartial acc va }
    else if leafVer x.leaf && n.vc != s1.task.stepno then { q with w := q.w.blame n e causeStep acc va }
    else
      let h := if acc == accAtomic then s1.held false x.pa len else s1.heldWrite false x len
      if h.1 then { q with w := { q.w with blocked := true } }
      else
        let r := h.2.hostRefuses x
        if r.1 then { q with w := { q.w with s := r.2 }.blame n e causeDataAccess acc va }
        else k { q with w := { q.w with s := r.2 } } x

/-- A root's write of whole or part bytes. -/
def Prep.put (q : Prep) (n : Node) (e : Nat) (va : W64) (bytes mask : List Byte) : Prep :=
  q.check n e accWrite va bytes.length fun q x => { q with acts := .write ⟨n, e, va, x, bytes, mask⟩ :: q.acts }

/-- An element written whole at an aligned address. -/
def Prep.putElem (q : Prep) (n : Node) (e ty : Nat) (va : W64) (stride : Int) (v : W64) : Prep :=
  let k := bytesOf ty
  if va.toNat % k != 0 || stride % k != 0 then { q with w := q.w.blame n e causeMisaligned accWrite va }
  else q.put n e va (leBytes k v.toNat) (List.replicate k 0xFF)

/-- R41: an LNS6 element, the bits of each byte it occupies. -/
def Prep.putLns (q : Prep) (n : Node) (e : Nat) (base v : W64) : Prep :=
  let at_ := base + BitVec.ofNat 64 (6 * e / 8)
  let sh := 6 * e % 8
  let bits := leBytes 2 (v.toNat % 64 * 2 ^ sh)
  let mask := leBytes 2 (63 * 2 ^ sh)
  let q1 := q.put n e at_ (bits.take 1) (mask.take 1)
  if sh ≤ 2 then q1 else q1.put n e (at_ + 1) (bits.drop 1) (mask.drop 1)

/-- R236: an element of an index node, as its type reads it. -/
def Work.index (w : Work) (n : Node) (v : W64) : Int :=
  match n.sb.bind w.s.th.rcp.node? with
  | some m => (match m.nty with
    | .elem ty => intOf ty v.toNat
    | .mask => 0)
  | none => 0

/-- The running count of a root, carried in lane 0 of its set (R237, R242, R377). -/
def Work.count (w : Work) (n : Node) : Nat := ((w.carry n.idx).getD 0).toNat

/-- A root's count goes up by one. -/
def Prep.countUp (q : Prep) (n : Node) : Prep :=
  { q with w := q.w.setCarry n.idx (some (BitVec.ofNat 64 (q.w.count n + 1))) }

/-- A root's set of carries (R205), empty before its first element. -/
def Work.lanes (w : Work) (n : Node) (p : Nat) : List (Option W64) :=
  ((w.carries.find? fun c => c.node == n.idx).map fun c => c.lanes).getD (List.replicate p none)

/-- R239: a value other than zero; NaN counts. -/
def nonZero (ty : Nat) (v : W64) : Bool := if ty < 8 then maskBits ty v.toNat != 0 else !(regVal ty v).isZero

/-- R55, R239: an element of a reduction enters its lane's partial. -/
def Work.reduce (w : Work) (n : Node) (f : FM) (p e : Nat) (v : W64) : Work :=
  let ls := w.lanes n p
  let l := e % p
  let ty := f.ty.toNat
  let r : EVal :=
    if f.fnAt 6 2 == 3 then EVal.of ((ls[l]?.getD none).getD 0 + if nonZero ty v then 1 else 0)
    else
      match ls[l]?.getD none with
      | none => foldFirst (f.fnAt 6 2) ty v
      | some c => foldElem (f.fnAt 6 2) ty (bitAt f.fn 1) c v
  let w1 := { w with carries := ⟨n.idx, ls.set l r.val⟩ :: w.carries.filter fun c => c.node != n.idx }
  w1.note n e r.flags

/-- One element of a root whose mask is true there. -/
def Prep.rootElem (q : Prep) (p : Nat) (n : Node) (e : Nat) (a b : W64) : Prep :=
  let off (i : Int) (k : Nat) : W64 := n.va + BitVec.ofInt 64 (i * k)
  match n.instr with
  | some (.vst f) =>
    let st := strideOf f.ty.toNat (bitAt f.fn 1) n.vb
    if f.ty == 0xE then q.putLns n e n.va a else q.putElem n e f.ty.toNat (n.va + BitVec.ofInt 64 (e * st)) st a
  | some (.vforce f) =>
    if f.ty == 0xE then q.putLns n e n.va a
    else q.putElem n e f.ty.toNat (n.va + BitVec.ofNat 64 (e * bytesOf f.ty.toNat)) (bytesOf f.ty.toNat) a
  | some (.vstx f) =>
    let k := bytesOf f.ty.toNat
    q.putElem n e f.ty.toNat (off (q.w.index n b) k) k a
  | some (.vcst f) =>
    let k := bytesOf f.ty.toNat
    (q.putElem n e f.ty.toNat (off (q.w.count n) k) k a).countUp n
  | some (.vkst _) =>
    let m : Byte := BitVec.ofNat 8 (2 ^ (e % 8))
    q.put n e (n.va + BitVec.ofNat 64 (e / 8)) [if a != 0 then m else 0] [m]
  | some (.kpop _) => if a != 0 then q.countUp n else q
  | some (.vred f) => { q with w := q.w.reduce n f p e a }
  | some (.vamo f) =>
    let k := bytesOf f.ty.toNat
    let va := off (q.w.index n b) k
    if va.toNat % k != 0 then { q with w := q.w.blame n e causeMisaligned accAtomic va }
    else q.check n e accAtomic va k fun q x => { q with acts := .amo ⟨n, e, va, x, a⟩ :: q.acts }
  | _ => q

/-- A root at an element: nothing where its mask is false, or where a fault leaves a source without a value. -/
def Prep.root (q : Prep) (p : Nat) (n : Node) (e : Nat) : Prep :=
  match q.w.mask n e with
  | some true =>
    let a : Option W64 := match n.sa with
      | none => some 1
      | some i => (q.w.val i e).val
    let b : Option W64 := match n.sb with
      | none => some 0
      | some i => (q.w.val i e).val
    (match a, b with
      | some a, some b => q.rootElem p n e a b
      | _, _ => q)
  | _ => q

/-- The roots of a group over their own elements. -/
def Work.prepare (w : Work) (g : Group) (p : Nat) (roots : List Node) : Prep :=
  roots.foldl (fun q n =>
    let o := (g.own? n.idx).getD ⟨n.idx, 0, 0, 0, 0⟩
    (List.range' o.lo (o.hi - o.lo)).foldl (fun q e => q.root p n e) q) ⟨w, [], none⟩

/-! ### Commit (R193) -/

/-- Bytes written under a mask. -/
def maskBytes : List Byte → List Byte → List Byte → List Byte
  | o :: os, b :: bs, m :: ms => ((o &&& ~~~m) ||| (b &&& m)) :: maskBytes os bs ms
  | _, _, _ => []

/-- One write performed: where its bytes went, for the poison they may clear. A versioned page takes it in the half
that is not committed (R117). -/
def State.performRoot (s : State) (r : RootWrite) : State × Option (Nat × Nat) :=
  match s.writePa r.x r.node.vc with
  | none => (s, none)
  | some (pa, s1) =>
    let s2 := s1.touch false true r.x r.va pa r.bytes.length
    if s2.channelLost pa then (s2, none)
    else
      let new := maskBytes (s2.physRead pa r.bytes.length) r.bytes r.mask
      ({ s2 with mem := s2.mem.writeN pa new }.spread (s2.th.cluster, s2.th.pair) pa new, some (pa, r.bytes.length))

/-- The 64-byte blocks that some spans together cover. -/
def coveredBlocks (spans : List (Nat × Nat)) : List Nat :=
  ((spans.flatMap fun u => (List.range ((u.1 % 64 + u.2 + 63) / 64)).map fun i => u.1 / 64 * 64 + 64 * i).eraseDups).filter
    fun b => (List.range 64).all fun i => spans.any fun u => u.1 ≤ b + i && b + i < u.1 + u.2

/-- A state in which no block's poison is remembered anywhere. -/
def State.unpoisoned (s : State) : Bool :=
  s.poison.isEmpty && s.stale.isEmpty && s.pairs.all fun p => p.lines.all fun l => l.homePoison.isEmpty

/-- R121, R124: writes of one group that together cover a block clear it, and in the homes they reach. -/
def State.clearCovered (s : State) (spans : List (Nat × Nat)) : State :=
  if s.unpoisoned then s
  else
    let bs := coveredBlocks spans
    { s with
      poison := s.poison.filter fun b => !bs.contains b
      stale := s.stale.map fun u => (u.1, u.2 ++ bs.filter fun b => s.channelOf b == some u.1 && !u.2.contains b)
      pairs := s.pairs.map fun p =>
        if p.cluster == s.th.cluster && p.pair == s.th.pair then p
        else p.mapLines (fun l => !l.coh) fun l => { l with homePoison := l.homePoison.filter fun b => !bs.contains b } }

/-- A group's work on memory under way: the state, the spans written, and the faults of atomics. -/
structure Doing where
  s : State
  spans : List (Nat × Nat)
  faults : List PassFault

/-- R307: a VAMO element performed. A poisoned location is left as it is, and is a fault once the group's other
atomics are done. Flags go to REMOTEFLAGS (R305). -/
def Doing.amo (q : Doing) (a : AmoElem) : Doing :=
  match a.node.instr with
  | some (.vamo f) =>
    let ty := f.ty.toNat
    let op := f.fnAt 1 3
    (match (q.s.clearCovered q.spans).rmwNow a.x a.va (bytesOf ty) fun old => some (atomicVal op ty old a.val.toNat).1 with
      | .error (.trap i) =>
        { q with faults := ⟨a.elem, a.node.seq, a.node.pc, i.code, accAtomic, i.addr, false⟩ :: q.faults }
      | .error _ => q
      | .ok (old, s1) =>
        let fl := (atomicVal op ty old a.val.toNat).2
        { q with s := { s1 with th.sr.remoteflags := s1.th.sr.remoteflags ||| fl.setWidth 64 } })
  | _ => q

/-- A root's act on memory performed. -/
def Doing.act (q : Doing) (a : RootAct) : Doing :=
  match a with
  | .write r =>
    let u := q.s.performRoot r
    { q with s := u.1, spans := u.2.toList ++ q.spans }
  | .amo a => q.amo a

/-- R193: what a group's roots do to memory, in the recording order of roots and by elements, and the faults of its atomics. -/
def State.performActs (s : State) (acts : List RootAct) : State × List PassFault :=
  let q := acts.foldl Doing.act ⟨s, [], []⟩
  (q.s.clearCovered q.spans, q.faults)

/-- The elements the next group begins and ends with. -/
def Pass.groupEnd (p : Pass) : Nat := min ((p.start / p.p + 1) * p.p) p.len

/-- The group a pass evaluates next. -/
def Thread.groupOf (t : Thread) (p : Pass) : Group :=
  let ns := t.rcp.reach p.roots
  ⟨ns, passOwn ns p.roots p.start p.groupEnd, p.blocks⟩

/-- What the roots of a group need. -/
def Group.wants (g : Group) (roots : List Node) : Needs :=
  roots.foldl (fun q n =>
    match g.own? n.idx with
    | some o => n.srcs.foldl (fun q i => q.add i o.lo o.hi) q
    | none => q) []

/-- R193: a group whose evaluation met no fault commits. -/
def State.commitGroup (i : PassSlot) (p : Pass) (q : Prep) : State :=
  let a := q.w.s.performActs q.acts.reverse
  let p1 := { p with start := p.groupEnd, carries := q.w.carries, back := q.w.back, hold := none, since := q.w.s.now }
  let s2 := (a.1.raiseFlags q.w.flags).setPass i (some p1)
  match pickFault a.2 with
  | some f => s2.passFault i p1 f
  | none => s2.laneBoundary

/-- R115: the report of a write that WB held too long. -/
def holdFault (n : Node) (elem acc : Nat) (va : W64) : PassFault := ⟨elem, n.seq, n.pc, causeTimeout, acc, va, false⟩

/-- A pass's roots, in recording order (R193). -/
def Recipe.rootsOf (r : Recipe) (p : Pass) : List Node := r.nodes.filter fun n => p.roots.contains n.idx

/-- R193, R197: the next element group of a pass. -/
def State.groupStep (s : State) (i : PassSlot) (p : Pass) : State :=
  let g := s.th.groupOf p
  let roots := s.th.rcp.rootsOf p
  let w := s.evaluate g p.carries p.back (g.wants roots)
  let q := w.prepare g p.p roots
  match pickFault q.w.faults with
  | some f => if q.w.blocked then s else q.w.s.passFault i p f
  | none =>
    if q.w.blocked then s
    else
      match q.held with
      | none => State.commitGroup i p q
      | some (n, va, acc) =>
        match s.holdOn p.hold with
        | some h => s.setPass i (some { p with hold := some h })
        | none => s.passFault i p (holdFault n p.start acc va)

/-- A pass with a group left to evaluate. -/
def Pass.going (p : Pass) : Bool := p.ready && !p.halted && p.serves.isNone && p.start < p.len && !p.treeOnly

/-- R193: ELEMENT_GROUP_COMMIT. -/
def execElementGroupCommit (i : PassSlot) (s : State) : Host.Outcome State Fault Refusal :=
  match s.th.dsp.pass i with
  | some p => if s.th.run == .running && p.going then .next (s.groupStep i p) else .next s
  | none => .next s

/-! ### Completion (R191, R239) -/

/-- R239: the result of a reduction and the flags of its final tree. -/
def redResult (f : FM) (lanes : List (Option W64)) : W64 × Flags :=
  let ty := f.ty.toNat
  let op := f.fnAt 6 2
  let q := lanes.filterMap id
  if op == 3 then (q.foldl (fun a b => a + b) 0, 0)
  else
    let r := treeFold (foldElem op ty (bitAt f.fn 1)) 8 q
    (r.1.getD (foldIdentity op ty), r.2)

/-- R239: a reduction's result as an integer. -/
def redInt (f : FM) (v : W64) : Int := if f.fnAt 6 2 == 3 then v.toNat else intOf f.ty.toNat v.toNat

/-- R239: the width a reduction is stored in. -/
def redBytes (f : FM) : Nat := if f.fnAt 6 2 == 3 then 8 else bytesOf f.ty.toNat

/-- R239: a reduction's final tree and the check of its delivery. -/
def Prep.finishRed (q : Prep) (p : Nat) (n : Node) (f : FM) : Prep :=
  let r := redResult f (q.w.lanes n p)
  let w1 := q.w.note n n.size r.2
  let q1 := { q with w := w1 }
  match f.fnAt 2 2 with
  | 1 =>
    let v := redInt f r.1
    if v < 0 || (2 ^ 48 : Int) ≤ v then { q1 with w := w1.blame n n.size causeRange 0 0 } else q1
  | 2 =>
    let k := redBytes f
    if n.va.toNat % k != 0 then { q1 with w := w1.blame n n.size causeMisaligned accWrite n.va }
    else q1.put n n.size n.va (leBytes k r.1.toNat) (List.replicate k 0xFF)
  | _ => q1

/-- R189, R239, R242: a root delivers its result at completion. A VRED of a pass that a handler has moved to its end
delivers nothing, and its slot takes 0 (R199, log entry 89). -/
def Thread.deliver (t : Thread) (w : Work) (p : Pass) (slots : Nat × List Nat) (n : Node) : Thread :=
  match n.instr with
  | some (.vred f) =>
    let r := (redResult f (w.lanes n p.p)).1
    (match f.fnAt 2 2 with
      | 0 =>
        if p.skipped then t
        else t.setX f.b.toNat (if f.fnAt 6 2 == 3 then r else extendTo64 f.ty.toNat r.toNat)
      | 1 => t.fillSlots slots (if p.skipped then 0 else (redInt f r).toNat)
      | _ => t)
  | some (.vcst _) | some (.kpop _) => t.fillSlots slots (w.count n)
  | _ => t

/-- R191: a pass all of whose groups have committed completes, or stops at a reduction's fault. -/
def State.finishPass (s : State) (i : PassSlot) (p : Pass) : State :=
  let roots := s.th.rcp.rootsOf p
  let q := roots.foldl (fun q n => match n.instr with
    | some (.vred f) => if p.skipped then q else q.finishRed p.p n f
    | _ => q) (⟨Work.start s p.carries [], [], none⟩ : Prep)
  match pickFault q.w.faults with
  | some f => s.passFault i { p with treeOnly := true, start := p.len } f
  | none =>
    if q.w.blocked then s
    else
      match q.held with
      | some (n, va, acc) =>
        (match s.holdOn p.hold with
          | some h => s.setPass i (some { p with hold := some h })
          | none => s.passFault i { p with treeOnly := true, start := p.len } (holdFault n n.size acc va))
      | none =>
        let s1 := (q.w.s.performActs q.acts.reverse).1.raiseFlags q.w.flags
        let t := roots.foldl (fun t n => (t.deliver q.w p (s1.th.slotsOf n) n).lower n.word) s1.th
        State.laneBoundary { s1 with th := { t with rcp := t.rcp.dropRoots p.roots }.setPass i none }

/-- A pass whose groups have all committed. -/
def Pass.over (p : Pass) : Bool := p.ready && !p.halted && p.serves.isNone && (p.len ≤ p.start || p.treeOnly)

/-- R191: PASS_COMPLETE. -/
def execPassComplete (i : PassSlot) (s : State) : Host.Outcome State Fault Refusal :=
  match s.th.dsp.pass i with
  | some p => if s.th.run == .running && p.over then .next (s.finishPass i p) else .next s
  | none => .next s

end Sys2Proof.Machine
end

