-- ==== Sys2Proof/Machine/Engines.lean ====
section
/-! DEFINITION. Machine/Engines.lean: what the matrix engine, the SSB and the copy engine share: their places among a
thread's started operations, how an operation starts, stops and ends (R31, R165, R166), the recipe stream that serves
one (R191, R259), and the spans of memory it reads and writes (R266, R318). -/

namespace Sys2Proof.Machine

/-! ### Started operations -/

/-- The engine that runs a word. -/
def engineOf (i : Instr) : EngineUnit :=
  match i with
  | .bload _ => .bload 0
  | .sscfg _ | .sscan _ | .ssstep _ | .ssld _ | .ssst _ | .ssrst _ => .ssb
  | .cpy _ | .cpy2d _ | .cpyt _ | .cpyx _ | .cpyf _ | .cpyr _ | .cpypub _ | .stmap _ | .stfl _ | .stinv _ => .copy
  | _ => .matrix

/-- Updates the operation with an order number. -/
def Dispatch.mapOp (d : Dispatch) (seq : Nat) (f : Op → Op) : Dispatch :=
  let g (o : Op) : Op := if o.e.seq == seq then f o else o
  { d with matrix := d.matrix.map g, bloads := d.bloads.map g, ssb := d.ssb.map g, copy := d.copy.map g,
           shelf := d.shelf.map g }

/-- The first shelved operation of an engine. -/
def Dispatch.shelved (d : Dispatch) (u : EngineUnit) : Option Op :=
  d.shelf.find? fun o => (decodeOpc o.e.word).map engineOf == some u

/-- R272: a shelved operation goes back to its engine once that is free. -/
def Dispatch.unshelve (d : Dispatch) : Dispatch :=
  let m := if d.matrix.isNone then d.shelved .matrix else none
  let b := if d.ssb.isNone then d.shelved .ssb else none
  let c := if d.copy.isNone then d.shelved .copy else none
  let back := m.toList ++ b.toList ++ c.toList
  { d with matrix := d.matrix.or m, ssb := d.ssb.or b, copy := d.copy.or c
           shelf := d.shelf.filter fun o => !back.any fun u => u.e.seq == o.e.seq }

/-- Removes an operation. -/
def Dispatch.dropOp (d : Dispatch) (seq : Nat) : Dispatch :=
  let keep (o : Op) : Bool := o.e.seq != seq
  { d with matrix := d.matrix.filter keep, bloads := d.bloads.filter keep, ssb := d.ssb.filter keep,
           copy := d.copy.filter keep, shelf := d.shelf.filter keep }.unshelve

/-- The operation that stands in an engine. -/
def Dispatch.inEngine (d : Dispatch) (u : EngineUnit) : Option Op :=
  match u with
  | .matrix => d.matrix
  | .bload _ => none
  | .ssb => d.ssb
  | .copy => d.copy

/-- R13, R272: an engine is free: it holds no operation, or one that a fault has stopped, which is set aside. -/
def Dispatch.engineFree (d : Dispatch) (u : EngineUnit) : Bool :=
  match d.inEngine u with
  | none => true
  | some o => o.halted

/-- Puts a started operation into its engine, a stopped one aside. -/
def Dispatch.putOp (d : Dispatch) (u : EngineUnit) (o : Op) : Dispatch :=
  let d1 := { d with shelf := d.shelf ++ (d.inEngine u).toList }
  match u with
  | .matrix => { d1 with matrix := some o }
  | .bload _ => { d1 with bloads := d1.bloads ++ [o] }
  | .ssb => { d1 with ssb := some o }
  | .copy => { d1 with copy := some o }

/-- The pass that streams an operation's recipe. -/
def Dispatch.serving (d : Dispatch) (seq : Nat) : Option (PassSlot × Pass) :=
  let test (p : Option Pass) : Option Pass := p.filter fun p => p.serves.isSome && p.seq == seq
  match test d.pass0, test d.pass1 with
  | some p, _ => some (.p0, p)
  | none, some p => some (.p1, p)
  | none, none => none

def State.updOp (s : State) (seq : Nat) (f : Op → Op) : State := { s with th.dsp := s.th.dsp.mapOp seq f }

/-- R156, R166: an operation is over: it completed, or was abandoned. Its counter is lowered, its root and the pass that
served it are gone. -/
def Thread.endOp (t : Thread) (o : Op) : Thread :=
  let t1 := t.lower o.e.word
  let root := o.e.node.filter fun i => ((t.rcp.node? i).map Node.isRoot) == some true
  let t2 := { t1 with rcp := t1.rcp.dropRoots root.toList, dsp := t1.dsp.dropOp o.e.seq }
  match t2.dsp.serving o.e.seq with
  | some (i, _) => t2.setPass i none
  | none => t2

/-- An operation stops, and with it the pass that streams its recipe. A CPYX reads anew what it has read ahead. -/
def Dispatch.haltOp (d : Dispatch) (seq : Nat) : Dispatch :=
  let stop (p : Pass) : Pass := if p.serves.isSome && p.seq == seq then { p with halted := true } else p
  let d1 := d.mapOp seq fun o => { o with halted := true, hold := none, keep := if o.dev then o.keep else [] }
  { d1 with pass0 := d1.pass0.map stop, pass1 := d1.pass1.map stop }

/-- R165: a started operation stops before its next unit. -/
def State.haltOp (s : State) (o : Op) (info : TrapInfo) : State :=
  ({ s with th.dsp := s.th.dsp.haltOp o.e.seq }.defer ⟨o.e.seq, some (.op o.e.seq), o.e.smode, info, false⟩).laneBoundary

/-- R163: TRAPSTAT.SRC of an engine. -/
def srcOf (u : EngineUnit) : Nat :=
  match u with
  | .matrix | .bload _ => 2
  | .ssb => 3
  | .copy => 4

/-- R163: an engine's report. `node` is the recording PC of an offending node, or 0. -/
def Entry.report (e : Entry) (f : PassFault) : TrapInfo :=
  { code := f.code, acc := f.acc, root := e.pc, node := f.node, elem := BitVec.ofNat 64 f.elem, addr := f.addr,
    src := ((decodeOpc e.word).map fun i => srcOf (engineOf i)).getD 2, slot := false }

/-- A fault outside any recipe. -/
def plainFault (elem code acc : Nat) (addr : W64) : PassFault := ⟨elem, 0, 0, code, acc, addr, false⟩

/-- What an access that is not performed makes of a unit: a fault, or a wait. -/
def Stop.fault (elem acc : Nat) (addr : W64) : Stop → Option PassFault
  | .trap i => some (plainFault elem i.code i.acc i.addr)
  | .lease => some ⟨elem, 0, 0, causeLease, acc, addr, true⟩
  | .conflict => some (plainFault elem causeStep accWrite addr)
  | .held | .busy => none

/-- A started operation meets a fault, or breaks the lease. -/
def State.opFault (s : State) (o : Op) (f : PassFault) : State :=
  if f.lease then s.leaseViolation else s.haltOp o { o.e.report f with slot := s.th.rcp.slotAt f.node f.seq }

/-- A fault at an entry's start: the entry stays where it is, and its start is tried again by TRET (R164). -/
def State.startFault (s : State) (e : Entry) (f : PassFault) : State :=
  if f.lease then s.leaseViolation
  else
    s.defer ⟨e.seq, some (.entry e.seq), e.smode, { e.report f with slot := s.th.rcp.slotAt f.node f.seq }, false⟩

/-- A new operation at its first unit, or where a handler has moved its entry (R199), started at a tick. -/
def Op.fresh (e : Entry) (n now : Nat) : Op := ⟨e, n, e.prog, false, false, none, none, false, [], now⟩

/-- R115, R313: a unit whose write is held by WB waits, or faults once its budget has run out. -/
def State.holdOp (s : State) (o : Op) (elem acc : Nat) (va : W64) : State :=
  match s.holdOn o.hold with
  | some h => s.updOp o.e.seq fun o => { o with hold := some h }
  | none => s.opFault o (plainFault elem causeTimeout acc va)

/-! ### Recipes that serve an engine (R191, R259) -/

/-- R259: the elements of an operation's sources that a unit takes, evaluated with the carries of its serving pass, which
has evaluated those below `done` already. -/
def State.streamUnit (s : State) (o : Op) (done : Nat) (wants : List (Nat × Nat × Nat)) : Work :=
  let empty := Work.start s [] []
  match o.e.node, s.th.dsp.serving o.e.seq with
  | some root, some (_, p) =>
    let ns := (s.th.rcp.reach [root]).filter fun n => n.idx != root
    let own := wants.foldl (fun r w =>
      match r.find? fun (q : Own) => q.node == w.1 with
      | some q => { q with lo := min q.lo (max done w.2.1), hi := max q.hi w.2.2 } :: r.filter fun q => q.node != w.1
      | none => ⟨w.1, max done w.2.1, w.2.2, 0, 0⟩ :: r) []
    let g : Group := ⟨ns, engineOwn ns own, p.blocks⟩
    s.evaluate g p.carries p.back (wants.foldl (fun q w => q.add w.1 w.2.1 w.2.2) [])
  | _, _ => empty

/-- The serving pass once the unit it streamed for is done, a boundary at which lane groups may move (R29). -/
def State.keepStream (s : State) (o : Op) (w : Work) : State :=
  match s.th.dsp.serving o.e.seq with
  | some (i, p) => (s.setPass i (some { p with carries := w.carries, back := w.back, since := s.now })).laneBoundary
  | none => s

/-- The values a unit took: elements `lo` to `hi - 1` of a source. -/
def Work.vals (w : Work) (i lo hi : Nat) : List W64 :=
  (List.range' lo (hi - lo)).map fun e => (w.val i e).val.getD 0

/-- R191: the pass that will stream an operation's recipe, in a free slot, with the blocks its launch has read. -/
def State.serve (s : State) (i : PassSlot) (e : Entry) (blocks : List (Nat × StreamBlock)) : State :=
  s.setPass i (some
    { pc := e.pc, seq := e.seq, roots := [], p := s.th.passSize, start := 0, len := 0, carries := [], back := [],
      blocks := blocks, serves := (decodeOpc e.word).map engineOf, smode := e.smode, halted := false,
      serial := e.serial, treeOnly := false, hold := none, ready := true, since := s.now, skipped := false })

/-- The least of some numbers, or another where there are none. -/
def lowest (d : Nat) : List Nat → Nat
  | [] => d
  | n :: ns => ns.foldl min n

/-- R225, R390: where an element of a node's source first counts among the node's own, from `lo` on: above a VSEGRED it stands
in a segment, and above a VBCAST in a run or at each repetition. -/
def Node.place (n : Node) (lo i : Nat) : Nat :=
  let m := n.va.toNat
  match n.instr with
  | some (.vsegred _) => i / m
  | some (.vbcast f) => if f.fnAt 0 1 == 0 then i + m * ((lo + m - 1 - i) / m) else i * (n.size / m)
  | _ => i

/-- R163, R260, R286, R390: the elements of an operation's sources to which a fault's element first belongs, among those it
still takes. -/
def Thread.placesOf (t : Thread) (o : Op) (f : PassFault) : List (Nat × Nat) :=
  match o.e.node.bind t.rcp.node? with
  | none => []
  | some r =>
    let ns := (t.rcp.reach [r.idx]).filter fun n => n.idx != r.idx
    let g : Group := ⟨ns, engineOwn ns ((t.takesFrom o r).map fun u => ⟨u.1, u.2, u.2, 0, 0⟩), []⟩
    let all := ns.foldl (fun q n =>
      if n.seq == f.seq && n.pc == f.node then (n.idx, f.elem) :: q
      else
        match n.srcs.filterMap fun i => (q.find? fun u => u.1 == i).map Prod.snd with
        | [] => q
        | i :: is => (n.idx, n.place ((g.own? n.idx).elim 0 fun w => w.lo) (lowest i is)) :: q) []
    all.filter fun u => r.srcs.contains u.1

/-- R188, R191, R229: the launch checks of the pass that serves an entry, and the blocks it reads; `div` is how many
elements of a recipe stand for one of the engine's (R260). -/
def State.serveCheck (s : State) (root start div : Nat) :
    Except (Option PassFault) (State × List (Nat × StreamBlock)) :=
  let ns := s.th.rcp.reach [root]
  let scale (f : PassFault) : PassFault := { f with elem := f.elem / div }
  match s.th.launchBad [root] start with
  | some f => .error (some (scale f))
  | none =>
    let r := s.launchBlocks start ns
    if r.1.blocked then .error none
    else
      match pickFault r.1.faults with
      | some f => .error (some (scale f))
      | none => .ok (r.1.s, r.2)

/-! ### Activity (R357) -/

/-- R357: `n` MACs of the matrix array, counted in the costlier of the two formats paired (log entry 11). -/
def macsOf (a b n : Nat) : Activity :=
  let is (ts : List Nat) : Bool := ts.contains a || ts.contains b
  if is [0xA] then { Activity.zero with fp32 := n }
  else if is [0x8, 0x9] then { Activity.zero with half := n }
  else if is [0xC, 0xD, 0xF] then { Activity.zero with quarter := n }
  else { Activity.zero with lns := n }

def State.spendMacs (s : State) (a b n : Nat) : State := s.spend (macsOf a b n)

/-! ### Spans of memory -/

/-- A piece of a write, on one page: its address, its translation and its bytes. -/
structure Piece where
  va : W64
  x : Xl
  bytes : List Byte
  deriving DecidableEq, Repr

/-- The checks of a write of bytes, a page at a time, that carries step `sw`; `ok` is a further test of each leaf. -/
def State.checkSpanAs (pub : Bool) (s : State) (smode : Bool) (sw : W64) (ok : W64 → Option Nat) :
    Nat → W64 → List Byte → Except Stop (List Piece × State)
  | 0, _, _ => .ok ([], s)
  | fuel + 1, va, bytes =>
    if bytes.isEmpty then .ok ([], s)
    else
      let k := min bytes.length (65536 - va.toNat % 65536)
      match s.checkAs pub smode accWrite va k with
      | .error e => .error e
      | .ok (x, s1) =>
        match ok x.leaf with
        | some c => .error (.trap (TrapInfo.at c accWrite va))
        | none =>
          if leafVer x.leaf && sw != s1.task.stepno then
            .error (.trap (TrapInfo.at causeStep accWrite va))
          else
            let h := s1.heldWrite (leafCls x.leaf == clsDev) x k
            let r := h.2.hostRefuses x
            if h.1 then .error .busy
            else if r.1 then .error (accessFault accWrite va)
            else
              match r.2.checkSpanAs pub smode sw ok fuel (va + BitVec.ofNat 64 k) (bytes.drop k) with
              | .error e => .error e
              | .ok (ps, s2) => .ok (⟨va, x, bytes.take k⟩ :: ps, s2)

def State.checkSpan (s : State) (smode : Bool) (sw : W64) (ok : W64 → Option Nat) (fuel : Nat) (va : W64)
    (bytes : List Byte) : Except Stop (List Piece × State) :=
  s.checkSpanAs false smode sw ok fuel va bytes

/-- Pieces performed in order (R117). -/
def State.performPieces (s : State) (sw : W64) (ps : List Piece) : State :=
  ps.foldl (fun s p => (s.storeNow p.x p.va sw p.bytes).getD s) s

/-- R209, R266: an engine's write of elements goes to no DEV or SD page. -/
def elementPage (leaf : W64) : Option Nat :=
  if leafCls leaf == clsDev then some causeDevice else if leafSd leaf then some causeSqPartial else none

/-- R50: squares lie on SD pages. -/
def squarePage (leaf : W64) : Option Nat :=
  if leafCls leaf == clsDev then some causeDevice else if leafSd leaf then none else some causeDataAccess

end Sys2Proof.Machine
end

