-- ==== Sys2Proof/Machine/Tiles.lean ====
section
/-! DEFINITION. Machine/Tiles.lean: the recording of matrix instructions (R257, R261 to R269, R274), tiles and B-store
rows as data (R252 to R254), conversions between them and memory (R263, R264, R268), and the encoding of squares (R54,
R265). -/

namespace Sys2Proof.Machine

/-! ### Recording -/

/-- R257: MOPA, MOPS and MOPT. LS gives K; each recipe has K·128 elements. -/
def State.recMop (s : State) (opc : BitVec 8) (f : FT) (mopt : Bool) : Except Nat Rec := do
  let a ← s.vsrcTy f.a f.ty
  let b : Option Nat ← if mopt then (s.vsrcTy f.b f.tyb).map some else .ok none
  .ok { word := packT opc f, sa := some a, sb := b, vb := if mopt then 0 else s.x f.b,
        caps := some (if mopt then 0 else s.x f.b, 0, 0),
        own := some fun k => s.th.rcp.lengthsOk (a :: b.toList) (k.map fun k => 128 * k), cc := counterT f }

def execMopa (f : FT) (s : State) : Host.Outcome State Fault Refusal :=
  s.recordE f.ls.toNat (s.recMop 0x80 f false)
def execMops (f : FT) (s : State) : Host.Outcome State Fault Refusal :=
  s.recordE f.ls.toNat (s.recMop 0x81 f false)
def execMopt (f : FT) (s : State) : Host.Outcome State Fault Refusal :=
  s.recordE f.ls.toNat (s.recMop 0x8F f true)

/-- R261: a matrix word with no recipe and no memory operand. -/
def recPlain (opc : BitVec 8) (f : FT) : Rec := { word := packT opc f, parts := 0, cc := counterT f }

def execMzero (f : FT) (s : State) : Host.Outcome State Fault Refusal :=
  s.settle (s.record f.ls.toNat (recPlain 0x82 f))
def execMaddt (f : FT) (s : State) : Host.Outcome State Fault Refusal :=
  s.settle (s.record f.ls.toNat (recPlain 0x84 f))
def execMtrn (f : FT) (s : State) : Host.Outcome State Fault Refusal :=
  s.settle (s.record f.ls.toNat (recPlain 0x85 f))

/-- R261: MSCALE. -/
def State.recMscale (s : State) (f : FT) : Except Nat Rec := do
  let a ← s.vsrcTy f.a f.ty
  .ok { word := packT 0x83 f, sa := some a, cc := counterT f }

def execMscale (f : FT) (s : State) : Host.Outcome State Fault Refusal := s.recordE f.ls.toNat (s.recMscale f)

/-- R261: MTWR; xB is its first row or column. -/
def State.recMtwr (s : State) (f : FT) : Except Nat Rec := do
  let a ← s.vsrcTy f.a f.ty
  .ok { word := packT 0x89 f, sa := some a, vb := s.x f.b, caps := some (s.x f.b, 0, 0), cc := counterT f }

def execMtwr (f : FT) (s : State) : Host.Outcome State Fault Refusal := s.recordE f.ls.toNat (s.recMtwr f)

/-- R262, R268, R269, R274: a matrix word that captures xA and xB. -/
def State.recMove (s : State) (opc : BitVec 8) (f : FT) : Rec :=
  { word := packT opc f, va := s.x f.a, vb := s.x f.b, parts := 0, cc := counterT f }

/-- R264, R265: with K ≠ 0 the word also binds kK to a leaf of its overflow mask. -/
def State.recMoveOut (s : State) (opc : BitVec 8) (f : FT) : Rec :=
  if f.k == 0 then s.recMove opc f
  else { s.recMove opc f with parts := 1, kdest := some f.k.toNat, lenMul := 128 }

def execMtld (f : FT) (s : State) : Host.Outcome State Fault Refusal :=
  s.settle (s.record f.ls.toNat (s.recMove 0x86 f))
def execMtst (f : FT) (s : State) : Host.Outcome State Fault Refusal :=
  s.settle (s.record f.ls.toNat (s.recMoveOut 0x87 f))
def execMpack (f : FT) (s : State) : Host.Outcome State Fault Refusal :=
  s.settle (s.record f.ls.toNat (s.recMoveOut 0x88 f))
def execBload (f : FT) (s : State) : Host.Outcome State Fault Refusal :=
  s.settle (s.record f.ls.toNat (s.recMove 0x8B f))
def execBfromt (f : FT) (s : State) : Host.Outcome State Fault Refusal :=
  s.settle (s.record f.ls.toNat { recPlain 0x8C f with vb := s.x f.b })
def execMsave (f : FT) (s : State) : Host.Outcome State Fault Refusal :=
  s.settle (s.record f.ls.toNat { recPlain 0x8D f with va := s.x f.a })
def execMrest (f : FT) (s : State) : Host.Outcome State Fault Refusal :=
  s.settle (s.record f.ls.toNat { recPlain 0x8E f with va := s.x f.a })

/-- R267: MRRED records a leaf of length TLEN. -/
def State.recMrred (s : State) (f : FT) : Except Nat Rec :=
  if s.th.tileCount ≤ f.mt.toNat then .error causeRange
  else .ok { word := packT 0x8A f, fixedLen := some 128, dest := some f.a.toNat }

def execMrred (f : FT) (s : State) : Host.Outcome State Fault Refusal := s.recordE f.ls.toNat (s.recMrred f)

/-! ### Tiles and rows -/

/-- A row of 128 elements. -/
def Tile.row (t : Tile) (r : Nat) : List (BitVec 32) :=
  let x := t.rows[r]?.getD []
  (x ++ List.replicate (128 - x.length) 0).take 128

/-- HWM (R33). -/
def Tile.hwm (t : Tile) : Nat := t.rows.length

/-- A column of 128 elements. -/
def Tile.column (t : Tile) (c : Nat) : List (BitVec 32) := (List.range 128).map fun r => t.at r c

/-- R121: a row with a poisoned block. -/
def Tile.rowBad (t : Tile) (r : Nat) : Bool := t.poisoned.any fun b => b / 8 == r

/-- R33, R121: whole rows written from row `p` on. -/
def Tile.putRows (t : Tile) (p : Nat) (rs : List (List (BitVec 32))) : Tile :=
  let base := t.rows ++ List.replicate (p - t.rows.length) (List.replicate 128 0)
  { t with rows := base.take p ++ rs ++ base.drop (p + rs.length), dirty := true
           poisoned := t.poisoned.filter fun b => !(p ≤ b / 8 && b / 8 < p + rs.length) }

/-- R33, R121: some elements of a tile written, by place. -/
def Tile.putCells (t : Tile) (cells : List ((Nat × Nat) × BitVec 32)) : Tile :=
  let top := cells.foldl (fun m c => max m (c.1.1 + 1)) t.rows.length
  let at_ (r c : Nat) : BitVec 32 := ((cells.find? fun q => q.1 == (r, c)).map Prod.snd).getD (t.at r c)
  let whole (b : Nat) : Bool := (List.range 16).all fun i => cells.any fun q => q.1 == (b / 8, b % 8 * 16 + i)
  { t with rows := (List.range top).map fun r => (List.range 128).map (at_ r), dirty := true
           poisoned := t.poisoned.filter fun b => !whole b }

def Thread.setTile (t : Thread) (m : Nat) (v : Tile) : Thread := { t with tiles := t.tiles.setIfInBounds m v }

/-- The bytes of a physical B-store row (R254). -/
def BStore.row (b : BStore) (r : Nat) : List Byte :=
  let x := ((b.rows.find? fun q => q.1 == r).map Prod.snd).getD []
  x ++ List.replicate (512 - x.length) 0

/-- A row written whole, its error cleared (R260); `byLoad` tells a BLOAD's from BFROMT's (R32). -/
def BStore.put (b : BStore) (r : Nat) (bytes : List Byte) (byLoad : Bool) : BStore :=
  { b with rows := (b.rows.filter fun q => q.1 != r) ++ [(r, bytes)], poisoned := b.poisoned.filter fun k => k / 8 != r
           written := (b.written.filter (· != r)) ++ (if byLoad then [] else [r]) }

/-- The physical rows a load descriptor has written, from a thread's BROWBASE. -/
def BDesc.rowsDone (d : BDesc) (base : Nat) : List Nat := List.range' (base + (slice d.xb 32 14).toNat) d.done

/-- R270: descriptors all of whose rows have been overwritten are dropped. -/
def BStore.prune (b : BStore) (base : Nat) : BStore :=
  let keep (d : BDesc) : Bool :=
    d.inc || (d.rowsDone base).any fun r =>
      !b.written.contains r && !b.descs.any fun e => d.seq < e.seq && (e.rowsDone base).contains r
  { b with descs := b.descs.filter keep }

/-- R121: a row with a poisoned block. -/
def BStore.rowBad (b : BStore) (r : Nat) : Bool := b.poisoned.any fun k => k / 8 == r

/-- R270: a further BLOAD; with 256 descriptors live, the rows of the oldest count as written, and those it has still to
write will (log entry 90). -/
def BStore.addDesc (b : BStore) (d : BDesc) (base : Nat) : BStore :=
  if b.descs.length < 256 then { b with descs := b.descs ++ [d] }
  else
    match b.descs with
    | [] => b
    | o :: ds =>
      let own := (o.rowsDone base).filter fun r =>
        !b.written.contains r && !ds.any fun e => (e.rowsDone base).contains r
      { b with descs := ds ++ [d], written := b.written ++ own }

/-! ### Elements and bytes -/

/-- R35, R41: the codes of `n` elements laid contiguously. -/
def splitCodes (ty : Nat) (b : List Byte) (n : Nat) : List Nat :=
  if ty == 0xE then
    let v := leNat b
    (List.range n).map fun j => v / 2 ^ (6 * j) % 64
  else (List.range n).map fun j => leNat ((b.drop (j * bytesOf ty)).take (bytesOf ty))

/-- The bytes of elements laid contiguously. -/
def joinCodes (ty : Nat) (cs : List Nat) : List Byte :=
  if ty == 0xE then leBytes ((6 * cs.length + 7) / 8) (packCodes 0 cs)
  else cs.flatMap fun c => leBytes (bytesOf ty) c

/-- R263: an element of a type as a tile holds it; an FP32 element keeps its bits. -/
def toTile (ty rm code : Nat) : Rounded :=
  if ty == 0xA then ⟨code, 0, false⟩ else convertBits 0xA ty ⟨rm, none⟩ code

/-- R264, R269: a tile's element in a type. -/
def fromTile (ty : Nat) (fctrl : BitVec 13) (rseed : W64) (idx : Nat) (v : BitVec 32) : Rounded :=
  if ty == 0xA then ⟨v.toNat, 0, false⟩ else convertBits ty 0xA (convRounding fctrl rseed idx) v.toNat

/-- The bits of conversions as tile elements. -/
def tileElems (rs : List Rounded) : List (BitVec 32) := rs.map fun r => BitVec.ofNat 32 r.bits

/-- The flags of conversions. -/
def flagsOf (rs : List Rounded) : Flags := rs.foldl (fun f r => f ||| r.flags) 0

/-! ### Squares encoded (R54, R265) -/

/-- R54: m·2^e is at most Vmax of a format. -/
def leVmax (fmt m : Nat) (e : Int) : Bool :=
  let le (p : Nat) (x : Int) (q : Nat) : Bool := if 0 ≤ x then p <<< x.toNat ≤ q else p ≤ q <<< (-x).toNat
  match fmt with
  | 1 => le (m ^ 4) (4 * e - 15) 1
  | 2 => le m (e + 1) 15
  | _ => le m (e - 2) 7

/-- R54: a finite value times 2^t is within a format. -/
def fitsSq (fmt : Nat) (v : Val) (t : Int) : Bool :=
  match v with
  | .fin _ m e => leVmax fmt m (e + t)
  | _ => true

/-- R54: the smallest n with m·2^e ≤ Vmax·2^n. -/
def sqExponent (fmt m : Nat) (e : Int) : Int :=
  let lead := (bitLen m : Int) - 1 + e
  (((List.range 12).map fun (i : Nat) => lead - 7 + (i : Int)).find? fun n => leVmax fmt m (e - n)).getD lead

/-- A finite value other than zero. -/
def Val.isNumber (v : Val) : Bool :=
  match v with
  | .fin _ m _ => m != 0
  | _ => false

/-- R54: the largest micro-exponent at which every value still fits; `shift i` is the exponent a value has already. -/
def microOf (fmt : Nat) (vs : List (Val × Int)) : Nat :=
  if !vs.any fun v => v.1.isNumber then 0
  else ([3, 2, 1].find? fun m => vs.all fun v => fitsSq fmt v.1 (v.2 + (m : Nat))).getD 0

/-- A 16-bit field of micro-exponents. -/
def microField (ms : List Nat) : Nat := ms.foldr (fun m a => m + 4 * a) 0

/-- A six-bit code from an exact value (R46, R48). -/
def sqElement (fmt : Nat) (r : Rounding) (v : Val) : Rounded :=
  let into (f : FloatFmt) : Rounded := match v with
    | .nan _ => ⟨0, 0, false⟩
    | .inf n => f.infinity n
    | .fin n m e => f.round true r n m e
  match fmt with
  | 1 => toLns v
  | 2 => into fmtE2M3
  | _ => into fmtE3M2

/-- An encoded square: its fields, the overflow mask bit of each element, and the flags. -/
structure SqOut where
  sq : Square
  ovf : List Bool
  flags : Flags
  deriving DecidableEq, Repr

/-- R54: encodes 64 FP32 elements into a format; `r k` rounds element k. -/
def encodeSq (fmt : Nat) (r : Nat → Rounding) (elems : List (BitVec 32)) : SqOut :=
  let vs := elems.map fun b => fmtFp32.decode b.toNat
  let none_ := List.replicate 64 false
  if vs.any Val.isNan then
    ⟨⟨fmt, 0xFF, 0, 0, packCodes 0 (List.replicate 64 (if fmt == 1 then 0x10 else 0))⟩, none_, sigFlag vs⟩
  else if vs.all Val.isZero then ⟨⟨0, 0, 0, 0, 0⟩, none_, 0⟩
  else
    let big := vs.foldl (fun (b : Option (Nat × Int)) v => match v, b with
      | .fin _ m e, some (p, d) => if ltNum (.fin false p d) (.fin false m e) then some (m, e) else b
      | .fin _ m e, none => if m == 0 then none else some (m, e)
      | _, _ => b) none
    let n0 : Int := match big with
      | some (m, e) => sqExponent fmt m e
      | none => 127
    let n := min (max n0 (-127)) 127
    let at_ (i j : Nat) : Val := vs.getD (8 * i + j) (.fin false 0 0)
    let mr := (List.range 8).map fun i => microOf fmt ((List.range 8).map fun j => (at_ i j, -n))
    let mc := (List.range 8).map fun j =>
      microOf fmt ((List.range 8).map fun i => (at_ i j, ((mr.getD i 0 : Nat) : Int) - n))
    let out := vs.zipIdx.map fun u =>
      let t : Int := ((mr.getD (u.2 / 8) 0 + mc.getD (u.2 % 8) 0 : Nat) : Int) - n
      sqElement fmt (r u.2) (match u.1 with
        | .fin s m e => .fin s m (e + t)
        | v => v)
    ⟨⟨fmt, (n + 127).toNat, microField mr, microField mc, packCodes 0 (out.map fun o => o.bits)⟩,
      out.map fun o => o.ovf, flagsOf out⟩

/-- R265: the value of a decoded element, an LNS6 code by lin. -/
def linSq (s : Square) (i j : Nat) : Val :=
  let code := s.elem (8 * i + j)
  if s.fmt == 1 && code != 0x10 then
    lnsLin (code / 32 == 1) (lnsLog code + 4 * ((s.scale : Int) - 127 - microExp s.mr i - microExp s.mc j))
  else (decodeSq s i j).getD (.fin false 0 0)

/-- A finite value in units of 2^-400, below every one met here. -/
def fixed400 (v : Val) : Int :=
  match v with
  | .fin n m e => scaled n m e (-400)
  | _ => 0

/-- R265: the exact error of an encoding, in units of 2^-400. -/
def sqError (s : Square) (elems : List (BitVec 32)) : Nat :=
  (elems.zipIdx.map fun u =>
    let v := fmtFp32.decode u.1.toNat
    if v.isInf || v.isNan then 0 else (fixed400 (linSq s (u.2 / 8) (u.2 % 8)) - fixed400 v).natAbs).sum

/-- R265: the better of two encodings, `a` of the lower format. -/
def betterSq (elems : List (BitVec 32)) (a b : SqOut) : SqOut :=
  let ca := a.ovf.countP id
  let cb := b.ovf.countP id
  if cb < ca || (cb == ca && sqError b.sq elems < sqError a.sq elems) then b else a

/-- R265: MPACK's choice among candidate formats, lowest first. Only the flags of the encoding that is written are raised
(DESIGN CHOICE, log entry 91). -/
def packSq (fmts : List Nat) (r : Nat → Rounding) (elems : List (BitVec 32)) : SqOut :=
  match fmts with
  | [] => ⟨⟨0, 0, 0, 0, 0⟩, [], 0⟩
  | f :: fs =>
    let a := encodeSq f r elems
    if a.sq.fmt == 0 || a.sq.scale == 0xFF then a
    else fs.foldl (fun a g => betterSq elems a (encodeSq g r elems)) a

/-! ### Factors (R256) -/

/-- A factor of a grouped product: an LNS6 value by its log in quarters, scale included, or any other value. -/
inductive Factor where
  | lns (neg : Bool) (q : Int)
  | num (v : Val)
  deriving DecidableEq, Repr

/-- An LNS6 code with an integer scale. -/
def lnsFactor (code : Nat) (e : Int) : Factor :=
  if code % 64 == 0x10 then .num (.fin false 0 0)
  else if code % 64 == 0x30 then .num (.nan false)
  else .lns (code / 32 % 2 == 1) (lnsLog code + 4 * e)

/-- R256: an element's code as a factor. -/
def factorOfCode (ty code : Nat) : Factor := if ty == 0xE then lnsFactor code 0 else .num (valueOf ty code)

/-- R254, R256: column j of an SQ row, or none for SQ_FORMAT. -/
def segFactor (row : List Byte) (j : Nat) : Option Factor :=
  let v := leNat ((row.drop (32 * (j / 8))).take 32)
  let fmt : Nat := v % 256
  let scale : Nat := v / 2 ^ 8 % 256
  let code := v / 2 ^ (64 + 6 * (j % 8)) % 64
  let e : Int := (scale : Int) - 127 - microExp v 8 - microExp (v / 2 ^ 32 % 2 ^ 16) (j % 8)
  if 3 < fmt then none
  else if fmt == 0 then some (.num (.fin false 0 0))
  else if scale == 0xFF then some (.num (.nan false))
  else if fmt == 1 then some (lnsFactor code e)
  else some (.num (match sqCode fmt code with
    | .fin n m d => .fin n m (d + e)
    | w => w))

/-- A B-store row as factors of a type, or none for SQ_FORMAT. -/
def rowFactors (tyb : Nat) (row : List Byte) : Option (List Factor) :=
  if tyb == 0xF then (List.range 128).mapM (segFactor row)
  else some ((splitCodes tyb row 128).map (factorOfCode tyb))

/-- R256: the exact product of two factors. -/
def Factor.mul (a b : Factor) : Val × Flags :=
  match a, b with
  | .lns n p, .lns k q => (lnsLin (n != k) (p + q), 0)
  | .lns n p, .num v => mulNum (lnsLin n p) v
  | .num v, .lns n p => mulNum v (lnsLin n p)
  | .num v, .num w => mulNum v w

/-- R56: a grouped unit added into an element: products negated if `neg`, their exact sum, then sat_fp32(t + S). -/
def groupAdd (neg : Bool) (t : BitVec 32) (as bs : List Factor) : Rounded :=
  let ps := (as.zip bs).map fun u => (u.1.mul u.2).1.flip neg
  let sum : Val := match ps with
    | [] => .fin false 0 0
    | p :: ps => ps.foldl (fun a b => (addNum 0 a b).1) p
  if sum.isNan then ⟨canonicalNan 0xA, flagIv, false⟩
  else
    let r := addNum 0 (fmtFp32.decode t.toNat) sum
    match r.1 with
    | .nan _ => ⟨canonicalNan 0xA, r.2, false⟩
    | .inf n => ⟨(fmtFp32.infinity n).bits, r.2, false⟩
    | .fin n m e => fmtFp32.round true rne n m e

/-- R56: one product added into an element with one rounding. -/
def singleAdd (neg : Bool) (t : BitVec 32) (a b : Val) : Rounded :=
  let r := fmaNum 0 (a.flip neg) b (fmtFp32.decode t.toNat)
  arith 0xA rne r.1 r.2

/-- The value of a factor outside a group. -/
def Factor.val (a : Factor) : Val :=
  match a with
  | .lns n q => lnsLin n q
  | .num v => v

/-- R56, R258: a unit added into an element. -/
def unitAdd (grouped neg : Bool) (t : BitVec 32) (as bs : List Factor) : Rounded :=
  if grouped then groupAdd neg t as bs
  else
    match as, bs with
    | a :: _, b :: _ => singleAdd neg t a.val b.val
    | _, _ => ⟨t.toNat, 0, false⟩

/-- The j-th entries of some rows. -/
def columnOf (rows : List (List Factor)) (j : Nat) : List Factor :=
  rows.map fun r => r.getD j (.num (.fin false 0 0))

/-- R258: a unit added into a tile; `as` and `bs` hold the factors of each k. -/
def mopTile (grouped neg : Bool) (t : Tile) (as bs : List (List Factor)) : Tile × Flags :=
  let cols := (List.range 128).map (columnOf bs)
  let rows := (List.range 128).map fun i =>
    let a := columnOf as i
    ((t.row i).zip cols).map fun u => unitAdd grouped neg u.1 a u.2
  (t.putRows 0 (rows.map tileElems), rows.foldl (fun f r => f ||| flagsOf r) 0)

/-- R255: types that add one product at a time. -/
def plainTy (ty : Nat) : Bool := ty == 0x8 || ty == 0x9 || ty == 0xA

end Sys2Proof.Machine
end

