-- ==== Sys2Proof/Machine/Matrix.lean ====
section
/-! DEFINITION. Machine/Matrix.lean: how matrix instructions start (R257 to R277) and proceed: units of the matrix array,
8-row units, and rows of a BLOAD (R258, R261 to R274). -/

namespace Sys2Proof.Machine

/-! ### Start -/

/-- The tiles a word names. -/
def tilesNamed (i : Instr) : List Nat :=
  match i with
  | .maddt f | .mtrn f => [f.mt.toNat, f.ms.toNat]
  | .mopa f | .mops f | .mopt f | .mzero f | .mscale f | .mtld f | .mtst f | .mpack f | .mtwr f | .bfromt f | .msave f
  | .mrest f => [f.mt.toNat]
  | _ => []

/-- R26, R273: a tile beyond the grant, or one that an S-mode word may not touch. -/
def Thread.tileFault (t : Thread) (smode : Bool) (i : Instr) : Option Nat :=
  let ts := tilesNamed i
  if ts.any fun m => t.tileCount ≤ m then some causeRange
  else if !smode then none
  else
    match i with
    | .msave _ => none
    | .bload _ | .bfromt _ => some causeTileUnsaved
    | _ => if ts.any fun m => !(t.tile m).saved then some causeTileUnsaved else none

/-- R271: matrix instructions running. -/
def Dispatch.matrixRunning (d : Dispatch) : Nat := ((d.matrix.toList ++ d.bloads).filter fun o => !o.halted).length

/-- R16: a pass of its own or of an engine, stopped or not, still reads the tile an entry writes. -/
def Thread.tileRead (t : Thread) (e : Entry) : Bool :=
  e.tile?.isSome && t.dsp.passes.any fun p =>
    p.before e.seq && (t.rcp.reach (t.passRoots p)).any fun n => n.tile? == e.tile?

/-- R16, R273: a started operation on a tile that an entry names has not completed, one a fault has stopped included. -/
def Thread.tileBusy (t : Thread) (e : Entry) (i : Instr) : Bool :=
  t.dsp.ops.any fun o =>
    o.e.seq != e.seq && ((decodeOpc o.e.word).elim [] tilesNamed).any fun m => (tilesNamed i).contains m

/-- R13, R188: the length of an entry and of every node of its recipe is known. -/
def Thread.lengthsKnown (t : Thread) (e : Entry) : Bool :=
  (knownLen e.lsrc e.len).isSome && match e.node with
    | some r => (t.rcp.reach [r]).all fun n => n.known.isSome
    | none => true

/-- The recipe root an entry names. -/
def Thread.rootOf (t : Thread) (e : Entry) : Option Node := (e.node.bind t.rcp.node?).filter Node.isRoot

/-- R13, R195: an engine's entry may start, its engine apart: lengths are known, earlier accesses it meets have been
performed, and a pass slot is free for its recipe. -/
def Thread.entryFree (t : Thread) (e : Entry) : Bool :=
  let u := match t.rootOf e with
    | some n => t.rcp.touches [n.idx]
    | none => ([], [])
  t.lengthsKnown e && !t.mustWait e.seq (e.reads ++ u.1) (e.writes ++ u.2) &&
    match t.rootOf e with
    | some n => t.dsp.freeSlot.isSome && !t.leavesWait e.seq (t.rcp.reach [n.idx])
    | none => true

/-- R271, R273, R288: a matrix entry may start. An S-mode word that faults with TILE_UNSAVED acts on no tile, and waits for
none. -/
def Thread.matrixFree (t : Thread) (e : Entry) (i : Instr) : Bool :=
  let one : Bool := match i with
    | .bload _ => t.dsp.matrixRunning ≤ 1
    | _ => t.dsp.matrixRunning == 0 && t.dsp.ssb.all fun o => o.halted
  one && t.lengthsKnown e &&
    (t.tileFault e.smode i == some causeTileUnsaved || (t.entryFree e && !t.tileRead e && !t.tileBusy e i))

/-- A fault of an entry at its start, outside its recipe. -/
def startBad (code : Nat) : PassFault := plainFault 0 code 0 0

/-- R277: the first leaf of a recipe that reads a tile. -/
def Thread.selfRead (t : Thread) (root m : Nat) : Option Node :=
  (t.rcp.reach [root]).find? fun n => n.tile? == some m

/-- R257, R258, R277: what keeps a MOPA, MOPS or MOPT of K steps from starting; the order of its tests is a DESIGN CHOICE
(log entry 62). -/
def Thread.mopBad (t : Thread) (e : Entry) (r : Node) (f : FT) (mopt : Bool) (k : Nat) : Option PassFault :=
  if !t.rcp.srcsSized r (128 * k) then some (launchFault r e.prog causeLength)
  else if !mopt && (2 ^ 14 ≤ e.b.toNat || t.sr.browlim - t.sr.browbase < e.b.toNat + k) then some (startBad causeRange)
  else (t.selfRead r.idx f.mt.toNat).map fun n => launchFault n 0 causeRange

/-- R262, R268: a PITCH that does not suit a type. -/
def pitchBad (ty pitch : Nat) : Bool :=
  if ty == 0xF then pitch % 64 != 0 else ty != 0xE && pitch % bytesOf ty != 0

/-- R262: the geometry of an MTLD, MTST or MPACK of n rows. -/
def geoBad (ty : Nat) (xb : W64) (n : Nat) : Bool :=
  let p := (slice xb 32 7).toNat
  slice xb 39 25 != 0 || 128 < p + n || pitchBad ty (slice xb 0 32).toNat || (ty == 0xF && (p % 8 != 0 || n % 8 != 0))

/-- R17, R253: n B-store rows from a relative row lie outside the thread's range; the row index is checked with n = 0 too
(log entry 92). -/
def Thread.rowsBad (t : Thread) (row n : Nat) : Bool := t.sr.browlim - t.sr.browbase < row + max n 1

/-- What keeps a matrix entry of length `n` from starting (R257 to R277), the launch of its recipe apart; the order of the
tests is a DESIGN CHOICE (log entry 62). -/
def Thread.matrixBad (t : Thread) (e : Entry) (i : Instr) (n : Nat) : Option PassFault :=
  match t.tileFault e.smode i with
  | some c => some (startBad c)
  | none =>
    let bad (c : Bool) : Option PassFault := if c then some (startBad causeRange) else none
    match i, t.rootOf e with
    | .mopa f, some r | .mops f, some r => t.mopBad e r f false n
    | .mopt f, some r => t.mopBad e r f true n
    | .mscale _, some r => if !t.rcp.srcsSized r n then some (launchFault r 0 causeLength) else bad (n != 128)
    | .mtwr f, some r =>
      if !t.rcp.srcsSized r n then some (launchFault r 0 causeLength)
      else if 127 < e.b.toNat || (128 - e.b.toNat) * 128 < n then some (startBad causeRange)
      else (t.selfRead r.idx f.mt.toNat).map fun n => launchFault n 0 causeRange
    | .mtld f, _ | .mtst f, _ => bad (geoBad f.ty.toNat e.b n)
    | .mpack _, _ => bad (geoBad 0xF e.b n)
    | .bload f, _ =>
      bad (slice e.b 46 18 != 0 || pitchBad f.ty.toNat (slice e.b 0 32).toNat || t.rowsBad (slice e.b 32 14).toNat n)
    | .bfromt _, _ =>
      bad (slice e.b 14 2 != 0 || slice e.b 23 41 != 0 || 128 < (slice e.b 16 7).toNat + n ||
        t.rowsBad (slice e.b 0 14).toNat n)
    | .msave _, _ => if e.a.toNat % 64 != 0 then some (plainFault 0 causeMisaligned accWrite e.a) else none
    | .mrest _, _ => if e.a.toNat % 64 != 0 then some (plainFault 0 causeMisaligned accRead e.a) else none
    | _, _ => none

/-- The units of a matrix operation of length `n`: k steps, rows, or the one piece it runs in (R271). -/
def matrixUnits (i : Instr) (n : Nat) : Nat :=
  match i with
  | .mopa _ | .mops _ | .mopt _ | .mtld _ | .mtst _ | .mpack _ | .bload _ => n
  | _ => 1

/-- An entry that starts takes its place in its engine; `div` is how many elements of its recipe stand for one of its
own. -/
def State.beginOp (s : State) (e : Entry) (i : Instr) (n div : Nat) : Option State :=
  let begin_ (s : State) : State :=
    { s with th := { s.th.unqueue e with dsp := (s.th.unqueue e).dsp.putOp (engineOf i) (Op.fresh e n s.now) } }
  match s.th.rootOf e, s.th.dsp.freeSlot with
  | some r, some p =>
    if n == 0 then some (begin_ s)
    else
      (match s.serveCheck r.idx (e.prog * div) div with
        | .error none => none
        | .error (some f) => some (s.startFault e f)
        | .ok (s1, bs) => some ((begin_ s1).serve p e bs))
  | _, _ => some (begin_ s)

/-- R270: the descriptor of a BLOAD as it starts. -/
def State.addDesc (s : State) (e : Entry) (n : Nat) : State :=
  { s with th.bst := s.th.bst.addDesc ⟨e.seq, e.word, e.a, e.b, n, 0, true⟩ s.th.sr.browbase }

/-- R271: a matrix entry's start, if it can start now. -/
def State.startMatrix (s : State) (e : Entry) (i : Instr) : Option State :=
  if !s.th.matrixFree e i then none
  else
    match s.th.matrixBad e i e.len with
    | some f => some (s.startFault e f)
    | none =>
      match i with
      | .bload _ => (s.beginOp e i e.len 128).map fun t => t.addDesc e e.len
      | _ => s.beginOp e i (matrixUnits i e.len) 128

/-! ### Parts of memory, in order -/

/-- A stop at a part of a unit: the row it is blamed on, its address, and the stop. -/
abbrev UnitStop := Nat × W64 × Stop

/-- Reads parts in order, each a row, an address and a number of bytes. -/
def State.readParts (s : State) (smode : Bool) (ok : W64 → Option Nat) (al : Nat) :
    List (Nat × W64 × Nat) → Except UnitStop (List (List Byte) × State)
  | [] => .ok ([], s)
  | (k, va, n) :: ps =>
    if va.toNat % al != 0 then .error (k, va, .trap (TrapInfo.at causeMisaligned accRead va))
    else
      match State.readSpan false s smode ok (spanPages n) va n with
      | .error r => .error (k, va, r)
      | .ok (b, s1) =>
        match s1.readParts smode ok al ps with
        | .error r => .error r
        | .ok (bs, s2) => .ok (b :: bs, s2)

/-- Checks the writes of parts in order, each a row, an address and its bytes; `ok` tests a leaf for the part at an
address with so many bytes. -/
def State.checkPartsAs (pub : Bool) (s : State) (smode : Bool) (sw : W64) (ok : W64 → Nat → W64 → Option Nat)
    (al : Nat) : List (Nat × W64 × List Byte) → Except UnitStop (List Piece × State)
  | [] => .ok ([], s)
  | (k, va, b) :: ps =>
    if va.toNat % al != 0 then .error (k, va, .trap (TrapInfo.at causeMisaligned accWrite va))
    else
      match s.checkSpanAs pub smode sw (ok va b.length) (spanPages b.length) va b with
      | .error r => .error (k, va, r)
      | .ok (p, s1) =>
        match s1.checkPartsAs pub smode sw ok al ps with
        | .error r => .error r
        | .ok (q, s2) => .ok (p ++ q, s2)

def State.checkParts (s : State) (smode : Bool) (sw : W64) (ok : W64 → Option Nat) (al : Nat)
    (ps : List (Nat × W64 × List Byte)) : Except UnitStop (List Piece × State) :=
  s.checkPartsAs false smode sw (fun _ _ => ok) al ps

/-- A unit that an access has stopped: it waits, or the operation faults. -/
def State.unitStop (s : State) (o : Op) (acc : Nat) (r : UnitStop) : State :=
  match r.2.2 with
  | .held => s.holdOp o r.1 acc r.2.1
  | st => match st.fault r.1 acc r.2.1 with
    | some f => s.opFault o f
    | none => s

/-- A unit that stops after it has read something, with `s` the state before: one that waits has done nothing and reads again,
one that faults has made its requests. -/
def State.stopRead (s s1 : State) (o : Op) (acc : Nat) (r : UnitStop) : State :=
  match r.2.2 with
  | .held | .busy => s.unitStop o acc r
  | _ => s1.unitStop o acc r

/-- A unit is done: the flags it raised, and the progress. -/
def State.unitDone (s : State) (o : Op) (prog : Nat) (fl : Flags) : State :=
  (s.raiseFlags fl).updOp o.e.seq fun o => { o with prog := prog, hold := none, since := s.now }

/-- R45: the first of some rows whose flags are enabled. -/
def trapRow (fctrl : BitVec 13) (k0 : Nat) (fls : List Flags) : Option Nat :=
  ((fls.zipIdx k0).find? fun u => enabledFlags fctrl u.1 != 0).map Prod.snd

/-- R45: an enabled flag. -/
def fpFault (elem : Nat) : PassFault := plainFault elem causeFp 0 0

/-- R121, R122: engine state that an error has poisoned. -/
def poisonFault (elem : Nat) : PassFault := plainFault elem causePoison 0 0

/-! ### Tile rows and memory (R262) -/

/-- The placement of tile or B-store rows in memory. -/
structure TileGeo where
  a : W64
  p : Nat
  pitch : Nat
  ty : Nat
  t : Bool
  deriving DecidableEq, Repr

/-- R262, R268, R274: an entry's placement. -/
def Entry.geo (e : Entry) : TileGeo :=
  let pitch := (slice e.b 0 32).toNat
  match decodeOpc e.word with
  | some (.mtld f) | some (.mtst f) => ⟨e.a, (slice e.b 32 7).toNat, pitch, f.ty.toNat, bitAt f.fn 0⟩
  | some (.mpack f) => ⟨e.a, (slice e.b 32 7).toNat, pitch, 0xF, bitAt f.fn 3⟩
  | some (.bload f) => ⟨e.a, (slice e.b 32 14).toNat, pitch, f.ty.toNat, bitAt f.fn 0⟩
  | _ => ⟨e.a, 0, 512, 0xA, false⟩

/-- Bytes of a row of 128 elements laid contiguously. -/
def rowBytes (ty : Nat) : Nat := packedBytes ty 128

/-- R262: the parts of row k of an element type, each with its bytes. -/
def TileGeo.parts (g : TileGeo) (k : Nat) : List (Nat × W64 × Nat) :=
  let w := bytesOf g.ty
  if g.t then (List.range 128).map fun j => (k, g.a + BitVec.ofNat 64 (j * g.pitch + k * w), w)
  else [(k, g.a + BitVec.ofNat 64 (k * g.pitch), rowBytes g.ty)]

/-- R262: the address of the square of rows 8s to 8s + 7 and columns 8c to 8c + 7. -/
def TileGeo.square (g : TileGeo) (s c : Nat) : W64 :=
  g.a + BitVec.ofNat 64 (if g.t then c * g.pitch + 64 * s else s * g.pitch + 64 * c)

/-- The alignment of a part. -/
def TileGeo.align (g : TileGeo) : Nat := if g.ty == 0xF then 64 else if g.ty == 0xE then 1 else bytesOf g.ty

/-- The bytes of the parts of rows `k0` to `k0 + n - 1`. -/
def State.readRows (s : State) (smode : Bool) (g : TileGeo) (k0 n : Nat) : Except UnitStop (List (List Byte) × State) :=
  match s.readParts smode noDevice g.align ((List.range' k0 n).flatMap g.parts) with
  | .error r => .error r
  | .ok (bs, s1) =>
    let per := if g.t then 128 else 1
    .ok ((List.range n).map fun i => ((bs.drop (i * per)).take per).flatten, s1)

/-- The sixteen squares of square row `sq`, blamed on row `k`. -/
def State.readSquares (s : State) (smode : Bool) (g : TileGeo) (sq k : Nat) :
    Except UnitStop (List Square × State) :=
  match s.readParts smode squarePage 64 ((List.range 16).map fun c => (k, g.square sq c, 64)) with
  | .error r => .error r
  | .ok (bs, s1) =>
    let ss := bs.map Square.ofBytes
    match ss.zipIdx.find? fun u => 3 < u.1.fmt with
    | some u => .error (k, g.square sq u.2, .trap (TrapInfo.at causeSqFormat accRead (g.square sq u.2)))
    | none => .ok (if g.t then ss.map Square.transpose else ss, s1)

/-- R263: a row of squares as eight rows of tile elements. -/
def squareRows (rm : Nat) (ss : List Square) : List (List Rounded) :=
  (List.range 8).map fun i => (List.range 128).map fun j =>
    match ss[j / 8]? with
    | some q => convertNum 0xA 0xE ⟨rm, none⟩ ((decodeSq q i (j % 8)).getD (.fin false 0 0))
    | none => ⟨0, 0, false⟩

/-- R263: the tile rows a unit of MTLD reads. -/
def State.loadRows (s : State) (e : Entry) (k0 n : Nat) : Except UnitStop (List (List Rounded) × State) :=
  let g := e.geo
  let rm := (slice e.fctrl 0 2).toNat
  if g.ty == 0xF then
    match s.readSquares e.smode g (k0 / 8) k0 with
    | .error r => .error r
    | .ok (ss, s1) => .ok (squareRows rm ss, s1)
  else
    match s.readRows e.smode g k0 n with
    | .error r => .error r
    | .ok (bs, s1) => .ok (bs.map fun b => (splitCodes g.ty b 128).map (toTile g.ty rm), s1)

/-- R263, R274: a unit of MTLD, or the whole of MREST: rows `k0` to `k0 + n - 1`. -/
def State.loadUnit (s : State) (o : Op) (m k0 n prog : Nat) : State :=
  match s.loadRows o.e k0 n with
  | .error r => s.unitStop o accRead r
  | .ok (rows, s1) =>
    match trapRow o.e.fctrl k0 (rows.map flagsOf) with
    | some k => s1.opFault o (fpFault k)
    | none =>
      let t := (s1.th.tile m).putRows (o.e.geo.p + k0) (rows.map tileElems)
      State.unitDone { s1 with th := s1.th.setTile m t } o prog (rows.foldl (fun f r => f ||| flagsOf r) 0)

/-- What a unit writes to memory: its parts, the flags of each row, and the mask bits, by element (R264). -/
structure OutUnit where
  parts : List (Nat × W64 × List Byte)
  flags : List Flags
  ovf : List Nat

/-- R264: rows of an element type. -/
def outRows (e : Entry) (g : TileGeo) (t : Tile) (k0 n : Nat) : OutUnit :=
  let rows := (List.range' k0 n).map fun k =>
    (k, (t.row (g.p + k)).zipIdx.map fun u => fromTile g.ty e.fctrl e.rseed (128 * (g.p + k) + u.2) u.1)
  { parts := rows.flatMap fun r =>
      let b := joinCodes g.ty (r.2.map fun x => x.bits)
      if g.t then (g.parts r.1).zipIdx.map fun u => (u.1.1, u.1.2.1, (b.drop (u.2 * u.1.2.2)).take u.1.2.2)
      else (g.parts r.1).map fun u => (u.1, u.2.1, b)
    flags := rows.map fun r => flagsOf r.2
    ovf := rows.flatMap fun r => (r.2.zipIdx.filter fun u => u.1.ovf).map fun u => 128 * r.1 + u.2 }

/-- R264, R265: one row of squares. -/
def outSquares (e : Entry) (g : TileGeo) (t : Tile) (k0 : Nat) (fmts : List Nat) (pick : Bool) : OutUnit :=
  let r (c k : Nat) : Rounding := convRounding e.fctrl e.rseed (128 * (g.p + k0 + k / 8) + 8 * c + k % 8)
  let rows := (List.range 8).map fun i => t.row (g.p + k0 + i)
  let out := (List.range 16).map fun c =>
    let elems := rows.flatMap fun r => (r.drop (8 * c)).take 8
    if pick then packSq fmts (r c) elems else encodeSq (fmts.headD 1) (r c) elems
  { parts := out.zipIdx.map fun u =>
      (k0, g.square (k0 / 8) u.2, (if g.t then u.1.sq.transpose else u.1.sq).toBytes)
    flags := [out.foldl (fun f q => f ||| q.flags) 0]
    ovf := out.zipIdx.flatMap fun u =>
      (u.1.ovf.zipIdx.filter fun v => v.1).map fun v => 128 * (k0 + v.2 / 8) + 8 * u.2 + v.2 % 8 }

/-- R265: the candidate formats of an MPACK word. -/
def packFmts (f : FT) : List Nat := [1, 2, 3].filter fun i => bitAt f.fn (i - 1)

/-- What a unit of MTST, MPACK or MSAVE writes. -/
def Entry.outUnit (e : Entry) (t : Tile) (k0 n : Nat) : OutUnit :=
  match decodeOpc e.word with
  | some (.mpack f) => outSquares e e.geo t k0 (packFmts f) true
  | some (.mtst f) => if f.ty == 0xF then outSquares e e.geo t k0 [f.fnAt 1 2] false else outRows e e.geo t k0 n
  | _ => outRows e e.geo t k0 n

/-- R264: the mask leaf of an operation gains bits. -/
def Recipe.addBits (r : Recipe) (e : Entry) (bits : List Nat) : Recipe :=
  { r with nodes := r.nodes.map fun n =>
      if e.node == some n.idx && n.seq == e.seq then { n with bits := bits.foldl (fun b i => b ||| 2 ^ i) n.bits }
      else n }

/-- R264 to R266, R274: a unit of MTST or MPACK, or the whole of MSAVE. -/
def State.storeUnit (s : State) (o : Op) (m k0 n prog : Nat) : State :=
  let g := o.e.geo
  let t := s.th.tile m
  match (List.range' k0 n).find? fun k => t.rowBad (g.p + k) with
  | some k => s.opFault o (poisonFault k)
  | none =>
    let u := o.e.outUnit t k0 n
    match s.checkParts o.e.smode o.e.stepno (if g.ty == 0xF then squarePage else elementPage) g.align u.parts with
    | .error r => s.unitStop o accWrite r
    | .ok (ps, s1) =>
      match trapRow o.e.fctrl k0 u.flags with
      | some k => s1.opFault o (fpFault k)
      | none =>
        let s2 := s1.performPieces o.e.stepno ps
        State.unitDone { s2 with th.rcp := s2.th.rcp.addBits o.e u.ovf } o prog (u.flags.foldl (· ||| ·) 0)

/-! ### B-store rows (R268, R269) -/

/-- R268: the segment of a B row that a square, in the tensor's own orientation, gives row `i` of it. -/
def segmentOf (q : Square) (i : Nat) : List Byte :=
  leBytes 32 (q.fmt + q.scale * 2 ^ 8 + microExp q.mr i * 2 ^ 16 + q.mc * 2 ^ 32 +
    (q.elems / 2 ^ (48 * i) % 2 ^ 48) * 2 ^ 64)

/-- R268: the bytes of row k of a BLOAD. -/
def State.loadRow (s : State) (e : Entry) (k : Nat) : Except UnitStop (List Byte × State) :=
  let g := e.geo
  if g.ty == 0xF then
    match s.readSquares e.smode g (k / 8) k with
    | .error r => .error r
    | .ok (ss, s1) => .ok (ss.flatMap fun q => segmentOf q (k % 8), s1)
  else
    match s.readRows e.smode g k 1 with
    | .error r => .error r
    | .ok (bs, s1) => .ok (bs.flatten, s1)

/-- R16, R268: the earlier started matrix operations of the thread have read, or written, a physical row. -/
def Thread.rowFree (t : Thread) (o : Op) (row : Nat) : Bool :=
  (t.dsp.matrix.toList ++ t.dsp.bloads ++ t.dsp.shelf).all fun q =>
    o.e.seq == q.e.seq ||
      match decodeOpc q.e.word with
      | some (.mopa _) | some (.mops _) =>
        let b := t.sr.browbase + q.e.b.toNat
        o.e.seq < q.e.seq || row < b + q.prog || b + q.n ≤ row
      | some (.bload _) =>
        let b := t.sr.browbase + q.e.geo.p
        o.e.seq < q.e.seq || row < b + q.prog || b + q.n ≤ row
      | some (.bfromt _) =>
        let b := t.sr.browbase + (slice q.e.b 0 14).toNat
        row < b || b + q.e.len ≤ row
      | _ => true

/-- R16, R34: an earlier BLOAD, one whose replay at a restore goes on (R270) among them, has still to write one of `n`
physical rows from `row` on. -/
def Thread.rowsAwaited (t : Thread) (o : Op) (row n : Nat) : Bool :=
  (t.dsp.bloads ++ t.dsp.shelf).any fun q => q.e.seq < o.e.seq &&
    match decodeOpc q.e.word with
    | some (.bload _) =>
      let b := t.sr.browbase + q.e.geo.p
      row < b + q.n && b + q.prog < row + n
    | _ => false

/-- R268, R270: a row of a BLOAD written; without a descriptor it counts as written by BFROMT. -/
def State.putRow (s : State) (o : Op) (row : Nat) (bytes : List Byte) : State :=
  let b := s.th.bst.put row bytes (s.th.bst.descs.any fun d => d.seq == o.e.seq)
  let b1 : BStore := { b with descs := b.descs.map fun (d : BDesc) =>
    if d.seq == o.e.seq && d.inc then { d with done := max d.done (o.prog + 1) } else d }
  { s with th.bst := b1.prune s.th.sr.browbase }

/-- R268: the next row of a BLOAD. -/
def State.bloadUnit (s : State) (o : Op) : State :=
  let row := s.th.sr.browbase + o.e.geo.p + o.prog
  if !s.th.rowFree o row then s
  else
    match s.loadRow o.e o.prog with
    | .error r => s.unitStop o accRead r
    | .ok (b, s1) => (s1.putRow o row b).unitDone o (o.prog + 1) 0

/-- R269: BFROMT in its one piece. -/
def State.bfromtUnit (s : State) (o : Op) (f : FT) : State :=
  let t := s.th.tile f.mt.toNat
  let p := (slice o.e.b 16 7).toNat
  let row := s.th.sr.browbase + (slice o.e.b 0 14).toNat
  let n := o.e.len
  let tr := bitAt f.fn 0
  let bad : Bool := if tr then n != 0 && !t.poisoned.isEmpty else (List.range n).any fun k => t.rowBad (p + k)
  if bad then s.opFault o (poisonFault 0)
  else
    let rows := (List.range n).map fun k =>
      (if tr then t.column (p + k) else t.row (p + k)).zipIdx.map fun u =>
        fromTile f.tyb.toNat o.e.fctrl o.e.rseed (128 * k + u.2) u.1
    let fl := rows.foldl (fun f r => f ||| flagsOf r) 0
    if enabledFlags o.e.fctrl fl != 0 then s.opFault o (fpFault 0)
    else
      let b := rows.zipIdx.foldl (fun b u =>
        BStore.put b (row + u.2) (joinCodes f.tyb.toNat (u.1.map fun x => x.bits)) false) s.th.bst
      State.unitDone { s with th.bst := b.prune s.th.sr.browbase } o 1 fl

/-! ### The matrix array -/

/-- R166, R191: the pass that streams an operation's recipe has been launched, or is launched now from an element. -/
def State.withStreamAt (s : State) (o : Op) (start div : Nat) (k : State → State) : State :=
  match s.th.dsp.serving o.e.seq, o.e.node with
  | some (i, p), some root =>
    if p.ready then k s
    else
      (match s.serveCheck root start div with
        | .error none => s
        | .error (some f) => s.opFault o f
        | .ok (s1, bs) => k (s1.setPass i (some { p with ready := true, since := s1.now, blocks := bs })))
  | _, _ => k s

/-- The same, from the operation's progress. -/
def State.withStream (s : State) (o : Op) (div : Nat) (k : State → State) : State :=
  s.withStreamAt o (o.prog * div) div k

/-- R197: of a recipe's faults, the one at the lowest of the engine's own elements, which each is given with, then at the lowest
element, then of the earliest-recorded node (log entry 93). -/
def recipeFault (fs : List (Nat × PassFault)) : Option PassFault :=
  let low := fs.foldl (fun m f => min m f.1) ((fs.head?.map Prod.fst).getD 0)
  (pickFault ((fs.filter fun f => f.1 == low).map Prod.snd)).map fun f => { f with elem := low }

/-- R197, R260, R286: the fault a unit reports: its recipe's, or a fault of the engine at a lower of its elements. At one
element the recipe's comes first (log entry 93). -/
def unitFault (recipe : List (Nat × PassFault)) (own : List PassFault) : Option PassFault :=
  match recipeFault recipe, pickFault own with
  | some f, some g => some (if g.elem < f.elem then g else f)
  | f, g => f.or g

/-- What a unit of an engine streams and checks: how many elements have been streamed already, which of the engine's own
elements a fault's stands for, the faults the engine itself meets, and further ones, at its own elements, that it finds in
its recipes' values. -/
structure StreamJob where
  done : Nat := 0
  step : PassFault → Nat
  own : List PassFault := []
  more : Work → List PassFault := fun _ => []

/-- R259: a unit's elements streamed, with the fault or wait they meet. -/
def State.streamFrom (s : State) (o : Op) (j : StreamJob) (wants : List (Nat × Nat × Nat)) (k : Work → State) : State :=
  let w := s.streamUnit o j.done wants
  if w.blocked then s
  else
    match unitFault ((w.faults.map fun f => (j.step f, f)) ++ (j.more w).map fun f => (f.elem, f)) j.own with
    | some f => w.s.opFault o f
    | none => k w

/-- R260: the k of a recipe's element. -/
def Thread.kOf (t : Thread) (o : Op) (f : PassFault) : Nat :=
  lowest (f.elem / 128) ((t.placesOf o f).map fun u => u.2 / 128)

/-- R260: a unit of the matrix array streamed from its recipes. -/
def State.stream (s : State) (o : Op) (own : List PassFault) (wants : List (Nat × Nat × Nat)) (k : Work → State) : State :=
  s.streamFrom o { step := s.th.kOf o, own := own } wants k

/-- The factors of 128·n streamed elements of a type, 128 to a k. -/
def streamFactors (ty : Nat) (vs : List W64) (n : Nat) : List (List Factor) :=
  (List.range n).map fun k => ((vs.drop (128 * k)).take 128).map fun v => factorOfCode ty (maskBits ty v.toNat)

/-- R254, R256, R260: the faults of reading B-store rows `base + k`, for `n` k from `k0` on; SQ_FORMAT is the group's. -/
def Thread.rowFaults (t : Thread) (tyb base k0 n : Nat) : List PassFault :=
  (List.range' k0 n).filterMap fun k =>
    if t.bst.rowBad (base + k) then some (poisonFault k)
    else if (rowFactors tyb (t.bst.row (base + k))).isNone then some (plainFault k0 causeSqFormat 0 0)
    else none

/-- R258, R260: the unit of a MOPA, MOPS or MOPT from k = prog on. -/
def State.mopUnit (s : State) (o : Op) (f : FT) (neg mopt : Bool) : State :=
  let grouped := !(plainTy f.ty.toNat && plainTy f.tyb.toNat)
  let k0 := o.prog
  let ku := min (if grouped then 8 - k0 % 8 else 1) (o.n - k0)
  match o.e.node.bind s.th.rcp.node? with
  | none => s
  | some r =>
    if !mopt && s.th.rowsAwaited o (s.th.sr.browbase + o.e.b.toNat + k0) ku then s
    else
    let want (i : Option Nat) : List (Nat × Nat × Nat) := i.toList.map fun i => (i, 128 * k0, 128 * (k0 + ku))
    let t := s.th.tile f.mt.toNat
    let own := (if t.poisoned.isEmpty then [] else [poisonFault k0]) ++
      (if mopt then [] else s.th.rowFaults f.tyb.toNat (s.th.sr.browbase + o.e.b.toNat) k0 ku)
    s.stream o own (want r.sa ++ want r.sb) fun w =>
      let vals (i : Option Nat) : List W64 := (i.map fun i => w.vals i (128 * k0) (128 * (k0 + ku))).getD []
      let bs : List (List Factor) :=
        if mopt then streamFactors f.tyb.toNat (vals r.sb) ku
        else (List.range ku).map fun k =>
          (rowFactors f.tyb.toNat (s.th.bst.row (s.th.sr.browbase + o.e.b.toNat + k0 + k))).getD []
      let u := mopTile grouped neg t (streamFactors f.ty.toNat (vals r.sa) ku) bs
      if enabledFlags o.e.fctrl u.2 != 0 then w.s.opFault o (fpFault k0)
      else
        let s1 := (w.s.keepStream o w).spendMacs f.ty.toNat f.tyb.toNat (128 * 128 * ku)
        State.unitDone { s1 with th := s1.th.setTile f.mt.toNat u.1 } o (k0 + ku) (w.flags ||| u.2)

/-- An operation on tiles alone ends: its own flags trap, or its tile is written; `fl` are those of its recipe, which its
nodes' captured FCTRL has let pass (R43). A trap of its own, at no element, has TRAPELEM 0 (DESIGN CHOICE, log entry 110). -/
def State.tileDone (s : State) (o : Op) (m : Nat) (t : Tile) (own fl : Flags) : State :=
  if enabledFlags o.e.fctrl own != 0 then s.opFault o (fpFault 0)
  else State.unitDone { s with th := s.th.setTile m t } o 1 (fl ||| own)

/-- R261: the rows of a tile below a mark, element by element. -/
def mapTile (n : Nat) (t : Tile) (f : Nat → Nat → BitVec 32 → Rounded) : Tile × Flags :=
  let rows := (List.range n).map fun i => (t.row i).zipIdx.map fun u => f i u.2 u.1
  (t.putRows 0 (rows.map tileElems), rows.foldl (fun f r => f ||| flagsOf r) 0)

/-- R261: MSCALE. -/
def State.mscaleUnit (s : State) (o : Op) (f : FT) : State :=
  match (o.e.node.bind s.th.rcp.node?).bind fun r => r.sa with
  | none => s
  | some a =>
    let t := s.th.tile f.mt.toNat
    s.stream o (if t.poisoned.isEmpty then [] else [poisonFault 0]) [(a, 0, 128)] fun w =>
      let vs := w.vals a 0 128
      let u := mapTile t.hwm t fun i j x =>
        let v := vs.getD (if bitAt f.fn 0 then j else i) 0
        let p := mulNum (fmtFp32.decode x.toNat) (regVal 0xA v)
        arith 0xA (arithRounding o.e.fctrl) p.1 p.2
      (w.s.keepStream o w).tileDone o f.mt.toNat { u.1 with dirty := true } u.2 w.flags

/-- R261: MTWR. -/
def State.mtwrUnit (s : State) (o : Op) (f : FT) : State :=
  match (o.e.node.bind s.th.rcp.node?).bind fun r => r.sa with
  | none => s
  | some a =>
    let n := o.e.len
    let p := o.e.b.toNat
    s.stream o [] [(a, 0, n)] fun w =>
      let cells := (w.vals a 0 n).zipIdx.map fun u =>
        let x : BitVec 32 := u.1.setWidth 32
        if bitAt f.fn 0 then ((u.2 % 128, p + u.2 / 128), x) else ((p + u.2 / 128, u.2 % 128), x)
      let s1 := w.s.keepStream o w
      State.unitDone { s1 with th := s1.th.setTile f.mt.toNat ((s1.th.tile f.mt.toNat).putCells cells) } o 1 w.flags

/-- R261: MADDT. -/
def State.maddtUnit (s : State) (o : Op) (f : FT) : State :=
  let t := s.th.tile f.mt.toNat
  let q := s.th.tile f.ms.toNat
  if !t.poisoned.isEmpty || !q.poisoned.isEmpty then s.opFault o (poisonFault 0)
  else
    let u := mapTile (max t.hwm q.hwm) t fun i j x =>
      let v := addNum 0 (fmtFp32.decode x.toNat) ((fmtFp32.decode (q.at i j).toNat).flip (bitAt f.fn 0))
      arith 0xA rne v.1 v.2
    s.tileDone o f.mt.toNat { u.1 with dirty := true } u.2 0

/-- R261: MTRN. -/
def State.mtrnUnit (s : State) (o : Op) (f : FT) : State :=
  let q := s.th.tile f.ms.toNat
  if !q.poisoned.isEmpty then s.opFault o (poisonFault 0)
  else
    let t := s.th.tile f.mt.toNat
    let rows := if q.hwm == 0 then [] else (List.range 128).map q.column
    s.tileDone o f.mt.toNat { t with rows := rows, dirty := true, poisoned := [] } 0 0

/-- R261: MZERO. -/
def State.mzeroUnit (s : State) (o : Op) (f : FT) : State :=
  s.tileDone o f.mt.toNat { s.th.tile f.mt.toNat with rows := [], dirty := true, poisoned := [] } 0 0

/-- The next unit of the operation in the matrix array, row units apart. -/
def State.arrayUnit (s : State) (o : Op) : State :=
  match decodeOpc o.e.word with
  | some (.mopa f) => s.withStream o 128 fun s => s.mopUnit o f false false
  | some (.mops f) => s.withStream o 128 fun s => s.mopUnit o f true false
  | some (.mopt f) => s.withStream o 128 fun s => s.mopUnit o f (bitAt f.fn 0) true
  | some (.mscale f) => s.withStream o 128 fun s => s.mscaleUnit o f
  | some (.mtwr f) => s.withStream o 128 fun s => s.mtwrUnit o f
  | some (.mzero f) => s.mzeroUnit o f
  | some (.maddt f) => s.maddtUnit o f
  | some (.mtrn f) => s.mtrnUnit o f
  | some (.bfromt f) => s.bfromtUnit o f
  | some (.msave f) => s.storeUnit o f.mt.toNat 0 128 1
  | some (.mrest f) => s.loadUnit o f.mt.toNat 0 128 1
  | _ => s

/-- R271: the next 8-row unit of an MTLD, MTST or MPACK. -/
def State.rowsUnit (s : State) (o : Op) : State :=
  let n := min (8 - o.prog % 8) (o.n - o.prog)
  match decodeOpc o.e.word with
  | some (.mtld f) => s.loadUnit o f.mt.toNat o.prog n (o.prog + n)
  | some (.mtst f) | some (.mpack f) => s.storeUnit o f.mt.toNat o.prog n (o.prog + n)
  | _ => s

/-- A word whose operation runs by rows (R271). -/
def byRows (word : W64) : Bool :=
  match decodeOpc word with
  | some (.mtld _) | some (.mtst _) | some (.mpack _) => true
  | _ => false

/-- An operation with a unit left to do. -/
def Op.going (o : Op) : Bool := !o.halted && (o.prog < o.n || !o.keep.isEmpty)

/-- R258, R261: MATRIX_UNIT. -/
def execMatrixUnit (s : State) : Host.Outcome State Fault Refusal :=
  match s.th.dsp.matrix with
  | some o => if s.th.run == .running && o.going && !byRows o.e.word then .next (s.arrayUnit o) else .next s
  | none => .next s

/-- R268, R271: MATRIX_ROW_UNIT. -/
def execMatrixRowUnit (u : RowUnit) (s : State) : Host.Outcome State Fault Refusal :=
  match u with
  | .matrix =>
    (match s.th.dsp.matrix with
      | some o => if s.th.run == .running && o.going && byRows o.e.word then .next (s.rowsUnit o) else .next s
      | none => .next s)
  | .bload i =>
    (match s.th.dsp.bloads[i]? with
      | some o => if s.th.run == .running && o.going then .next (s.bloadUnit o) else .next s
      | none => .next s)

end Sys2Proof.Machine
end

