-- ==== Sys2Proof/Machine/Copy.lean ====
section
/-! DEFINITION. Machine/Copy.lean: the copy engine (R315 to R322), CPYX (R325), arrival words (R327 to R330), and the
stash (R331 to R335). -/

namespace Sys2Proof.Machine

/-! ### Recording -/

/-- R315: a copy captures its source, xB, its destination and the address of its arrival word. -/
def State.recCopy (s : State) (opc : BitVec 8) (f : FM) : Rec :=
  { word := packM opc f, va := s.address f, vb := s.x f.b, vc := s.x f.d,
    arrival := some (s.x (arrivalReg f)), parts := 0, cc := counterM f }

/-- R315: CPY2D and CPYT also capture x(B+1). -/
def State.recPitched (s : State) (opc : BitVec 8) (f : FM) : Rec := { s.recCopy opc f with d := s.x (f.b + 1) }

def execCpy (f : FM) (s : State) : Host.Outcome State Fault Refusal :=
  s.settle (s.record f.ls.toNat (s.recCopy 0xB0 f))
def execCpy2d (f : FM) (s : State) : Host.Outcome State Fault Refusal :=
  s.settle (s.record f.ls.toNat (s.recPitched 0xB1 f))
def execCpyt (f : FM) (s : State) : Host.Outcome State Fault Refusal :=
  s.settle (s.record f.ls.toNat (s.recPitched 0xB2 f))
def execCpyf (f : FM) (s : State) : Host.Outcome State Fault Refusal :=
  s.settle (s.record f.ls.toNat (s.recCopy 0xB4 f))
def execCpyr (f : FM) (s : State) : Host.Outcome State Fault Refusal :=
  s.settle (s.record f.ls.toNat (s.recCopy 0xB5 f))
def execCpypub (f : FM) (s : State) : Host.Outcome State Fault Refusal :=
  s.settle (s.record f.ls.toNat (s.recCopy 0xB6 f))

/-- The leaf of an address as it stands, without an access. -/
def State.peekLeaf (s : State) (va : W64) : Option Xl :=
  match s.walk s.task.ptbase accRead va with
  | .ok w => if canonical va && leafV w.leaf then some ⟨w.leafPa, w.leaf, leafAddr w va⟩ else none
  | .error _ => none

/-- The block a CPYX names, as it stands when the word issues, for its ranges alone (log entry 19). -/
def State.peekBlock (s : State) (idx : Bool) (va : W64) : Option StreamBlock :=
  match s.peekLeaf va with
  | some x => if va.toNat % 64 == 0 && blockPage x.leaf then parseBlockOf idx (s.physRead (s.readPa x) 64) else none
  | none => none

/-- R318, R325: the ranges of a CPYX at queue entry; the whole address space where its block cannot be told. -/
def State.copyxRanges (s : State) (b : Option StreamBlock) (idx : Bool) (n : Option Nat) (d : W64) :
    List Rng × List Rng :=
  let open_ := s.openRange s.th.smode d.toNat
  match b with
  | none => ([⟨0, 2 ^ 64 - 1⟩], [open_])
  | some b =>
    ([b.reads idx (n.getD b.count)], [match n with
      | some n => Rng.span d.toNat (n * b.esize)
      | none => open_])

/-- R325: CPYX; `.v` records a root over the index node. -/
def State.recCpyx (s : State) (f : FM) : Except Nat Rec := do
  let v := bitAt f.fn 0
  let a : Option Nat ← if v then (s.vsrcInt f.b).map some else .ok none
  let b := s.peekBlock (!v) (s.address f)
  let n : Option Nat := match s.th.takeLen f.ls.toNat with
    | .ok (k, l, _) => knownLen k l
    | .error _ => none
  .ok { s.recCopy 0xB3 f with
    sa := a, vb := 0, d := BitVec.ofNat 64 ((b.map fun b => b.esize).getD 0), parts := if v then 1 else 0
    entryRng := some (s.copyxRanges b (!v) n (s.x f.d)) }

def execCpyx (f : FM) (s : State) : Host.Outcome State Fault Refusal := s.recordE f.ls.toNat (s.recCpyx f)

/-! ### Stash words as they issue -/

/-- R331: threads of more than one task are active on the pair. -/
def State.pairShared (s : State) : Bool :=
  (s.activeThreads s.th.cluster s.th.pair).any fun t => t.task != s.th.task

/-- R333: the fields of STMAP's xB: the stash offset and the length. -/
def stashOff (xb : W64) : Nat := (slice xb 0 19).toNat
def stashLen (xb : W64) : Nat := (slice xb 32 19).toNat

/-- The global range of a slot. -/
def StashSlot.rng (q : StashSlot) : Rng := Rng.span q.g q.len

/-- Slot `n` of a pair. -/
def Pair.slot (p : Pair) (n : Nat) : Option StashSlot := p.slots[n]?.getD none

/-- R333: STMAP's write entry covers the old and the new global range. -/
def State.stmapRng (s : State) (n : Nat) (g xb : W64) : List Rng × List Rng :=
  let new := Rng.span g.toNat (stashLen xb)
  ([Rng.none], [((s.pair.slot n).map StashSlot.rng).elim new new.hull])

/-- A stash word of the copy engine. -/
def State.recStash (s : State) (opc : BitVec 8) (f : FM) : Rec :=
  { word := packM opc f, va := s.address f, vb := s.x f.b, parts := 0, fixedLen := some 1, cc := counterM f }

/-- R333: STMAP. -/
def execStmap (f : FM) (s : State) : Host.Outcome State Fault Refusal :=
  s.recordE f.ls.toNat (if s.pairShared then .error causeRange
    else .ok { s.recStash 0xB8 f with entryRng := some (s.stmapRng f.d.toNat (s.address f) (s.x f.b)) })

/-- R334: STFL and STINV. -/
def execStfl (f : FM) (s : State) : Host.Outcome State Fault Refusal :=
  s.settle (s.record f.ls.toNat (s.recStash 0xB9 f))
def execStinv (f : FM) (s : State) : Host.Outcome State Fault Refusal :=
  s.settle (s.record f.ls.toNat (s.recStash 0xBD f))

/-- R109, R333: a slot unmapped: its lines are gone, their contents kept in memory. -/
def Pair.unmap (p : Pair) (n : Nat) : Pair :=
  match p.slot n with
  | none => p
  | some q =>
    { p with slots := p.slots.setIfInBounds n none
             lines := p.lines.filter fun l => !(q.g ≤ l.va && l.va < q.g + q.len) }

/-- R332: STCFG. -/
def State.stcfg (s : State) (f : FX) : Issue :=
  let w := (s.x f.a).toNat
  if 12 < w || s.pairShared then Issue.fault causeRange
  else if s.th.unfinished || !s.th.fe.posted.isEmpty then .wait .drain false 0
  else
    let p := s.pair
    let out (n : Nat) : Bool := (p.slot n).elim false fun q => 32768 * w < q.off + q.len
    let p1 := ((List.range 16).filter out).foldl Pair.unmap p
    (s.setPair { p1 with ways := w, owner := if w == 0 then none else some s.th.task }).finish f.d (BitVec.ofNat 64 p.ways)

def execStcfg (f : FX) (s : State) : Host.Outcome State Fault Refusal := s.settle (s.stcfg f)

/-- R335: CINV. No cached copy differs from memory here, so it orders the thread and no more (log entry 7). -/
def State.cinv (s : State) (f : FM) : Issue :=
  let a := (s.address f).toNat
  let n := (s.x f.b).toNat
  if 2 ^ 32 < n then Issue.fault causeRange
  else if s.th.meetArit (Rng.span a n) true true != .go || s.th.fe.posted.any fun p => p.blocks a n false then
    .wait .drain false 0
  else .done s.retire

def execCinv (f : FM) (s : State) : Host.Outcome State Fault Refusal := s.settle (s.cinv f)

/-! ### Arrival words (R327 to R330) -/

/-- R327: the page of an arrival word. -/
def arrivalPage (e : W64) : Bool := atomicPage e && !leafSd e

/-- R149, R327: the checks of ARM and ARWAIT. -/
def State.arrivalCheck (s : State) (kind : Nat) (va : W64) : Except Issue (Xl × State) :=
  if va.toNat % 16 != 0 then .error (.trap (TrapInfo.at causeMisaligned kind va))
  else
    match s.check s.th.smode kind va 16 with
    | .error e => .error (e.issue va kind)
    | .ok c => if arrivalPage c.1.leaf then .ok c else .error (.trap (TrapInfo.at causeDataAccess kind va))

/-- An arrival word that ARM or ARWAIT may reach now. -/
def State.arrivalOpen (s : State) (kind : Nat) (va : W64) : Except Issue (Xl × State) :=
  match s.arrivalCheck kind va with
  | .error i => .error i
  | .ok c => s.readyOf kind va 16 (.ok c)

/-- R329: ARM. -/
def State.arm (s : State) (f : FM) : Issue :=
  let v := s.x f.b
  let va := s.address f
  if slice v 0 32 == 0 || slice v 32 32 != 0 then Issue.fault causeRange
  else
    match s.arrivalOpen accAtomic va with
    | .error i => i
    | .ok (x, s1) =>
      match s1.rmw x va 16 fun old => some (arrivalWord v.toNat 0 (arrivalField old 2) 1) with
      | .error e => e.issue va accAtomic
      | .ok (_, s2) => .done s2.retire

def execArm (f : FM) (s : State) : Host.Outcome State Fault Refusal := s.settle (s.arm f)

/-- R330: ARWAIT. -/
def State.arwait (s : State) (f : FM) : Issue :=
  let v := s.x f.b
  let va := s.address f
  if slice v 32 32 != 0 then Issue.fault causeRange
  else
    match s.arrivalOpen accRead va with
    | .error i => i
    | .ok (x, s1) =>
      match s1.load accRead x va 16 with
      | .error e => e.issue va accRead
      | .ok (b, s2) =>
        let gen := arrivalField (leNat b) 2
        if gen == v.toNat then .wait .arrival true 0 else s2.finish f.d (BitVec.ofNat 64 gen)

def execArwait (f : FM) (s : State) : Host.Outcome State Fault Refusal := s.settle (s.arwait f)

/-- R327: where a copy's arrival word may lie. -/
def State.arrivalPlace (s : State) (smode : Bool) (va : W64) : Except Stop (Xl × State) :=
  if va.toNat % 16 != 0 then .error (.trap (TrapInfo.at causeMisaligned accAtomic va))
  else
    match s.check smode accAtomic va 16 with
    | .error r => .error r
    | .ok c => if arrivalPage c.1.leaf then .ok c else .error (.trap (TrapInfo.at causeDataAccess accAtomic va))

/-- A unit's arrival word, ready to be updated; `off` is the unit's first byte. -/
def State.arrivalReady (s : State) (e : Entry) (off : Nat) : Except UnitStop (Option (W64 × Xl) × State) :=
  match e.arrival? with
  | none => .ok (none, s)
  | some va =>
    match s.arrivalPlace e.smode va with
    | .error r => .error (off, va, r)
    | .ok (x, s1) =>
      let h := s1.held false x.pa 16
      let r := h.2.hostRefuses x
      if h.1 then .error (off, va, .busy)
      else if r.1 then .error (off, va, accessFault accAtomic va)
      else
        match r.2.poisonIn x.pa 16 with
        | some _ => .error (off, va, .trap (TrapInfo.at causePoison accAtomic (va &&& ~~~63)))
        | none => .ok (some (va, x), r.2)

/-- R328, R382: the update; one in host memory is the device's own transaction. -/
def State.arrive (s : State) (o : Op) (a : Option (W64 × Xl)) (n : Nat) : State :=
  match a with
  | none => s
  | some (va, x) =>
    if isHost x.pa then (s.countPage x).owe (.arrive x.pa n (some (s.th.hw, o.e.seq)))
    else match s.rmwNow x va 16 fun old => some (arriveWord old n) with
    | .ok (_, s1) => s1
    | .error _ => s

/-! ### Start (R317, R319, R325) -/

/-- The element width a copy aligns to. -/
def copyAlign (i : Instr) (e : Entry) : Nat :=
  match i with
  | .cpyt f => if f.ty == 0xF then 64 else bytesOf f.ty.toNat
  | .cpyf f | .cpyr f => bytesOf f.ty.toNat
  | .cpyx _ => min 8 e.d.toNat
  | _ => 1

/-- R316, R320: the bytes of a copy's destination sequence. -/
def copyTotal (i : Instr) (e : Entry) (n : Nat) : Nat :=
  match i with
  | .cpy2d _ | .cpyx _ => n * e.d.toNat
  | .cpyt f => if f.ty == 0xF then n * e.d.toNat else n * e.d.toNat * bytesOf f.ty.toNat
  | .cpyf f | .cpyr f => n * bytesOf f.ty.toNat
  | _ => n

/-- R320: SP and DP. -/
def Entry.sp (e : Entry) : Nat := (slice e.b 0 32).toNat
def Entry.dp (e : Entry) : Nat := (slice e.b 32 32).toNat

/-- R317, R320: geometry outside its values. -/
def copyGeoBad (i : Instr) (e : Entry) (n : Nat) : Bool :=
  let pair : Bool := slice e.d 32 32 != 0 || slice e.d 0 32 == 0
  match i with
  | .cpy2d _ => pair
  | .cpyt f => pair || (f.ty == 0xF && (n % 8 != 0 || e.d.toNat % 8 != 0 || e.sp % 64 != 0 || e.dp % 64 != 0))
  | _ => false

/-- R317: read and write hulls overlap. -/
def copyOverlap (i : Instr) (e : Entry) (r : List Rng × List Rng) : Bool :=
  let same : Bool := match i with
    | .cpy _ | .cpypub _ => e.a == e.c
    | _ => false
  !same && rangesMeet r.1 r.2

/-- R319: a DEV page among those of `n` bytes. -/
def State.devIn (s : State) (va : W64) (n : Nat) : Bool :=
  (pagesOf va.toNat n).any fun p => (s.peekLeaf (BitVec.ofNat 64 p)).elim false fun x => leafCls x.leaf == clsDev

/-- R319: which side of a CPY or CPYF touches DEV pages. -/
def State.devSides (s : State) (i : Instr) (e : Entry) (n : Nat) : Bool × Bool :=
  match i with
  | .cpy _ => (s.devIn e.a n, s.devIn e.c n)
  | .cpyf _ => (false, s.devIn e.c n)
  | _ => (false, false)

/-- R319: what a copy that touches DEV pages may not be. -/
def devBad (e : Entry) (d : Bool × Bool) (n : Nat) : Option PassFault :=
  if !(d.1 || d.2) then none
  else if 4096 < n then some (startBad causeRange)
  else if d.1 && e.a.toNat % 8 != 0 then some (plainFault 0 causeMisaligned accRead e.a)
  else if d.2 && e.c.toNat % 8 != 0 then some (plainFault 0 causeMisaligned accWrite e.c)
  else if n % 8 != 0 then
    some (if d.1 then plainFault 0 causeMisaligned accRead e.a else plainFault 0 causeMisaligned accWrite e.c)
  else none

/-- R317, R327: a fault of the arrival word's place; a hold by WB is none. -/
def State.arrivalBad (s : State) (e : Entry) : Option PassFault :=
  match e.arrival? with
  | none => none
  | some va =>
    match s.arrivalPlace e.smode va with
    | .error r => r.fault 0 accAtomic va
    | .ok _ => none

/-- R317, R319: what keeps a copy of `n` items from starting; `e` holds its ranges. -/
def State.copyBad (s : State) (i : Instr) (e : Entry) (n : Nat) : Option PassFault :=
  let total := copyTotal i e n
  if 2 ^ 48 ≤ total || copyGeoBad i e n then some (startBad causeRange)
  else if total == 0 then none
  else if copyOverlap i e (e.reads, e.writes) then some (startBad causeRange)
  else (s.arrivalBad e).or (devBad e (s.devSides i e total) total)

/-- R125, R318: a store posted before the copy starts meets its arrival word. A release issued after the copy's word waits
for the copy instead (R293). -/
def Thread.arrivalPosted (t : Thread) (e : Entry) : Bool :=
  (t.postedFor e.seq).any fun p => e.arrivesAt (Rng.span p.va p.bytes.length)

/-- R105: earlier DEV accesses of the thread that a copy on DEV pages comes after: stores posted before it starts, as for its
arrival word, and those of an earlier copy. -/
def Thread.devBefore (t : Thread) (e : Entry) : Bool :=
  (t.postedFor e.seq).any Posted.dev || t.dsp.ops.any fun o => o.dev && o.e.seq != e.seq

/-- A copy begins, or stops at a fault found at its start. -/
def State.beginCopy (s : State) (i : Instr) (e : Entry) (n : Nat) (b : Option StreamBlock) : Option State :=
  match s.copyBad i e n with
  | some f => some (s.startFault e f)
  | none =>
    let total := copyTotal i e n
    let d := s.devSides i e (if 4096 < total then 0 else total)
    if (d.1 || d.2) && s.th.devBefore e then none
    else (s.beginOp e i total 1).map fun s1 => s1.updOp e.seq fun o => { o with block := b, dev := d.1 || d.2 }

/-- R325: CPYX reads its block as it starts, after every earlier write of it by the thread (R125, R318); what the block then
names is ordered as its own ranges are. A popped length that its index recipe does not have is a fault first (R188). -/
def State.startCpyx (s : State) (i : Instr) (e : Entry) (v : Bool) : Option State :=
  match (s.th.rootOf e).filter fun r => !s.th.rcp.srcsSized r e.len with
  | some r => some (s.startFault e (launchFault r 0 causeLength))
  | none =>
  if e.len == 0 then s.beginCopy i e 0 none
  else if s.th.mustWait e.seq [Rng.span e.a.toNat 64] [] then none
  else
    match s.readBlock e.smode true (!v) e.a with
    | .error r => (r.fault 0 accRead e.a).map (s.startFault e)
    | .ok (b, s1) =>
      if b.count < e.len then some (s1.startFault e (startBad causeRange))
      else
        let e1 := { e with d := BitVec.ofNat 64 b.esize, reads := [b.reads (!v) e.len],
                           writes := [Rng.span e.c.toNat (e.len * b.esize)] }
        if s1.th.mustWait e.seq e1.reads e1.writes then none else s1.beginCopy i e1 e.len (some b)

/-- R333: the pages of a range mapped: no DEV or versioned page, and in the lease. -/
def State.mapPages (s : State) (smode : Bool) (g n : Nat) : Option PassFault :=
  (pagesOf g n).findSome? fun p =>
    let a := max g p
    let va := BitVec.ofNat 64 a
    match s.check smode accRead va (min (g + n) (p + 65536) - a) with
    | .error r => r.fault 0 accRead va
    | .ok (x, _) =>
      if leafCls x.leaf == clsDev || leafVer x.leaf then some (plainFault 0 causeDataAccess accRead va) else none

/-- R333: STMAP's limits. -/
def Pair.mapBad (p : Pair) (n : Nat) (g xb : W64) : Bool :=
  let o := stashOff xb
  let l := stashLen xb
  g.toNat % 128 != 0 || o % 128 != 0 || l % 128 != 0 || slice xb 19 13 != 0 || slice xb 51 13 != 0 ||
    32768 * p.ways < o + l ||
    (l != 0 && (List.range 16).any fun k => k != n && (p.slot k).elim false fun q =>
      (Rng.span q.off q.len).meets (Rng.span o l) || q.rng.meets (Rng.span g.toNat l))

/-- What keeps a stash operation from starting. -/
def State.stashBad (s : State) (i : Instr) (e : Entry) : Option PassFault :=
  match i with
  | .stmap f =>
    if s.pair.mapBad f.d.toNat e.a e.b then some (startBad causeRange) else s.mapPages e.smode e.a.toNat (stashLen e.b)
  | _ => if 2 ^ 32 < e.b.toNat then some (startBad causeRange) else none

/-- A copy engine's entry starts, if it can start now. -/
def State.startCopy (s : State) (e : Entry) (i : Instr) : Option State :=
  if !(s.th.dsp.engineFree .copy && s.th.entryFree e && !s.th.arrivalPosted e) then none
  else
    match i with
    | .stmap _ | .stfl _ | .stinv _ =>
      (match s.stashBad i e with
        | some f => some (s.startFault e f)
        | none =>
          let e1 := match i with
            | .stmap f => { e with writes := (s.stmapRng f.d.toNat e.a e.b).2 }
            | _ => e
          s.beginOp e1 i 1 1)
    | .cpyx f => s.startCpyx i e (bitAt f.fn 0)
    | _ =>
      let r := (e.rangesAt e.len).getD (e.reads, e.writes)
      s.beginCopy i { e with reads := r.1, writes := r.2 } e.len none

/-! ### Units (R316) -/

/-- A span of the destination sequence: its offset, address and length. -/
abbrev CopyPart := Nat × W64 × Nat

/-- Bytes `off` to `off + k - 1` of a sequence of rows of `len` bytes at a pitch. -/
def rowParts (base : W64) (pitch len off k : Nat) : List CopyPart :=
  (List.range' (off / len) ((off + k - 1) / len + 1 - off / len)).map fun r =>
    let lo := max off (r * len)
    (lo, base + BitVec.ofNat 64 (r * pitch + (lo - r * len)), min (off + k) ((r + 1) * len) - lo)

/-- R320: what a unit of a copy reads, in the order of its sequence; each square is one part. -/
def copyReads (i : Instr) (e : Entry) (off k : Nat) : List CopyPart :=
  let n := e.len
  match i with
  | .cpy2d _ => rowParts e.a e.sp e.d.toNat off k
  | .cpyt f =>
    if f.ty == 0xF then
      (List.range' (off / 64) (k / 64)).map fun q =>
        (64 * q, e.a + BitVec.ofNat 64 (q % (n / 8) * e.sp + 64 * (q / (n / 8))), 64)
    else
      let w := bytesOf f.ty.toNat
      (List.range' (off / w) (k / w)).map fun q => (q * w, e.a + BitVec.ofNat 64 (q % n * e.sp + q / n * w), w)
  | .cpyf _ => []
  | _ => [(off, e.a + BitVec.ofNat 64 off, k)]

/-- R320: what a unit of a copy writes. -/
def copyWrites (i : Instr) (e : Entry) (off k : Nat) : List CopyPart :=
  match i with
  | .cpy2d _ => rowParts e.c e.dp e.d.toNat off k
  | .cpyt f => rowParts e.c e.dp (if f.ty == 0xF then 8 * e.len else e.len * bytesOf f.ty.toNat) off k
  | _ => [(off, e.c + BitVec.ofNat 64 off, k)]

/-- Parts cut at page boundaries. -/
def pageParts (ps : List CopyPart) : List CopyPart :=
  ps.flatMap fun p =>
    let k := 65536 - p.2.1.toNat % 65536
    if p.2.2 ≤ k then [p] else [(p.1, p.2.1, k), (p.1 + k, p.2.1 + BitVec.ofNat 64 k, p.2.2 - k)]

/-- Bytes dealt out to parts. -/
def dealBytes : List CopyPart → List Byte → List (Nat × W64 × List Byte)
  | [], _ => []
  | p :: ps, b => (p.1, p.2.1, b.take p.2.2) :: dealBytes ps (b.drop p.2.2)

/-- R317: every 64-byte block a part touches is covered by some parts together. -/
def wholeBlocks (ps : List CopyPart) (va : W64) (n : Nat) : Bool :=
  let b0 := va.toNat / 64
  (List.range ((va.toNat + n - 1) / 64 - b0 + 1)).all fun j =>
    (List.range 64).all fun i =>
      let a := (b0 + j) * 64 + i
      ps.any fun p => p.2.1.toNat ≤ a && a < p.2.1.toNat + p.2.2

/-- R319, R320: a page a copy may read. -/
def copyReadPage (i : Instr) (leaf : W64) : Option Nat :=
  let sq : Bool := match i with
    | .cpyt f => f.ty == 0xF
    | _ => false
  if leafCls leaf == clsDev || (sq && !leafSd leaf) then some causeDataAccess else none

/-- R317, R319, R320, R322: a page a copy may write `n` bytes of, `ps` being all that its unit writes. -/
def copyWritePage (i : Instr) (dev : Bool) (ps : List CopyPart) (va : W64) (n : Nat) (leaf : W64) : Option Nat :=
  let ok : Bool := match i with
    | .cpypub _ => leafCls leaf == clsRshr
    | .cpyt f => f.ty != 0xF || leafSd leaf
    | _ => true
  if !ok || (leafCls leaf == clsDev && !dev) then some causeDataAccess
  else if leafSd leaf && !wholeBlocks ps va n then some causeSqPartial
  else none

/-- R317: the offset of a stop within its part. -/
def exactStop (r : UnitStop) : UnitStop :=
  match r.2.2 with
  | .trap i =>
    let d := (i.addr - r.2.1).toNat
    (if i.code != causeRange && d < 2 ^ 32 then r.1 + d else r.1, r.2)
  | _ => r

/-- R322: stash lines of every pair that hold published bytes are dropped. -/
def State.dropStash (s : State) (ps : List Piece) : State :=
  { s with pairs := s.pairs.map fun p =>
      { p with lines := p.lines.filter fun l =>
          !ps.any fun q => q.x.pa < l.pa + 128 && l.pa < q.x.pa + q.bytes.length } }

/-- R316, R328: the writes of the unit from `off` performed, its arrival counted, and the copy moved on; `keep` is what
it has read beyond the unit, and `s0` the state before its reads. -/
def State.writeUnit (s0 s : State) (o : Op) (i : Instr) (off : Nat) (bytes keep : List Byte) : State :=
  let ps := copyWrites i o.e off bytes.length
  let pub : Bool := match i with
    | .cpypub _ => true
    | _ => false
  match s.checkPartsAs pub o.e.smode o.e.stepno (copyWritePage i false ps) (copyAlign i o.e)
      (dealBytes (pageParts ps) bytes) with
  | .error r => s0.stopRead s o accWrite (exactStop r)
  | .ok (pieces, s1) =>
    match s1.arrivalReady o.e off with
    | .error r => s0.stopRead s o accAtomic r
    | .ok (a, s2) =>
      let s3 := s2.performPieces o.e.stepno pieces
      let s4 := if pub then s3.dropStash pieces else s3
      ((s4.arrive o a bytes.length).unitDone o (off + bytes.length) 0).updOp o.e.seq fun o => { o with keep := keep }

/-- R320: a fill's bytes. -/
def fillBytes (f : FM) (v : W64) (off k : Nat) : List Byte :=
  let w := bytesOf f.ty.toNat
  let b := leBytes w v.toNat
  (List.range k).map fun j => b.getD ((off + j) % w) 0

/-- R51, R320: bytes as a copy writes them: squares are transposed, and their formats checked. -/
def copyBytes (i : Instr) (ps : List CopyPart) (bs : List (List Byte)) : Except UnitStop (List Byte) :=
  match i with
  | .cpyt f =>
    if f.ty != 0xF then .ok bs.flatten
    else
      match (ps.zip bs).find? fun u => 3 < (Square.ofBytes u.2).fmt with
      | some (p, _) => .error (p.1, p.2.1, .trap (TrapInfo.at causeSqFormat accRead p.2.1))
      | none => .ok (bs.flatMap transposeBlock)
  | _ => .ok bs.flatten

/-- A unit of CPY, CPY2D, CPYT, CPYF or CPYPUB. Of several faults the first is reported in the order reads, format of a
square, writes, arrival word (DESIGN CHOICE, log entry 113). -/
def State.plainUnit (s : State) (o : Op) (i : Instr) : State :=
  let k := min 4096 (o.n - o.prog)
  match i with
  | .cpyf f => s.writeUnit s o i o.prog (fillBytes f o.e.b o.prog k) []
  | _ =>
    let ps := copyReads i o.e o.prog k
    match s.readParts o.e.smode (copyReadPage i) (copyAlign i o.e) ps with
    | .error r => s.unitStop o accRead (exactStop r)
    | .ok (bs, s1) =>
      match copyBytes i ps bs with
      | .error r => s1.unitStop o accRead r
      | .ok bytes => s.writeUnit s1 o i o.prog bytes []

/-! ### CPYR (R321) -/

/-- R321: the operation of CPYR as an atomic. -/
def cpyrOp (f : FM) : Nat :=
  match f.fnAt 0 2 with
  | 0 => 1
  | 1 => 5
  | _ => 6

/-- R300, R321: the checks of CPYR's destination elements in order. -/
def State.checkAtoms (s : State) (smode : Bool) (w : Nat) : List (Nat × W64) → Except UnitStop (List Xl × State)
  | [] => .ok ([], s)
  | (k, va) :: ps =>
    let bad (c : Nat) : Except UnitStop (List Xl × State) := .error (k, va, .trap (TrapInfo.at c accAtomic va))
    if va.toNat % w != 0 then bad causeMisaligned
    else
      match s.check smode accAtomic va w with
      | .error r => .error (k, va, r)
      | .ok (x, s1) =>
        if !atomicPage x.leaf then bad causeDataAccess
        else if leafSd x.leaf then bad causeSqPartial
        else
          let h := s1.held false x.pa w
          let r := h.2.hostRefuses x
          if h.1 then .error (k, va, .busy)
          else if r.1 then bad causeDataAccess
          else if (r.2.poisonIn x.pa w).isSome then
            .error (k, va, .trap (TrapInfo.at causePoison accAtomic (va &&& ~~~63)))
          else
            match r.2.checkAtoms smode w ps with
            | .error r => .error r
            | .ok (xs, s2) => .ok (x :: xs, s2)

/-- R321: one element reduced; its flags go to REMOTEFLAGS (R305). -/
def State.reduceAt (f : FM) (s : State) (q : Xl × W64 × Nat) : State :=
  let ty := f.ty.toNat
  match s.rmwNow q.1 q.2.1 (bytesOf ty) fun old => some (atomicVal (cpyrOp f) ty old q.2.2).1 with
  | .ok (old, s1) =>
    { s1 with th.sr.remoteflags := s1.th.sr.remoteflags ||| (atomicVal (cpyrOp f) ty old q.2.2).2.setWidth 64 }
  | .error _ => s

/-- A unit of CPYR. -/
def State.cpyrUnit (s : State) (o : Op) (f : FM) : State :=
  let w := bytesOf f.ty.toNat
  let k := min 4096 (o.n - o.prog)
  match s.readParts o.e.smode (copyReadPage (.cpyr f)) w [(o.prog, o.e.a + BitVec.ofNat 64 o.prog, k)] with
  | .error r => s.unitStop o accRead (exactStop r)
  | .ok (bs, s1) =>
    let offs := (List.range (k / w)).map fun j => o.prog + j * w
    let at_ := offs.map fun q => (q, o.e.c + BitVec.ofNat 64 q)
    match s1.checkAtoms o.e.smode w at_ with
    | .error r => s.stopRead s1 o accAtomic r
    | .ok (xs, s2) =>
      match s2.arrivalReady o.e o.prog with
      | .error r => s.stopRead s1 o accAtomic r
      | .ok (a, s3) =>
        let q := xs.zip ((at_.map Prod.snd).zip (splitCodes f.ty.toNat bs.flatten (k / w)))
        ((q.foldl (State.reduceAt f) s3).arrive o a k).unitDone o (o.prog + k) 0

/-! ### CPYX (R324, R325) -/

/-- R319: a page of an index or table. -/
def streamPage (leaf : W64) : Option Nat := if leafCls leaf == clsDev then some causeDataAccess else none

/-- R317, R324: rows `i` on, `n` of them, each index read by `idx`; a stop at a row stands at its place in the destination
sequence, with the state after the rows before it. -/
def State.gatherRows (s : State) (smode : Bool) (b : StreamBlock) (idx : Nat → Option Int) :
    Nat → Nat → Except (UnitStop × State) (List Byte × State)
  | _, 0 => .ok ([], s)
  | i, n + 1 =>
    let off := i * b.esize
    let got : Except UnitStop (Int × State) := match idx i with
      | some v => .ok (v, s)
      | none => match s.streamIndex smode b streamPage i with
        | .ok r => .ok r
        | .error r => .error (off, match r with
          | .trap t => t.addr
          | _ => b.ibase + BitVec.ofNat 64 (i * bytesOf b.itype), r)
    match got with
    | .error r => .error (r, s)
    | .ok (v, s1) =>
      match s1.streamRow smode b streamPage v with
      | .error r => .error ((off, b.tbase + BitVec.ofInt 64 (v * b.esize), r), s1)
      | .ok (row, s2) =>
        match s2.gatherRows smode b idx (i + 1) n with
        | .error r => .error r
        | .ok (rows, s3) => .ok (row ++ rows, s3)

/-- A unit of CPYX: what is kept of the row it stands in, then further rows; `s0` is the state before its index recipe was
evaluated. -/
def State.cpyxFrom (s0 s : State) (o : Op) (i : Instr) (b : StreamBlock) (idx : Nat → Option Int) : State :=
  let k := min 4096 (o.n - o.prog)
  let skip := if o.keep.isEmpty then o.prog % b.esize else 0
  let first := if o.keep.isEmpty then o.prog / b.esize else (o.prog + o.keep.length) / b.esize
  let last := (o.prog + k + b.esize - 1) / b.esize
  match s.gatherRows o.e.smode b idx first (last - first) with
  | .error (r, s1) => s0.stopRead s1 o accRead (exactStop r)
  | .ok (rows, s1) =>
    let all := o.keep ++ rows.drop skip
    s0.writeUnit s1 o i o.prog (all.take k) (all.drop k)

/-- The next unit of a CPYX; `.v` takes its indices from a recipe. -/
def State.cpyxUnit (s : State) (o : Op) (f : FM) : State :=
  match o.block with
  | none => s
  | some b =>
    if !bitAt f.fn 0 then s.cpyxFrom s o (.cpyx f) b fun _ => none
    else
      s.withStreamAt o (o.prog / b.esize) 1 fun s =>
        match ((o.e.node.bind s.th.rcp.node?).bind fun r => r.sa).bind s.th.rcp.node? with
        | none => s
        | some n =>
          let k := min 4096 (o.n - o.prog)
          let i0 := if o.keep.isEmpty then o.prog / b.esize else (o.prog + o.keep.length) / b.esize
          let i1 := (o.prog + k + b.esize - 1) / b.esize
          let job : StreamJob := { done := (o.prog + b.esize - 1) / b.esize, step := fun f => f.elem }
          s.streamFrom o job [(n.idx, i0, i1)] fun w =>
            let ty : Nat := match n.nty with
              | .elem t => t
              | .mask => 0
            let idx (i : Nat) : Option Int := some (intOf ty ((w.val n.idx i).val.getD 0).toNat)
            let s1 := s.cpyxFrom w.s o (.cpyx f) b idx
            let moved : Bool := match s1.th.dsp.op? o.e.seq with
              | some q => q.prog != o.prog
              | none => false
            if moved then (s1.keepStream o w).raiseFlags w.flags else s1

/-! ### Copies that touch DEV pages (R319) -/

/-- A stop of such a copy. One that has made no DEV access has done nothing. -/
def State.devStop (s : State) (o : Op) (acc : Nat) (r : UnitStop) : State :=
  (s.unitStop o acc (exactStop r)).updOp o.e.seq fun q =>
    if q.halted && !q.part then { q with prog := 0, keep := [] } else q

/-- R319: the parts of a copy's destination from `off` on that lie on DEV pages, or those that do not. -/
def State.devParts (s : State) (e : Entry) (off n : Nat) (dev : Bool) : List CopyPart :=
  (pageParts [(off, e.c + BitVec.ofNat 64 off, n)]).filter fun p =>
    ((s.peekLeaf p.2.1).elim false fun x => leafCls x.leaf == clsDev) == dev

/-- R319: what the copy reads for the 8 bytes at its progress, with the state after it and whether it was a DEV access. -/
def State.devRead8 (s : State) (o : Op) (i : Instr) : Except UnitStop (List Byte × State × Bool) :=
  match i with
  | .cpyf f => .ok (fillBytes f o.e.b o.prog 8, s, false)
  | _ =>
    let va := o.e.a + BitVec.ofNat 64 o.prog
    match State.readSpan false s o.e.smode (fun _ => none) 2 va 8 with
    | .error r => .error (o.prog, va, r)
    | .ok (b, s1) => .ok (b, s1, (s.peekLeaf va).elim false fun x => leafCls x.leaf == clsDev)

/-- R319: the checks of some parts of the destination, and the pieces to be written. -/
def State.devCheck (s : State) (o : Op) (i : Instr) (ps : List CopyPart) (bytes : List Byte) :
    Except UnitStop (List Piece × State) :=
  s.checkPartsAs false o.e.smode o.e.stepno (copyWritePage i true [(0, o.e.c, o.n)]) (copyAlign i o.e) (dealBytes ps bytes)

/-- R105, R319: the next 8 bytes are read; what goes to a DEV page is written at once, and the rest checked. -/
def State.devStep (s : State) (o : Op) (i : Instr) : State :=
  match s.devRead8 o i with
  | .error r => s.devStop o accRead r
  | .ok (b, s1, dev) =>
    let at_ := s1.devParts o.e o.prog 8 true
    match s1.devCheck o i (pageParts [(o.prog, o.e.c + BitVec.ofNat 64 o.prog, 8)]) b with
    | .error (k, va, r) =>
      (match r with
        | .held | .busy => s.devStop o accWrite (k, va, r)
        | _ => (s1.updOp o.e.seq fun q => { q with part := q.part || dev }).devStop { o with part := o.part || dev } accWrite
            (k, va, r))
    | .ok (pieces, s2) =>
      (if at_.isEmpty then s2 else s2.performPieces o.e.stepno pieces).updOp o.e.seq fun q =>
        { q with keep := q.keep ++ b, prog := q.prog + 8, hold := none, part := q.part || dev || !at_.isEmpty, since := s.now }

/-- R316, R319: the end of a copy on DEV pages: what lies on other pages is written whole, and the arrival counted. -/
def State.devFlush (s : State) (o : Op) (i : Instr) : State :=
  let ps := s.devParts o.e 0 o.n false
  match s.devCheck o i ps (ps.flatMap fun p => (o.keep.drop p.1).take p.2.2) with
  | .error r => s.devStop o accWrite r
  | .ok (pieces, s1) =>
    match s1.arrivalReady o.e 0 with
    | .error r => s.devStop o accAtomic r
    | .ok (a, s2) =>
      ((s2.performPieces o.e.stepno pieces).arrive o a o.n).updOp o.e.seq fun q =>
        { q with keep := [], hold := none, since := s.now }

/-- R319: the next 8-byte access, or the end of the unit. -/
def State.devUnit (s : State) (o : Op) (i : Instr) : State := if o.prog < o.n then s.devStep o i else s.devFlush o i

/-! ### Stash operations -/

/-- Stash lines of the pair that hold any of `n` bytes. -/
def StashLine.holds (l : StashLine) (a n : Nat) : Bool := n != 0 && l.va < a + n && a < l.va + 128

/-- R333: STMAP in its one piece. -/
def State.mapSlot (s : State) (k : Nat) (g xb : W64) : State :=
  let p := s.pair.unmap k
  s.setPair (if stashLen xb == 0 then p
    else { p with slots := p.slots.setIfInBounds k (some ⟨g.toNat, stashOff xb, stashLen xb⟩) })

/-- R334: STFL: the home of each line takes its contents. -/
def State.stashFlush (s : State) (a n : Nat) : State :=
  let p := s.pair
  let home (l : StashLine) : StashLine := if l.holds a n then s.fillLine l.va l.pa l.coh else l
  s.setPair { p with lines := p.lines.map home }

/-- R121, R334: the home of a line stands again, with its poison. -/
def State.restoreHome (s : State) (l : StashLine) : State :=
  { s with mem := s.mem.writeN l.pa l.home
           poison := (s.poison.filter fun b => !(l.pa ≤ b && b < l.pa + 128)) ++ l.homePoison }

/-- R334: STINV: the home's contents stand again, and the lines are gone. -/
def State.stashInvalidate (s : State) (a n : Nat) : State :=
  let p := s.pair
  let gone := p.lines.filter fun l => l.holds a n
  let s1 := gone.foldl State.restoreHome s
  s1.setPair { p with lines := p.lines.filter fun l => !l.holds a n }

/-- A stash operation in its one piece. -/
def State.stashUnit (s : State) (o : Op) (i : Instr) : State :=
  let s1 := match i with
    | .stmap f => s.mapSlot f.d.toNat o.e.a o.e.b
    | .stfl _ => s.stashFlush o.e.a.toNat o.e.b.toNat
    | _ => s.stashInvalidate o.e.a.toNat o.e.b.toNat
  s1.unitDone o 1 0

/-! ### The events -/

/-- R316: COPY_UNIT. -/
def execCopyUnit (s : State) : Host.Outcome State Fault Refusal :=
  match s.th.dsp.copy with
  | some o =>
    if s.th.run == .running && o.going then
      .next (match decodeOpc o.e.word with
        | some (.cpyx _) => s
        | some (.cpyr f) => s.cpyrUnit o f
        | some i =>
          (match i with
            | .stmap _ | .stfl _ | .stinv _ => s.stashUnit o i
            | _ => if o.dev then s.devUnit o i else s.plainUnit o i)
        | none => s)
    else .next s
  | none => .next s

/-- R324, R325: INDIRECT_STREAM: the next unit of a CPYX, its rows gathered and written. The rows of a VLDX leaf are
gathered by the element groups that take them. -/
def execIndirectStream (s : State) : Host.Outcome State Fault Refusal :=
  match s.th.dsp.copy with
  | some o =>
    (match decodeOpc o.e.word with
      | some (.cpyx f) => if s.th.run == .running && o.going then .next (s.cpyxUnit o f) else .next s
      | _ => .next s)
  | none => .next s

end Sys2Proof.Machine
end

