-- ==== Sys2Proof/Machine/StateSpace.lean ====
section
/-! DEFINITION. Machine/StateSpace.lean: the state-space block (R278 to R290): its words, how its operations start, the
recurrent and chunked forms, and the moves of its state. -/

namespace Sys2Proof.Machine

/-! ### Recording -/

/-- R284: SSCFG takes its configuration from IMM or from xA. -/
def execSscfg (f : FJ) (s : State) : Host.Outcome State Fault Refusal :=
  s.settle (s.record f.ls.toNat
    { word := packJ 0xA0 f, va := if f.a == 0 then f.imm.setWidth 64 else s.x f.a, parts := 0, fixedLen := some 1 })

/-- The counter of an SSB word of format X (R285). -/
def counterX (f : FX) : Option Nat := if bitAt f.fn 3 then some (f.fnAt 0 3) else none

/-- R278, R285: a root over the recipes x, la, b and c; B is the y address and C is d. The lengths and types depend on
the configuration at start. -/
def State.recScan (s : State) (opc : BitVec 8) (f : FX) (one : Bool) : Except Nat Rec := do
  let any (_ : NTy) : Bool := true
  let x ← s.vsrc f.a any
  let la ← s.vsrc (f.a + 1) any
  let b ← s.vsrc (f.a + 2) any
  let c ← s.vsrc (f.a + 3) any
  let y := s.x f.b
  .ok { word := packX opc f, sa := some x, sb := some la, sc := some b, sk := some c, vb := y, vc := s.x f.c,
        caps := some (y, s.x f.c, 0),
        own := some fun _ => true, fixedLen := if one then some 1 else none, cc := counterX f,
        entryRng := some ([Rng.none], [s.openRange s.th.smode y.toNat]) }

def execSscan (f : FX) (s : State) : Host.Outcome State Fault Refusal :=
  s.recordE f.ls.toNat (s.recScan 0xA1 f false)
def execSsstep (f : FX) (s : State) : Host.Outcome State Fault Refusal :=
  s.recordE f.ls.toNat (s.recScan 0xA2 f true)

/-- R287: SSLD and SSST. -/
def State.recState (s : State) (opc : BitVec 8) (f : FM) : Rec :=
  { word := packM opc f, va := s.address f, parts := 0, cc := counterM f }

def execSsld (f : FM) (s : State) : Host.Outcome State Fault Refusal :=
  s.settle (s.record f.ls.toNat (s.recState 0xA3 f))
def execSsst (f : FM) (s : State) : Host.Outcome State Fault Refusal :=
  s.settle (s.record f.ls.toNat (s.recState 0xA4 f))

/-- R287: SSRST. -/
def execSsrst (f : FX) (s : State) : Host.Outcome State Fault Refusal :=
  s.settle (s.record f.ls.toNat { word := packX 0xA5 f, parts := 0, cc := counterX f })

/-! ### The configuration (R279) -/

/-- SSINFO.V. -/
def ssSet (w : W64) : Bool := bitAt w 63
/-- SSINFO.TY. -/
def ssTy (w : W64) : Nat := (slice w 53 4).toNat
/-- Q. -/
def ssQ (w : W64) : Nat :=
  match (slice w 57 3).toNat with
  | 0 => 0
  | c => 8 * 2 ^ c
/-- SSINFO.CHUNKS. -/
def ssChunks (w : W64) : Nat := (slice w 0 36).toNat

/-- SSINFO with other FORM and CHUNKS. -/
def ssForm (w : W64) (form chunks : Nat) : W64 :=
  (w &&& 0xCFFFFFF000000000) ||| BitVec.ofNat 64 (form * 2 ^ 60 + chunks % 2 ^ 36)

/-- R284: SSINFO after SSCFG, from the configuration value and the input type. -/
def ssConfig (g : W64) (ty : Nat) : W64 :=
  BitVec.ofNat 64 (2 ^ 63 + (slice g 16 3).toNat * 2 ^ 57 + ty * 2 ^ 53 + (slice g 0 7).toNat * 2 ^ 46 +
    (slice g 8 7).toNat * 2 ^ 39)

/-- An entry of the state. -/
def Ssb.at (b : Ssb) (p n : Nat) : BitVec 32 := ((b.rows[p]?.getD [])[n]?).getD 0

/-- The state p < P, n < N. -/
def Ssb.rowsOf (b : Ssb) (ps ns : Nat) : List (List (BitVec 32)) :=
  (List.range ps).map fun p => (List.range ns).map (b.at p)

/-- Whether a poisoned block lies in the state p < P, n < N. -/
def Ssb.bad (b : Ssb) (ps ns : Nat) : Bool := b.poisoned.any fun k => k / 8 < ps && k % 8 * 16 < ns

/-- The state p < P, n < N replaced, the rest kept. -/
def Ssb.put (b : Ssb) (rows : List (List (BitVec 32))) (ns : Nat) : Ssb :=
  let new (p : Nat) (r : List (BitVec 32)) : List (BitVec 32) := r ++ (b.rows[p]?.getD []).drop ns
  { b with rows := (rows.zipIdx.map fun u => new u.2 u.1) ++ b.rows.drop rows.length, dirty := true }

/-! ### Start (R284 to R289) -/

/-- R284: the configuration value's reserved bits and QC. -/
def configBad (g : W64) : Bool := slice g 19 45 != 0 || bitAt g 15 || bitAt g 7 || 4 < (slice g 16 3).toNat

/-- R285: what keeps an SSCAN or SSSTEP of L steps from starting. -/
def Thread.scanBad (t : Thread) (e : Entry) (r : Node) (f : FX) (l : Nat) : Option PassFault :=
  let w := t.sr.ssinfo
  let bad : Option PassFault := some (startBad causeRange)
  let node (i : Option Nat) : Option Node := i.bind t.rcp.node?
  let ty (i : Option Nat) (k : Nat) : Bool := (node i).map Node.nty == some (.elem k)
  if !ssSet w then bad
  else if !(ty r.sa (ssTy w) && ty r.sb 0xA && ty r.sc (ssTy w) && ty r.sk (ssTy w)) then bad
  else if 2 ^ 40 - 1 < l || e.b.toNat % bytesOf f.ty.toNat != 0 then bad
  else
    (([(r.sa, l * ssP w), (r.sb, l), (r.sc, l * ssN w), (r.sk, l * ssN w)].findSome? fun u =>
      (node u.1).bind fun n => if n.size == u.2 then none else some n)).map fun n => launchFault n 0 causeLength

/-- R284 to R289: what keeps an SSB entry from starting. -/
def Thread.ssbBad (t : Thread) (e : Entry) (i : Instr) : Option PassFault :=
  let store : Bool := match i with
    | .ssst _ => true
    | _ => false
  if e.smode && !store && !t.ssb.saved then some (startBad causeTileUnsaved)
  else
    match i, t.rootOf e with
    | .sscfg _, _ => if configBad e.a then some (startBad causeRange) else none
    | .sscan f, some r | .ssstep f, some r => t.scanBad e r f e.len
    | .ssld _, _ | .ssst _, _ =>
      if e.a.toNat % 64 != 0 then some (plainFault 0 causeMisaligned (if store then accWrite else accRead) e.a)
      else if !ssSet t.sr.ssinfo then some (startBad causeRange)
      else none
    | _, _ => none

/-- R16, R289: a started SSB operation, one a fault has stopped included, has not completed. -/
def Thread.ssbBusy (t : Thread) (e : Entry) : Bool :=
  t.dsp.ops.any fun o => o.e.seq != e.seq && (decodeOpc o.e.word).map engineOf == some .ssb

/-- R288, R289: an SSB entry may start. -/
def Thread.ssbFree (t : Thread) (e : Entry) : Bool :=
  t.dsp.engineFree .ssb && !t.ssbBusy e && (t.dsp.matrix.all fun o => o.halted) && t.entryFree e

/-- R285: FORM and CHUNKS are 0 as a scan starts with no step done. -/
def State.clearForm (s : State) : State := { s with th.sr.ssinfo := ssForm s.th.sr.ssinfo 0 0 }

/-- An SSB entry's start, if it can start now. -/
def State.startSsb (s : State) (e : Entry) (i : Instr) : Option State :=
  if !s.th.ssbFree e then none
  else
    match s.th.ssbBad e i with
    | some f => some (s.startFault e f)
    | none =>
      match i with
      | .sscan _ | .ssstep _ =>
        (s.beginOp e i e.len 1).map fun t => if e.prog == 0 && (t.th.dsp.ssb.map fun o => o.e.seq) == some e.seq then t.clearForm else t
      | _ => s.beginOp e i 1 1

/-! ### Arithmetic (R281 to R283) -/

/-- A value rounded into FP32 to nearest even, with the flags it raises. -/
def round32 (v : Val) (fl : Flags) : Val × Flags :=
  let r := arith 0xA rne v fl
  (fmtFp32.decode r.bits, r.flags)

def mul32 (a b : Val) : Val × Flags :=
  let v := mulNum a b
  round32 v.1 v.2

def add32 (a b : Val) : Val × Flags :=
  let v := addNum 0 a b
  round32 v.1 v.2

def fma32 (a b c : Val) : Val × Flags :=
  let v := fmaNum 0 a b c
  round32 v.1 v.2

/-- R58: 2^v rounded into FP32. -/
def exp32 (v : Val) : Val × Flags :=
  let r := exp2Rne v
  (fmtFp32.decode r.bits, r.flags)

/-- +0. -/
def zeroVal : Val := .fin false 0 0

/-- Results with the flags of all of them. -/
def gather (l : List (Val × Flags)) : List Val × Flags :=
  (l.map Prod.fst, l.foldl (fun f r => f ||| r.2) 0)

/-- Rows of results with the flags of all of them. -/
def gatherRows (l : List (List Val × Flags)) : List (List Val) × Flags :=
  (l.map Prod.fst, l.foldl (fun f r => f ||| r.2) 0)

/-- s := fma(a, b, s) along two lists. -/
def dot32 (as bs : List Val) (s : Val) : Val × Flags :=
  (as.zip bs).foldl (fun q u =>
    let r := fma32 u.1 u.2 q.1
    (r.1, q.2 ||| r.2)) (s, 0)

/-- What a unit of a scan gives: the new state p < P, n < N, the y elements in order, and the flags. -/
structure ScanOut where
  h : List (List Val)
  y : List Val
  flags : Flags
  deriving DecidableEq, Repr

/-- R281: a recurrent step. -/
def recurrentStep (h : List (List Val)) (la d : Val) (b c x : List Val) : ScanOut :=
  let a := exp32 la
  let h1 := gatherRows ((h.zip x).map fun u => gather ((u.1.zip b).map fun v =>
    let m := mul32 v.2 u.2
    let r := fma32 a.1 v.1 m.1
    (r.1, m.2 ||| r.2)))
  let y := gather ((h1.1.zip x).map fun u =>
    let s := dot32 c u.1 zeroVal
    let r := fma32 d u.2 s.1
    (r.1, s.2 ||| r.2))
  ⟨h1.1, y.1, a.2 ||| h1.2 ||| y.2⟩

/-- R282: the running sums of la, in order. -/
def decaySums : List Val → Val → List (Val × Flags)
  | [], _ => []
  | l :: ls, s =>
    let r := add32 s l
    r :: decaySums ls r.1

/-- R282: 2^(a - b) of the exact difference. -/
def expDiff (a b : Val) : Val × Flags := exp32 (addNum 0 a (b.flip true)).1

/-- R282: an output y[i][p] of a chunk: its row of scores, the x of its column up to i, c[i], h[p], the decay of row i,
and d with x[i][p]. -/
def chunkOut (m xs c hp : List Val) (el d xi : Val) : Val × Flags :=
  let u := dot32 m xs zeroVal
  let v := dot32 c hp zeroVal
  let w := mul32 el v.1
  let z := add32 u.1 w.1
  let r := fma32 d xi z.1
  (r.1, u.2 ||| v.2 ||| w.2 ||| z.2 ||| r.2)

/-- R282: an entry of a chunk's end state. -/
def chunkState (g h : Val) (dec bs xs : List Val) : Val × Flags :=
  let e := mul32 g h
  (((dec.zip bs).zip xs)).foldl (fun q u =>
    let w := mul32 u.1.1 u.1.2
    let r := fma32 w.1 u.2 q.1
    (r.1, q.2 ||| w.2 ||| r.2)) e

/-- The j-th entries of some rows. -/
def columnVals (rows : List (List Val)) (j : Nat) : List Val := rows.map fun r => r.getD j zeroVal

/-- R282: a chunk. `b`, `c` and `x` hold a row for each step. -/
def chunkSteps (h : List (List Val)) (la : List Val) (d : Val) (b c x : List (List Val)) : ScanOut :=
  match la with
  | [] => ⟨h, [], 0⟩
  | l0 :: ls =>
    let sums := (l0, (0 : Flags)) :: decaySums ls l0
    let lam := gather sums
    let m := gatherRows ((lam.1.zip c).zipIdx.map fun u =>
      gather (((lam.1.zip b).take (u.2 + 1)).map fun v =>
        let s := dot32 u.1.2 v.2 zeroVal
        let e := expDiff u.1.1 v.1
        let r := mul32 s.1 e.1
        (r.1, s.2 ||| e.2 ||| r.2)))
    let el := gather (lam.1.map exp32)
    let ps := List.range h.length
    let y := gather ((((m.1.zip c).zip (el.1.zip x))).flatMap fun u =>
      ps.map fun p =>
        chunkOut u.1.1 ((columnVals x p).take u.1.1.length) u.1.2 (h.getD p []) u.2.1 d (u.2.2.getD p zeroVal))
    let last := lam.1.getLast?.getD l0
    let g := exp32 last
    let dec := gather (lam.1.map fun l => expDiff last l)
    let hn := gatherRows (h.zipIdx.map fun u =>
      gather (u.1.zipIdx.map fun v => chunkState g.1 v.1 dec.1 (columnVals b v.2) (columnVals x u.2)))
    ⟨hn.1, y.1, lam.2 ||| m.2 ||| el.2 ||| y.2 ||| g.2 ||| dec.2 ||| hn.2⟩

/-- R278: la lies from -65,536 to +0. -/
def laOk (v : Val) : Bool :=
  match v with
  | .fin n m _ => m == 0 || (n && !ltNum v (.fin true 65536 0))
  | _ => false

/-! ### Units -/

/-- Lists of n values. -/
def rowsOfVals (vs : List Val) (n k : Nat) : List (List Val) := (List.range k).map fun i => (vs.drop (i * n)).take n

/-- R286: the step of a recipe element: x has P elements a step, b and c have N, la has one. -/
def Thread.scanStep (t : Thread) (o : Op) (r : Node) (ps ns : Nat) (f : PassFault) : Nat :=
  let at_ := t.placesOf o f
  let from_ (i : Option Nat) (k : Nat) : List Nat := (at_.filter fun u => i == some u.1).map fun u => u.2 / k
  lowest f.elem (from_ r.sa ps ++ from_ r.sb 1 ++ from_ r.sc ns ++ from_ r.sk ns)

/-- R278, R286: la elements outside their range, of `k` steps from `t0` on. -/
def Work.laFaults (w : Work) (la : Option Node) (t0 k : Nat) : List PassFault :=
  match la with
  | none => []
  | some n => (List.range' t0 k).filterMap fun e =>
      match (w.val n.idx e).val with
      | some v =>
        if laOk (valueOf 0xA (maskBits 0xA v.toNat)) then none else some ⟨e, n.seq, n.pc, causeRange, 0, 0, false⟩
      | none => none

/-- R283: a y element in the output type. -/
def yElem (ty : Nat) (v : Val) : Rounded := if ty == 0xA then arith 0xA rne v 0 else convertNum ty 0xA rne v

/-- R286: a y write that is not performed. -/
def State.yStop (s : State) (o : Op) (va : W64) (per : Nat) (r : Stop) : State :=
  match r with
  | .held => s.holdOp o o.prog accWrite va
  | .trap i => s.opFault o (plainFault (o.prog + (i.addr - va).toNat / per) i.code i.acc i.addr)
  | r => match r.fault o.prog accWrite va with
    | some f => s.opFault o f
    | none => s

/-- R280: whether the next unit of a scan is a chunk. -/
def nextIsChunk (w : W64) (step : Bool) (n prog : Nat) : Bool := !step && ssQ w != 0 && ssQ w ≤ n - prog

/-- R282, R357: the MACs of a chunk of `q` steps: those of its scores in the input type, and the others in FP32 (log entry
11). -/
def chunkMacs (ty q ns ps : Nat) : Activity :=
  let pairs := q * (q + 1) / 2
  (macsOf ty ty (pairs * ns)).add (macsOf 0xA 0xA (pairs * ps + q * ps + 2 * (q * ps * ns)))

/-- R280 to R286: the next unit of a scan. -/
def State.scanUnit (s : State) (o : Op) (f : FX) (step : Bool) : State :=
  let w := s.th.sr.ssinfo
  let ns := ssN w
  let ps := ssP w
  let chunk := nextIsChunk w step o.n o.prog
  let k := if chunk then ssQ w else 1
  let t0 := o.prog
  match o.e.node.bind s.th.rcp.node? with
  | none => s
  | some r =>
    let want (i : Option Nat) (q : Nat) : List (Nat × Nat × Nat) := i.toList.map fun i => (i, t0 * q, (t0 + k) * q)
    let job : StreamJob :=
      { step := s.th.scanStep o r ps ns, own := if s.th.ssb.bad ps ns then [poisonFault t0] else []
        more := fun u => u.laFaults (r.sb.bind s.th.rcp.node?) t0 k }
    s.streamFrom o job (want r.sa ps ++ want r.sb 1 ++ want r.sc ns ++ want r.sk ns) fun u =>
      let get (i : Option Nat) (q ty : Nat) : List Val :=
        ((i.map fun i => u.vals i (t0 * q) ((t0 + k) * q)).getD []).map fun v => valueOf ty (maskBits ty v.toNat)
      let la := get r.sb 1 0xA
      let h := (s.th.ssb.rowsOf ps ns).map fun q => q.map fun b => fmtFp32.decode b.toNat
      let d := fmtFp32.decode (slice o.e.c 0 32).toNat
      let x := rowsOfVals (get r.sa ps (ssTy w)) ps k
      let b := rowsOfVals (get r.sc ns (ssTy w)) ns k
      let c := rowsOfVals (get r.sk ns (ssTy w)) ns k
      let out := if chunk then chunkSteps h la d b c x
        else recurrentStep h (la.headD zeroVal) d (b.headD []) (c.headD []) (x.headD [])
      let ys := out.y.map (yElem f.ty.toNat)
      let fl := out.flags ||| flagsOf ys
      if enabledFlags o.e.fctrl fl != 0 then u.s.opFault o (fpFault t0)
      else
        let per := bytesOf f.ty.toNat * ps
        let va := o.e.b + BitVec.ofNat 64 (per * t0)
        let bytes := joinCodes f.ty.toNat (ys.map fun y => y.bits)
        match u.s.checkSpan o.e.smode o.e.stepno elementPage (spanPages bytes.length) va bytes with
        | .error r => u.s.yStop o va per r
        | .ok (pieces, s1) =>
          let s0 := if chunk then s1.spend (chunkMacs (ssTy w) k ns ps) else s1
          let s2 := (s0.performPieces o.e.stepno pieces).keepStream o u
          let rows := out.h.map fun q => q.map fun v => BitVec.ofNat 32 (arith 0xA rne v 0).bits
          let w1 := s2.th.sr.ssinfo
          let form := (slice w1 60 2).toNat ||| (if chunk then 2 else 1)
          State.unitDone
            { s2 with th.ssb := s2.th.ssb.put rows ns
                      th.sr.ssinfo := ssForm w1 form (ssChunks w1 + if chunk then 1 else 0) }
            o (t0 + k) (u.flags ||| fl)

/-- R284: SSCFG. -/
def State.configUnit (s : State) (o : Op) (f : FJ) : State :=
  let w := s.th.sr.ssinfo
  let c := ssConfig o.e.a f.ty.toNat
  let s1 := { s with th.sr.ssinfo := c }
  let s2 := if ssSet w && ssN w == ssN c && ssP w == ssP c then s1
    else { s1 with th.ssb := { s1.th.ssb with rows := [], dirty := true, poisoned := [] } }
  s2.unitDone o 1 0

/-- R287: SSRST. -/
def State.resetUnit (s : State) (o : Op) : State :=
  State.unitDone { s.clearForm with th.ssb := { s.th.ssb with rows := [], dirty := true, poisoned := [] } } o 1 0

/-- R287: SSLD reads the state. Blocks of its image that it writes whole are clean. -/
def State.stateIn (s : State) (o : Op) : State :=
  let ns := ssN s.th.sr.ssinfo
  let ps := ssP s.th.sr.ssinfo
  match State.readSpan false s o.e.smode noDevice (spanPages 65536) o.e.a (4 * ns * ps) with
  | .error r => s.unitStop o accRead (0, o.e.a, r)
  | .ok (bs, s1) =>
    let vs := (splitCodes 0xA bs (ns * ps)).map fun c => BitVec.ofNat 32 c
    let rows := (List.range ps).map fun p => (vs.drop (p * ns)).take ns
    let b := s1.th.ssb.put rows ns
    let b1 := { b with poisoned := b.poisoned.filter fun k => !(k / 8 < ps && k % 8 * 16 + 16 ≤ ns) }
    State.unitDone { s1.clearForm with th.ssb := b1 } o 1 0

/-- R287: SSST writes the state. -/
def State.stateOut (s : State) (o : Op) : State :=
  let ns := ssN s.th.sr.ssinfo
  let ps := ssP s.th.sr.ssinfo
  if s.th.ssb.bad ps ns then s.opFault o (poisonFault 0)
  else
    let bytes := (s.th.ssb.rowsOf ps ns).flatten.flatMap fun v => leBytes 4 v.toNat
    match s.checkSpan o.e.smode o.e.stepno elementPage (spanPages 65536) o.e.a bytes with
    | .error r => s.unitStop o accWrite (0, o.e.a, r)
    | .ok (ps, s1) => (s1.performPieces o.e.stepno ps).unitDone o 1 0

/-- The next unit of the operation in the SSB. -/
def State.ssbUnit (s : State) (o : Op) : State :=
  match decodeOpc o.e.word with
  | some (.sscan f) => s.withStream o 1 fun s => s.scanUnit o f false
  | some (.ssstep f) => s.withStream o 1 fun s => s.scanUnit o f true
  | some (.sscfg f) => s.configUnit o f
  | some (.ssrst _) => s.resetUnit o
  | some (.ssld _) => s.stateIn o
  | some (.ssst _) => s.stateOut o
  | _ => s

/-- R280: SSB_UNIT. -/
def execSsbUnit (s : State) : Host.Outcome State Fault Refusal :=
  match s.th.dsp.ssb with
  | some o => if s.th.run == .running && o.going then .next (s.ssbUnit o) else .next s
  | none => .next s

end Sys2Proof.Machine
end

