-- ==== Sys2Proof/Machine/Start.lean ====
section
/-! DEFINITION. Machine/Start.lean: the stream sequencer's head entry as it starts (R13), and how an engine operation
completes (R156). -/

namespace Sys2Proof.Machine

/-- R199: how many of its units' items an entry's operation runs over. -/
def entryTotal (i : Instr) (e : Entry) : Nat :=
  match i with
  | .sscan _ | .ssstep _ => e.len
  | .stmap _ | .stfl _ | .stinv _ => 1
  | _ => match engineOf i with
    | .matrix | .bload _ => matrixUnits i e.len
    | .ssb => 1
    | .copy => copyTotal i e e.len

/-- R164, R166: an entry that has not started is gone: its counter is lowered, and its root dropped. -/
def Thread.abandonEntry (t : Thread) (e : Entry) : Thread :=
  let t1 := (t.unqueue e).lower e.word
  { t1 with rcp := t1.rcp.dropRoots ((t.rootOf e).map fun n => n.idx).toList }

/-- R13: the engine an entry's word runs on starts it; one that a handler has moved to its end completes (R199). -/
def State.startEngine (s : State) (e : Entry) : Option State :=
  match decodeOpc e.word with
  | none => none
  | some i =>
    if e.prog != 0 && entryTotal i e ≤ e.prog then some { s with th := s.th.abandonEntry e }
    else match engineOf i with
    | .matrix | .bload _ => s.startMatrix e i
    | .ssb => s.startSsb e i
    | .copy => s.startCopy e i

/-- R13: what the head entry does now, a launch apart; none where it cannot start. -/
def State.startNow (s : State) : Option State :=
  match s.th.plan, s.th.headEntry with
  | .drop, some e => some { s with th := s.th.unqueue e }
  | .pend k, some e =>
    some { s with th := { s.th.unqueue e with rcp.pending := s.th.rcp.pending ++ [k] } }
  | .fence, some e => if s.th.fenceFree then some { s with th := s.th.unqueue e }.mergeRemote else none
  | .engine, some e => s.startEngine e
  | _, _ => none

/-- R13: ENTRY_START. -/
def execEntryStart (s : State) : Host.Outcome State Fault Refusal :=
  if s.th.run == .running then .next (s.startNow.getD s) else .next s

/-- An operation all of whose units are done. -/
def Op.over (o : Op) : Bool := !o.halted && o.n ≤ o.prog && o.keep.isEmpty

/-- R156, R328: an operation all of whose units are done and counted at their arrival word. -/
def State.opOver (s : State) (o : Op) : Bool :=
  o.over && !s.owed.any fun w => match w.kind with
    | .arrive _ _ (some u) => u == (s.th.hw, o.e.seq)
    | _ => false

/-- R270: the descriptor of a BLOAD that is over; `cut` is how many rows an abandoned one has written. -/
def BStore.closeDesc (b : BStore) (seq : Nat) (cut : Option Nat) : BStore :=
  let close (d : BDesc) : BDesc :=
    match cut with
    | none => { d with inc := false }
    | some k =>
      let n := if d.inc then d.done else min k d.n
      { d with inc := false, n := n, done := n }
  { b with descs := (b.descs.map fun (d : BDesc) => if d.seq == seq then close d else d).filter fun d =>
      !(cut.isSome && d.seq == seq && d.n == 0) }

/-- R270, R273, R289: what a completed operation leaves. -/
def Thread.complete (t : Thread) (o : Op) : Thread :=
  let t1 : Thread := match decodeOpc o.e.word with
    | some (.msave f) =>
      if o.e.smode then t.setTile f.mt.toNat { t.tile f.mt.toNat with saved := true } else t
    | some (.ssst _) => if o.e.smode then { t with ssb.saved := true } else t
    | some (.bload _) => { t with bst := t.bst.closeDesc o.e.seq none }
    | _ => t
  t1.endOp o

/-- R156: OPERATION_COMPLETE. -/
def execOperationComplete (u : EngineUnit) (s : State) : Host.Outcome State Fault Refusal :=
  match s.th.dsp.unit u with
  | some o => if s.th.run == .running && s.opOver o then .next { s with th := s.th.complete o }.laneBoundary else .next s
  | none => .next s

end Sys2Proof.Machine
end

