-- ==== Sys2Proof/Machine/Return.lean ====
section
/-! DEFINITION. Machine/Return.lean: delivery of deferred faults (R165) and dropped stores (R150), TRET (R166), VSTART
(R199), and the end of a bounded wait (R313). -/

namespace Sys2Proof.Machine

/-! ### Delivery -/

/-- R160, R162, R165: a deferred fault is delivered; one of S-mode work comes before the others of that mode. -/
def State.deliverFault (s : State) (f : DFault) : State :=
  let rest := s.th.dsp.deferred.filter fun g => g != f
  let part : Bool := match f.ref with
    | some (.op n) => (s.th.dsp.op? n).elim false fun o => o.part
    | _ => false
  let s1 := { s with th.dsp.deferred := rest, th.dsp.stopped := f.ref, th.dsp.nested := s.th.smode }
  s1.takeTrap s.th.pc f.info f.ref.isSome (!rest.isEmpty || !s.th.fe.dropped.isEmpty) part (f.ref == some (.pass .p1))

/-- R165: DEFERRED_FAULT_DELIVERY. A dropped store that is due comes first. -/
def execDeferredFaultDelivery (s : State) : Host.Outcome State Fault Refusal :=
  if s.th.atBoundary && s.th.dueDrop.isNone then
    match s.th.dueFault with
    | some f => .next (s.deliverFault f)
    | none => .next s
  else .next s

/-- R150, R163: the fault of a dropped store is delivered. -/
def State.deliverDrop (s : State) (d : Dropped) : State :=
  let rest := s.th.fe.dropped.erase d
  { s with th.fe.dropped := rest }.takeTrap s.th.pc { TrapInfo.at d.code d.acc d.addr with root := d.pc } false
    (!rest.isEmpty || !s.th.dsp.deferred.isEmpty) false false

/-- R150: DROPPED_STORE_DELIVERY. -/
def execDroppedStoreDelivery (s : State) : Host.Outcome State Fault Refusal :=
  if s.th.atBoundary then
    match s.th.dueDrop with
    | some d => .next (s.deliverDrop d)
    | none => .next s
  else .next s

/-- R313: a bounded wait of the thread whose budget has run out; WAITI ends otherwise (R181). -/
def Thread.waitOver (t : Thread) (now : Nat) : Option Wait :=
  t.fe.wait.filter fun w => w.pc == t.pc && w.kind != .notification && w.budget.elim false fun b => b ≤ now - w.since

/-- R298: a fence's wait counts only while WB holds a write of the thread. -/
def Thread.waitCounts (t : Thread) : Bool := t.fe.wait.all fun w => w.kind != .fence || t.writeHeld

/-- R313: WAIT_TIMEOUT. -/
def execWaitTimeout (s : State) : Host.Outcome State Fault Refusal :=
  if s.th.run == .running && !s.th.faultDue then
    match s.th.waitOver s.now with
    | some w => .next (s.trap (timeoutInfo w.kind w.aux))
    | none => .next s
  else .next s

/-! ### Stopped operations: resumed or abandoned (R166) -/

/-- R166: an operation is abandoned; a BLOAD's descriptor keeps the rows it wrote. -/
def Thread.abandonOp (t : Thread) (o : Op) : Thread :=
  { t with bst := t.bst.closeDesc o.e.seq (some o.prog) }.endOp o

/-- Every operation and pass of U mode is abandoned. -/
def Thread.abandonUser (t : Thread) : Thread :=
  let drop (u : Thread) (i : PassSlot) : Thread := match u.dsp.pass i with
    | some p => if p.smode || p.serves.isSome then u else u.abandonPass i p
    | none => u
  let t1 := drop (drop t .p0) .p1
  (t1.dsp.ops.filter fun o => !o.e.smode).foldl Thread.abandonOp t1

/-- R166: what a fault stopped is abandoned. -/
def Thread.abandon (t : Thread) (r : OpRef) : Thread :=
  match r with
  | .pass i => (t.dsp.pass i).elim t (t.abandonPass i)
  | .op n => (t.dsp.op? n).elim t t.abandonOp
  | .entry n => (t.dsp.queue.find? fun e => e.seq == n).elim t t.abandonEntry
  | .restored => t.abandonUser

/-- R166: a pass goes on from VSTART; it is launched again. -/
def Pass.resume (p : Pass) : Pass := { p with halted := false, hold := none, ready := false }

/-- R166: an operation goes on from its progress; a pass that serves it is launched again. -/
def Dispatch.resumeOp (d : Dispatch) (n : Nat) : Dispatch :=
  let again (p : Pass) : Pass := if p.serves.isSome && p.seq == n then p.resume else p
  let d1 := d.mapOp n fun o => { o with halted := false, hold := none }
  { d1 with pass0 := d1.pass0.map again, pass1 := d1.pass1.map again }

/-- An operation's fault is still to be delivered. -/
def Dispatch.faulted (d : Dispatch) (r : OpRef) : Bool := d.deferred.any fun f => f.ref == some r

/-- R170: the operations of U mode that CTXSV or CTXRS stopped go on. -/
def Dispatch.resumeUser (d : Dispatch) : Dispatch :=
  let again (i : PassSlot) (p : Pass) : Pass :=
    if p.halted && !p.smode && p.serves.isNone && !d.faulted (.pass i) then p.resume else p
  let d1 := { d with pass0 := d.pass0.map (again .p0), pass1 := d.pass1.map (again .p1) }
  (d1.ops.filter fun o => o.halted && !o.e.smode && !d1.faulted (.op o.e.seq)).foldl (fun d o => d.resumeOp o.e.seq) d1

/-- R166: what a fault stopped goes on. -/
def Thread.resume (t : Thread) (r : OpRef) : Thread :=
  match r with
  | .pass .p0 => { t with dsp.pass0 := t.dsp.pass0.map Pass.resume }
  | .pass .p1 => { t with dsp.pass1 := t.dsp.pass1.map Pass.resume }
  | .op n => { t with dsp := t.dsp.resumeOp n }
  | .entry _ => t
  | .restored => { t with dsp := t.dsp.resumeUser }

/-- R165: as the TRET of a fault of S-mode work disposes of it, the others outstanding are held for U mode. -/
def Dispatch.heldBack (d : Dispatch) : Dispatch :=
  if d.nested then { d with nested := false, deferred := d.deferred.map fun f => { f with late := true } } else d

/-- R166: TRET. STOP is clear once its operation has been disposed of. -/
def Thread.tret (t : Thread) (drop : Bool) : Thread :=
  let t1 : Thread := match t.stoppedRef with
    | some r => if drop || t.tr.part then t.abandon r else t.resume r
    | none => t
  let d1 := if t1.dsp.paused then t1.dsp.resumeUser else t1.dsp
  { t1 with
    dsp := { d1 with stopped := none, paused := false }.heldBack.unshelve
    tr.trapstat := t.tr.trapstat &&& ~~~0x200
    smode := t.tr.pm
    pc := t.tr.trappc
    fe.line := none
    fe.wait := none }

def execTret (f : FJ) (s : State) : Host.Outcome State Fault Refusal :=
  s.privileged (.next { s with th := s.th.tret (bitAt f.imm 0) })

/-! ### VSTART (R199) -/

/-- R205: what a pass whose start has moved keeps beside its carries, each of which stands: values kept are evaluated again
where they are needed; a scan read through a VBCAST goes on where it stopped, and an open segment has the flags of its
partial. -/
def movedBacks (bs : List Back) : List Back := bs.map fun b => { b with vals := [] }

/-- R390: the length of a pass, launched or not. -/
def Thread.passLen (t : Thread) (p : Pass) : Nat :=
  if p.ready then p.len else passLength (t.rcp.reach p.roots) p.roots

/-- R199: a pass's start. Moved to its length or beyond, it commits nothing further; one whose final tree faulted still forms
it. -/
def Thread.movePass (t : Thread) (p : Pass) (v : Nat) : Pass :=
  let end_ : Bool := t.passLen p ≤ v
  let at_ := if end_ then t.passLen p else v / p.p * p.p
  if at_ == p.start then { p with skipped := p.skipped || (end_ && !p.treeOnly) }
  else
    { p with start := at_, back := movedBacks p.back, hold := none,
             skipped := end_ && !p.treeOnly,
             treeOnly := p.treeOnly && end_ }

/-- R199: the unit to which the progress of a word's operation is rounded. -/
def wordUnit (word : W64) : Nat :=
  match decodeOpc word with
  | some (.mopa f) | some (.mops f) | some (.mopt f) => if plainTy f.ty.toNat && plainTy f.tyb.toNat then 1 else 8
  | some (.mtld _) | some (.mtst _) | some (.mpack _) => 8
  | some (.cpy _) | some (.cpy2d _) | some (.cpyt _) | some (.cpyx _) | some (.cpyf _) | some (.cpyr _)
  | some (.cpypub _) => 4096
  | _ => 1

/-- R199: an operation's progress. -/
def Op.moveTo (o : Op) (v : Nat) : Op :=
  let at_ := if o.n ≤ v then o.n else v / wordUnit o.e.word * wordUnit o.e.word
  if at_ == o.prog then o else { o with prog := at_, keep := [], hold := none }

/-- R199: the stopped operation's progress is set; the pass that serves it begins anew there. -/
def Thread.moveOp (t : Thread) (n v : Nat) : Thread :=
  let was := (t.dsp.op? n).map fun o => o.prog
  let d := t.dsp.mapOp n fun o => o.moveTo v
  let again (p : Pass) : Pass :=
    if p.serves.isSome && p.seq == n && (d.op? n).map (fun o => o.prog) != was then
      { p with back := movedBacks p.back }
    else p
  { t with dsp := { d with pass0 := d.pass0.map again, pass1 := d.pass1.map again } }

/-- R199: what VSTART names. -/
def Thread.vstartRef (t : Thread) : Option OpRef :=
  match t.stoppedRef with
  | some .restored =>
    (match t.tr.src with
      | 1 | 5 => some (.pass (if t.tr.pidx then .p1 else .p0))
      | 2 => t.dsp.matrix.map fun o => .op o.e.seq
      | 3 => t.dsp.ssb.map fun o => .op o.e.seq
      | 4 => t.dsp.copy.map fun o => .op o.e.seq
      | _ => none)
  | r => r

/-- R199: where an entry stopped at its start is to begin. -/
def Entry.moveTo (e : Entry) (v : Nat) : Entry :=
  let n := (decodeOpc e.word).elim 0 fun i => entryTotal i e
  { e with prog := if n ≤ v then max n 1 else v / wordUnit e.word * wordUnit e.word }

/-- R199: MTS of VSTART once it is not ignored. -/
def Thread.setVstart (t : Thread) (v : Nat) : Thread :=
  match t.vstartRef with
  | some (.pass .p0) => { t with dsp.pass0 := t.dsp.pass0.map fun p => t.movePass p v }
  | some (.pass .p1) => { t with dsp.pass1 := t.dsp.pass1.map fun p => t.movePass p v }
  | some (.op n) => t.moveOp n v
  | some (.entry n) => { t with dsp.queue := t.dsp.queue.map fun e => if e.seq == n then e.moveTo v else e }
  | _ => t

/-- R199: VSTART_WRITE. -/
def State.vstartWrite (s : State) (f : FS) : Issue :=
  if !s.th.smode then Issue.fault causePrivileged
  else if s.th.tr.part then .done s.retire
  else .done { s with th := s.th.setVstart (slice (s.x f.a) 0 48).toNat }.retire

def execVstartWrite (f : FS) (s : State) : Host.Outcome State Fault Refusal := s.settle (s.vstartWrite f)

end Sys2Proof.Machine
end

