-- ==== Sys2Proof/Machine/Tasks.lean ====
section
/-! DEFINITION. Machine/Tasks.lean: TASKEND (R360), STEPCMT and STEPABT (R118, R364), LAUNCH (R362), and the copy of a
versioned page (R117). -/

namespace Sys2Proof.Machine

/-! ### TASKEND -/

/-- R360: the status a task's completion record takes once a thread has ended with a status. -/
def Task.endedWith (t : Task) (s : Nat) : Task :=
  if s != 0 && t.status == 0 then { t with status := 0x8000 + s } else t

/-- R360: the thread in focus ends: its recipe is discarded, its pair's lanes are divided anew (R27), and it counts as
arrived at its cluster's barrier. -/
def State.endThread (s : State) (status : Nat) : State :=
  let s1 := { s with
    th.run := .ended
    th.endStatus := status
    th.rcp := Recipe.reset s.th.rcp.budget
    th.fe := { Front.reset with posted := s.th.fe.posted } }
  ((s1.updTask fun t => t.endedWith status).recomputeLanes s.th.cluster s.th.pair).barrierOnEnd

/-- R166, R360: `.all` ends every thread of the task and abandons all their work. -/
def State.endAll (s : State) (status : Nat) : State := s.endTask s.th.task (s.task.endedWith status).status

/-- R360: TASKEND. -/
def State.taskend (s : State) (f : FJ) : Host.Outcome State Fault Refusal :=
  let status := (slice f.imm 0 15).toNat
  if bitAt f.imm 15 then s.privileged (.next (s.endAll status))
  else if s.th.hasPending then
    (if s.th.dsp.room 1 then .next (s.flushRoots.beginWait .taskEnd false 0) else .next (s.beginWait .drain false 0))
  else if !s.th.dsp.queue.isEmpty || !s.th.dsp.passes.isEmpty || !s.th.dsp.ops.isEmpty then
    .next (s.beginWait .taskEnd false 0)
  else .next (s.endThread status)

def execTaskend (f : FJ) (s : State) : Host.Outcome State Fault Refusal := s.taskend f

/-! ### STEPCMT and STEPABT -/

/-- R118: the step advances; a commit also sets its bit of the commit map and STEPDONE. -/
def Task.advance (t : Task) (commit : Bool) : Task :=
  let old := (slice t.stepno 0 8).toNat
  let next := t.stepno + 1
  let map := if commit then t.cmap ||| BitVec.twoPow 256 old else t.cmap
  { t with
    stepno := next
    stepdone := if commit then t.stepno else t.stepdone
    cmap := map &&& ~~~(BitVec.twoPow 256 (slice next 0 8).toNat) }

/-- R364: STEPCMT and STEPABT. -/
def State.stepWord (s : State) (f : FJ) (commit : Bool) : Host.Outcome State Fault Refusal :=
  if !s.th.smode && !s.task.record.sa then .next (s.trapCode causePrivileged)
  else
    s.releasing true fun s =>
      let s1 := s.updTask fun t => t.advance commit
      s1.settle (s1.finish f.d s1.task.stepno)

def execStepcmt (f : FJ) (s : State) : Host.Outcome State Fault Refusal := s.stepWord f true

def execStepabt (f : FJ) (s : State) : Host.Outcome State Fault Refusal := s.stepWord f false

/-! ### LAUNCH -/

/-- R341, R347: bytes of a record slot of a queue. -/
def recordBytes (c : QueueConf) : Nat := if c.version1 then 192 else 256

/-- R341: where slot `i` of a queue's ring lies. -/
def recordPa (c : QueueConf) (i : Nat) : Nat := c.ringBase + recordBytes c * (i % 2 ^ c.size)

/-- R362: the slot's bytes at an address, 64 at a time, each checked as a load is (R149). -/
def State.readRecord (s : State) : Nat → W64 → Except Issue (List Byte × State)
  | 0, _ => .ok ([], s)
  | n + 1, va =>
    match s.sLoad false va 64 with
    | .error i => .error i
    | .ok (b, s1) =>
      match s1.readRecord n (va + 64) with
      | .error i => .error i
      | .ok (c, s2) => .ok (b ++ c, s2)

/-- R362: the queue a LAUNCH names, or its fault. The checks stand in the order of R362; R76, whose order has PRIVILEGED first,
speaks of faults of decoding (DESIGN CHOICE, log entry 94). -/
def State.launchQueue (s : State) (f : FM) : Except Issue Queue :=
  let xb := s.x f.b
  match s.queue? s.task.part (slice xb 0 6).toNat with
  | none => .error (Issue.fault causeRange)
  | some u =>
    if slice xb 6 58 != 0 || !u.conf.en || !u.conf.feedLaunch then .error (Issue.fault causeRange)
    else if !s.th.smode && !u.conf.ulaunch then .error (Issue.fault causePrivileged)
    else .ok u

/-- R362: LAUNCH once its release is done; the slot's write waits for its resource (R368). -/
def State.enqueueRecord (s : State) (f : FM) (u : Queue) : Issue :=
  match s.readRecord (recordBytes u.conf / 64) (s.address f) with
  | .error i => i
  | .ok (b, s1) =>
    if u.pending < 2 ^ u.conf.size then
      let pa := recordPa u.conf u.prod
      let h := s1.held false pa b.length
      if h.1 then .wait .drain false 0
      else
        let s2 := (if isHost pa then h.2.crossLink b.length else h.2).deviceWrite pa b
        (s2.mapQueue u.part u.q fun u => { u with prod := (u.prod + 1) % 2 ^ 32 }).finish f.d (BitVec.ofNat 64 u.prod)
    else s1.finish f.d 0xFFFFFFFFFFFFFFFF

/-- R362: LAUNCH. What its read would wait for is waited for once the roots pending are launched. -/
def execLaunch (f : FM) (s : State) : Host.Outcome State Fault Refusal :=
  match s.launchQueue f with
  | .error i => s.settle i
  | .ok u =>
    match s.readRecord (recordBytes u.conf / 64) (s.address f) with
    | .error (.trap i) => s.settle (.trap i)
    | .error .lease => s.settle .lease
    | _ => s.releasing true fun s => s.settle (s.enqueueRecord f u)

/-! ### The copy of a versioned page -/

/-- R117: a posted store that is the first write of its step to its page. -/
def State.firstWrite (s : State) (p : Posted) : Bool :=
  leafVer p.leaf && p.stepno == s.task.stepno && leafStag (s.mem.word p.leafPa) != slice s.task.stepno 0 8

/-- R117: VERSIONED_COPY: the base die copies the committed half for the first write of a step, the i-th posted store. It
waits for its DRAM (R367). -/
def execVersionedCopy (i : Nat) (s : State) : Host.Outcome State Fault Refusal :=
  match s.th.fe.posted[i]? with
  | some p =>
    if s.firstWrite p && !s.shutAt p.pa && !s.shutAt p.leafPa then .next (s.normalise p.leafPa) else .next s
  | none => .next s

end Sys2Proof.Machine
end

