-- ==== Sys2Proof/Machine/Image.lean ====
section
/-! DEFINITION. Machine/Image.lean: the context image (R32, R33, R168 to R170, R203 to R205, R270, R290, R336): its
layout, how it is written and read, CTXSV and CTXRS. -/

namespace Sys2Proof.Machine

/-! ### The area -/

/-- The 64 KiB pages of an area, by translation (R168). -/
abbrev Area := List Xl

/-- R168: pages of an area of 9 MiB. -/
def areaPages : Nat := 144

/-- R112, R168, R170: translates an area's pages in S mode; none may be a DEV or SD page, or one the host refuses. -/
def State.areaAt (s : State) (kind : Nat) : Nat → W64 → Except Stop (Area × State)
  | 0, _ => .ok ([], s)
  | n + 1, va =>
    match s.translate s.ctx true kind va with
    | .error e => .error e
    | .ok (x, s1) =>
      let h := s1.hostRefuses x
      if leafCls x.leaf == clsDev || leafSd x.leaf || h.1 then .error (accessFault kind va)
      else
        match h.2.areaAt kind n (va + 65536) with
        | .error e => .error e
        | .ok (xs, s2) => .ok (x :: xs, s2)

/-- A slot holds one of an area's pages back (R368), or the port group still owes tokens (R358). -/
def State.areaHeld (s : State) (ar : Area) : Bool × State :=
  let b := ar.foldl (fun q x => if q.1 then q else if q.2.copyShut x then (true, q.2) else q.2.barred false x.pa) (false, s)
  if !b.1 && ar.any (fun x => isDram x.pa) then b.2.takeTokens false 0 else b

/-- The spans of `n` bytes from an offset, page by page. -/
def areaSpans (off n : Nat) : List (Nat × Nat) :=
  (List.range (n / 65536 + 2)).filterMap fun i =>
    let lo := max off ((off / 65536 + i) * 65536)
    let hi := min (off + n) ((off / 65536 + i + 1) * 65536)
    if lo < hi then some (lo, hi - lo) else none

/-- The page of an offset. -/
def areaPage (ar : Area) (off : Nat) : Xl := ar[off / 65536]?.getD ⟨0, 0, 0⟩

/-- The physical address of an offset, as a read finds it (R117). -/
def State.areaPa (s : State) (ar : Area) (off : Nat) : Nat := s.readPa (areaPage ar off) + off % 65536

/-- R113, R358, R379: the traffic of bytes of the area that lies at `a`: what it counts, the number it takes on the link,
and its tokens. -/
def State.areaUse (s : State) (a : W64) (ar : Area) (off n : Nat) : State :=
  (areaSpans off n).foldl (fun s u =>
    let x := areaPage ar u.1
    let pa := s.areaPa ar u.1
    let s1 := s.touch false false { x with pa := x.pa + u.1 % 65536 } (a + BitVec.ofNat 64 u.1) pa u.2
    if isDram pa then s1.spendTokens u.2 else s1) s

/-- Bytes of an area. -/
def State.areaRead (s : State) (ar : Area) (off n : Nat) : List Byte :=
  (areaSpans off n).flatMap fun u => s.physRead (s.areaPa ar u.1) u.2

/-- Bytes written into the area that lies at `a`. -/
def State.areaWrite (s : State) (a : W64) (ar : Area) (off : Nat) (bytes : List Byte) : State :=
  (areaSpans off bytes.length).foldl (fun s u =>
    let x := areaPage ar u.1
    let s1 := if isDram x.pa then s.spendTokens u.2 else s
    (s1.storeNow { x with pa := x.pa + u.1 % 65536 } (a + BitVec.ofNat 64 u.1) s.task.stepno
      ((bytes.drop (u.1 - off)).take u.2)).getD s1) s

/-- R121: poison travels with the blocks at some offsets. -/
def State.areaPoison (s : State) (ar : Area) (offs : List Nat) : State :=
  { s with poison := s.poison ++ (offs.map fun o => s.areaPa ar o / 64 * 64).filter fun b => !s.poison.contains b }

/-- R121: which of the blocks at some offsets are poisoned, each given with what it stands for. -/
def State.areaBad (s : State) (ar : Area) (offs : List (Nat × Nat)) : List Nat :=
  if s.poison.isEmpty && s.channelsOut.isEmpty && s.stale.isEmpty then []
  else (offs.filter fun o => s.poisoned (s.areaPa ar o.2)).map Prod.fst

/-! ### Offsets (R168) -/

def offRegs : Nat := 0x200
def offProgress : Nat := 0x600
def offEntries : Nat := 0x800
def offNames : Nat := 0x1000
def offLqs : Nat := 0x1100
def offNodes : Nat := 0x2000
def offCarries : Nat := 0x6000
def offTiles : Nat := 0x10000
def offSsb : Nat := 0x90000
def offDescs : Nat := 0xA0000
def offComm : Nat := 0xA2000
def offStash : Nat := 0xA2400
def offDropped : Nat := 0xA2800
def offRows : Nat := 0x100000

/-- Bytes the layout leaves unassigned, which hold what the model keeps besides (log entry 22). -/
def offExtra : Nat := 0xA2C00

/-- A field of some bytes. -/
def fieldOf (b : List Byte) (off n : Nat) : Nat := leNat ((b.drop off).take n)

/-- A dword of some bytes. -/
def wordOf (b : List Byte) (off : Nat) : W64 := BitVec.ofNat 64 (fieldOf b off 8)

/-- Bytes made up to a length with zeros. -/
def padTo (n : Nat) (b : List Byte) : List Byte := b ++ List.replicate (n - b.length) 0

/-- A node index or 0xFFFF (R204). -/
def idxBytes (i : Option Nat) : List Byte := leBytes 2 (i.getD 0xFFFF)
def idxOf (v : Nat) : Option Nat := if v == 0xFFFF then none else some v

/-! ### Records -/

/-- R204: a node record. -/
def Node.bytes (n : Node) : List Byte :=
  leBytes 8 n.word.toNat ++ leBytes 8 n.pc.toNat ++ leBytes 6 n.len ++ leBytes 2 (n.fctrl.toNat + n.lsrc * 2 ^ 13) ++
    idxBytes n.sa ++ idxBytes n.sb ++ idxBytes n.sc ++ idxBytes n.sk ++ leBytes 8 n.va.toNat ++
    leBytes 8 n.vb.toNat ++ leBytes 8 n.vc.toNat ++ leBytes 8 n.rseed.toNat

/-- R204: the node of a record. -/
def nodeOf (idx : Nat) (b : List Byte) : Node :=
  { idx := idx, seq := 0, part := 0, word := wordOf b 0, pc := wordOf b 8, lsrc := fieldOf b 22 2 / 2 ^ 13,
    len := fieldOf b 16 6, fctrl := BitVec.ofNat 13 (fieldOf b 22 2), rseed := wordOf b 56, va := wordOf b 32,
    vb := wordOf b 40, vc := wordOf b 48, sa := idxOf (fieldOf b 24 2), sb := idxOf (fieldOf b 26 2),
    sc := idxOf (fieldOf b 28 2), sk := idxOf (fieldOf b 30 2), reads := [], writes := [], smode := false, bits := 0 }

/-- R168: a dispatch entry. -/
def Entry.bytes (e : Entry) : List Byte :=
  leBytes 8 e.word.toNat ++ leBytes 8 e.pc.toNat ++ leBytes 8 e.a.toNat ++ leBytes 8 e.b.toNat ++
    leBytes 8 e.c.toNat ++ leBytes 8 e.rseed.toNat ++ leBytes 8 e.stepno.toNat ++ leBytes 2 e.fctrl.toNat ++
    leBytes 6 ((if e.smode then 1 else 0) + 2 + (if e.slot then 4 else 0))

/-- R168: the entry of a record. -/
def entryOf (b : List Byte) : Entry :=
  { word := wordOf b 0, pc := wordOf b 8, a := wordOf b 16, b := wordOf b 24, c := wordOf b 32, d := 0,
    rseed := wordOf b 40, aw := 0, stepno := wordOf b 48, fctrl := BitVec.ofNat 13 (fieldOf b 56 2),
    smode := fieldOf b 58 1 % 2 == 1, slot := fieldOf b 58 1 / 4 % 2 == 1, seq := 0, node := none, lsrc := 0, len := 0,
    serial := false, nojoin := false, prog := 0, reads := [], writes := [] }

/-- R168: a progress record. -/
def progressBytes (pc : W64) (prog form kind : Nat) : List Byte :=
  padTo 32 (leBytes 8 pc.toNat ++ leBytes 8 prog ++ leBytes 4 form ++ leBytes 1 kind)

/-- R270: a B-store load descriptor. -/
def BDesc.bytes (d : BDesc) : List Byte :=
  padTo 32 (leBytes 8 d.word.toNat ++ leBytes 8 d.xa.toNat ++ leBytes 8 d.xb.toNat ++ leBytes 4 d.n ++
    leBytes 1 (if d.inc then 3 else 1))

/-- R270: the descriptor of a record in use. -/
def descOf (b : List Byte) : BDesc :=
  { seq := 0, word := wordOf b 0, xa := wordOf b 8, xb := wordOf b 16, n := fieldOf b 24 4, done := fieldOf b 24 4,
    inc := fieldOf b 28 1 / 2 % 2 == 1 }

/-! ### What the model keeps besides (log entry 22) -/

/-- A pass, beside its progress record: its nodes with carries and which lanes hold a value, and for nodes evaluated across
element groups the next element and the flags of an open segment. -/
structure PassExtra where
  seq : Nat
  smode : Bool
  serial : Bool
  treeOnly : Bool
  halted : Bool
  skipped : Bool
  serves : Nat
  roots : List Nat
  carries : List (Nat × Nat)
  backs : List (Nat × Nat × Nat)

/-- An entry, beside its record. `kind` is 0 for an entry not started, 1 to 4 for a started operation of the matrix
engine, the SSB or the copy engine, or one set aside, and 5 for a running BLOAD with no descriptor; the fields after it are
the operation's. -/
structure EntryExtra where
  seq : Nat
  len : Nat
  d : Nat
  node : Option Nat
  lsrc : Nat
  serial : Bool
  nojoin : Bool
  aw : Nat
  start : Nat
  kind : Nat
  n : Nat
  prog : Nat
  halted : Bool
  part : Bool
  dev : Bool
  block : List Nat

/-- A node, beside its record. -/
structure NodeExtra where
  idx : Nat
  seq : Nat
  part : Nat
  smode : Bool

/-- All of it. `rows` is how many rows the B-store region holds, `saved` the SAVED bits (R273, R289), `descs` the order
numbers and PCs of the BLOADs of the descriptors, `drops` the numbers, causes and modes of dropped stores, `bits` the masks
that MTST and MPACK have delivered, and `more` the records of entries beyond the 32 of their region. -/
structure Extra where
  nextSeq : Nat
  stopped : Option OpRef
  paused : Bool
  nested : Bool
  waitU : Bool
  waitS : Bool
  saved : Nat
  lqNext : List Nat
  rows : Nat
  written : List Nat
  descs : List (Nat × Nat)
  pending : List Nat
  passes : List (Option PassExtra)
  entries : List EntryExtra
  nodes : List NodeExtra
  drops : List (Nat × Nat × Nat × Bool)
  bits : List (Nat × Nat)
  more : List (List Nat)

def bitNat (b : Bool) : Nat := if b then 1 else 0

/-- A list as numbers, its length first. -/
def putList {α : Type} (l : List α) (f : α → List Nat) : List Nat := l.length :: l.flatMap f

/-- A number as 64-bit pieces, how many first. -/
def putBig (v : Nat) : List Nat :=
  let k := (bitLen v + 63) / 64
  k :: (List.range k).map fun i => v / 2 ^ (64 * i) % 2 ^ 64

def PassExtra.nums (p : PassExtra) : List Nat :=
  [p.seq, bitNat p.smode, bitNat p.serial, bitNat p.treeOnly, bitNat p.halted, bitNat p.skipped, p.serves] ++
    putList p.roots (fun r => [r]) ++ putList p.carries (fun c => c.1 :: putBig c.2) ++
    putList p.backs fun b => [b.1, b.2.1, b.2.2]

def EntryExtra.nums (e : EntryExtra) : List Nat :=
  [e.seq, e.len, e.d, e.node.elim 0 fun i => i + 1, e.lsrc, bitNat e.serial, bitNat e.nojoin, e.aw, e.start, e.kind, e.n,
    e.prog, bitNat e.halted, bitNat e.part, bitNat e.dev] ++ putList e.block fun v => [v]

def refNums (r : Option OpRef) : List Nat :=
  match r with
  | none => [0, 0]
  | some (.entry n) => [1, n]
  | some (.pass .p0) => [2, 0]
  | some (.pass .p1) => [2, 1]
  | some (.op n) => [3, n]
  | some .restored => [4, 0]

def refOf (k n : Nat) : Option OpRef :=
  match k with
  | 1 => some (.entry n)
  | 2 => some (.pass (if n == 0 then .p0 else .p1))
  | 3 => some (.op n)
  | 4 => some .restored
  | _ => none

/-- The numbers, how many first. -/
def Extra.nums (x : Extra) : List Nat :=
  let l := x.nextSeq :: refNums x.stopped ++
    [bitNat x.paused, bitNat x.nested, bitNat x.waitU, bitNat x.waitS, x.saved] ++
    putList x.lqNext (fun v => [v]) ++ [x.rows] ++
    putList x.written (fun v => [v]) ++ putList x.descs (fun d => [d.1, d.2]) ++ putList x.pending (fun v => [v]) ++
    putList x.passes (fun p => match p with
      | none => [0]
      | some p => 1 :: p.nums) ++
    putList x.entries EntryExtra.nums ++
    putList x.nodes (fun n => [n.idx, n.seq, n.part, bitNat n.smode]) ++
    putList x.drops (fun d => [d.1, d.2.1, d.2.2.1, bitNat d.2.2.2]) ++ putList x.bits (fun b => b.1 :: putBig b.2) ++
    putList x.more fun e => putList e fun v => [v]
  l.length :: l

/-- Numbers read one after another; past the end every number is 0. -/
abbrev Reader := StateM (List Nat)

def getNum : Reader Nat := fun l =>
  match l with
  | [] => (0, [])
  | v :: vs => (v, vs)

def getBit : Reader Bool := do return (← getNum) % 2 == 1

def getMany {α : Type} (g : Reader α) : Nat → Reader (List α)
  | 0 => return []
  | n + 1 => do
    let v ← g
    let vs ← getMany g n
    return v :: vs

def getList {α : Type} (g : Reader α) : Reader (List α) := do
  let n ← getNum
  let l ← get
  getMany g (min n l.length)

def getBig : Reader Nat := do
  let vs ← getList getNum
  return vs.foldr (fun v a => v + 2 ^ 64 * a) 0

def getPair {α β : Type} (f : Reader α) (g : Reader β) : Reader (α × β) := do
  let a ← f
  let b ← g
  return (a, b)

def getPass : Reader (Option PassExtra) := do
  if ← getBit then
    return some
      { seq := ← getNum, smode := ← getBit, serial := ← getBit, treeOnly := ← getBit, halted := ← getBit,
        skipped := ← getBit, serves := ← getNum, roots := ← getList getNum,
        carries := ← getList (getPair getNum getBig), backs := ← getList (getPair getNum (getPair getNum getNum)) }
  else return none

def getEntry : Reader EntryExtra := do
  return { seq := ← getNum, len := ← getNum, d := ← getNum, node := (fun v => if v == 0 then none else some (v - 1)) (← getNum),
           lsrc := ← getNum, serial := ← getBit, nojoin := ← getBit, aw := ← getNum,
           start := ← getNum, kind := ← getNum, n := ← getNum, prog := ← getNum, halted := ← getBit,
           part := ← getBit, dev := ← getBit, block := ← getList getNum }

def getNode : Reader NodeExtra := do
  return { idx := ← getNum, seq := ← getNum, part := ← getNum, smode := ← getBit }

def getExtra : Reader Extra := do
  return { nextSeq := ← getNum, stopped := refOf (← getNum) (← getNum), paused := ← getBit, nested := ← getBit,
           waitU := ← getBit, waitS := ← getBit, saved := ← getNum,
           lqNext := ← getList getNum, rows := ← getNum, written := ← getList getNum,
           descs := ← getList (getPair getNum getNum), pending := ← getList getNum, passes := ← getList getPass,
           entries := ← getList getEntry, nodes := ← getList getNode,
           drops := ← getList (getPair getNum (getPair getNum (getPair getNum getBit))), bits := ← getList (getPair getNum getBig),
           more := ← getList (getList getNum) }

/-- The extras of an image. -/
def State.extraOf (s : State) (ar : Area) : Extra :=
  let n := min (fieldOf (s.areaRead ar offExtra 8) 0 8) ((offRows - offExtra) / 8 - 1)
  let b := s.areaRead ar (offExtra + 8) (8 * n)
  (getExtra.run ((List.range n).map fun i => fieldOf b (8 * i) 8)).1

/-! ### What a save holds -/

/-- The roots of what a pass streams: its own, or that of the operation it serves (R191). -/
def Thread.streamRoots (t : Thread) (p : Pass) : List Nat :=
  if p.serves.isNone then p.roots else ((t.dsp.op? p.seq).bind fun o => o.e.node).toList

/-- R194, R205, R377: the carrying nodes of a pass in recording order, with their lanes; one that has met no element yet has
a set too. -/
def Thread.carrySets (t : Thread) (p : Pass) : List (Nat × List (Option W64)) :=
  ((t.rcp.reach (t.streamRoots p)).filter Node.carries).map fun n =>
    (n.idx, ((p.carries.find? fun c => c.node == n.idx).map fun c => c.lanes).getD [])

/-- R205: a set of carries: 128 values, those not held zero. -/
def carryBytes (ls : List (Option W64)) : List Byte := padTo 1024 ((ls.take 128).flatMap fun v => leBytes 8 (v.getD 0).toNat)

/-- The lanes that hold a value, as bits. -/
def carryMask (ls : List (Option W64)) : Nat := ls.foldr (fun v a => bitNat v.isSome + 2 * a) 0

/-- R165, R167: an operation stopped by a fault that is still to be delivered restarts on resumption. -/
def Dispatch.staysStopped (d : Dispatch) (halted : Bool) (r : OpRef) : Bool := halted && !d.faulted r

def unitCode (u : Option EngineUnit) : Nat :=
  match u with
  | none => 0
  | some .matrix | some (.bload _) => 1
  | some .ssb => 2
  | some .copy => 3

def unitOf (k : Nat) : Option EngineUnit :=
  match k with
  | 1 => some .matrix
  | 2 => some .ssb
  | 3 => some .copy
  | _ => none

def Thread.passExtra (t : Thread) (i : PassSlot) (p : Pass) : PassExtra :=
  { seq := p.seq, smode := p.smode, serial := p.serial, treeOnly := p.treeOnly,
    halted := t.dsp.staysStopped p.halted (if p.serves.isSome then .op p.seq else .pass i), skipped := p.skipped,
    serves := unitCode p.serves, roots := p.roots, carries := (t.carrySets p).map fun c => (c.1, carryMask c.2),
    backs := p.back.map fun b => (b.node, b.next, b.raised.toNat) }

def StreamBlock.nums (b : StreamBlock) : List Nat :=
  [b.ibase.toNat, b.itype, b.count, b.tbase.toNat, b.trows, b.esize, b.skew]

def blockOfNums (l : List Nat) : Option StreamBlock :=
  match l with
  | [a, b, c, d, e, f, g] => some ⟨BitVec.ofNat 64 a, b, c, BitVec.ofNat 64 d, e, f, g⟩
  | _ => none

def Entry.extra (e : Entry) : EntryExtra :=
  { seq := e.seq, len := e.len, d := e.d.toNat, node := e.node, lsrc := e.lsrc, serial := e.serial, nojoin := e.nojoin,
    aw := e.aw.toNat, start := e.prog, kind := 0, n := 0, prog := 0, halted := false, part := false, dev := false,
    block := [] }

def Thread.opExtra (t : Thread) (kind : Nat) (o : Op) : EntryExtra :=
  { o.e.extra with kind := kind, n := o.n, prog := o.prog, halted := t.dsp.staysStopped o.halted (.op o.e.seq),
                   part := o.part, dev := o.dev, block := (o.block.map StreamBlock.nums).getD [] }

/-- R270: the running BLOADs whose descriptor is gone, so that only an entry can hold them (log entry 90). -/
def Thread.looseLoads (t : Thread) : List Op := t.dsp.bloads.filter fun o => !t.bst.descs.any fun d => d.seq == o.e.seq

/-- A value put into a list in order of a key. -/
def insertBy {α : Type} (key : α → Nat) (v : α) : List α → List α
  | [] => [v]
  | u :: us => if key v ≤ key u then v :: u :: us else u :: insertBy key v us

/-- A list in order of a key. -/
def sortBy {α : Type} (key : α → Nat) (l : List α) : List α := l.foldr (insertBy key) []

/-- Operations with no progress record of their own engine: those set aside (R272) and loose BLOADs, oldest first, each with
its kind among the extras. -/
def Thread.otherOps (t : Thread) : List (Nat × Op) :=
  sortBy (fun u => u.2.e.seq) (t.dsp.shelf.map (fun o => (4, o)) ++ t.looseLoads.map fun o => (5, o))

/-- R168: the entries an image holds, oldest first: those of the queue, and those of started operations (log entry 9). -/
def Thread.imageEntries (t : Thread) : List (Entry × EntryExtra) :=
  let ops (k : Nat) (l : List Op) : List (Entry × EntryExtra) := l.map fun o => (o.e, t.opExtra k o)
  sortBy (fun u => u.1.seq) (ops 1 t.dsp.matrix.toList ++ ops 2 t.dsp.ssb.toList ++ ops 3 t.dsp.copy.toList ++
    (t.otherOps.map fun u => (u.2.e, t.opExtra u.1 u.2)) ++ t.dsp.queue.map fun e => (e, e.extra))

/-- The highest B-store row loaded, plus one, from BROWBASE. -/
def Thread.rowsHeld (t : Thread) : Nat := t.bst.rows.foldl (fun m r => max m (r.1 + 1 - t.sr.browbase)) 0

/-- The dropped stores that an image holds: in one that CTXSV writes, those of U mode. -/
def Thread.imageDrops (t : Thread) (pre : Bool) : List Dropped :=
  (sortBy (fun d => d.seq) (t.fe.dropped.filter fun d => pre || !d.smode)).take 32

/-- The extras of the thread's image. -/
def Thread.extra (t : Thread) (pre : Bool) (rows : Nat) : Extra :=
  { nextSeq := t.dsp.nextSeq, stopped := t.dsp.stopped, paused := t.dsp.paused, nested := t.dsp.nested,
    waitU := t.dsp.waitU, waitS := t.dsp.waitS,
    saved := t.tiles.toList.foldr (fun m a => bitNat m.saved + 2 * a) 0 + 256 * bitNat t.ssb.saved,
    lqNext := t.rcp.lqs.toList.map fun q => q.next, rows := rows,
    written := t.bst.written.map fun r => r - t.sr.browbase,
    descs := t.bst.descs.map fun d =>
      (d.seq, ((t.dsp.bloads.find? fun o => o.e.seq == d.seq).map fun o => o.e.pc.toNat).getD 0),
    pending := t.rcp.pending, passes := [t.dsp.pass0.map (t.passExtra .p0), t.dsp.pass1.map (t.passExtra .p1)],
    entries := t.imageEntries.map Prod.snd,
    nodes := t.rcp.nodes.map fun n => ⟨n.idx, n.seq, n.part, n.smode⟩,
    drops := (t.imageDrops pre).map fun d => (d.seq, d.code, d.acc, d.smode),
    bits := (t.rcp.nodes.filter fun n => n.bits != 0).map fun n => (n.idx, n.bits),
    more := (t.imageEntries.drop 32).map fun e => (List.range 8).map fun i => fieldOf e.1.bytes (8 * i) 8 }

/-- The trap registers in SN order (R169). -/
def TrapRegs.words (t : TrapRegs) : List W64 :=
  [t.trapvec, t.trappc, t.trapcause, t.traproot, t.trapnode, t.trapelem, t.trapaddr, t.trapstat]

/-- R169: the header. -/
def Thread.imageHeader (t : Thread) (k : Task) (full mode : Bool) (pc : W64) (present seq : Nat) : List Byte :=
  leBytes 4 0x58544346 ++ leBytes 1 1 ++ leBytes 1 (bitNat full + 2 * bitNat mode) ++ leBytes 2 t.tileCount ++
    leBytes 8 pc.toNat ++ leBytes 4 present ++ (t.tiles.toList.flatMap fun m => leBytes 2 m.hwm) ++ leBytes 4 0 ++
    leBytes 8 t.sr.coord.toNat ++ leBytes 4 t.sr.shape.toNat ++ leBytes 4 t.sr.stage.toNat ++ leBytes 8 k.ctxid.toNat ++
    leBytes 8 k.stepno.toNat ++ leBytes 8 k.stepdone.toNat ++ leBytes 32 k.cmap.toNat ++
    (t.tr.words.flatMap fun w => leBytes 8 w.toNat) ++ leBytes 16 0 ++ leBytes 8 seq ++ leBytes 56 0

/-- R286: the SSB form of an operation's record: 1 when its next unit is recurrent, 0 when it is a chunk or no step of a
scan. -/
def Thread.ssbForm (t : Thread) (o : Op) : Nat :=
  match decodeOpc o.e.word with
  | some (.sscan _) => bitNat (!nextIsChunk t.sr.ssinfo false o.n o.prog)
  | some (.ssstep _) => 1
  | _ => 0

/-- R168: an operation's progress record. -/
def Thread.opRecord (t : Thread) (o : Op) : List Byte :=
  let kind := match (decodeOpc o.e.word).map engineOf with
    | some .ssb => 3
    | some .copy => 4
    | _ => 2
  progressBytes o.e.pc o.prog (t.ssbForm o) kind

/-- R168: the progress records; those of the other operations stand after the copy's. -/
def Thread.imageProgress (t : Thread) : List Byte :=
  let pass (p : Option Pass) : List Byte := p.elim (leBytes 32 0) fun p => progressBytes p.pc p.start p.p 1
  let op (o : Option Op) : List Byte := o.elim (leBytes 32 0) t.opRecord
  padTo 512 (pass t.dsp.pass0 ++ pass t.dsp.pass1 ++ op t.dsp.matrix ++ op t.dsp.ssb ++ op t.dsp.copy ++
    (t.otherOps.take 11).flatMap fun u => t.opRecord u.2)

/-- A slot of a length queue as the image holds it (log entry 22). -/
def LqSlot.bytes (u : LqSlot) : List Byte :=
  leBytes 8 (u.filled.getD 0 + bitNat u.taken * 2 ^ 48 + bitNat u.filled.isSome * 2 ^ 49 + u.no * 2 ^ 52)

def lqSlotOf (v : Nat) : LqSlot :=
  ⟨v / 2 ^ 52 % 16, v / 2 ^ 48 % 2 == 1, if v / 2 ^ 49 % 2 == 1 then some (v % 2 ^ 48) else none⟩

/-- R168: the length queues, then their depths. -/
def Recipe.imageLqs (r : Recipe) : List Byte :=
  (r.lqs.toList.flatMap fun q => padTo 128 (q.slots.flatMap LqSlot.bytes)) ++
    r.lqs.toList.flatMap fun q => leBytes 1 q.slots.length

/-- R168: the bindings. -/
def Recipe.imageNames (r : Recipe) : List Byte :=
  (r.vnames.toList.flatMap idxBytes) ++ padTo 16 ((r.knames.toList.drop 1).flatMap idxBytes)

/-- R168: the node records. -/
def Recipe.imageNodes (r : Recipe) : List Byte :=
  (List.range 256).flatMap fun i => ((r.node? i).map Node.bytes).getD (leBytes 64 0)

/-- R205: the carries of a pass slot. -/
def Thread.imageCarries (t : Thread) (p : Pass) : List Byte :=
  padTo 16384 (((t.carrySets p).take 16).flatMap fun c => carryBytes c.2)

/-- R336: the stash configuration. -/
def Pair.imageStash (p : Pair) : List Byte :=
  leBytes 8 p.ways ++ p.slots.toList.flatMap fun q =>
    match q with
    | none => leBytes 32 0
    | some q => padTo 32 (leBytes 8 q.g ++ leBytes 4 q.off ++ leBytes 4 q.len ++ leBytes 1 1)

/-- R168: dropped stores. -/
def Thread.imageDropped (t : Thread) (pre : Bool) : List Byte :=
  let ds := t.imageDrops pre
  padTo 520 (leBytes 8 ds.length ++ ds.flatMap fun d => leBytes 8 d.pc.toNat ++ leBytes 8 d.addr.toNat)

/-- R308: the thread whose image holds its cluster's communication set. -/
def Thread.holdsComm (t : Thread) : Bool := slice t.sr.coord 21 3 == 0 && slice t.sr.coord 11 2 == 0 && t.sr.stage == 0

/-- Tiles of the thread that an image writes (R32, R33). -/
def Thread.imageTiles (t : Thread) (full : Bool) : List (Nat × Tile) :=
  (t.tiles.toList.zipIdx.map fun u => (u.2, u.1)).filter fun u => u.2.dirty || full

def rowImage (r : List (BitVec 32)) : List Byte := r.flatMap fun v => leBytes 4 v.toNat

/-- R32, R254: B-store contents are written once BFROMT has written rows. -/
def Thread.rowsSaved (t : Thread) (full : Bool) : Nat := if full || !t.bst.written.isEmpty then t.rowsHeld else 0

/-- R290: SSB state is written when it has changed. -/
def Thread.ssbSaved (t : Thread) (full : Bool) : Bool := t.ssb.dirty || full

/-- R290: the SSB region's rows: entries outside P and N are zero. -/
def Thread.ssbRows (t : Thread) (h : Nat → Nat → BitVec 32) : List (List (BitVec 32)) :=
  (List.range 128).map fun p => (List.range 128).map fun n =>
    if p < ssP t.sr.ssinfo && n < ssN t.sr.ssinfo then h p n else 0

/-- R169: PRESENT. -/
def Thread.present (t : Thread) (full : Bool) : Nat :=
  ((t.imageTiles full).map fun u => 2 ^ u.1).sum + 256 * bitNat (t.rowsSaved full != 0) +
    512 * bitNat (!t.bst.descs.isEmpty) + 1024 * bitNat (t.ssbSaved full)

/-- Everything a save writes, by offset, the x registers apart. -/
def State.imageParts (s : State) (full pre : Bool) (pc : W64) (mode : Bool) (seq : Nat) : List (Nat × List Byte) :=
  let t := s.th
  let rows := t.rowsSaved full
  [(0, t.imageHeader s.task full mode pc (t.present full) seq),
    (offRegs, (List.range 128).flatMap fun n => leBytes 8 (s.mfsVal n).toNat),
    (offProgress, t.imageProgress),
    (offEntries, padTo 2048 ((t.imageEntries.take 32).flatMap fun e => e.1.bytes)),
    (offNames, t.rcp.imageNames), (offLqs, t.rcp.imageLqs), (offNodes, t.rcp.imageNodes)] ++
    (t.dsp.pass0.toList.map fun p => (offCarries, t.imageCarries p)) ++
    (t.dsp.pass1.toList.map fun p => (offCarries + 0x4000, t.imageCarries p)) ++
    ((t.imageTiles full).map fun u => (offTiles + 0x10000 * u.1, (List.range u.2.hwm).flatMap fun r => rowImage (u.2.row r))) ++
    (if t.ssbSaved full then [(offSsb, rowImage (t.ssbRows t.ssb.at).flatten)] else []) ++
    [(offDescs, padTo 8192 (t.bst.descs.flatMap BDesc.bytes))] ++
    (if t.holdsComm then
      [(offComm, (s.comm.cds.toList.flatMap fun v => leBytes 8 v.toNat) ++ leBytes 8 s.comm.sems.toNat)] else []) ++
    [(offStash, s.pair.imageStash), (offDropped, t.imageDropped pre),
      (offExtra, ((t.extra pre rows).nums.take ((offRows - offExtra) / 8)).flatMap fun v => leBytes 8 v)] ++
    (if rows == 0 then [] else
      [(offRows, (List.range rows).flatMap fun r => t.bst.row (t.sr.browbase + r))])

/-- R121: the offsets of poisoned blocks that a save carries along. -/
def Thread.imagePoison (t : Thread) (full : Bool) : List Nat :=
  ((t.imageTiles full).flatMap fun u =>
    (u.2.poisoned.filter fun b => b / 8 < u.2.hwm).map fun b => offTiles + 0x10000 * u.1 + 64 * b) ++
    (if t.ssbSaved full then t.ssb.poisoned.map fun b => offSsb + 64 * b else []) ++
    (t.bst.poisoned.filter fun k => k / 8 - t.sr.browbase < t.rowsSaved full).map fun k =>
      offRows + 64 * (k - 8 * t.sr.browbase)

/-- R32, R168: the image of the thread in focus written into an area; its state is clean then (R33). -/
def State.saveImage (s : State) (a : W64) (ar : Area) (full pre : Bool) (pc : W64) (mode : Bool) : State :=
  let seq := (fieldOf (s.areaRead ar 192 8) 0 8 + 1) % 2 ^ 64
  let s1 := (s.imageParts full pre pc mode seq).foldl (fun u p => u.areaWrite a ar p.1 p.2) s
  let s2 := s1.areaPoison ar (s.th.imagePoison full)
  { s2 with th := { s2.th with
      tiles := s2.th.tiles.map fun m => { m with dirty := false }
      ssb.dirty := false } }

/-! ### What a restore reads -/

/-- R169, R170: the header fields that must be right. -/
def headerOk (h : List Byte) (tiles : Nat) : Bool :=
  fieldOf h 0 4 == 0x58544346 && fieldOf h 4 1 == 1 && fieldOf h 5 1 < 2 && fieldOf h 6 1 ≤ tiles && fieldOf h 7 1 == 0 &&
    fieldOf h 16 2 < 2048 && fieldOf h 18 2 == 0 && fieldOf h 36 4 == 0 && fieldOf h 53 3 == 0 && fieldOf h 176 16 == 0 &&
    fieldOf h 200 56 == 0

/-- R204: the live records of the node region, by index. -/
def nodeRecords (b : List Byte) : List Node :=
  (List.range 256).filterMap fun i =>
    let r := (b.drop (64 * i)).take 64
    if wordOf r 0 == 0 then none else some (nodeOf i r)

/-- R204: records that a restore may read. -/
def recordsOk (ns : List Node) : Bool :=
  ns.all fun n => n.lsrc < 6 && n.srcs.all fun i => ns.any fun m => m.idx == i

/-- R203, R204: the nodes of an image in recording order; those the extras do not list come last, by index. -/
def imageNodes (recs : List Node) (x : Extra) (base : Nat) : List Node :=
  let known := x.nodes.filterMap fun e =>
    (recs.find? fun n => n.idx == e.idx).map fun n =>
      { n with seq := base + e.seq, part := e.part, smode := e.smode
               bits := ((x.bits.find? fun b => b.1 == n.idx).map Prod.snd).getD 0 }
  known ++ (recs.filter fun n => !x.nodes.any fun e => e.idx == n.idx).map fun n => { n with seq := base + x.nextSeq }

/-- R196, R203: the ARIT ranges of a restored node; a VLDX's are read from its block again. -/
def State.restoredNode (s : State) (n : Node) : Node :=
  let r : List Rng × List Rng := match n.instr with
    | some (.vldx _) =>
      (match s.peekBlock true n.va with
        | some b => ([b.indexRng b.count, b.tableRng], [])
        | none => ([⟨0, 2 ^ 64 - 1⟩], []))
    | _ => s.nodeRanges n
  { n with reads := r.1, writes := r.2 }

/-- R205: a set of carries read back. -/
def carryOf (b : List Byte) (k p mask : Nat) : List (Option W64) :=
  (List.range p).map fun l => if mask.testBit l then some (wordOf b (1024 * k + 8 * l)) else none

/-- R168, R203: a pass of an image, to be launched again. `stop` leaves every pass stopped (R170). -/
def passOf (rec carries : List Byte) (x : Option PassExtra) (base now : Nat) (stop : Bool) : Option Pass :=
  match x with
  | none => none
  | some x =>
    if fieldOf rec 20 1 != 1 then none
    else
      let p := fieldOf rec 16 4 % 256
      some
        { pc := wordOf rec 0, seq := base + x.seq, roots := x.roots, p := p, start := fieldOf rec 8 6, len := 0,
          carries := (x.carries.zipIdx.filter fun c => c.1.2 != 0).map fun c => ⟨c.1.1, carryOf carries c.2 p c.1.2⟩,
          back := x.backs.map fun b => ⟨b.1, b.2.1, [], BitVec.ofNat 5 b.2.2⟩, blocks := [],
          serves := unitOf x.serves, smode := x.smode, halted := stop || x.halted, serial := x.serial,
          treeOnly := x.treeOnly, hold := none, ready := false, since := now, skipped := x.skipped }

/-- R168: the entries of an image with their extras. -/
def imageEntries (b : List Byte) (x : Extra) (base : Nat) : List (Entry × EntryExtra) :=
  let recs := (List.range 32).filterMap fun i =>
    let r := (b.drop (64 * i)).take 64
    if fieldOf r 58 1 / 2 % 2 == 1 then some (entryOf r) else none
  let more := x.more.map fun l => entryOf (l.flatMap (leBytes 8))
  (recs ++ more).zipIdx.map fun u =>
    let m := (x.entries[u.2]?).getD { u.1.extra with seq := x.nextSeq + u.2 }
    ({ u.1 with d := BitVec.ofNat 64 m.d, seq := base + m.seq, node := m.node, lsrc := m.lsrc, len := m.len,
                serial := m.serial, nojoin := m.nojoin, aw := BitVec.ofNat 64 m.aw, prog := m.start }, m)

/-- The ARIT ranges of a restored entry. -/
def State.restoredEntry (s : State) (e : Entry) : Entry :=
  let r : List Rng × List Rng := match decodeOpc e.word with
    | some (.sscan _) | some (.ssstep _) => ([Rng.none], [s.openRange e.smode e.b.toNat])
    | some (.cpyx f) =>
      s.copyxRanges (s.peekBlock (!bitAt f.fn 0) e.a) (!bitAt f.fn 0) (knownLen e.lsrc e.len) e.c
    | some (.stmap f) => s.stmapRng f.d.toNat e.a e.b
    | some _ => s.entryRanges e
    | none => ([], [])
  { e with reads := r.1, writes := r.2 }

/-- A started operation of an image; its progress is its progress record's. -/
def opOf (e : Entry) (m : EntryExtra) (rec : Option (List Byte)) (now : Nat) (stop : Bool) : Op :=
  { Op.fresh e m.n now with
    prog := (rec.map fun r => fieldOf r 8 6).getD m.prog
    halted := stop || m.halted
    part := m.part
    dev := m.dev
    block := blockOfNums m.block }

/-- The state registers that a restore loads (R170, R172): CTXRS the row range too, which a resumption has placed anew
(R253). -/
def SRegs.load (r : SRegs) (b : List Byte) (all : Bool) : SRegs :=
  let v (n : Nat) : W64 := wordOf b (8 * n)
  { r with
    vl := v 0x00 &&& 0xFFFFFFFFFFFF
    weight := max 1 (slice (v 0x03) 16 4).toNat
    fctrl := v 0x06 &&& 0x1F07
    fstatus := v 0x07 &&& 0x1F
    rseed := v 0x08
    recipemode := v 0x09 &&& 3
    browbase := if all then (slice (v 0x0B) 0 14).toNat else r.browbase
    browlim := if all then (slice (v 0x0C) 0 15).toNat else r.browlim
    remoteflags := v 0x0D &&& 0x1F
    ssinfo := v 0x0E &&& 0xBFFFFF8FFFFFFFFF
    waitbudget := v 0x40 &&& 0xFFFFFFFFFFFF
    taskarg := v 0x53 }

/-- R168: a length queue of an image. -/
def lqOf (b : List Byte) (x : Extra) (q : Nat) : Lq :=
  { next := x.lqNext.getD q 0 % 16
    slots := (List.range (min 16 (fieldOf b (512 + q) 1))).map fun i => lqSlotOf (fieldOf b (128 * q + 8 * i) 8) }

/-- R168, R203: the recipe of an image. All its live nodes are loaded, more than the thread's budget too (DESIGN CHOICE, log
entry 112). -/
def State.imageRecipe (s : State) (names lqs : List Byte) (ns : List Node) (x : Extra) : Recipe :=
  let live (i : Option Nat) : Option Nat := i.filter fun i => ns.any fun n => n.idx == i
  { vnames := Vector.ofFn fun i : Fin 64 => live (idxOf (fieldOf names (2 * i.val) 2))
    knames := Vector.ofFn fun i : Fin 8 => if i.val == 0 then none else live (idxOf (fieldOf names (126 + 2 * i.val) 2))
    nodes := ns
    budget := s.th.rcp.budget
    lqs := Vector.ofFn fun i : Fin 4 => lqOf lqs x i.val
    pending := x.pending.filter fun i => ns.any fun n => n.idx == i }

/-- R32, R33: a tile of an image: rows 0 to HWM - 1. -/
def State.imageTile (s : State) (ar : Area) (m hwm : Nat) (saved : Bool) : Tile :=
  let b := s.areaRead ar (offTiles + 0x10000 * m) (512 * hwm)
  { rows := (List.range hwm).map fun r => (List.range 128).map fun c => BitVec.ofNat 32 (fieldOf b (512 * r + 4 * c) 4)
    dirty := false
    saved := saved
    poisoned := s.areaBad ar ((List.range (8 * hwm)).map fun k => (k, offTiles + 0x10000 * m + 64 * k)) }

/-- R290: the SSB state of an image. -/
def State.imageSsb (s : State) (ar : Area) (saved : Bool) : Ssb :=
  let b := s.areaRead ar offSsb 65536
  { rows := s.th.ssbRows fun p n => BitVec.ofNat 32 (fieldOf b (512 * p + 4 * n) 4)
    dirty := false
    saved := saved
    poisoned := s.areaBad ar ((List.range 1024).map fun k => (k, offSsb + 64 * k)) }

/-- R270: the saved B-store rows of an image, before its descriptors are replayed. -/
def State.imageRows (s : State) (ar : Area) (x : Extra) (have_ : Bool) : BStore :=
  let base := s.th.sr.browbase
  let n := if have_ then min x.rows (s.th.sr.browlim - base) else 0
  let rows := (List.range n).map fun r => (base + r, s.areaRead ar (offRows + 512 * r) 512)
  { rows := rows.filter fun r => r.2.any fun b => b != 0
    poisoned := s.areaBad ar ((List.range (8 * n)).map fun k => (8 * base + k, offRows + 64 * k))
    written := if have_ then x.written.map fun r => base + r else []
    descs := [] }

/-- R150, R168: the dropped stores of an image, oldest first, with the numbers they were posted with. -/
def imageDrops (b : List Byte) (x : Extra) : List Dropped :=
  (List.range (min 32 (fieldOf b 0 8))).map fun i =>
    let c := x.drops.getD i (i, causeStep, accWrite, false)
    ⟨c.1, wordOf b (8 + 16 * i), wordOf b (16 + 16 * i), c.2.1, c.2.2.1, c.2.2.2⟩

/-- R270: the valid descriptors of an image, oldest first, each with the order number and PC of its BLOAD. -/
def imageDescs (b : List Byte) (x : Extra) (base : Nat) : List (BDesc × W64) :=
  let valid := (List.range 256).filterMap fun i =>
    let r := (b.drop (32 * i)).take 32
    if fieldOf r 28 1 % 2 == 1 then some (descOf r) else none
  valid.zipIdx.map fun u =>
    let m := x.descs.getD u.2 (0, 0)
    ({ u.1 with seq := base + m.1 }, BitVec.ofNat 64 m.2)

/-- R331, R336: the pair's stash as an image of a task gives it; lines fill on first touch. -/
def Pair.loadStash (p : Pair) (b : List Byte) (task : Nat) : Pair :=
  { p with
    ways := min 12 (fieldOf b 0 8)
    owner := if fieldOf b 0 8 == 0 then none else some task
    slots := Vector.ofFn fun i : Fin 16 =>
      let o := 8 + 32 * i.val
      if fieldOf b (o + 16) 1 % 2 == 1 then some ⟨fieldOf b o 8, fieldOf b (o + 8) 4, fieldOf b (o + 12) 4⟩ else none
    lines := [] }

/-- R308: the communication set as an image gives it. -/
def Comm.load (c : Comm) (b : List Byte) : Comm :=
  { c with cds := Vector.ofFn fun i : Fin 64 => wordOf b (8 * i.val), sems := wordOf b 512 }

/-- The traffic of a restore: every part that an image of the thread in focus holds is read, `t` being the state once it is
loaded. -/
def State.imageUse (s t : State) (a : W64) (ar : Area) : State :=
  (t.imageParts true true 0 false 0).foldl (fun u p => u.areaUse a ar p.1 p.2.length) s

/-! ### Replay of B-store descriptors (R270) -/

/-- The entry a descriptor's BLOAD runs under; one that had completed lowers no counter again. -/
def BDesc.entry (d : BDesc) (pc : W64) : Entry :=
  let word := match decodeOpc d.word with
    | some (.bload f) => if d.inc then d.word else packT 0x8B { f with cce := 0, cc := 0 }
    | _ => d.word
  let e : Entry :=
    { word := word, pc := pc, a := d.xa, b := d.xb, c := 0, d := 0, rseed := 0, aw := 0, stepno := 0, fctrl := 0,
      smode := false, slot := false, seq := d.seq, node := none, lsrc := 5, len := d.n, serial := false, nojoin := false,
      prog := 0, reads := [], writes := [] }
  { e with reads := (e.rangesAt d.n).elim [] Prod.fst }

/-- Rows of a descriptor replayed from row `k`; at a row that cannot be loaded, its number and why. A row that BFROMT has
written since keeps what the image holds of it (log entry 95), and an earlier MOPA in progress finds the rows replayed (log
entry 111). -/
def State.replayRows (s : State) (e : Entry) : Nat → Nat → State × Option (Nat × UnitStop)
  | 0, _ => (s, none)
  | n + 1, k =>
    if s.th.bst.written.contains (s.th.sr.browbase + e.geo.p + k) then State.replayRows s e n (k + 1)
    else match s.loadRow e k with
    | .error r => (s, some (k, r))
    | .ok (b, s1) =>
      State.replayRows { s1 with th.bst := s1.th.bst.put (s1.th.sr.browbase + e.geo.p + k) b true } e n (k + 1)

/-- A descriptor whose replay goes on as an operation from row `k`. One whose BLOAD had completed stays a completed one's,
which has filled all its rows. -/
def State.replayLater (s : State) (d : BDesc) (e : Entry) (k : Nat) : State :=
  { s with th.dsp.bloads := s.th.dsp.bloads ++ [{ Op.fresh e d.n s.now with prog := k }]
           th.bst.descs := s.th.bst.descs ++ [{ d with done := if d.inc then k else d.n }] }

/-- R270: the descriptors replayed in order. Once one meets a fault, or a row that must wait, it and every later one goes
on as an operation. -/
def State.replay (s : State) (ds : List (BDesc × W64)) : State :=
  ds.foldl (fun s d =>
    let e := d.1.entry d.2
    if !s.th.dsp.bloads.isEmpty then s.replayLater d.1 e 0
    else
      match s.replayRows e d.1.n 0 with
      | (s1, none) =>
        let t := if d.1.inc then s1.th.lower e.word else s1.th
        { s1 with th := { t with bst.descs := t.bst.descs ++ [{ d.1 with inc := false }] } }
      | (s1, some (k, r)) =>
        let s2 := s1.replayLater d.1 e k
        match s2.th.dsp.bloads.getLast? with
        | some o => s2.unitStop o accRead r
        | none => s2) s

/-! ### A restore -/

/-- Whether any progress record of an image is in use (R170). -/
def anyProgress (b : List Byte) : Bool := (List.range 16).any fun i => fieldOf b (32 * i + 20) 1 != 0

/-- R32, R168, R203: loads the thread in focus from an image, the x registers, the mode and the trap registers apart.
`base` is added to the image's order numbers, and `stop` leaves all its operations stopped. -/
def State.loadImage (s : State) (ar : Area) (base : Nat) (stop : Bool) : State :=
  let x := s.extraOf ar
  let get (off n : Nat) : List Byte := s.areaRead ar off n
  let h := get 0 256
  let prog := get offProgress 512
  let record (i : Nat) : List Byte := (prog.drop (32 * i)).take 32
  let ns := (imageNodes (nodeRecords (get offNodes 16384)) x base).map s.restoredNode
  let pass (i : Nat) : Option Pass :=
    passOf (record i) (get (offCarries + 0x4000 * i) 16384) (x.passes.getD i none) base s.now stop
  let p0 := pass 0
  let p1 := pass 1
  let es := imageEntries (get offEntries 2048) x base
  let op (k i : Nat) : Option Op :=
    if fieldOf prog (32 * i + 20) 1 != k + 1 then none
    else (es.find? fun u => u.2.kind == k).map fun u => opOf (s.restoredEntry u.1) u.2 (some (record i)) s.now stop
  let others := (es.filter fun u => 4 ≤ u.2.kind).zipIdx.map fun u =>
    (u.1.2.kind, opOf (s.restoredEntry u.1.1) u.1.2 (if u.2 < 11 then some (record (5 + u.2)) else none) s.now stop)
  let other (k : Nat) : List Op := (others.filter fun u => u.1 == k).map Prod.snd
  let regs := get offRegs 1024
  let sr := s.th.sr.load regs stop
  let t : Thread := { s.th with
    sr := sr
    cc := Vector.ofFn fun i : Fin 8 => BitVec.ofNat 16 (fieldOf regs (8 * (0x30 + i.val)) 2)
    rcp := s.imageRecipe (get offNames 144) (get offLqs 516) ns x
    dsp := { Dispatch.reset with
      queue := (es.filter fun u => u.2.kind == 0).map fun u => s.restoredEntry u.1
      nextSeq := base + x.nextSeq
      pass0 := p0
      pass1 := p1
      matrix := op 1 2
      ssb := op 2 3
      copy := op 3 4
      shelf := other 4
      stopped := x.stopped
      paused := x.paused
      nested := x.nested
      waitU := x.waitU
      waitS := x.waitS }
    tiles := Vector.ofFn fun i : Fin 8 => s.imageTile ar i.val (min 128 (fieldOf h (20 + 2 * i.val) 2)) (x.saved.testBit i.val)
    ssb := if ssSet sr.ssinfo then State.imageSsb { s with th.sr := sr } ar (x.saved.testBit 8) else ⟨[], false, x.saved.testBit 8, []⟩
    bst := State.imageRows { s with th.sr := sr } ar x (fieldOf h 16 2 / 256 % 2 == 1) }
  let s1 := { s with th := t }
  let s2 := s1.setPair (s1.pair.loadStash (get offStash 520) s1.th.task)
  let s3 := if s2.th.holdsComm then s2.setComm (s2.comm.load (get offComm 520)) else s2
  let s4 := s3.replay (imageDescs (get offDescs 8192) x base)
  { s4 with th.dsp.bloads := other 5 ++ s4.th.dsp.bloads }

/-! ### CTXSV and CTXRS (R170) -/

/-- R31, R271, R319: a running operation with no boundary short of its end: one that runs in one piece, or a copy on DEV
pages. -/
def Op.mustEnd (o : Op) : Bool :=
  !o.halted && (o.dev || !match decodeOpc o.e.word with
    | some (.mopa _) | some (.mops _) | some (.mopt _) | some (.mtld _) | some (.mtst _) | some (.mpack _) | some (.bload _)
    | some (.sscan _) | some (.ssstep _) | some (.cpy _) | some (.cpy2d _) | some (.cpyt _) | some (.cpyx _)
    | some (.cpyf _) | some (.cpyr _) | some (.cpypub _) => true
    | _ => false)

/-- R170: work that must be over before CTXSV or CTXRS acts: S-mode operations, and for a save operations with no
boundary short of their end. -/
def Thread.contextBusy (t : Thread) (save : Bool) : Bool :=
  t.dsp.queue.any (fun e => e.smode) || t.dsp.passes.any (fun p => p.smode) || t.dsp.ops.any (fun o => o.e.smode) ||
    (save && t.dsp.ops.any Op.mustEnd)

/-- R31, R170: the thread's U-mode operations stop. -/
def Thread.stopUser (t : Thread) : Thread :=
  let p (q : Pass) : Pass := { q with halted := true, hold := none }
  let o (q : Op) : Op := { q with halted := true, hold := none }
  { t with dsp := { t.dsp with
      pass0 := t.dsp.pass0.map p, pass1 := t.dsp.pass1.map p, matrix := t.dsp.matrix.map o, bloads := t.dsp.bloads.map o,
      ssb := t.dsp.ssb.map o, copy := t.dsp.copy.map o, shelf := t.dsp.shelf.map o, paused := true } }

/-- R170: the area of CTXSV or CTXRS, once it may be reached. -/
def State.contextArea (s : State) (a : W64) (kind : Nat) : Except Issue (Area × State) :=
  if a.toNat % 65536 != 0 then .error (.trap (TrapInfo.at causeMisaligned kind a))
  else
    match s.areaAt kind areaPages a with
    | .error e => .error (e.issue a kind)
    | .ok (ar, s1) =>
      if s.th.contextBusy (kind == accWrite) then .error (.wait .drain false 0)
      else
        let h := s1.areaHeld ar
        if h.1 then .error (.wait .drain false 0) else .ok (ar, h.2)

/-- R170: CTXSV. -/
def State.ctxsv (s : State) (a : W64) : Issue :=
  match s.contextArea a accWrite with
  | .error i => i
  | .ok (ar, s1) =>
    let full := a != s.th.tr.ctxarea
    let s2 := State.laneBoundary { s1 with th := s1.th.stopUser }
    let s3 := s2.saveImage a ar full false s.th.tr.trappc false
    .done { s3 with th.tr.ctxarea := a }.retire

def execCtxsv (f : FM) (s : State) : Host.Outcome State Fault Refusal := s.privileged (s.settle (s.ctxsv (s.address f)))

/-- R122: the first poisoned block of the regions that a restore reads as control; other poison travels with its blocks
(log entry 96). -/
def State.imageBad (s : State) (a : W64) (ar : Area) : Option W64 :=
  ((s.areaBad ar ((List.range 1024).map fun i => (64 * i, 64 * i))) ++
    s.areaBad ar ((List.range 1024).map fun i => (offDescs + 64 * i, offDescs + 64 * i))).head?.map fun o =>
      a + BitVec.ofNat 64 o

/-- R169, R170: the trap registers as CTXRS leaves them: the image's, with TRAPPC from its PC, PM U, and STOP set where a
progress record is in use. -/
def TrapRegs.loadUser (h : List Byte) (a : W64) (stop : Bool) : TrapRegs :=
  let w (i : Nat) : W64 := wordOf h (112 + 8 * i)
  { trapvec := w 0 &&& ~~~7, trappc := wordOf h 8 &&& ~~~7, trapcause := w 2 &&& 0xF3F, traproot := w 3, trapnode := w 4,
    trapelem := w 5, trapaddr := w 6, trapstat := (w 7 &&& 0xFBC0) ||| (if stop then 0x200 else 0), ctxarea := a }

/-- R116, R169, R170: the context's number and step state as CTXRS loads them. -/
def Task.loadHeader (t : Task) (h : List Byte) : Task :=
  { t with ctxid := wordOf h 56, stepno := wordOf h 64, stepdone := wordOf h 72, cmap := BitVec.ofNat 256 (fieldOf h 80 32) }

/-- The pages of an area where a read finds them now, whatever step comes. -/
def State.pinned (s : State) (ar : Area) : Area := ar.map fun x => ⟨x.leafPa, x.leaf &&& ~~~0x200, s.readPa x⟩

/-- R170, R199: what stands stopped after CTXRS: what the image says a fault had stopped, or all that it had in progress. -/
def stoppedOf (image : Option OpRef) (base : Nat) (was stop : Bool) : Option OpRef :=
  match (if was then image else none) with
  | some (.entry n) => some (.entry (base + n))
  | some (.op n) => some (.op (base + n))
  | some r => some r
  | none => if stop then some .restored else none

/-- R170: CTXRS. -/
def State.ctxrs (s : State) (a : W64) : Issue :=
  match s.contextArea a accRead with
  | .error i => i
  | .ok (ar, s1) =>
    match s1.imageBad a ar with
    | some va => .trap (TrapInfo.at causePoison accRead va)
    | none =>
      let h := s1.areaRead ar 0 256
      if !headerOk h s.th.tileCount || !recordsOk (nodeRecords (s1.areaRead ar offNodes 16384)) then Issue.fault causeRange
      else
        let stop := anyProgress (s1.areaRead ar offProgress 512)
        let x := s1.extraOf ar
        let drops := ((imageDrops (s1.areaRead ar offDropped 520) x).zipIdx).map fun u => { u.1 with seq := u.2 }
        let d := s1.th.dsp
        let loaded (s : State) : State := State.loadImage { s.updTask fun t => t.loadHeader h with
          th.dsp := { Dispatch.reset with nextSeq := d.nextSeq }
          th.tr := TrapRegs.loadUser h a stop
          th.fe.dropped := drops ++ (s.th.fe.dropped.filter fun (u : Dropped) => u.smode).map fun (u : Dropped) =>
            { u with seq := 32 + u.seq } } (s1.pinned ar) d.nextSeq true
        let s3 := loaded (s1.imageUse (loaded s1) a ar)
        let d1 : Dispatch := { s3.th.dsp with
          stopped := stoppedOf x.stopped d.nextSeq (fieldOf h 168 8 / 512 % 2 == 1) stop
          paused := true
          nested := d.nested
          waitU := false
          waitS := d.waitS
          deferred := (d.deferred.filter fun (f : DFault) => f.smode) ++ s3.th.dsp.deferred }
        .done (State.laneBoundary { s3 with th.dsp := d1 }).retire

def execCtxrs (f : FM) (s : State) : Host.Outcome State Fault Refusal := s.privileged (s.settle (s.ctxrs (s.address f)))

end Sys2Proof.Machine
end

