-- ==== Sys2Proof/Machine/Launch.lean ====
section
/-! DEFINITION. Machine/Launch.lean: the launch engine (R341 to R361): records, their checks and conditions, leases,
placement, task start and end, pre-emption and resumption, migration, YIELD, doorbells and configuration writes. -/

namespace Sys2Proof.Machine

/-! ### The engine's accesses -/

/-- The launch engine's own accesses belong to no pair and no task: they take no tokens, and their requests are of no
context (R113, R358). -/
def State.byEngine {α : Type} (s : State) (f : State → α × State) : α × State :=
  let r := f { s with th.cluster := 1000, th.task := 0 }
  (r.1, { r.2 with th.cluster := s.th.cluster, th.task := s.th.task })

/-- R99: the context of the engine's accesses for a queue. -/
def Queue.ctx (u : Queue) : Ctx := ⟨u.part, none, u.conf.ptbase⟩

/-- What the engine finds at a virtual address: a translation, a page whose leaf is not valid (R351), a failed check, or
a wait. -/
inductive Found where
  | page (x : Xl) (s : State)
  | invalid
  | bad
  | wait

/-- Whether a leaf is valid at an address; none where the walk does not reach one. -/
def State.leafAt (s : State) (ptbase va : W64) : Option Bool :=
  match s.walk ptbase accRead va with
  | .ok w => some (leafV w.leaf)
  | .error _ => none

/-- The engine's translation of an address of its queue (R344), and its access there, unless the host refuses it. -/
def State.find (s : State) (u : Queue) (kind : Nat) (va : W64) : Found :=
  let r := s.byEngine fun s => match s.translate u.ctx true kind va with
    | .ok (x, s1) => ((.ok x : Except Stop Xl), s1)
    | .error e => (.error e, s)
  match r.1 with
  | .error .held | .error .busy => .wait
  | .error _ => if canonical va && s.leafAt u.conf.ptbase va == some false then .invalid else .bad
  | .ok x =>
    if r.2.shutAt x.pa then .wait
    else
      let h := r.2.hostRefuses x
      if h.1 then .bad else .page x h.2

/-- What an engine's read gives. -/
inductive Fetch where
  | bytes (b : List Byte) (s : State)
  | invalid
  | bad
  | wait

/-- Bytes at an address, on one page. -/
def State.engineRead (s : State) (u : Queue) (va : W64) (n : Nat) : Fetch :=
  match s.find u accRead va with
  | .invalid => .invalid
  | .bad => .bad
  | .wait => .wait
  | .page x s1 =>
    let r := s1.byEngine fun s => match s.loadNow false accRead x va n with
      | .ok (b, s2) => (some b, s2)
      | .error _ => (none, s)
    match r.1 with
    | some b => .bytes b r.2
    | none => .bad

/-! ### Records (R344, R346, R347) -/

/-- A group's flag. -/
def groupFlag (gflags g : Nat) : Nat := gflags / 4 ^ g % 4

/-- R346: a group in use. -/
def groupUsed (gflags g : Nat) : Bool := groupFlag gflags g == 1 || groupFlag gflags g == 2

/-- Bytes all zero. -/
def zeroAt (b : List Byte) (off n : Nat) : Bool := fieldOf b off n == 0

/-- R347: a version-1 record in its version-2 form. -/
def widenRecord (b : List Byte) : List Byte :=
  let kinds := [76, 92, 108, 124].any fun o => !zeroAt b o 1
  let gflags := (if kinds then 2 else 0) + if zeroAt b 128 16 then 0 else 8
  leBytes 2 2 ++ leBytes 2 gflags ++ padTo 252 ((b.drop 4).take 140)

/-- R347: what a version-1 record reserves. -/
def narrowOk (b : List Byte) : Bool := zeroAt b 1 3 && zeroAt b 144 48

/-- R344: a wait condition as (kind, value, address). -/
def waitAt (b : List Byte) (i : Nat) : Nat × Nat × W64 :=
  let o := 64 + 16 * i
  (fieldOf b (o + 12) 1, fieldOf b (o + 8) 4, wordOf b o)

/-- R344: a wait condition within its values. -/
def waitOk (b : List Byte) (i : Nat) : Bool :=
  let w := waitAt b i
  zeroAt b (64 + 16 * i + 13) 3 && w.1 < 3 && !(w.1 == 1 && w.2.2.toNat % 16 != 0) && !(w.1 == 2 && 64 ≤ w.2.2.toNat)

/-- R344: the stash slot at an offset as (g, offset, length). -/
def recordSlot (b : List Byte) (o : Nat) : W64 × Nat × Nat := (wordOf b o, fieldOf b (o + 8) 4, fieldOf b (o + 12) 4)

/-- R333, R344: group 2 within its limits. -/
def recordStashOk (b : List Byte) : Bool :=
  let w := fieldOf b 144 1
  let sa := recordSlot b 152
  let sb := recordSlot b 168
  let one (u : W64 × Nat × Nat) : Bool :=
    u.1.toNat % 128 == 0 && u.2.1 % 128 == 0 && u.2.2 % 128 == 0 && u.2.1 + u.2.2 ≤ 32768 * w
  w ≤ 12 && one sa && one sb &&
    !((Rng.span sa.2.1 sa.2.2).meets (Rng.span sb.2.1 sb.2.2) || (Rng.span sa.1.toNat sa.2.2).meets (Rng.span sb.1.toNat sb.2.2))

/-- R348: check 1 of a record in its version-2 form. -/
def recordOk (b : List Byte) : Bool :=
  let g := fieldOf b 2 2
  fieldOf b 0 1 == 2 && fieldOf b 1 1 < 2 && fieldOf b 4 4 < 2 ^ 18 && zeroAt b 8 8 && zeroAt b 48 4 && zeroAt b 56 8 &&
    zeroAt b 145 7 && zeroAt b 192 64 && (List.range 4).all (waitOk b) && (!groupUsed g 2 || recordStashOk b) &&
    fieldOf b 16 8 % 128 == 0 && fieldOf b 24 8 % 8 == 0 && fieldOf b 32 8 % 32 == 0 &&
    (!groupUsed g 3 || fieldOf b 184 8 % 16 == 0)

/-- R346, R348: check 2. -/
def groupsOk (b : List Byte) : Bool :=
  let g := fieldOf b 2 2
  let one (i off n : Nat) : Bool := groupUsed g i || (groupFlag g i == 0 && zeroAt b off n)
  one 0 64 64 && one 1 128 16 && one 2 144 40 && one 3 184 8 && [4, 5, 6, 7].all fun i => groupFlag g i < 2

/-- R344: a checked record. -/
def recordOf (b : List Byte) : Record :=
  let g := fieldOf b 2 2
  { sa := fieldOf b 1 1 % 2 == 1, shape := BitVec.ofNat 18 (fieldOf b 4 4), khdr := wordOf b 16, args := wordOf b 24,
    compl := wordOf b 32, tag := wordOf b 40, cmask := BitVec.ofNat 32 (fieldOf b 52 4),
    waits := if groupUsed g 0 then (List.range 4).map (waitAt b) else [],
    tbudget := if groupUsed g 1 then fieldOf b 128 8 else 0, ebudget := if groupUsed g 1 then fieldOf b 136 8 else 0,
    stash := if groupUsed g 2 then some (fieldOf b 144 1, [recordSlot b 152, recordSlot b 168]) else none,
    doneaw := if groupUsed g 3 then some (wordOf b 184) else none }

/-- R20: the fields of a shape. -/
def Record.nc (r : Record) : Nat := (slice r.shape 0 8).toNat
def Record.np (r : Record) : Nat := (slice r.shape 8 4).toNat
def Record.nt (r : Record) : Nat := (slice r.shape 12 3).toNat
def Record.ns (r : Record) : Nat := (slice r.shape 15 3).toNat
/-- Threads on each pair. -/
def Record.perPair (r : Record) : Nat := r.nt * r.ns
/-- Threads of the task. -/
def Record.threads (r : Record) : Nat := r.nc * r.np * r.perPair

/-- R18. -/
def Record.shapeOk (r : Record) (clusters : Nat) : Bool :=
  1 ≤ r.nc && r.nc ≤ clusters && 1 ≤ r.np && r.np ≤ 8 && 1 ≤ r.nt && 1 ≤ r.ns && r.perPair ≤ 4

/-- R91: a kernel header within its values. Neither a non-canonical ENTRY nor a code range that runs past the canonical addresses
is outside them: such a task starts, and its fetches fault (DESIGN CHOICE, log entry 116). -/
def headerValid (b : List Byte) : Bool :=
  let range (i : Nat) : Bool :=
    let v := fieldOf b (32 + 4 * i) 4
    v == 0 || (2 ^ 31 ≤ v && v / 2 ^ 16 % 2 ^ 14 == 0 && v / 256 % 256 < 32 && v % 256 < 32)
  fieldOf b 0 4 == 0x484B4A46 && fieldOf b 4 1 == 1 && fieldOf b 5 1 ≤ 8 && fieldOf b 6 1 < 16 && fieldOf b 7 1 ≤ 4 &&
    fieldOf b 8 2 ≤ 256 && zeroAt b 10 6 && fieldOf b 16 8 % 8 == 0 && fieldOf b 24 4 % 8 == 0 && !zeroAt b 24 4 &&
    zeroAt b 28 4 && zeroAt b 104 24 && (List.range 16).all range

/-- R91: a valid header. -/
def kernelOf (b : List Byte) : Kernel :=
  { entry := wordOf b 16, codelen := fieldOf b 24 4, nodes := if zeroAt b 8 2 then 256 else fieldOf b 8 2,
    stages := fieldOf b 7 1, lanes := fieldOf b 6 1, tiles := fieldOf b 5 1,
    ranges := (List.range 16).filterMap fun i =>
      let v := fieldOf b (32 + 4 * i) 4
      if v == 0 then none else some (i, v % 256, v / 256 % 256, v / 2 ^ 30 % 2 == 1) }

/-! ### Placement (R350) -/

/-- The fractions of a queue's set. -/
def State.fracsOf (s : State) (u : Queue) : List Fraction := s.fractions.filter fun f => u.conf.fractions.contains f.id

/-- A partition by number. -/
def State.part? (s : State) (n : Nat) : Option Part := s.parts.find? fun p => p.conf.id == n

/-- R358, R384: a pair lies in a queue's fraction set, on a cell of its partition that is ready. -/
def State.inFractions (s : State) (u : Queue) (c p : Nat) : Bool :=
  s.boot.ready.contains (c / 4) && ((s.part? u.part).elim false fun a => a.conf.cells.contains (c / 4)) &&
    (s.fracsOf u).any fun f => f.cell == c / 4 && bitAt f.pairMask (8 * (c % 4) + p)

/-- The threads a pair holds, tasks `out` apart. -/
def State.holders (s : State) (out : List Nat) (c p : Nat) : List Thread :=
  s.threads.filter fun t =>
    (t.run == .running || t.run == .ended) && t.cluster == c && t.pair == p && !out.contains t.task

/-- Numbers in ascending order. -/
def ascending (l : List Nat) : List Nat := l.foldr (fun n l => (l.takeWhile fun m => m < n) ++ n :: l.dropWhile fun m => m < n) []

/-- R253: the first rows of ranges of the given sizes, apart from one another and from the ranges in use: each at row 0 or
at the end of another, the lowest that leaves room for the ranges after it. A thread without rows has row 0. -/
def rowBases : List Nat → List (Nat × Nat) → Option (List Nat)
  | [], _ => some []
  | n :: ns, busy =>
    if n == 0 then (rowBases ns busy).map fun l => 0 :: l
    else
      (ascending (0 :: busy.map Prod.snd)).findSome? fun b =>
        if b + n ≤ 16384 && busy.all fun u => b + n ≤ u.1 || u.2 ≤ b
        then (rowBases ns ((b, b + n) :: busy)).map fun l => b :: l else none

/-- The row ranges in use on a pair. -/
def rowsUsed (ts : List Thread) : List (Nat × Nat) :=
  (ts.map fun t => (t.sr.browbase, t.sr.browlim)).filter fun u => u.1 < u.2

/-- R350: a pair can take threads of a record that hold `rows` B-store rows. -/
def State.pairFits (s : State) (out : List Nat) (r : Record) (k : Kernel) (rows : List Nat) (c p : Nat) : Bool :=
  let ts := s.holders out c p
  let ways := (r.stash.map Prod.fst).getD 0
  ts.length + r.perPair ≤ 4 && (ts.map fun t => t.tileCount).sum + k.tiles * r.perPair ≤ 16 &&
    (rowBases rows (rowsUsed ts)).isSome && (ts.isEmpty || (ways == 0 && (s.pairOf c p).ways == 0))

/-- R308, R350: a cluster has a free communication set. -/
def State.commFree (s : State) (out : List Nat) (c : Nat) : Bool :=
  (s.comms.filter fun m => m.cluster == c && !out.contains m.task).length < 8

/-- The lowest of the places `ps`, in order, that fit: one for each item. -/
def lowestFit {α β : Type} (fits : α → Nat → Option β) : List α → List Nat → Option (List β)
  | [], _ => some []
  | _ :: _, [] => none
  | a :: as, p :: ps =>
    match fits a p with
    | some b => (lowestFit fits as ps).map fun l => b :: l
    | none => lowestFit fits (a :: as) ps

/-- The B-store rows of the threads of the i-th pair of a task, of those of all its threads. -/
def Record.rowsAt (r : Record) (rows : List Nat) (i : Nat) : List Nat := (rows.drop (i * r.perPair)).take r.perPair

/-- R350: the pairs a record's task would take, its threads holding `rows` B-store rows, were tasks `out` gone: the
lowest-numbered clusters, and the lowest-numbered pairs of each. -/
def State.place (s : State) (out : List Nat) (u : Queue) (r : Record) (k : Kernel) (rows : List Nat) :
    Option (List (Nat × Nat)) :=
  let pair (c i p : Nat) : Option (Nat × Nat) :=
    if s.inFractions u c p && s.pairFits out r k (r.rowsAt rows i) c p then some (c, p) else none
  let cluster (j c : Nat) : Option (List (Nat × Nat)) :=
    if (r.cmask != 0 && !bitAt r.cmask c) || !s.commFree out c then none
    else lowestFit (pair c) ((List.range r.np).map fun i => j * r.np + i) (List.range 8)
  (lowestFit cluster (List.range r.nc) (List.range 32)).map List.flatten

/-- R253, R350: the B-store rows of the threads of a new task. -/
def newRows (r : Record) (k : Kernel) : List Nat := List.replicate r.threads (1024 * k.tiles)

/-- R348, R350: check 6: the fraction set could hold the task were it empty. -/
def State.placeable (s : State) (u : Queue) (r : Record) (k : Kernel) : Bool :=
  ({ s with th := Thread.reset, rest := [], comms := [], pairs := [] }.place [] u r k (newRows r k)).isSome

/-! ### Completion (R349, R352) -/

def State.mapPart (s : State) (n : Nat) (f : Part → Part) : State :=
  { s with parts := s.parts.map fun p => if p.conf.id == n then f p else p }

/-- R349, R351: a notification of the engine. -/
def State.notify (s : State) (part kind queue index : Nat) (v : W64) : State :=
  match s.part? part with
  | some p => s.post p.conf.nqbase.toNat (BitVec.ofNat 64 (kind + queue % 2 ^ 16 * 2 ^ 16 + index % 2 ^ 32 * 2 ^ 32)) v
  | none => s

/-- R349: the completion record. -/
def complBytes (status index : Nat) (tag : W64) (tused eused : Nat) : List Byte :=
  leBytes 4 status ++ leBytes 4 index ++ leBytes 8 tag.toNat ++ leBytes 8 tused ++ leBytes 8 eused

/-- R349: the write of a completion record, given up or reported as lost, and where it goes; none while the engine must
wait. -/
def State.writeCompl (s : State) (u : Queue) (index : Nat) (compl : W64) (bytes : List Byte) : Option (List Nat × State) :=
  let lost (s : State) : List Nat × State :=
    ([], (s.report (.completionLost u.part u.q index)).notify u.part 4 u.q index compl)
  if compl == 0 then some ([], s)
  else if compl.toNat % 32 != 0 then some (lost s)
  else
    match s.find u accWrite compl with
    | .wait => none
    | .page x s1 =>
      if leafSd x.leaf || leafCls x.leaf == clsDev then some (lost s)
      else
        (match s1.writePa x s1.task.stepno with
          | some (pa, s2) => some ([pa], s2.owe (.write pa bytes))
          | none => some (lost s))
    | _ => some (lost s)

/-- R328, R349, R352: DONEAW counted by 1, or reported as lost, and where it lies; none while the engine must wait. -/
def State.countDone (s : State) (u : Queue) (index : Nat) (aw : Option W64) : Option (List Nat × State) :=
  match aw with
  | none => some ([], s)
  | some va =>
    let lost : List Nat × State := ([], (s.report (.countLost u.part u.q index)).notify u.part 5 u.q index va)
    match s.find u accAtomic va with
    | .wait => none
    | .page x s1 =>
      if !arrivalPage x.leaf || (s1.poisonIn x.pa 16).isSome then some lost
      else some ([x.pa], s1.owe (.arrive x.pa 1 none))
    | _ => some lost

/-- R346, R349, R352: the last steps of a record, in order: its completion record, DONEAW, DONE; none while the engine must
wait. -/
def State.concludeAt (s : State) (u : Queue) (index : Nat) (compl : W64) (bytes : List Byte) (aw : Option W64) :
    Option State :=
  match s.writeCompl u index compl bytes with
  | none => none
  | some (a, s1) =>
    match s1.countDone u index aw with
    | none => none
    | some (b, s2) => some (s2.owe (.done u.part u.q index (a ++ b)))

/-- R346, R348: a record is rejected. -/
def State.reject (s : State) (u : Queue) (index status : Nat) (r : Record) : Option State :=
  s.concludeAt u index r.compl (complBytes status index r.tag 0 0) r.doneaw

/-! ### Leases (R351) -/

/-- R351: how setting up a lease goes on: it is well formed so far, it fails, or the engine waits. -/
inductive Let_ where
  | goes (l : Letting) (s : State)
  | fails
  | wait

/-- R351 step 3: pages whose leaf is not valid are notified, each once. -/
def State.noteAll (s : State) (part q index : Nat) (l : Letting) (pages : List Nat) : Letting × State :=
  pages.foldl (fun (r : Letting × State) p =>
    if r.1.noted.contains p then r
    else ({ r.1 with noted := p :: r.1.noted }, r.2.notify part 2 q index (BitVec.ofNat 64 p))) (l, s)

/-- R351 step 1: an argument dword. -/
def State.argAt (s : State) (u : Queue) (args : W64) (n : Nat) : Fetch := s.engineRead u (args + BitVec.ofNat 64 (8 * n)) 8

/-- The page of an address. -/
def pageOf (va : W64) : Nat := va.toNat / 65536 * 65536

/-- R351 step 2: a base and a length that a range may have. -/
def rangeOk (base : W64) (len : Nat) : Bool :=
  canonical base && (len == 0 || (base.toNat + len ≤ 2 ^ 64 && canonical (base + BitVec.ofNat 64 (len - 1))))

/-- R351 steps 1 and 2: the ranges, or the page of an argument dword whose leaf is not valid. -/
def State.readRanges (s : State) (u : Queue) (args : W64) : List (Nat × Nat × Nat × Bool) →
    Option (Except Nat (List (Nat × LeaseRange) × State) × Bool)
  | [] => some (.ok ([], s), true)
  | d :: ds =>
    let page (n : Nat) : Nat := pageOf (args + BitVec.ofNat 64 (8 * n))
    match s.argAt u args d.2.1 with
    | .wait => none
    | .bad => some (.error 0, false)
    | .invalid => some (.error (page d.2.1), true)
    | .bytes b s1 =>
      match s1.argAt u args d.2.2.1 with
      | .wait => none
      | .bad => some (.error 0, false)
      | .invalid => some (.error (page d.2.2.1), true)
      | .bytes n s2 =>
        if !rangeOk (BitVec.ofNat 64 (leNat b)) (leNat n) then some (.error 0, false)
        else
          match s2.readRanges u args ds with
          | some (.ok (rs, s3), k) => some (.ok ((d.1, ⟨leNat b, leNat n, d.2.2.2⟩) :: rs, s3), k)
          | r => r

/-- R351: the pages of a lease and of the code. -/
def leasePages (k : Kernel) (rs : List (Nat × LeaseRange)) : List Nat :=
  (pagesOf k.entry.toNat k.codelen) ++ rs.flatMap fun r => pagesOf r.2.base r.2.len

/-- R351: those whose leaf is not valid. -/
def State.missing (s : State) (ptbase : W64) (k : Kernel) (rs : List (Nat × LeaseRange)) : List Nat :=
  (leasePages k rs).filter fun p => s.leafAt ptbase (BitVec.ofNat 64 p) != some true

/-- R351, R367: the walks of pages; none while one must wait. -/
def State.walkPages (s : State) (ptbase : W64) (pages : List Nat) : Option State :=
  let r := s.byEngine fun s => match State.walkReads (pages.flatMap fun p => s.walkPath ptbase (BitVec.ofNat 64 p)) s with
    | some t => (true, t)
    | none => (false, s)
  if r.1 then some r.2 else none

/-- R351: the lease of a record, or of a task that migration has brought, as far as it goes now; `ready` tells whether
every wait condition holds. -/
def State.letOn (s : State) (u : Queue) (index : Nat) (r : Record) (k : Kernel) (ready : Bool) (l : Letting) : Let_ :=
  let ranges : Option (Except Nat (List (Nat × LeaseRange) × State) × Bool) := match l.ranges with
    | some rs => some (.ok (rs, s), true)
    | none => s.readRanges u r.args k.ranges
  match ranges with
  | none => .wait
  | some (.error _, false) => .fails
  | some (.error p, true) =>
    let n := s.noteAll u.part u.q index { l with retry := false } [p]
    .goes n.1 n.2
  | some (.ok (rs, s1), _) =>
    if !ready then .goes { l with ranges := some rs, retry := false } s1
    else
      match s1.walkPages u.conf.ptbase (leasePages k rs) with
      | none => .wait
      | some s2 =>
        let bad := s2.missing u.conf.ptbase k rs
        let n := s2.noteAll u.part u.q index { l with ranges := some rs, ready := bad.isEmpty, retry := false } bad
        .goes n.1 n.2

/-- A lease of which nothing has been set up. -/
def Letting.fresh : Letting := ⟨none, false, [], true⟩

/-! ### RECORD_FETCH (R343, R348) -/

/-- R348: checks 2 to 6 of a record: its kernel, or its status. A header that cannot be read is a bad one at once, on a page
whose leaf is not valid too (DESIGN CHOICE, log entry 97). -/
def State.checkRecord (s : State) (u : Queue) (p : Part) (b : List Byte) (r : Record) : Option (Except Nat (Kernel × State)) :=
  if !groupsOk b then some (.error 4)
  else if !r.shapeOk (4 * p.conf.cells.length) then some (.error 1)
  else
    match s.engineRead u r.khdr 128 with
    | .wait => none
    | .invalid | .bad => some (.error 2)
    | .bytes h s1 =>
      if !headerValid h then some (.error 2)
      else
        let k := kernelOf h
        if k.stages != 0 && k.stages != r.ns then some (.error 1)
        else if !s1.placeable u r k then some (.error 8)
        else some (.ok (k, s1))

/-- R342: a queue has a record to fetch. -/
def Queue.canFetch (u : Queue) : Bool := u.conf.en && u.fetches && u.fetched.isNone && 0 < u.pending

/-- R384: a partition runs only while every cell it names is ready. -/
def State.partOn (s : State) (p : Part) : Bool := 2 ≤ s.boot.stage && p.conf.cells.all fun c => s.boot.ready.contains c

/-- R344: what a rejected record's completion needs; DONEAW only where it is aligned. -/
def rejectedOf (b : List Byte) : Record :=
  let r := recordOf b
  { r with doneaw := r.doneaw.filter fun a => a.toNat % 16 == 0 }

/-- R343 to R348: the next record is fetched and checked. -/
def State.fetchRecord (s : State) (u : Queue) (p : Part) : State :=
  let index := u.cons
  let pa := recordPa u.conf index
  let n := recordBytes u.conf
  if s.shutAt pa then s
  else
    let raw := s.physRead pa n
    let read := if isHost pa then (s.byEngine fun s => ((), s.crossLink n)).2 else s
    let s0 := read.mapQueue u.part u.q fun w => { w with cons := (w.cons + 1) % 2 ^ 32 }
    let out (t : Option State) : State := t.getD s
    if (s.poisonIn pa n).isSome then out (s0.reject u index 3 Record.empty)
    else
      let b := if u.conf.version1 then widenRecord raw else raw
      let ok : Bool := if u.conf.version1 then fieldOf raw 0 1 == 1 && narrowOk raw && recordOk b else recordOk b
      if !ok then out (s0.reject u index 3 (rejectedOf b))
      else
        let r := recordOf b
        match s0.checkRecord u p b r with
        | none => s
        | some (.error st) => out (s0.reject u index st r)
        | some (.ok (k, s1)) =>
          s1.mapQueue u.part u.q fun w =>
            { w with fetched := some ⟨index, r, k, r.waits.map fun c => c.1 == 0, Letting.fresh⟩ }

/-- R350: every wait condition of a fetched record holds. -/
def Fetched.holds (f : Fetched) : Bool := f.held.all id

/-- R351: there is something to try for a fetched record's lease. -/
def Fetched.letDue (f : Fetched) : Bool := f.letting.retry && !f.letting.ready

/-- R348, R351: the lease of the fetched record goes on, or the record is rejected with LEASE_FAIL. -/
def State.letFetched (s : State) (u : Queue) (f : Fetched) : State :=
  match s.letOn u f.index f.record f.kernel f.holds f.letting with
  | .wait => s
  | .fails => ((s.mapQueue u.part u.q fun w => { w with fetched := none }).reject u f.index 5 f.record).getD s
  | .goes l s1 => s1.mapQueue u.part u.q fun w => { w with fetched := some { f with letting := l } }

/-- R343, R348: RECORD_FETCH: a queue's next record is fetched; the lease of a fetched one is set up step by step. -/
def execRecordFetch (part q : Nat) (s : State) : Host.Outcome State Fault Refusal :=
  match s.part? part, s.queue? part q with
  | some p, some u =>
    if p.quiesce || !s.partOn p then .next s
    else
      match u.fetched with
      | some f => .next (if f.letDue then s.letFetched u f else s)
      | none => .next (if u.canFetch then s.fetchRecord u p else s)
  | _, _ => .next s

/-! ### WAIT_CONDITION_HOLD (R345) -/

/-- What a test of a wait condition finds. -/
inductive Cond where
  | holds (s : State)
  | open_
  | invalid
  | bad

/-- R345: a condition tested. -/
def State.testWait (s : State) (u : Queue) (w : Nat × Nat × W64) : Cond :=
  match w.1 with
  | 0 => .holds s
  | 2 =>
    (match s.queue? u.part w.2.2.toNat with
      | some v => if (v.done + 2 ^ 33 - w.2.1 - 1) % 2 ^ 32 < 2 ^ 31 then .holds s else .open_
      | none => .open_)
  | _ =>
    match s.find u accRead w.2.2 with
    | .wait => .open_
    | .invalid => .invalid
    | .bad => .bad
    | .page x s1 =>
      if !arrivalPage x.leaf then .bad
      else
        let r := s1.byEngine fun s => match s.loadNow false accRead x w.2.2 16 with
          | .ok (b, s2) => (some b, s2)
          | .error _ => (none, s)
        match r.1 with
        | none => .bad
        | some b => if arrivalField (leNat b) 2 != w.2.1 then .holds r.2 else .open_

/-- R345: the i-th condition of the queue's fetched record as it stands now. -/
def State.condition (s : State) (u : Queue) (f : Fetched) (i : Nat) : State :=
  if f.held.getD i true then s
  else
    match f.record.waits[i]? with
    | none => s
    | some w =>
      match s.testWait u w with
      | .open_ => s
      | .holds s1 =>
        s1.mapQueue u.part u.q fun v =>
          { v with fetched := some { f with held := f.held.set i true, letting := f.letting.again } }
      | .invalid =>
        let n := s.noteAll u.part u.q f.index f.letting [pageOf w.2.2]
        n.2.mapQueue u.part u.q fun v => { v with fetched := some { f with letting := n.1 } }
      | .bad => ((s.mapQueue u.part u.q fun v => { v with fetched := none }).reject u f.index 3 f.record).getD s

/-- R345: WAIT_CONDITION_HOLD. -/
def execWaitConditionHold (part q i : Nat) (s : State) : Host.Outcome State Fault Refusal :=
  match s.queue? part q with
  | some u =>
    (match u.fetched with
      | some f => .next (s.condition u f i)
      | none => .next s)
  | none => .next s

/-! ### The threads of a task -/

/-- Brings a further thread into the machine. -/
def State.addThread (s : State) (t : Thread) : State :=
  if s.th.run == .idle then { s with th := t } else { s with rest := s.rest ++ [t] }

/-- The threads of a task leave the machine. -/
def State.removeThreads (s : State) (id : Nat) : State :=
  let keep (t : Thread) : Bool := t.task != id || t.run == .idle
  let rest := s.rest.filter keep
  if keep s.th then { s with rest := rest }
  else
    match rest with
    | [] => { s with th := Thread.reset, rest := [] }
    | t :: ts => { s with th := t, rest := ts }

/-- R108, R331: a pair's stash is written back and its ways are cache again. -/
def Pair.freeStash (p : Pair) : Pair := { p with ways := 0, owner := none, slots := Vector.replicate 16 none, lines := [] }

/-- R331: the pairs of a task that is gone, with the stashes that are its own. -/
def State.freePairs (s : State) (id : Nat) (ps : List (Nat × Nat)) : State :=
  ps.foldl (fun s u =>
    let s1 := if (s.pairOf u.1 u.2).owner == some id then s.setPair (s.pairOf u.1 u.2).freeStash else s
    s1.recomputeLanes u.1 u.2) s

/-- Where a thread of a task goes: its cluster, pair and slot, its tiles, its first row, and its ranks. -/
structure Seat where
  cluster : Nat
  pair : Nat
  slot : Nat
  tiles : BitVec 16
  row : Nat
  rc : Nat
  rp : Nat
  t : Nat
  s : Nat

/-- R19, R20, R26, R253: the seats of a task's threads on its pairs, in order of pair, then stage and spatial index, with
the B-store rows each holds. -/
def State.seats (s : State) (r : Record) (k : Kernel) (sizes : List Nat) (ps : List (Nat × Nat)) : List Seat :=
  ps.zipIdx.flatMap fun u =>
    let ts := s.holders [] u.1.1 u.1.2
    let slots := (List.range 4).filter fun i => !ts.any fun t => t.slot == i
    let used := ts.foldl (fun g t => g ||| t.sr.tilegrant) 0
    let tiles := (List.range 16).filter fun i => !bitAt used i
    let rows := (rowBases (r.rowsAt sizes u.2) (rowsUsed ts)).getD []
    (List.range r.perPair).map fun j =>
      { cluster := u.1.1, pair := u.1.2, slot := slots.getD j 0,
        tiles := groupBits ((tiles.drop (j * k.tiles)).take k.tiles), row := rows.getD j 0,
        rc := u.2 / r.np, rp := u.2 % r.np, t := j % r.nt, s := j / r.nt }

/-- R20: COORD. -/
def Seat.coord (p : Seat) : W64 :=
  BitVec.ofNat 64 (p.rp * 2 ^ 21 + p.rc * 2 ^ 16 + p.t * 2 ^ 11 + p.pair * 2 ^ 8 + p.cluster)

/-- R20, R26, R253: a thread's registers that say where it is; `size` is its number of B-store rows. -/
def SRegs.seat (r : SRegs) (p : Seat) (rec : Record) (size : Nat) : SRegs :=
  { r with
    coord := p.coord
    stage := BitVec.ofNat 64 p.s
    shape := rec.shape.setWidth 64
    tilegrant := p.tiles
    browbase := p.row
    browlim := p.row + size
    groups := 0
    target := 0 }

/-- R129, R352: a thread at task start. Bits [2:0] of a PC and of TRAPVEC are zero (R129, R162). -/
def newThread (id : Nat) (r : Record) (k : Kernel) (trapvec area : W64) (p : Seat) : Thread :=
  { Thread.reset with
    cluster := p.cluster
    pair := p.pair
    slot := p.slot
    task := id
    run := .running
    xs := (Vector.replicate 32 0).setIfInBounds 3 r.args
    pc := k.entry &&& ~~~7
    sr := { SRegs.reset.seat p r (1024 * k.tiles) with weight := max 1 k.lanes, divided := max 1 k.lanes, taskarg := r.args }
    tr := { TrapRegs.reset with trapvec := trapvec &&& ~~~7, ctxarea := area }
    rcp := Recipe.reset k.nodes }

/-- R354: a preloaded line is still valid: its page translates as it did. Whether the cache holds it still is a choice, one
bit for each line, 0 for held (log entry 4). -/
def State.preloadHeld (s : State) (ptbase : W64) (mask i : Nat) (l : Preload) : Bool :=
  !mask.testBit i && match s.walk ptbase accRead (BitVec.ofNat 64 l.va) with
    | .ok w => leafV w.leaf && leafAddr w (BitVec.ofNat 64 l.va) == l.pa
    | .error _ => false

/-- R352: group 2's ways and slots on a pair; the lines preloaded for this record in the slots move into the stash, those
invalidated meanwhile apart (R354). -/
def State.startStash (s : State) (u : Nat × Nat) (r : Record) (ptbase : W64) (id : Nat × Nat × Nat) : State :=
  match r.stash with
  | none => s
  | some (w, slots) =>
    let p := s.pairOf u.1 u.2
    let map : List (Option StashSlot) := slots.map fun q => if q.2.2 == 0 then none else some ⟨q.1.toNat, q.2.1, q.2.2⟩
    let in_ (va : Nat) : Bool := map.any fun q => q.elim false fun q => q.g ≤ va && va < q.g + q.len
    let mine := s.preloaded.filter fun l => l.place == u && l.record == id && in_ l.va
    let c := if mine.isEmpty then (0, s) else s.choose
    let lines := (mine.zipIdx.filter fun l => s.preloadHeld ptbase c.1 l.2 l.1).map fun l =>
      s.fillLine l.1.va l.1.pa l.1.coh
    c.2.setPair { p with ways := w, owner := if w == 0 then none else some s.nextTask, lines := lines
                         slots := (p.slots.setIfInBounds 0 (map.getD 0 none)).setIfInBounds 1 (map.getD 1 none) }

/-- R308: zeroed communication sets on a task's clusters. -/
def State.addComms (s : State) (id : Nat) (ps : List (Nat × Nat)) : State :=
  (ps.map Prod.fst).eraseDups.foldl (fun s c => { s with comms := Comm.zero c id :: s.comms }) s

/-- R22, R352: a record's task starts on its pairs. -/
def State.startTask (s : State) (u : Queue) (p : Part) (f : Fetched) (ps : List (Nat × Nat)) : State :=
  let id := s.nextTask + 1
  let areas := p.pool.take f.record.threads
  let t : Task := { Task.empty with
    id := id
    part := u.part
    queue := u.q
    index := f.index
    record := f.record
    kernel := f.kernel
    pairs := ps
    ranges := f.letting.ranges.getD []
    ptbase := u.conf.ptbase
    ctxid := BitVec.ofNat 64 id
    nqbase := p.conf.nqbase
    areas := areas
    started := s.starts }
  let ts := (s.seats f.record f.kernel (newRows f.record f.kernel) ps).zipIdx.map fun v =>
    newThread id f.record f.kernel p.conf.trapvec (areas.getD v.2 0) v.1
  let s1 := { s with nextTask := id, starts := s.starts + 1, tasks := s.tasks ++ [t] }
  let s2 := (s1.mapPart u.part fun p => { p with pool := p.pool.drop f.record.threads }).mapQueue u.part u.q fun w =>
    { w with fetched := none }
  let s3 := ps.foldl (fun s v => s.startStash v f.record u.conf.ptbase (u.part, u.q, f.index)) (s2.addComms id ps)
  let s4 := ts.foldl State.addThread s3
  let s5 := { s4 with preloaded := s4.preloaded.filter fun l => l.record != (u.part, u.q, f.index) }
  ps.foldl (fun s v => s.recomputeLanes v.1 v.2) s5

/-! ### Resumption (R31, R167) -/

/-- A pre-empted task's threads, in the order of their seats. -/
def State.parked (s : State) (id : Nat) : List Thread :=
  let ts := s.threads.filter fun t => t.task == id && t.run != .idle
  (List.range ts.length).filterMap fun i => ts.find? fun t => t.pair == i

/-- R169: everything an image says of a thread: the x registers, the mode, the PC and the trap registers with the rest. -/
def State.loadThread (s : State) (ar : Area) : State :=
  let h := s.areaRead ar 0 256
  let xs := s.areaRead ar 0x100 256
  let w (i : Nat) : W64 := wordOf h (112 + 8 * i)
  let drops := imageDrops (s.areaRead ar offDropped 520) (s.extraOf ar)
  let s1 := { s with th := { s.th with
    xs := Vector.ofFn fun i : Fin 32 => wordOf xs (8 * i.val)
    pc := wordOf h 8 &&& ~~~7
    smode := fieldOf h 5 1 / 2 % 2 == 1
    tr := ⟨w 0 &&& ~~~7, w 1 &&& ~~~7, w 2 &&& 0xF3F, w 3, w 4, w 5, w 6, w 7 &&& 0xFFC0, s.th.tr.ctxarea⟩
    fe := { Front.reset with posted := s.th.fe.posted, dropped := drops ++ s.th.fe.dropped } } }
  let s2 := s1.loadImage ar 0 false
  s2.imageUse s2 s.th.tr.ctxarea ar

/-- R169: the header's bytes 40 to 55: COORD, SHAPE and STAGE. -/
def Thread.placeBytes (t : Thread) : List Byte :=
  leBytes 8 t.sr.coord.toNat ++ leBytes 4 t.sr.shape.toNat ++ leBytes 4 t.sr.stage.toNat

/-- R167, R169: a thread takes its new seat, with a row range of the size it had (R253), and is loaded from its image; one
that has ended stays ended, and may hold its cluster's communication set (R308). COORD, SHAPE and STAGE of another place are
written into the image's header and the registers. -/
def State.reseat (s : State) (t : Task) (old : HwId) (p : Seat) : State :=
  let s1 := (s.focus old).moveStores old ⟨p.cluster, p.pair, p.slot⟩
  let was := s1.th.sr
  let u := { s1.th with cluster := p.cluster, pair := p.pair, slot := p.slot
                        sr := was.seat p t.record (was.browlim - was.browbase) }
  let s2 := { s1 with th := { u with run := if u.run == .ended then .ended else .running } }
  if u.run == .ended && !u.holdsComm then s2
  else
    match s2.areaAt accRead areaPages u.tr.ctxarea with
    | .error _ => s2
    | .ok (ar, s3) =>
      if u.run == .ended then (s3.setComm (s3.comm.load (s3.areaRead ar offComm 520))).areaUse u.tr.ctxarea ar offComm 520
      else
        let place := s3.th.placeBytes
        (if place == s1.th.placeBytes then s3 else s3.areaWrite u.tr.ctxarea ar 40 place).loadThread ar

/-- Every image of a task can be reached now. -/
def State.imagesOpen (s : State) (t : Task) (kind : Nat) : Bool :=
  t.areas.all fun a =>
    match (s.focus ((s.parked t.id).head?.map Thread.hw |>.getD s.th.hw)).areaAt kind areaPages a with
    | .ok (ar, _) => !ar.any fun x => s.shutAt x.pa
    | .error _ => false

/-- R353: preloaded stash lines that a resumed task may write are dropped. -/
def State.dropPreloaded (s : State) (t : Task) (ps : List (Nat × Nat)) : State :=
  { s with preloaded := s.preloaded.filter fun l =>
      !(ps.contains l.place && t.ranges.any fun r => r.2.w && (Rng.span r.2.base r.2.len).meets (Rng.span l.va 128)) }

/-- R253: the B-store rows of a pre-empted task's threads: ranges of the sizes they had. -/
def State.parkedRows (s : State) (id : Nat) : List Nat := (s.parked id).map fun t => t.sr.browlim - t.sr.browbase

/-- R22, R31, R167: a pre-empted task resumes on its pairs, all its threads in the same cycle. -/
def State.resumeTask (s : State) (t : Task) (ps : List (Nat × Nat)) : State :=
  let seats := s.seats t.record t.kernel (s.parkedRows t.id) ps
  let olds := (s.parked t.id).map Thread.hw
  let s0 := { s with starts := s.starts + 1 }.mapTask t.id fun k =>
    { k with state := .running, pairs := ps, started := s.starts, turnTime := 0, turnPoints := 0, letting := none }
  let s1 := (s0.addComms t.id ps).mapQueue t.part t.queue fun w => { w with again := w.again.filter fun i => i != t.id }
  let s2 := (olds.zip seats).foldl (fun s v => s.reseat t v.1 v.2) s1
  ps.foldl (fun s v => s.recomputeLanes v.1 v.2) (s2.dropPreloaded t ps)

/-! ### The engine's choice (R350, R355) -/

/-- The head of a queue: a pre-empted task ahead of its fetched record. -/
inductive Head where
  | again (t : Task)
  | first (f : Fetched)

/-- The head of a queue if it is ready. -/
def State.readyHead (s : State) (u : Queue) : Option Head :=
  match u.again with
  | id :: _ =>
    let t := s.taskOf id
    if t.letting.all fun l => l.ready then some (.again t) else none
  | [] =>
    match u.fetched with
    | some f => if f.holds && f.letting.ready then some (.first f) else none
    | none => none

def Head.record : Head → Record
  | .again t => t.record
  | .first f => f.record

def Head.kernel : Head → Kernel
  | .again t => t.kernel
  | .first f => f.kernel

/-- R350: where a head fits now, tasks `out` gone; a record also needs context areas. -/
def State.placeHead (s : State) (out : List Nat) (u : Queue) (h : Head) : Option (List (Nat × Nat)) :=
  let pool : Bool := match h with
    | .again _ => true
    | .first f => (s.part? u.part).elim false fun p => f.record.threads ≤ p.pool.length
  let rows := match h with
    | .again t => s.parkedRows t.id
    | .first f => newRows f.record f.kernel
  if pool then s.place out u h.record h.kernel rows else none

/-- Energy points of an energy unit (R357). -/
def energyUnit : Nat := 64000000

/-- R355: a queue is eligible. -/
def Queue.eligible (u : Queue) : Bool := 0 < u.ct && 0 < u.ce

/-- Rounds a credit needs to become positive. -/
def roundsFor (c : Int) (step : Nat) : Nat := if 0 < c then 0 else ((-c).toNat / step) + 1

/-- R355: new rounds for a priority, as many as make one of the ready queues eligible; none where no queue is ready, or one
is eligible. -/
def State.newRounds (s : State) (part prio : Nat) (ready : List Queue) : Option State :=
  let need (u : Queue) : Nat :=
    max (roundsFor u.ct (16 * u.conf.weight)) (roundsFor u.ce (16 * u.conf.weight * energyUnit))
  match ready.map need with
  | [] => none
  | n :: ns =>
    let k := ns.foldl min n
    if k == 0 then none
    else
      some { s with queues := s.queues.map fun u =>
          if u.part == part && u.conf.prio == prio then
            { u with ct := min (u.ct + 16 * u.conf.weight * k) (64 * u.conf.weight)
                     ce := min (u.ce + 16 * u.conf.weight * energyUnit * k) (64 * u.conf.weight * energyUnit) }
          else u }

/-- What the engine does next for a partition: a head starts on some pairs, tasks are displaced, or a round begins of which
every head waits (its step is that of the queue named). -/
inductive Choice where
  | start (u : Queue) (h : Head) (ps : List (Nat × Nat)) (s : State)
  | displace (u : Queue) (ids : List Nat) (s : State)
  | round (u : Queue) (s : State)

/-- R350: the tasks a head would displace: of lower priority, most recently started first, until it fits. None where it
would not fit, or where tasks that are leaving make room: it waits for them. -/
def State.victims (s : State) (u : Queue) (h : Head) : Option (List Nat) :=
  let leaving := (s.tasks.filter fun t => t.state == .leaving).map fun t => t.id
  if (s.placeHead leaving u h).isSome then none
  else
    let lower := s.tasks.filter fun t =>
      t.state == .running && t.part == u.part && (s.queue? t.part t.queue).elim false fun v => u.conf.prio < v.conf.prio
    let sorted := lower.foldr (fun t l => (l.takeWhile fun v => t.started < v.started) ++ t ::
      l.dropWhile fun v => t.started < v.started) []
    let ids := sorted.map fun t => t.id
    ((List.range ids.length).find? fun n => (s.placeHead (leaving ++ ids.take (n + 1)) u h).isSome).map fun n =>
      ids.take (n + 1)

/-- R350: the first queue of a list whose head can start, or displace. -/
def State.firstFit (s : State) : List Queue → Option Choice
  | [] => none
  | u :: us =>
    match s.readyHead u with
    | none => s.firstFit us
    | some h =>
      match s.placeHead [] u h with
      | some ps => some (.start u h ps s)
      | none =>
        match s.victims u h with
        | some ids => some (.displace u ids s)
        | none => s.firstFit us

/-- R350, R355: the choice at one priority. The credits of a round that begins stand, whether a head starts or not. -/
def State.chooseAt (s : State) (p : Part) (prio : Nat) : Option Choice :=
  let ready := s.queues.filter fun u => u.part == p.conf.id && u.conf.en && u.conf.prio == prio && (s.readyHead u).isSome
  let round := s.newRounds p.conf.id prio ready
  let s1 := round.getD s
  let now := (List.range 64).filterMap fun q => s1.queues.find? fun u =>
    u.q == q && u.eligible && ready.any fun v => v.part == u.part && v.q == u.q
  let last := ((p.lastServed.find? fun l => l.1 == prio).map fun l => l.2 + 1).getD 0
  (s1.firstFit ((now.filter fun u => last ≤ u.q) ++ now.filter fun u => u.q < last)).or
    (ready.head?.bind fun u => round.map fun t => .round u t)

/-- R350: the choice at the first of some priorities that makes one. -/
def State.chooseFrom (p : Part) : List Nat → State → Option Choice
  | [], _ => none
  | n :: ns, s =>
    match s.chooseAt p n with
    | some (.round u s1) => (State.chooseFrom p ns s1).or (some (.round u s1))
    | some c => some c
    | none => State.chooseFrom p ns s

/-- R350: the engine's choice for a partition. A head that waits for room holds back its own queue alone (R343), so lower
priorities are looked at after it (log entry 23). -/
def State.chooseIn (s : State) (p : Part) : Option Choice :=
  if p.quiesce || !s.partOn p then none else State.chooseFrom p [0, 1, 2, 3] s

def State.choose? (s : State) (part : Nat) : Option Choice := (s.part? part).bind s.chooseIn

/-- R355: the queue served last at its priority. -/
def State.tookTurn (s : State) (u : Queue) : State :=
  s.mapPart u.part fun p =>
    { p with lastServed := (u.conf.prio, u.q) :: p.lastServed.filter fun l => l.1 != u.conf.prio }

/-- R350, R356: tasks set out to be pre-empted. -/
def State.leave (s : State) (ids : List Nat) : State :=
  ids.foldl (fun s i => s.mapTask i fun t => if t.state == .running then { t with state := .leaving } else t) s

/-- R350, R352: TASK_START: the engine's choice is this queue's record; it starts, or displaces others. -/
def execTaskStart (part q : Nat) (s : State) : Host.Outcome State Fault Refusal :=
  match s.choose? part with
  | some (.start u (.first f) ps s1) =>
    (match s1.part? part with
      | some p =>
        if u.q != q then .next s
        else if (s1.missing u.conf.ptbase f.kernel (f.letting.ranges.getD [])).isEmpty then
          .next ((s1.startTask u p f ps).tookTurn u)
        else
          .next (s1.mapQueue part q fun w =>
            { w with fetched := some { f with letting := { f.letting with ready := false, retry := true } } })
      | none => .next s)
  | some (.displace u ids s1) => .next (if u.q == q then s1.leave ids else s)
  | some (.round u s1) => .next (if u.q == q then s1 else s)
  | _ => .next s

/-! ### RESUME (R31, R359) -/

/-- R351, R359: the lease of a migrated task goes on; one that fails ends the task. -/
def State.letTask (s : State) (t : Task) (l : Letting) : State :=
  match s.queue? t.part t.queue with
  | none => s
  | some u =>
    match s.letOn u t.index t.record t.kernel true l with
    | .wait => s
    | .fails =>
      ((s.endTask t.id 5).mapTask t.id fun k => { k with letting := none, state := .running }).mapQueue t.part t.queue fun w =>
        { w with again := w.again.filter fun i => i != t.id }
    | .goes l1 s1 => s1.mapTask t.id fun k => { k with letting := some l1, ranges := l1.ranges.getD k.ranges }

/-- R350: the engine's choice is a pre-empted task; it resumes once its images can be read, or displaces others. -/
def State.resumeNow (s : State) (t : Task) : State :=
  match s.choose? t.part with
  | some (.start u (.again k) ps s1) =>
    if k.id != t.id then s else if s1.imagesOpen t accRead then (s1.resumeTask t ps).tookTurn u else s1
  | some (.displace u ids s1) => if u.again.head? == some t.id then s1.leave ids else s
  | _ => s

/-- R31, R167: RESUME. -/
def execResume (id : Nat) (s : State) : Host.Outcome State Fault Refusal :=
  match s.tasks.find? fun t => t.id == id with
  | none => .next s
  | some t =>
    if t.state != .preempted then .next s
    else
      match t.letting with
      | some l => .next (if l.ready then s.resumeNow t else if l.retry then s.letTask t l else s)
      | none => .next (s.resumeNow t)

/-! ### Energy (R355, R357) -/

/-- R357: the DRAM bytes and SRAM accesses of an interval, free values (log entry 11). -/
def State.freeActivity (s : State) : Activity × State :=
  let f := s.fresh
  ({ Activity.zero with dram := Config.dramBytes f.1, sram := Config.sramCount f.1 }, f.2)

/-- R355, R357: the energy of a task's activity since it was last charged accrues to its turn, its EUSED and its queue's
credit. -/
def State.accrue (s : State) (id : Nat) : State :=
  let t := s.taskOf id
  let f := s.freeActivity
  let a := t.activity.add f.1
  let e := a.points - t.points
  (f.2.mapTask id fun k => { k with activity := a, turnPoints := k.turnPoints + e, points := a.points }).mapQueue
    t.part t.queue fun u => { u with ce := u.ce - e }

/-- R355, R357: a task is charged for its energy up to now, as it stops. -/
def State.chargeNow (s : State) (id : Nat) : State :=
  let f := match s.threads.find? fun v => v.task == id && v.run != .idle with
    | some v => s.focus v.hw
    | none => s
  f.accrue id

/-! ### PREEMPT (R31, R167) -/

/-- R31: a thread stands at the common boundary. -/
def Thread.canStop (t : Thread) : Bool :=
  t.run == .ended || (t.atBoundary && !t.dsp.ops.any Op.mustEnd)

/-- R167: what stays on a pre-empted thread: its place among its task's threads, the size of its row range (R253), the weight
it was divided by, and its posted stores. -/
def Thread.park (t : Thread) (id k : Nat) : Thread :=
  { Thread.reset with
    cluster := 1000 + id, pair := k, slot := t.slot, task := id, run := if t.run == .ended then .ended else .preempted
    endStatus := t.endStatus
    sr := { SRegs.reset with coord := t.sr.coord, stage := t.sr.stage, shape := t.sr.shape, browbase := t.sr.browbase,
                             browlim := t.sr.browlim, divided := t.sr.divided }
    tr := { TrapRegs.reset with ctxarea := t.tr.ctxarea }
    rcp := Recipe.reset t.rcp.budget
    dsp := { Dispatch.reset with nextSeq := t.dsp.nextSeq }
    fe := { Front.reset with posted := t.fe.posted } }

/-- R32, R308: the bytes of the cluster's communication set. -/
def State.commImage (s : State) : List Byte :=
  (s.comm.cds.toList.flatMap fun v => leBytes 8 v.toNat) ++ leBytes 8 s.comm.sems.toNat

/-- R31, R32, R167: one thread's image is written, and the thread leaves its place; of one that has ended, only the
communication set it holds (R308). -/
def State.parkThread (s : State) (old : HwId) (id k : Nat) : State :=
  let s0 := (s.focus old).leaveComm old
  let done (s : State) : State :=
    let t := s.th.park id k
    { s with th := t }.moveStores old t.hw
  if s0.th.run == .ended && !s0.th.holdsComm then done s0
  else
    match s0.areaAt accWrite areaPages s0.th.tr.ctxarea with
    | .error _ => s0
    | .ok (ar, s1) =>
      let a := s1.th.tr.ctxarea
      if s1.th.run == .ended then done (s1.areaWrite a ar offComm s1.commImage)
      else
      let s2 := s1.saveImage a ar false true s1.th.pc s1.th.smode
      done (s2.areaWrite a ar 0x100 (s1.th.xs.toList.flatMap fun v => leBytes 8 v.toNat))

/-- The threads of a task in the order of their seats: by cluster and pair rank, stage and spatial index. -/
def State.seated (s : State) (t : Task) : List HwId :=
  let ts := s.threads.filter fun u => u.task == t.id && u.run != .idle
  t.pairs.flatMap fun v =>
    (List.range t.record.perPair).filterMap fun j =>
      (ts.find? fun u => u.cluster == v.1 && u.pair == v.2 && u.sr.stage == BitVec.ofNat 64 (j / t.record.nt) &&
        slice u.sr.coord 11 2 == BitVec.ofNat 2 (j % t.record.nt)).map Thread.hw

/-- R355: a pre-empted task goes back to its queue, ahead of every later record. -/
def State.queueAgain (s : State) (t : Task) : State :=
  s.mapQueue t.part t.queue fun u =>
    let d (i : Nat) : Nat := ((s.taskOf i).index + 2 ^ 32 - u.done) % 2 ^ 32
    { u with again := (u.again.takeWhile fun i => d i < d t.id) ++ t.id :: u.again.dropWhile fun i => d i < d t.id }

/-- R359: QUIESCED once every task of the partition is pre-empted. -/
def State.markQuiesced (s : State) (part : Nat) : State :=
  s.mapPart part fun p =>
    { p with quiesced := p.quiesce && s.tasks.all fun t => t.part != part || t.state == .preempted }

/-- R31, R32, R331: a task is pre-empted, and its turn ends with the energy it has taken (R355, R356). -/
def State.preemptTask (s : State) (t : Task) : State :=
  let s0 := (s.seated t).zipIdx.foldl (fun s v => s.parkThread v.1 t.id v.2) s
  let s1 := s0.chargeNow t.id
  let s2 := { s1 with comms := s1.comms.filter fun c => c.task != t.id }
  let s3 := (s2.freePairs t.id t.pairs).mapTask t.id fun k => { k with state := .preempted, pairs := [] }
  (s3.queueAgain t).markQuiesced t.part

/-- The areas of a task's running threads can be written now. -/
def State.areasOpen (s : State) (t : Task) : Bool :=
  s.threads.all fun u => u.task != t.id || !(u.run == .running || (u.run == .ended && u.holdsComm)) ||
    match (s.focus u.hw).areaAt accWrite areaPages u.tr.ctxarea with
    | .ok (ar, _) => !ar.any fun x => s.shutAt x.pa
    | .error _ => false

/-- R381: a unit of work of a thread stands on the link until the exchange. -/
def State.standsOut (s : State) (h : HwId) : Bool := s.link.exchanging && s.link.out.any fun o => o.req.owner? == some h

/-- R31, R356: a leaving task all of whose threads stand at the boundary; a unit whose requests stand on the link is not at
one. -/
def State.canPreempt (s : State) (t : Task) : Bool :=
  t.state == .leaving && s.threads.any (fun u => u.task == t.id && u.run == .running) &&
    s.threads.all fun u => u.task != t.id || u.run == .idle || (u.canStop && !s.standsOut u.hw)

/-- R31: PREEMPT. -/
def execPreempt (id : Nat) (s : State) : Host.Outcome State Fault Refusal :=
  match s.tasks.find? fun t => t.id == id with
  | some t => .next (if s.canPreempt t && s.areasOpen t then s.preemptTask t else s)
  | none => .next s

/-! ### TASK_COMPLETE (R352) -/

/-- R352: every thread of a task has ended, and every access of the task is performed. -/
def State.taskOver (s : State) (id : Nat) : Bool :=
  s.threads.all fun t => t.task != id || t.run == .idle || (t.run == .ended && t.fe.posted.isEmpty)

/-- R352: the steps of a task's end; none while the engine must wait. -/
def State.finishTask (s : State) (t : Task) : Option State :=
  match s.queue? t.part t.queue with
  | none => none
  | some u =>
    let e := s.chargeNow t.id
    let bytes := complBytes t.status t.index t.record.tag t.tused ((e.taskOf t.id).points / energyUnit)
    (e.concludeAt u t.index t.record.compl bytes t.record.doneaw).map fun s1 =>
      let s2 := { s1 with comms := s1.comms.filter fun c => c.task != t.id }
      let s3 := s2.mapPart t.part fun p => { p with pool := p.pool ++ t.areas }
      let s4 := s3.mapQueue t.part t.queue fun w => { w with again := w.again.filter fun i => i != t.id }
      let s5 := ({ s4 with tasks := s4.tasks.filter fun k => k.id != t.id }.removeThreads t.id).freePairs t.id t.pairs
      s5.markQuiesced t.part

/-- R352: TASK_COMPLETE. -/
def execTaskComplete (id : Nat) (s : State) : Host.Outcome State Fault Refusal :=
  match s.tasks.find? fun t => t.id == id with
  | some t => .next (if s.taskOver id then (s.finishTask t).getD s else s)
  | none => .next s

/-! ### Preloading (R353) -/

/-- The state in which a task has ended, as the engine foresees it. -/
def State.without (s : State) (t : Task) : State :=
  let s1 := { s with comms := s.comms.filter fun c => c.task != t.id, tasks := s.tasks.filter fun k => k.id != t.id }
  ((s1.removeThreads t.id).freePairs t.id t.pairs).mapPart t.part fun p => { p with pool := p.pool ++ t.areas }

/-- R353: a queue's record, if the engine would start it next on pairs that a task holds now, and no ready head has a
higher priority. -/
def State.nextAfter (s : State) (u : Queue) (t : Task) : Option (Fetched × List (Nat × Nat)) :=
  let above : Bool := s.queues.any fun v => v.part == u.part && v.conf.en && v.conf.prio < u.conf.prio && (s.readyHead v).isSome
  if above then none
  else
    match (s.without t).choose? u.part with
    | some (.start v (.first f) ps _) =>
      if v.q == u.q && (s.placeHead [] u (.first f)).isNone && ps.all t.pairs.contains then some (f, ps) else none
    | _ => none

/-- R353: the record of a queue that is certain to run next on its pairs, and the task that runs there now. -/
def State.nextRecord (s : State) (part q : Nat) : Option (Queue × Fetched × List (Nat × Nat)) :=
  (s.queue? part q).bind fun u =>
    (s.tasks.filter fun t => t.part == part && t.state != .preempted).findSome? fun t =>
      (s.nextAfter u t).map fun r => (u, r.1, r.2)

/-- R353: the code lines of a kernel, as physical line and bytes, and the state its walks leave. -/
def State.codeLines (s : State) (u : Queue) (k : Kernel) : List (Nat × List Byte) × State :=
  (List.range ((k.entry.toNat % 64 + k.codelen + 63) / 64)).foldl (fun (r : List (Nat × List Byte) × State) i =>
    let va := BitVec.ofNat 64 (k.entry.toNat / 64 * 64 + 64 * i)
    match r.2.translate u.ctx false accFetch va with
    | .ok (x, s1) =>
      if s1.shutAt x.pa || s1.poisoned x.pa || leafVer x.leaf then (r.1, s1)
      else (r.1 ++ [(x.pa, s1.physRead x.pa 64)], if isHost x.pa then s1.crossLink 64 else s1)
    | .error _ => r) ([], s)

/-- R353: the lines of group 2's slots on COH or RSHR pages, as virtual and physical address and whether the page is COH, and
the state their walks leave. -/
def State.slotLines (s : State) (u : Queue) (r : Record) : List (Nat × Nat × Bool) × State :=
  (((r.stash.map Prod.snd).getD []).flatMap fun q =>
    (List.range (q.2.2 / 128)).map fun i => q.1 + BitVec.ofNat 64 (128 * i)).foldl
    (fun (r : List (Nat × Nat × Bool) × State) va =>
      match r.2.translate u.ctx true accRead va with
      | .ok (x, s1) =>
        if s1.shutAt x.pa || !(leafCls x.leaf == clsCoh || leafCls x.leaf == clsRshr) then (r.1, s1)
        else (r.1 ++ [(va.toNat, x.pa, leafCls x.leaf == clsCoh)], if isHost x.pa then s1.crossLink 128 else s1)
      | .error _ => r) ([], s)

/-- R353: how many lines a pair's cache has for preloads: those of the ways that neither the running task nor the record
converts, 256 lines each (R108). -/
def Pair.preloadRoom (p : Pair) (r : Record) : Nat := 256 * (16 - max p.ways ((r.stash.map Prod.fst).getD 0))

/-- R353: the slot lines still to be preloaded on a pair. -/
def State.newLines (s : State) (u : Nat × Nat) (r : Record) (id : Nat × Nat × Nat) (lines : List (Nat × Nat × Bool)) :
    List Preload :=
  ((lines.take ((s.pairOf u.1 u.2).preloadRoom r)).map fun l => ⟨u, l.1, l.2.1, l.2.2, id⟩).filter fun l =>
    !s.preloaded.contains l

/-- R131, R353: lines a pair's instruction cache does not hold. -/
def Pair.newCode (p : Pair) (code : List (Nat × List Byte)) : List (Nat × List Byte) :=
  code.filter fun l => !p.icache.any fun m => m.1 == l.1

/-- R353: PRELOAD. -/
def execPreload (part q : Nat) (s : State) : Host.Outcome State Fault Refusal :=
  match s.nextRecord part q with
  | none => .next s
  | some (u, f, ps) =>
    let code := (s.byEngine fun s => s.codeLines u f.kernel)
    let lines := (code.2.byEngine fun s => s.slotLines u f.record)
    let one (s : State) (v : Nat × Nat) : State :=
      let p := s.pairOf v.1 v.2
      let s1 := (p.newCode code.1).foldl (fun s l => s.cacheLine v.1 v.2 l.1 l.2) s
      { s1 with preloaded := s1.preloaded ++ s1.newLines v f.record (u.part, u.q, f.index) lines.1 }
    .next (ps.foldl one lines.2)

/-! ### Migration (R359) -/

/-- R359: QUIESCE. -/
def execQuiesce (part : Nat) (s : State) : Host.Outcome State Fault Refusal :=
  let s1 := s.mapPart part fun p => { p with quiesce := true }
  .next ((s1.leave ((s1.tasks.filter fun t => t.part == part).map fun t => t.id)).markQuiesced part)

/-- R359: RESUME_PARTITION: the leases of the pre-empted tasks are set up again. -/
def execResumePartition (part : Nat) (s : State) : Host.Outcome State Fault Refusal :=
  match s.part? part with
  | some p =>
    if !p.quiesce then .next s
    else
      .next { s.mapPart part fun p => { p with quiesce := false, quiesced := false } with
        tasks := s.tasks.map fun t =>
          if t.part == part && t.state == .preempted then { t with letting := some Letting.fresh } else t }
  | none => .next s

/-! ### YIELD (R361) -/

/-- R361: a ready head of equal or higher priority could be placed on a pair of the thread's task. -/
def State.yieldsTo (s : State) : Bool :=
  let t := s.task
  match s.queue? t.part t.queue with
  | none => false
  | some own =>
    s.queues.any fun u => u.part == t.part && u.conf.en && u.conf.prio ≤ own.conf.prio &&
      match s.readyHead u with
      | none => false
      | some h => (s.placeHead [t.id] u h).elim false fun ps => ps.any fun v => t.pairs.contains v

/-- R361: YIELD. -/
def State.yield (s : State) (f : FJ) : Issue :=
  if s.yieldsTo then
    match s.finish f.d 1 with
    | .done s1 => .done (s1.leave [s.th.task])
    | i => i
  else s.finish f.d 0

def execYield (f : FJ) (s : State) : Host.Outcome State Fault Refusal := s.settle (s.yield f)

/-! ### DOORBELL and CONFIG_WRITE (R341, R342) -/

/-- R342, R384: DOORBELL; before stage 2 configuration space takes configuration writes alone. -/
def execDoorbell (part q : Nat) (v : W64) (s : State) : Host.Outcome State Fault Refusal :=
  match s.queue? part q with
  | some u => .next (if 2 ≤ s.boot.stage && u.conf.en then s.mapQueue part q fun w => w.ring v else s)
  | none => .next s

/-- R341: a queue's configuration within its values. -/
def queueConfOk (c : QueueConf) : Bool :=
  4 ≤ c.size && c.size ≤ 16 && c.ringBase % 256 == 0 && c.prio < 4 && 1 ≤ c.weight && c.weight < 256 &&
    c.ptbase.toNat % 65536 == 0

/-- R341: a queue's fraction set holds at most one fraction on each cell, of the fractions given. -/
def fractionSetOk (fs : List Fraction) (c : QueueConf) : Bool :=
  (List.range 8).all fun n => (fs.filter fun f => c.fractions.contains f.id && f.cell == n).length ≤ 1

/-- R341: a queue is configured; one that was configured keeps its counters. -/
def State.configQueue (s : State) (part q : Nat) (c : QueueConf) : State :=
  if 64 ≤ q || !queueConfOk c || !fractionSetOk s.fractions c then s
  else
    match s.queue? part q with
    | some _ => s.mapQueue part q fun w => { w with conf := c, prod := c.prod % 2 ^ 32 }
    | none =>
      { s with queues := s.queues ++
          [{ part := part, q := q, conf := c, prod := c.prod % 2 ^ 32, cons := 0, done := 0, fetching := true, ct := 0, ce := 0,
             fetched := none, finished := [], again := [] }] }

/-- Numbers that rise strictly. -/
def rising : List Nat → Bool
  | a :: b :: l => a < b && rising (b :: l)
  | _ => true

/-- R98: a region within its values. -/
def regionOk (r : Region) : Bool :=
  r.base % 2 ^ 29 == 0 && r.size != 0 && [1, 3, 6, 12, 24].contains r.stackSet.length && rising r.stackSet &&
    r.stackSet.all fun n => n < 24

/-- R9, R98: a partition uses a region: one of its cells holds a stack of the region's set (log entry 39). -/
def Part.usesRegion (p : Part) (r : Region) : Bool := r.stackSet.any fun n => p.conf.cells.contains (n / 3)

/-- R98: a partition that uses a region runs. -/
def State.regionRuns (s : State) (r : Region) : Bool :=
  s.parts.any fun p => p.usesRegion r && s.tasks.any fun t => t.part == p.conf.id

/-- R98: regions do not overlap, and a region's layout is fixed while a partition that uses it runs. -/
def State.configRegion (s : State) (r : Region) : State :=
  let others := s.regions.filter fun o => o.base != r.base
  if !regionOk r || (s.regions.any fun o => o.base == r.base && s.regionRuns o) ||
      others.any fun o => (Rng.span o.base o.size).meets (Rng.span r.base r.size) then s
  else { s with regions := others ++ [r] }

/-- R384: every cell a partition names is ready. -/
def State.configPart (s : State) (c : PartConf) : State :=
  if s.boot.stage < 2 || !c.cells.all fun n => s.boot.ready.contains n then s
  else
    match s.part? c.id with
    | some _ =>
      let used := (s.tasks.filter fun t => t.part == c.id).flatMap fun t => t.areas
      s.mapPart c.id fun p => { p with conf := c, pool := c.ctxPool.filter fun a => !used.contains a }
    | none => { s with parts := s.parts ++ [⟨c, c.ctxPool, false, false, []⟩] }

/-- R358: a fraction within its values: whole aligned groups of four pairs of one cell, way masks for reads, writes and
atomics and their policies. -/
def fractionOk (f : Fraction) : Bool :=
  f.cell < 8 && f.pairMask != 0 &&
    ((List.range 8).all fun i => slice f.pairMask (4 * i) 4 == 0 || slice f.pairMask (4 * i) 4 == 15) &&
    f.ways.length == 3 && f.policies.length == 3 && f.policies.all fun v => v != 3

/-- R341, R358: a fraction, which shares no pair with another and leaves every queue's set with at most one fraction on a
cell; the bucket of each of its pairs' port groups starts full (log entry
24). -/
def State.configFraction (s : State) (f : Fraction) : State :=
  let mine := ((List.range 32).filter fun i => bitAt f.pairMask i).map fun i => 32 * f.cell + i
  let others := s.fractions.filter fun g => g.id != f.id
  if !fractionOk f || (others.any fun g => g.cell == f.cell && g.pairMask &&& f.pairMask != 0) ||
      !s.queues.all fun u => fractionSetOk (others ++ [f]) u.conf then s
  else
    { s with fractions := others ++ [f]
             tokens := (mine.map fun i => (i, (f.depth : Int))) ++ s.tokens.filter fun u => !mine.contains u.1 }

/-- R341, R384: CONFIG_WRITE. -/
def execConfigWrite (item : ConfigItem) (s : State) : Host.Outcome State Fault Refusal :=
  if s.boot.stage == 0 then
    match item with
    | .other a v => .next { s with config := (a, v) :: s.config.filter fun u => u.1 != a }
    | _ => .next s
  else
    match item with
    | .queue part q c => .next (s.configQueue part q c)
    | .region r => .next (s.configRegion r)
    | .partition c => .next (s.configPart c)
    | .fraction f => .next (s.configFraction f)
    | .wallClock t => .next { s with wallclock := t }
    | .other a v => .next { s with config := (a, v) :: s.config.filter fun u => u.1 != a }

end Sys2Proof.Machine
end

