-- ==== Sys2Proof/Machine/Almanac.lean ====
section
/-! DEFINITION. Machine/Almanac.lean: the calendar's events as they come due (R355 to R358, R365 to R371): horizons, slots,
overruns, period boundaries, leap slots and the hot refresh, and the critical temperature (R387). -/

namespace Sys2Proof.Machine

/-! ### What is due -/

/-- The calendar's events at one tick, in the order they are taken. -/
inductive CalEvent where
  | hotSwitch
  | slotEnd (r : SlotRes)
  | period
  | horizon (r : SlotRes)
  | slotStart (r : SlotRes)
  | overrun (r : SlotRes)
  deriving DecidableEq, Repr

/-- The order of an event among those of one tick. -/
def CalEvent.rank : CalEvent → Nat
  | .hotSwitch => 0
  | .slotEnd .dram => 1
  | .slotEnd .link => 2
  | .period => 3
  | .horizon .dram => 4
  | .horizon .link => 5
  | .slotStart .dram => 6
  | .slotStart .link => 7
  | .overrun .dram => 8
  | .overrun .link => 9

/-- R365, R366, R368, R369: a resource's events of period `q`; a period without its slot has none. -/
def Cal.slotEvents (c : Cal) (r : SlotRes) (q : Nat) : List (Nat × CalEvent) :=
  let t := q * periodTicks
  if c.span r q == 0 then []
  else (if q == 0 then [] else [(t - 96, .horizon r)]) ++ [(t, .slotStart r), (t + 64, .overrun r), (t + c.span r q, .slotEnd r)]

/-- R355, R365, R371: the events of period `q`, with their ticks. -/
def Cal.periodEvents (c : Cal) (q : Nat) : List (Nat × CalEvent) :=
  let t := q * periodTicks
  let hot : List (Nat × CalEvent) := match c.announced with
    | some (_, u) => if u == t then [(t, .hotSwitch)] else []
    | none => []
  hot ++ (t, .period) :: (c.slotEvents .dram q ++ c.slotEvents .link q)

/-- An event's place in the order of all. -/
def calKey (e : Nat × CalEvent) : Nat := 16 * e.1 + e.2.rank

/-- The first event not yet taken. -/
def Cal.nextEvent (c : Cal) : Option (Nat × CalEvent) :=
  let qs := nearPeriods (c.done / 16) ++ [c.done / 16 / periodTicks + 1, c.done / 16 / periodTicks + 2]
  let es := (qs.flatMap c.periodEvents).filter fun e => c.done ≤ calKey e
  es.foldl (fun m e => match m with
    | some b => if calKey e < calKey b then some e else m
    | none => some e) none

/-- The first event not yet taken, once its tick has come. -/
def Cal.due (c : Cal) : Option (Nat × CalEvent) :=
  if c.started then c.nextEvent.filter fun e => e.1 ≤ c.tick else none

/-- An event is taken once it is due: its effect, and the calendar past it. -/
def State.onDue (s : State) (e : CalEvent) (k : Nat → State → State) : Host.Outcome State Fault Refusal :=
  match s.cal.due with
  | some (t, f) => .next (if f == e then k t { s with cal.done := calKey (t, f) + 1 } else s)
  | none => .next s

/-! ### Host transactions (R379) -/

/-- Where a host transaction goes. -/
def bodyAddr (b : LinkBody) : Nat :=
  match b with
  | .write pa _ | .read pa _ => pa

/-- R379: a host transaction performed. A read changes nothing (R392). -/
def State.performLink (s : State) (b : LinkBody) : State :=
  match b with
  | .write pa bytes =>
    if isRegSpace pa then s.devWrite pa bytes else if isDram pa || isHost pa then s.deviceWrite pa bytes else s
  | .read _ _ => s

/-- R367, R379: received transactions are performed in ascending order, as far as they follow on and DRAM serves them, and
acknowledged. -/
def State.drainLink (s : State) : Nat → State
  | 0 => s
  | n + 1 =>
    match s.link.received.find? fun r => r.1 == s.link.rxdone + 1 with
    | none => s
    | some r =>
      let b := if isDram (bodyAddr r.2) then s.barred false (bodyAddr r.2) else (false, s)
      if b.1 then b.2
      else
        let s1 := b.2.performLink r.2
        { s1 with
          link.rxdone := s.link.rxdone + 1
          link.received := s.link.received.filter fun q => q.1 != r.1 }.drainLink n

/-- R366 to R368, R381, R384: no transaction of the host crosses the link now: in stages 0 and 1 only configuration writes
are served. -/
def State.linkClosed (s : State) : Bool := s.boot.stage < 2 || s.shut .link

/-- R367, R379: the transactions that wait cross the link once it is open, and what has been received is performed. -/
def State.letCross (s : State) : State :=
  if s.linkClosed || (s.link.waiting.isEmpty && s.link.received.isEmpty) then s
  else
    { s with link.received := s.link.received ++ s.link.waiting, link.waiting := [] }.drainLink
      (s.link.received.length + s.link.waiting.length)

/-! ### Slots -/

/-- A resource held back, and stopped. -/
def Cal.setRes (c : Cal) (r : SlotRes) (held stopped : Bool) : Cal :=
  match r with
  | .dram => { c with dramHeld := held, dramStopped := stopped }
  | .link => { c with linkHeld := held, linkStopped := stopped }

/-- A resource's slot is extended (R370). -/
def Cal.ext (c : Cal) (r : SlotRes) : Bool :=
  match r with
  | .dram => c.dramExt
  | .link => c.linkExt

def Cal.setExt (c : Cal) (r : SlotRes) (b : Bool) : Cal :=
  match r with
  | .dram => { c with dramExt := b }
  | .link => { c with linkExt := b }

def Cal.stopped (c : Cal) (r : SlotRes) : Bool :=
  match r with
  | .dram => c.dramStopped
  | .link => c.linkStopped

/-- R368: a tick lies between a slot's horizon and its start. -/
def Cal.horizonAt (c : Cal) (r : SlotRes) (t : Nat) : Bool :=
  let q := t / periodTicks + 1
  q * periodTicks ≤ t + 96 && c.span r q != 0

/-- R368: what holds back a resource that nothing stops any more at a tick. -/
def Cal.free (c : Cal) (r : SlotRes) (t : Nat) : Cal :=
  if c.downAt r t || c.ext r then c else c.setRes r (c.horizonAt r t) false

/-- R384: every one of the eight cells is ready. -/
def State.allCells (s : State) : Bool := (List.range 8).all fun c => s.boot.ready.contains c

/-- R366: SLOT_START. R384: the change to stage 3 happens in a leap slot that stops DRAM. -/
def execSlotStart (r : SlotRes) (s : State) : Host.Outcome State Fault Refusal :=
  s.onDue (.slotStart r) fun t s =>
    let s1 := { s with cal := s.cal.setRes r true true }
    if r == .dram && s.boot.stage == 2 && s.allCells && !(s.cal.leapsAt (t / periodTicks) .dram).isEmpty then
      { s1 with boot.stage := 3, link.width := if s1.link.exchanging then 0 else 3, link.trained := 3 }
    else s1

/-! ### Requests in flight (R369, R381) -/

/-- A physical address bound for a resource. -/
def boundFor (r : SlotRes) (pa : Nat) : Bool :=
  match r with
  | .dram => isDram pa
  | .link => isHost pa

/-- A virtual address of the thread in focus whose page is bound for a resource; DEV pages only where `dev` is set. -/
def State.vaBound (s : State) (r : SlotRes) (dev : Bool) (va : W64) : Bool :=
  match s.peekLeaf va with
  | some x => boundFor r x.pa && (dev || leafCls x.leaf != clsDev)
  | none => false

/-- The memory leaves and roots of a pass. -/
def Thread.passNodes (t : Thread) (p : Pass) : List Node :=
  (t.rcp.reach p.roots).filter fun n => !n.reads.isEmpty || !n.writes.isEmpty

/-- What an operation, and the recipe that serves it, have still to reach. -/
def Thread.opRanges (t : Thread) (o : Op) : List Rng := (t.opLeft o).1 ++ (t.opLeft o).2

/-- The posted stores of the thread in focus that may be unfinished, made before a tick. -/
def State.flyingStores (s : State) (r : SlotRes) (dev : Bool) (t : Nat) : List Flying :=
  (List.range s.th.fe.posted.length).filterMap fun i => (s.postedReady i).bind fun p =>
    if boundFor r p.pa && (dev || !p.dev) && p.since < t then some (.posted s.th.hw p.seq) else none

/-- An atomic at the PC of the thread in focus that may be performed: its address. -/
def State.atomicHere (s : State) : Option W64 :=
  let atomic (f : FM) : Option W64 := match s.atomicCheck (s.address f) (bytesOf f.ty.toNat) with
    | .ok _ => some (s.address f)
    | .error _ => none
  if !s.ready then none
  else
    match s.nextWord with
    | .ok (.amo f) | .ok (.cas f) => atomic f
    | _ => none

/-- R369: a store at the PC of the thread in focus that R151 stalls: its address and the kind of its access. -/
def State.storeHere (s : State) : Option (W64 × Nat) :=
  let stalled (f : FM) (n acc : Nat) : Option (W64 × Nat) :=
    if s.th.meetArit (Rng.span (s.address f).toNat n) true false == .stall then some (s.address f, acc) else none
  if !s.poised then none
  else
    match s.nextWord with
    | .ok (.st f) | .ok (.strl f) => stalled f (bytesOf f.ty.toNat) accWrite
    | .ok (.stpair f) => stalled f 16 accWrite
    | .ok (.amow f) => stalled f (bytesOf f.ty.toNat) accAtomic
    | _ => none

/-- An S-agent word that stands at the PC with a request of its own: its address and the kind of its access. -/
def State.standing (s : State) : Option (W64 × Nat) := (s.atomicHere.map fun va => (va, accAtomic)).or s.storeHere

/-- The word at the PC of the thread in focus may be a request unfinished, made before a tick; a stalled store only of those
that an overrun meets (R369), for it has been sent nowhere. -/
def State.flyingWord (s : State) (r : SlotRes) (dev : Bool) (t : Nat) : List Flying :=
  match if dev then s.atomicHere.map fun va => (va, accAtomic) else s.standing with
  | some (va, _) => if s.th.fe.since < t && s.vaBound r dev va then [.word s.th.hw] else []
  | none => []

/-- R14: an operation stands off the boundaries at which its engine may go to another thread: every 8 k of an outer product,
every 4 KiB of a copy. -/
def Op.within (o : Op) : Bool :=
  o.going && match decodeOpc o.e.word with
    | some (.mopa _) | some (.mops _) | some (.mopt _) => o.prog % 8 != 0
    | _ => o.dev && o.prog != 0

/-- R14: an operation of another thread keeps the engine that an operation of the thread in focus needs. -/
def State.engineTaken (s : State) (o : Op) : Bool :=
  let mine (u : Option Op) : Bool := u.any fun v => v.e.seq == o.e.seq
  s.threads.any fun t => t.hw != s.th.hw && t.cluster == s.th.cluster && t.pair == s.th.pair &&
    ((mine s.th.dsp.matrix && t.dsp.matrix.any Op.within) || (mine s.th.dsp.copy && t.dsp.copy.any Op.within))

/-- What may be unfinished of the thread in focus, made before a tick; of a thread that does not run, its posted stores.
`dev` takes in DEV pages. -/
def State.flying (s : State) (r : SlotRes) (dev : Bool) (t : Nat) : List Flying :=
  let h := s.th.hw
  if s.th.run != .running then s.flyingStores r dev t
  else
    s.flyingStores r dev t ++ s.flyingWord r dev t ++
    ((match s.th.fe.loadWait with
      | some w => if w.reads && s.vaBound r dev w.va && w.since < t then [.load h] else []
      | none => []) ++
    (([(.p0, s.th.dsp.pass0), (.p1, s.th.dsp.pass1)].filterMap fun u => u.2.bind fun p =>
      if p.going && p.since < t && !(s.th.passNodes p).isEmpty then some (.pass h u.1) else none) ++
    (s.th.dsp.ops.filterMap fun o =>
      if !o.halted && o.prog < o.n && o.since < t && (dev || !o.dev) && !(s.th.opRanges o).isEmpty && !s.engineTaken o
      then some (.op h o.e.seq) else none)))

/-- The requests for a resource that may be in flight, made before a tick. -/
def State.allFlying (s : State) (r : SlotRes) (dev : Bool) (t : Nat) : List Flying :=
  (s.threads.map fun u => (s.focus u.hw).flying r dev t).flatten

/-! ### The units that hold requests -/

/-- The next state of an outcome, or another. -/
def State.orNext (s : State) : Host.Outcome State Fault Refusal → State
  | .next t => t
  | _ => s

/-- R302, R303, R381: the atomic at the PC of the thread in focus performed. -/
def State.wordDone (s : State) : State :=
  let s1 := { s with th.fe.loadWait := none }
  match s1.nextWord with
  | .ok (.amo f) => s1.orNext (execAmo f s1)
  | .ok (.cas f) => s1.orNext (execCas f s1)
  | _ => s1

/-- The next unit of an operation in its engine. -/
def State.stepOp (s : State) (o : Op) : State :=
  let d := s.th.dsp
  let is (u : Op) : Bool := u.e.seq == o.e.seq
  if d.matrix.any is then
    s.orNext (if byRows o.e.word then execMatrixRowUnit .matrix s else execMatrixUnit s)
  else if d.ssb.any is then s.orNext (execSsbUnit s)
  else if d.copy.any is then
    match decodeOpc o.e.word with
    | some (.cpyx _) => s.orNext (execIndirectStream s)
    | _ => s.orNext (execCopyUnit s)
  else
    match d.bloads.findIdx? is with
    | some i => s.orNext (execMatrixRowUnit (.bload i) s)
    | none => s

/-- The work that holds a request, done as far as one step goes. -/
def State.unitStep (s : State) (u : Flying) : State :=
  match u with
  | .posted h seq =>
    let t := s.focus h
    (match t.th.fe.posted.findIdx? fun p => p.seq == seq with
      | some i => t.orNext (execPostedStorePerformed i t)
      | none => t)
  | .pass h i => (s.focus h).orNext (execElementGroupCommit i (s.focus h))
  | .op h seq =>
    let t := s.focus h
    (match t.th.dsp.op? seq with
      | some o => if t.engineTaken o then t else t.stepOp o
      | none => t)
  | .word h => (s.focus h).wordDone
  | .fetch h => (s.focus h).orNext (execInstructionFetch (s.focus h))
  | .record part q => s.orNext (execRecordFetch part q s)
  | .load _ | .owed _ | .walk _ _ => s

/-- The state as requests that have been issued see it: no slot, horizon or retraining holds them back, and no cache serves
them. -/
def State.opened (s : State) : State :=
  { s with cal := { s.cal with dramHeld := false, dramStopped := false, linkHeld := false, linkStopped := false }
           link := { s.link with exchanging := false }
           choices := [] }

/-- The same, with no tokens to be waited for. -/
def State.unheld (s : State) : State := { s.opened with fractions := [] }

/-- What holds back requests, as another state has it. -/
def State.heldAs (s old : State) : State :=
  { s with cal := old.cal, link := { s.link with exchanging := old.link.exchanging }, fractions := old.fractions
           choices := old.choices }

/-- R358, R368: a request has been issued if nothing but its resource's slot or horizon can hold it back: neither tokens nor
WB. A store that R151 stalls counts as issued (R369). -/
def State.issued (s : State) (u : Flying) : Bool :=
  let t := s.opened.unitStep u
  match u with
  | .posted h seq => !(t.focus h).th.fe.posted.any fun p => p.seq == seq
  | .pass h i =>
    let at_ (s : State) : Option (Nat × Bool) := ((s.focus h).th.dsp.pass i).map fun p => (p.start, p.halted)
    at_ t != at_ s
  | .op h seq =>
    let at_ (s : State) : Option (Nat × Bool × Nat) :=
      ((s.focus h).th.dsp.op? seq).map fun o => (o.prog, o.halted, o.keep.length)
    at_ t != at_ s
  | .word h => (s.focus h).storeHere.isSome || (t.focus h).th.pc != (s.focus h).th.pc
  | .load _ => true
  | _ => false

/-- R368: DRAIN_HORIZON. What has been issued for the resource goes on, and an overrun may find it unfinished; while the
resource is shut nothing is issued. -/
def execDrainHorizon (r : SlotRes) (s : State) : Host.Outcome State Fault Refusal :=
  s.onDue (.horizon r) fun _ s =>
    { s with
      cal := s.cal.setRes r true (s.cal.stopped r)
      draining := (s.draining.filter fun u => u.1 != r) ++
        if s.shut r then [] else ((s.allFlying r false s.now).filter s.issued).map fun u => (r, u) }

/-! ### What a resource kept waiting -/

/-- The tick at which the work that holds a request was made. -/
def State.sinceOf (s : State) (u : Flying) : Nat :=
  match u with
  | .posted h seq => (((s.focus h).th.fe.posted.find? fun p => p.seq == seq).map Posted.since).getD 0
  | .pass h i => (((s.focus h).th.dsp.pass i).map Pass.since).getD 0
  | .op h seq => (((s.focus h).th.dsp.op? seq).map Op.since).getD 0
  | _ => 0

/-- The requests of posted stores, passes and operations that stand since before this tick, the oldest first. -/
def State.heldUnits (s : State) : List Flying :=
  let us := ((s.allFlying .dram true s.now ++ s.allFlying .link true s.now).filter fun u => match u with
    | .posted _ _ | .pass _ _ | .op _ _ => true
    | _ => false).eraseDups
  us.foldl (fun l u => (l.takeWhile fun v => s.sinceOf v ≤ s.sinceOf u) ++ u ::
    l.dropWhile fun v => s.sinceOf v ≤ s.sinceOf u) []

/-- R368: requests that were held are issued in their original order. -/
def State.issueHeld (s : State) : State := (s.heldUnits.foldl State.unitStep s).focus s.th.hw

/-- R368: what a resource kept waiting goes on, in its order, ahead of everything new: traffic of the device, transactions of
the host, then the threads' requests. -/
def State.reopen (s : State) : State := ((s.payOwed none).letCross).issueHeld

/-- R368, R370: SLOT_END. Whether housekeeping goes on past it is a choice (log entry 4). -/
def execSlotEnd (r : SlotRes) (s : State) : Host.Outcome State Fault Refusal :=
  s.onDue (.slotEnd r) fun t s =>
    let c := s.choose
    if c.1 != 0 && !s.cal.ext r then { c.2 with cal := c.2.cal.setExt r true }.report (.slotExtension r)
    else State.reopen { c.2 with cal := c.2.cal.free r t }

/-- R370: SLOT_EXTENSION_END. -/
def execSlotExtensionEnd (r : SlotRes) (s : State) : Host.Outcome State Fault Refusal :=
  if s.cal.ext r then .next (State.reopen { s with cal := (s.cal.setExt r false).free r s.cal.tick }) else .next s

/-! ### Picking among requests -/

/-- The bits of a choice or of a free value pick some of a list. -/
def pickBits {α : Type} (c : Nat) (l : List α) : List α := (l.zipIdx.filter fun u => c.testBit u.2).map Prod.fst

/-! ### Requests cancelled (R369) -/

/-- A load is cancelled: its registers are as before, it counts nothing, and the word is the one that faults. -/
def State.cancelLoad (s : State) (code : Nat) (w : LoadWait) : State :=
  let t := w.old.foldl (fun t u => t.setX u.1 u.2) { s.th with pc := w.pc, fe.loadWait := none }
  let s1 := { s with th := t, owed := s.owed.filter fun o => o.load != some t.hw }
  (s1.endLoads fun h => h == t.hw).trap (TrapInfo.at code w.acc w.va)

/-- The address of an element of a memory leaf. -/
def State.leafAddress (s : State) (g : Group) (n : Node) (e : Nat) : Option W64 :=
  match n.instr with
  | some (.vld f) =>
    if f.ty == 0xF then
      let wd := (slice n.vb 0 24).toNat
      let ht := (slice n.vb 24 24).toNat
      let y := if bitAt f.fn 1 then e % ht else e / wd
      let x := if bitAt f.fn 1 then e / ht else e % wd
      some (n.va + BitVec.ofNat 64 (64 * (y / 8 * ((wd + 7) / 8) + x / 8)))
    else if f.ty == 0xE then some (n.va + BitVec.ofNat 64 (6 * e / 8))
    else some (n.va + BitVec.ofInt 64 (e * strideOf f.ty.toNat (bitAt f.fn 0) n.vb))
  | some (.vforce f) =>
    some (n.va + BitVec.ofNat 64 (if f.ty == 0xE then 6 * e / 8 else e * bytesOf f.ty.toNat))
  | some (.vkld _) => some (n.va + BitVec.ofNat 64 (e / 8))
  | some (.vldx _) =>
    (g.blocks.find? fun b => b.1 == n.idx).bind fun b =>
      match s.streamIndex n.smode b.2 noDevice e with
      | .ok (i, _) => if i < 0 then none else some (b.2.tbase + BitVec.ofNat 64 (i.toNat * b.2.esize))
      | .error _ => none
  | _ => none

/-- A request of a pass: its node, element, address and kind, and the root's act it belongs to. -/
structure PassReq where
  node : Node
  elem : Nat
  va : W64
  acc : Nat
  act : Option RootAct

/-- How many elements of a leaf are looked at for the one whose request is cancelled. -/
def reqLimit : Nat := 4096

/-- The requests a group's leaves and roots make. -/
def Prep.requests (q : Prep) (s : State) (g : Group) : List PassReq :=
  let leaf (n : Node) : List PassReq :=
    let o := (g.own? n.idx).getD ⟨n.idx, 0, n.size, 0, 0⟩
    (List.range' o.lo (min (o.hi - o.lo) reqLimit)).filterMap fun e =>
      if q.w.mask n e == some true then (s.leafAddress g n e).map fun va => ⟨n, e, va, accRead, none⟩ else none
  let root (a : RootAct) : PassReq := match a with
    | .write r => ⟨r.node, r.elem, r.va, accWrite, some a⟩
    | .amo m => ⟨m.node, m.elem, m.va, accAtomic, some a⟩
  (g.nodes.filter Node.isMemLeaf).flatMap leaf ++ q.acts.reverse.map root

/-- R307: a VAMO's request is cancelled after the first atomic of its group has been sent: the group's other work is done,
and the pass stops at the next group. -/
def State.cancelAmo (s : State) (i : PassSlot) (p : Pass) (q : Prep) (a : RootAct) (f : PassFault) : State :=
  let s1 := (State.commitGroup i p { q with acts := q.acts.filter fun b => b != a }).heldAs s
  match s1.th.dsp.pass i with
  | some p1 => if p1.halted then s1 else s1.passFault i p1 f
  | none => s1

/-- R369: which of a pass's requests was cancelled is a free value (log entry 25). Whether a VAMO's comes after the first
atomic of its group is one too. -/
def State.cancelPass (s : State) (code : Nat) (r : SlotRes) (dev : Bool) (i : PassSlot) (p : Pass) : State :=
  let f := s.fresh
  let o := f.2.unheld
  let g := o.th.groupOf p
  let roots := o.th.rcp.rootsOf p
  let q := (o.evaluate g p.carries p.back (g.wants roots)).prepare g p.p roots
  let rs := (q.requests o g).filter fun u => s.vaBound r dev u.va
  match rs[Config.overrunPick f.1 % rs.length]? with
  | none => f.2
  | some u =>
    let k : PassFault := ⟨u.elem, u.node.seq, u.node.pc, code, u.acc, u.va, false⟩
    match u.act with
    | some (.amo a) =>
      let ok : Bool := q.w.faults.isEmpty && !q.w.blocked && q.held.isNone && code == causeOverrun
      if ok && Config.freeWord f.1 &&& 1 == 1 then f.2.cancelAmo i p q (.amo a) k else f.2.passFault i p k
    | _ => f.2.passFault i p k

/-- A request of an operation's unit: its addresses, what the unit reports of it, and whether the element reported goes up by
one with each byte. -/
structure OpReq where
  rng : Rng
  fault : PassFault
  bytes : Bool
  deriving DecidableEq, Repr

/-- A request outside any recipe. -/
def OpReq.plain (elem acc lo n : Nat) (bytes : Bool) : OpReq :=
  ⟨Rng.span lo n, plainFault elem 0 acc (BitVec.ofNat 64 lo), bytes⟩

/-- R320, R324: the elements of a CPYX whose rows its next unit reads. -/
def Op.nextRows (o : Op) (b : StreamBlock) : List Nat :=
  let i0 := (o.prog + o.keep.length) / b.esize
  List.range' i0 ((o.prog + min 4096 (o.n - o.prog) + b.esize - 1) / b.esize - i0)

/-- R324: an index of a CPYX: of its recipe, or read from memory. -/
def State.rowIndex (s : State) (o : Op) (b : StreamBlock) (i : Nat) : Option Int :=
  match o.e.node with
  | none => (s.streamIndex o.e.smode b streamPage i).toOption.map Prod.fst
  | some r =>
    ((s.th.rcp.node? r).bind fun r => r.sa.bind s.th.rcp.node?).map fun n =>
      let ty : Nat := match n.nty with
        | .elem t => t
        | .mask => 0
      intOf ty (((s.streamUnit o i [(n.idx, i, i + 1)]).val n.idx i).val.getD 0).toNat

/-- R324: the reads of a CPYX's next unit, each with its row's place in the destination sequence. -/
def State.rowRequests (s : State) (o : Op) (b : StreamBlock) : List OpReq :=
  (o.nextRows b).flatMap fun i =>
    (if o.e.node.isNone then [OpReq.plain (i * b.esize) accRead (b.ibase.toNat + i * bytesOf b.itype) (bytesOf b.itype) false]
      else []) ++
    match s.rowIndex o b i with
    | some v => if v < 0 then [] else
        [OpReq.plain (i * b.esize) accRead (b.tbase + BitVec.ofNat 64 (v.toNat * b.esize)).toNat b.esize false]
    | none => []

/-- R316: the requests of a copy's next unit. -/
def State.copyRequests (s : State) (o : Op) (i : Instr) : List OpReq :=
  let k := min (if o.dev then 8 else 4096) (o.n - o.prog)
  let part (acc : Nat) (p : CopyPart) : OpReq := OpReq.plain p.1 acc p.2.1.toNat p.2.2 true
  let reads := match i, o.block with
    | .cpyx _, some b => s.rowRequests o b
    | _, _ => (pageParts (copyReads i o.e o.prog k)).map (part accRead)
  reads ++ (pageParts (copyWrites i o.e o.prog k)).map (part accWrite) ++
    (o.e.arrival?.toList.map fun a => OpReq.plain o.prog accAtomic a.toNat 16 false)

/-- The pages of some ranges, 64 at most of each, with the addresses in range of each page. -/
def rangePages (rs : List Rng) : List Rng :=
  rs.flatMap fun g => (List.range (min 64 (g.hi / 65536 + 1 - g.lo / 65536))).map fun i =>
    ⟨max g.lo ((g.lo / 65536 + i) * 65536), min g.hi ((g.lo / 65536 + i) * 65536 + 65535)⟩

/-- R163, R260, R286: what an engine reports as TRAPELEM for an element of its recipe. -/
def State.reported (s : State) (o : Op) (f : PassFault) : Nat :=
  match decodeOpc o.e.word with
  | some (.sscan _) | some (.ssstep _) =>
    (match o.e.node.bind s.th.rcp.node? with
      | some r => s.th.scanStep o r (ssP s.th.sr.ssinfo) (ssN s.th.sr.ssinfo) f
      | none => f.elem)
  | some (.cpyx _) => f.elem
  | _ => s.th.kOf o f

/-- R163, R369: the requests of the leaves of an operation's recipe for what its next unit takes first, each with the node that
makes it. -/
def State.recipeRequests (s : State) (o : Op) : List OpReq :=
  match o.e.node.bind s.th.rcp.node? with
  | none => []
  | some r =>
    let ns := (s.th.rcp.reach [r.idx]).filter fun n => n.idx != r.idx
    let p := s.th.dsp.passes.find? fun p => p.serves.isSome && p.seq == o.e.seq
    let g : Group :=
      ⟨ns, engineOwn ns ((s.th.takesFrom o r).map fun u => ⟨u.1, u.2, u.2, 0, 0⟩), (p.map fun p => p.blocks).getD []⟩
    let first := match o.block with
      | some b => rowsBegun o.prog b.esize
      | none => o.prog
    (ns.filter Node.isMemLeaf).flatMap fun n =>
      let lo := (g.own? n.idx).elim 0 fun w => w.lo
      (List.range' lo (min 128 (n.size - lo))).filterMap fun e =>
        let f : PassFault := ⟨e, n.seq, n.pc, 0, accRead, 0, false⟩
        if s.reported o f != first then none
        else (s.leafAddress g n e).map fun va => ⟨Rng.span va.toNat 1, { f with elem := first, addr := va }, false⟩

/-- The requests of an operation's next unit. -/
def State.opRequests (s : State) (o : Op) : List OpReq :=
  let own : List OpReq := match decodeOpc o.e.word with
    | some i =>
      (match engineOf i with
        | .copy => s.copyRequests o i
        | _ => (rangePages (o.left.1 ++ o.left.2)).map fun g =>
            ⟨g, plainFault o.prog 0 (if o.left.2.any fun w => w.lo ≤ g.lo && g.lo ≤ w.hi then accWrite else accRead) 0, false⟩)
    | none => []
  own ++ s.recipeRequests o

/-- R369: which of the requests of an engine's unit was cancelled is a free value, and so is its address among those of the
request (log entry 25). -/
def State.cancelOp (s : State) (code : Nat) (r : SlotRes) (dev : Bool) (o : Op) : State :=
  let f := s.fresh
  let qs := (f.2.unheld.opRequests o).filter fun q => s.vaBound r dev (BitVec.ofNat 64 q.rng.lo)
  match qs[Config.overrunPick f.1 % qs.length]? with
  | none => f.2
  | some q =>
    let d := (Config.freeWord f.1).toNat % (q.rng.hi + 1 - q.rng.lo)
    f.2.opFault o { q.fault with
      code := code, addr := BitVec.ofNat 64 (q.rng.lo + d), elem := q.fault.elem + if q.bytes then d else 0 }

/-- R369, R381: one request is cancelled and its owner faulted; a posted store that is `lost` is not sent again, and a thread
that is pre-empted meanwhile keeps its fault for when it resumes. -/
def State.cancel (s : State) (code : Nat) (lost : Bool) (r : SlotRes) (u : Flying) : State :=
  match u with
  | .posted h seq =>
    let s1 := s.focus h
    (match s1.th.fe.posted.find? fun p => p.seq == seq with
      | some p =>
        let acc := match p.kind with
          | .store => accWrite
          | .atomic _ _ => accAtomic
        let drop : Dropped := ⟨p.seq, p.pc, BitVec.ofNat 64 p.va, code, acc, p.smode⟩
        { s1 with
          th.fe.posted := s1.th.fe.posted.filter fun q => !(lost && q.seq == seq)
          th.fe.dropped := if s1.th.run == .ended then s1.th.fe.dropped else s1.th.fe.dropped ++ [drop] }
      | none => s1)
  | .load h =>
    let s1 := s.focus h
    (match s1.th.fe.loadWait with
      | some w => s1.cancelLoad code w
      | none => s1)
  | .word h =>
    let s1 := s.focus h
    (match s1.th.fe.loadWait, s1.standing with
      | some w, _ => s1.cancelLoad code w
      | none, some (va, acc) => s1.trap (TrapInfo.at code acc va)
      | none, none => s1)
  | .pass h i =>
    let s1 := s.focus h
    (match s1.th.dsp.pass i with
      | some p => if p.halted then s1 else s1.cancelPass code r lost i p
      | none => s1)
  | .op h seq =>
    let s1 := s.focus h
    (match s1.th.dsp.op? seq with
      | some o => if o.halted then s1 else s1.cancelOp code r lost o
      | none => s1)
  | .fetch h =>
    let s1 := s.focus h
    if s1.th.run == .running && s1.th.fe.loadWait.isNone then
      s1.trap (TrapInfo.at code accFetch (BitVec.ofNat 64 (lineOf s1.th.pc)))
    else s1
  | .owed _ | .walk _ _ | .record _ _ => s

/-- R368: the ticks from a slot's horizon to its overrun. -/
def horizonTicks : Nat := 160

/-- R369: OVERRUN: which of the requests issued before the horizon are unfinished is a free value. -/
def State.overrunAll (s : State) (r : SlotRes) (t : Nat) : State :=
  let all := (s.allFlying r false (t - horizonTicks)).filter fun u => s.draining.contains (r, u)
  if all.isEmpty then s
  else
    let f := s.fresh
    (pickBits (Config.overrunPick f.1) all).foldl (fun s u => s.cancel causeOverrun false r u) f.2

def execOverrun (r : SlotRes) (s : State) : Host.Outcome State Fault Refusal :=
  s.onDue (.overrun r) fun t s => s.overrunAll r t

/-! ### Period boundaries (R355 to R358) -/

/-- R355: a task is charged for a period: its pairs in time units, and its energy. -/
def State.chargeTask (s : State) (id : Nat) : State :=
  let t := s.taskOf id
  let n := t.pairs.length
  ((s.mapTask id fun k => { k with turnTime := k.turnTime + n, tused := k.tused + n }).mapQueue
    t.part t.queue fun u => { u with ct := u.ct - n }).accrue id

/-- R357: the DRAM bytes and SRAM accesses of a fraction in a period. -/
def State.countFraction (s : State) (f : Fraction) : State :=
  let a := s.freeActivity
  { a.2 with activity := (f.id, (s.activityOf f.id).add a.1) :: s.activity.filter fun u => u.1 != f.id }

/-- R356: a turn is over. -/
def Task.overBudget (t : Task) : Bool :=
  (t.record.tbudget != 0 && t.record.tbudget < t.turnTime) ||
    (t.record.ebudget != 0 && t.record.ebudget * energyUnit < t.turnPoints)

/-- R358: tokens of a period enter a bucket. -/
def State.refill (s : State) : State :=
  { s with tokens := s.tokens.map fun u =>
      match s.fractions.find? fun f => f.cell == u.1 / 32 && bitAt f.pairMask (u.1 % 32) with
      | some f => (u.1, min (u.2 + f.rate) (f.depth : Int))
      | none => u }

/-- R355, R356, R358: PERIOD_BOUNDARY. -/
def execPeriodBoundary (s : State) : Host.Outcome State Fault Refusal :=
  s.onDue .period fun _ s =>
    let ids := (s.tasks.filter fun t => t.state != .preempted).map fun t => t.id
    let s1 := s.fractions.foldl State.countFraction (ids.foldl State.chargeTask s.refill)
    s1.leave ((s1.tasks.filter fun t => t.state == .running && t.overBudget).map fun t => t.id)

/-! ### Leap slots and the hot refresh (R371) -/

/-- R371: a calendar notification to every partition, and CALREV. -/
def State.calNotify (s : State) (bits len period : Nat) : State :=
  let s1 := { s with cal.calrev := s.cal.calrev + 1 }
  s1.parts.foldl (fun s p =>
    s.post p.conf.nqbase.toNat (BitVec.ofNat 64 (3 + bits * 2 ^ 16 + len * 2 ^ 32)) (BitVec.ofNat 64 period)) s1

/-- R371: a leap slot that may be inserted now. At most one leap slot stands in a period (log entry 26). -/
def State.leapOk (s : State) (l : Leap) : Bool :=
  s.cal.started && 0 < l.len && l.len ≤ 16000 && (l.dram || l.links) && s.cal.tick + frameTicks ≤ l.period * periodTicks &&
    !s.cal.leaps.any fun k => k.period == l.period

/-- R371: LEAP_SLOT. -/
def execLeapSlot (l : Leap) (s : State) : Host.Outcome State Fault Refusal :=
  if s.leapOk l then
    .next ({ s with cal.leaps := ⟨l.period, l.dram, l.links, l.len⟩ :: s.cal.leaps }.calNotify
      (0x10 + (if l.dram then 0x100 else 0) + if l.links then 0x200 else 0) l.len l.period)
  else .next s

/-- The first frame boundary at or after a tick. -/
def frameFrom (t : Nat) : Nat := (t + frameTicks - 1) / frameTicks * frameTicks

/-- R371: a switch of the hot refresh is announced if the temperature asks for one and none is under way. -/
def State.announce (s : State) : State :=
  if s.cal.announced.isNone && s.cal.warm != s.cal.hot then
    let last := match s.cal.lastSwitch with
      | some t => t + 256 * frameTicks
      | none => 0
    let at_ := frameFrom (max (s.cal.tick + frameTicks) last)
    { s with cal.announced := some (s.cal.warm, at_) }.calNotify 0x120 (if s.cal.warm then 896 else 448) (at_ / periodTicks)
  else s

/-- R371: HOT_REFRESH_ANNOUNCE: the temperature crosses 85 °C. -/
def execHotRefreshAnnounce (warm : Bool) (s : State) : Host.Outcome State Fault Refusal :=
  if s.cal.started then .next { s with cal.warm := warm }.announce else .next s

/-- R371: HOT_REFRESH_SWITCH. -/
def execHotRefreshSwitch (s : State) : Host.Outcome State Fault Refusal :=
  s.onDue .hotSwitch fun t s =>
    match s.cal.announced with
    | some (on, _) => { s with cal.hot := on, cal.lastSwitch := some t, cal.announced := none }.announce
    | none => s

/-! ### Critical temperature (R387) -/

/-- A task ends wherever it stands, a pre-empted one too. -/
def State.killTask (s : State) (id status : Nat) : State :=
  let t := s.taskOf id
  ((s.endTask id status).mapTask id fun k => { k with letting := none, state := .running }).mapQueue t.part t.queue fun w =>
    { w with again := w.again.filter fun i => i != id }

/-- R387: CRITICAL_TEMPERATURE. -/
def execCriticalTemperature (s : State) : Host.Outcome State Fault Refusal :=
  if s.boot.stage == 0 then .next s
  else
    let s1 := (s.tasks.map fun t => t.id).foldl (fun s i => s.killTask i 0x0007) (s.report .critical)
    .next { s1 with boot.stage := 1, boot.ready := [], link.width := if s1.link.exchanging then 0 else 1, link.trained := 1 }

end Sys2Proof.Machine
end

