-- ==== Sys2Proof/Machine/Platform.lean ====
section
/-! DEFINITION. Machine/Platform.lean: errors and poison (R121 to R124, R164), Triath Link (R379 to R382), power,
bring-up, images and attestation (R384 to R386). -/

namespace Sys2Proof.Machine

/-! ### Errors -/

/-- Puts a number into a list that does not hold it. -/
def addNew (l : List Nat) (n : Nat) : List Nat := if l.contains n then l else l ++ [n]

/-- R123: an error in an instruction line: every thread that has fetched the line holds a poisoned block, and no pair's
cache keeps it. -/
def State.poisonLine (s : State) (pa : Nat) : State :=
  let line := pa / 64 * 64
  let s1 := s.mapThreads (fun t => t.fe.line.any fun l => l.pa == line && l.bad.isNone) fun t =>
    { t with fe.line := t.fe.line.map fun l => { l with poisoned := true } }
  { s1 with pairs := s1.pairs.map fun p => { p with icache := p.icache.filter fun l => l.1 != line } }

/-- R121, R123, R164: what an uncorrectable error does where it strikes. One in a clean line has no effect: the line is
filled again. -/
def State.strike (s : State) (place : ErrorPlace) : State :=
  match place with
  | .cleanLine _ => s
  | .block pa =>
    if isDram pa || isHost pa then { s with poison := addNew s.poison (pa / 64 * 64) } else s
  | .tileBlock i r b =>
    if i < 8 && r < 128 && b < 8 then
      let t := s.th.tile i
      { s with th := s.th.setTile i { t with poisoned := addNew t.poisoned (8 * r + b) } }
    else s
  | .bstoreBlock r b =>
    if r < 16384 && b < 8 then { s with th.bst.poisoned := addNew s.th.bst.poisoned (8 * r + b) } else s
  | .ssbBlock b => if b < 1024 then { s with th.ssb.poisoned := addNew s.th.ssb.poisoned b } else s
  | .instructionLine pa => s.poisonLine pa
  | .threadState => s.machineCheck

/-- R121: UNCORRECTABLE_ERROR. -/
def execUncorrectableError (place : ErrorPlace) (s : State) : Host.Outcome State Fault Refusal :=
  .next ((s.report (.uncorrectable place)).strike place)

/-- R121: CORRECTABLE_ERROR. -/
def execCorrectableError (s : State) : Host.Outcome State Fault Refusal := .next (s.report .correctedError)

/-- R164: MACHINE_CHECK. -/
def execMachineCheck (s : State) : Host.Outcome State Fault Refusal :=
  .next (if s.th.run == .running then s.machineCheck else s)

/-- R9, R124: a partition uses a pseudo-channel: one of its cells holds the stack (log entry 27). -/
def Part.usesChannel (p : Part) (ch : Nat) : Bool := p.conf.cells.contains (ch / 128 / 3)

/-- R124: a notification whose contents the spec does not state: two free values (log entry 27). -/
def State.notifyFree (s : State) (p : Part) : State :=
  let f := s.fresh
  let g := f.2.fresh
  g.2.post p.conf.nqbase.toNat (Config.freeWord f.1) (Config.freeWord g.1)

/-- R124: CHANNEL_OUT_OF_SERVICE. -/
def execChannelOutOfService (ch : Nat) (s : State) : Host.Outcome State Fault Refusal :=
  if s.channelsOut.contains ch || 3072 ≤ ch then .next s
  else
    let s1 := { s with channelsOut := s.channelsOut ++ [ch], stale := s.stale.filter fun u => u.1 != ch }.report (.channelOut ch)
    .next ((s1.parts.filter fun p => p.usesChannel ch).foldl State.notifyFree s1)

/-- R124, R385: REPAIR_RELOAD: a repair table is verified as one supplied at a boot is, and takes its place. -/
def execRepairReload (ch : Nat) (table : BootImage) (s : State) : Host.Outcome State Fault Refusal :=
  if !s.channelsOut.contains ch || table.kind != 1 then .next s
  else if Config.imageGood table then
    .next { s with channelsOut := s.channelsOut.filter (· != ch), stale := s.stale ++ [(ch, [])]
                   pairs := s.pairs.map fun p => p.mapLines (fun _ => true) fun l =>
                     { l with homePoison := [l.pa, l.pa + 64].filter fun b => l.homePoison.contains b || s.channelOf b == some ch }
                   boot.images := s.boot.images.filter (fun i => i.kind != 1) ++ [table] }
  else .next (s.report (.badImage 1))

/-! ### Triath Link -/

/-- R367, R379: LINK_TRANSACTION: a transaction arrives, or waits while the link carries none; one already received is a
replay. -/
def execLinkTransaction (seq : Nat) (body : LinkBody) (s : State) : Host.Outcome State Fault Refusal :=
  if seq ≤ s.link.rxdone || (s.link.received ++ s.link.waiting).any fun r => r.1 == seq then .next s
  else .next { s with link.waiting := s.link.waiting ++ [(seq, body)] }.letCross

/-- R379: FLIT_REPLAY: the flit comes again from the sender's buffer, and no more is seen of it. -/
def execFlitReplay (s : State) : Host.Outcome State Fault Refusal := .next s

/-- R382: the device's traffic bound for the host. -/
def State.flyingOwed (s : State) : List Flying :=
  (s.owed.filter fun o => o.kind.crosses && o.load.isNone && (s.owedAt o.kind).any isHost).map fun o => .owed o.no

/-- The line fetches under way, by their threads. -/
def State.flyingFetches (s : State) : List Flying :=
  (s.threads.filter fun t => t.run == .running && !t.lineHere && t.fe.loadWait.isNone).map fun t => .fetch t.hw

/-- The launch engine's steps for queues that fetch a record, or set up its lease. -/
def State.flyingRecords (s : State) : List Flying :=
  (s.queues.filter fun u => u.canFetch || u.fetched.any Fetched.letDue).map fun u => .record u.part u.q

/-- R379, R382: the transactions that a unit of work would have on the link: the first walk it needs that reads entries in host
memory, one access of the launch engine, or every request of the unit. -/
def State.transactions (s : State) (u : Flying) : List Flying :=
  let a := s.unheld
  let t := a.unitStep u
  let walks := (t.tlb.filter fun x => !a.tlb.any (fun y => y.ctx == x.ctx && y.vpn == x.vpn) &&
    (a.walkPath x.ctx.ptbase (BitVec.ofNat 64 (x.vpn * 65536))).any isHost).reverse
  match walks, u with
  | x :: _, _ => [.walk x.ctx (BitVec.ofNat 64 (x.vpn * 65536))]
  | [], .record _ _ => if t.link.txseq == a.link.txseq then [] else [u]
  | [], _ => List.replicate (t.link.txseq - a.link.txseq) u

/-- R379, R382: what may have been issued over the link and is not performed, unit by unit, loads apart, which have their
numbers. -/
def State.pendingUnits (s : State) : List (List Flying) :=
  let threads := (s.allFlying .link true (s.now + 1)).filter fun u => match u with
    | .load _ => false
    | _ => true
  ((threads ++ s.flyingFetches ++ s.flyingRecords).map s.transactions ++ s.flyingOwed.map fun u => [u]).filter fun l =>
    !l.isEmpty

/-- R381: an atomic that stands on the link and has not been performed holds its thread until the exchange. -/
def State.standOut (s : State) (u : Flying) : State :=
  match u with
  | .word h =>
    let s1 := s.focus h
    (match s1.atomicHere with
      | some va => { s1 with th.fe.loadWait := some ⟨s1.th.pc, va, [], false, accAtomic, s1.now, true⟩ }
      | none => s1)
  | _ => s

/-- R379 to R382: LINK_RESET. Which pending work with requests of host pages had issued them is a choice, one bit for each
unit, 0 for issued (log entry 28); those take the next numbers, after the loads whose data is awaited, which have theirs. The
width reads 0 until the exchange, and what the host had sent is gone. -/
def execLinkReset (side : LinkSide) (s : State) : Host.Outcome State Fault Refusal :=
  if s.boot.stage == 0 || s.link.exchanging then .next s
  else
    let c := s.choose
    let out := ((c.2.pendingUnits.zipIdx.filter fun u => !c.1.testBit u.2).map Prod.fst).flatten
    let s1 := (out.foldl State.standOut c.2).focus s.th.hw
    .next { s1 with
      link := { s1.link with
        txseq := s1.link.txseq + out.length
        out := s1.link.out ++ out.zipIdx.map fun u => ⟨s1.link.txseq + 1 + u.2, u.1⟩
        exchanging := true
        width := 0
        received := []
        waiting := []
        peerrst := s1.link.peerrst || side == .host } }

/-- R104: what a walk has found is held as a translation, unless it is not valid or the access it serves has A to set. -/
def State.walkBack (s : State) (c : Ctx) (va : W64) : State :=
  match s.walk c.ptbase accRead va with
  | .ok w => if leafV w.leaf && leafA w.leaf && !s.cached c w va then s.cacheXlat c w false va else s
  | .error _ => s

/-- R381, R382: what a transaction brings that the host has performed. -/
def State.settled (s : State) (u : Flying) : State :=
  match u with
  | .posted h seq =>
    let s1 := s.focus h
    (match s1.th.fe.posted.find? fun p => p.seq == seq with
      | some p => s1.performPosted p
      | none => s1)
  | .word h => (s.focus h).wordDone
  | .owed no =>
    (match s.owed.find? fun o => o.no == no with
      | some o => { s with owed := s.owed.filter fun p => p.no != no }.performOwed o.kind
      | none => s)
  | .walk c va => s.walkBack c va
  | .pass _ _ | .op _ _ | .fetch _ | .record _ _ => (s.unheld.unitStep u).heldAs s
  | .load _ => s

/-- R381: what the exchange shows of one transaction of `out`. A unit of which one is lost is lost; one of which all have been
performed is done, at the last of them. -/
def State.settleOut (peerDone : Nat) (out : List LinkOut) (s : State) (u : LinkOut) : State :=
  let mine := (out.filter fun v => v.req == u.req).map LinkOut.seq
  match mine.find? fun n => peerDone < n with
  | some n => if u.seq == n then s.cancel causeDataAccess true .link u.req else s
  | none => if mine.getLast? == some u.seq then s.settled u.req else s

/-- R382: a transaction of the device's own that was lost is issued again. What its resource keeps waiting comes later. -/
def State.reissue (s : State) (u : Flying) : State :=
  match u with
  | .owed no =>
    (match s.owed.find? fun o => o.no == no with
      | some o =>
        if (s.owedAt o.kind).any s.shutAt then s
        else { s with owed := s.owed.filter fun p => p.no != no }.performOwed o.kind
      | none => s)
  | .walk c va =>
    let r := s.byEngine fun s => match State.walkReads (s.walkPath c.ptbase va) s with
      | some t => (true, t)
      | none => (false, s)
    if r.1 then r.2.walkBack c va else s
  | .record part q => s.orNext (execRecordFetch part q s)
  | _ => s

/-- R379: the last transaction the host has performed for certain: everything but the last ones outstanding. -/
def Link.floor (l : Link) : Nat := l.out.foldr (fun o n => if o.seq == n then n - 1 else n) l.txseq

/-- R381, R382: LRXDONE_EXCHANGE: the host's LRXDONE arrives and the link carries transactions again: the device's own that
were lost first, in their order, then everything else. -/
def execLrxdoneExchange (peerDone : Nat) (s : State) : Host.Outcome State Fault Refusal :=
  if !s.link.exchanging || peerDone < s.link.floor || s.link.txseq < peerDone then .next s
  else
    let s1 := { s with link := { s.link with exchanging := false, out := [], width := s.link.trained } }
    let s2 := (s.link.out.foldl (State.settleOut peerDone s.link.out) s1).focus s.th.hw
    let s3 := { s2 with link.peerdone := peerDone, link.txseq := s.link.txseq }
    .next (State.reopen (((s.link.out.filter fun u => peerDone < u.seq).map LinkOut.req).foldl State.reissue s3))

/-- R380: PEERRST_CLEAR. -/
def execPeerrstClear (s : State) : Host.Outcome State Fault Refusal := .next { s with link.peerrst := false }

/-! ### Power and bring-up -/

/-- R381: POWER_LOSS: everything on the module is gone; host memory is not on it. -/
def execPowerLoss (s : State) : Host.Outcome State Fault Refusal :=
  .next { State.reset with
    mem := s.mem.filter fun c => isHost c.1
    poison := s.poison.filter isHost
    boot := { Boot.reset with power := false }
    inputs := s.inputs
    choices := s.choices
    pace := s.pace
    free := s.free }

/-- R384: BOOT: power is applied, and the boot ROM waits for images. -/
def execBoot (s : State) : Host.Outcome State Fault Refusal :=
  .next (if s.boot.power then s else { s with boot := Boot.reset })

/-- R385: the images a boot needs: SKU limits, repair and row-remap tables, and trims. -/
def imagesComplete (l : List BootImage) : Bool := [0, 1, 2].all fun k => l.any fun i => i.kind == k

/-- R384: stage 1: configuration writes are served, the calendar starts and the link is at quarter width. -/
def State.enterStage1 (s : State) : State :=
  { s with boot.stage := 1, cal := { s.cal with started := true, tick := 0, done := 0 }, link.width := 1, link.trained := 1 }

/-- R385: IMAGE_VERIFY. A module with a failed image stays in stage 0. -/
def execImageVerify (image : BootImage) (s : State) : Host.Outcome State Fault Refusal :=
  if s.boot.stage != 0 || s.boot.failed.isSome || 3 ≤ image.kind then .next s
  else if Config.imageGood image then
    let s1 := { s with boot.images := s.boot.images.filter (fun i => i.kind != image.kind) ++ [image] }
    .next (if imagesComplete s1.boot.images then s1.enterStage1 else s1)
  else .next ({ s with boot.failed := some image.kind }.report (.badImage image.kind))

/-- R384: CELL_READY. -/
def execCellReady (cell : Nat) (s : State) : Host.Outcome State Fault Refusal :=
  if s.boot.stage == 0 || 8 ≤ cell then .next s
  else .next { s with boot.ready := addNew s.boot.ready cell, boot.stage := max s.boot.stage 2 }

/-- R386: what is measured of a partition, with the nonce. -/
def State.measure (s : State) (p : Part) (nonce : List Byte) : List Byte :=
  Config.attestation p.conf ((s.queues.filter fun u => u.part == p.conf.id).map fun u => (u.q, u.conf))
    (s.fractions.filter fun f => p.conf.cells.contains f.cell) (s.regions.filter p.usesRegion) s.boot.images nonce

/-- R386: ATTESTATION_REQUEST. -/
def execAttestationRequest (part : Nat) (nonce : List Byte) (s : State) : Host.Outcome State Fault Refusal :=
  match s.part? part with
  | some p => .next { s with boot.answers := s.boot.answers ++ [(part, s.measure p nonce)] }
  | none => .next s

end Sys2Proof.Machine
end

