-- ==== Sys2Proof/Machine/Slots.lean ====
section
/-! DEFINITION. Machine/Slots.lean: pair words (R61 to R64). -/

namespace Sys2Proof.Machine

/-- R64: a vector slot takes a node and an entry of the queue. -/
def slotVector (u : Slot) : Bool := 0x12 ≤ u.cop.toNat

/-- R62: the full form of a slot of two vector sources; VUNARY and VMOV read A alone. -/
def slotFx (u : Slot) (first : Bool) (fn : BitVec 15) : FX :=
  { d := u.args.d, a := if first then u.args.d else u.args.a, b := if first then u.args.a else 0, c := 0,
    ty := u.args.ty, k := u.args.k, ls := 0, hint := 0, fn := fn }

/-- R62: the full form of a slot with an immediate. -/
def slotFj (u : Slot) : FJ :=
  { d := u.args.d, a := u.args.d, ty := u.args.ty, k := u.args.k, ls := 0, h := 0, imm := u.args.imm.setWidth 32 }

/-- R64: a slot's recording; `n` is the slot, which its node and its entry hold. -/
def State.slotRec (s : State) (n : Nat) (q : Except Nat Rec) : Except Issue State :=
  match q with
  | .error c => .error (Issue.fault c)
  | .ok q =>
    match s.recordHere 0 { q with vc := BitVec.ofNat 64 n, slot := n == 1,
                                  caps := q.caps.map fun v => (v.1, v.2.1, BitVec.ofNat 64 n) } with
    | .done t => .ok t
    | i => .error i

/-- R62: a VMOV slot. -/
def State.slotMove (s : State) (u : Slot) (n : Nat) : State :=
  let f := slotFx u false 0
  let s1 := s.moveName f
  { s1 with th := s1.th.enqueue { s.newEntry (packX 0x5F f) 0 0 0 with slot := n == 1 } }

/-- R62: what a vector slot records; none for a scalar slot or a VMOV. -/
def State.slotAsks (s : State) (u : Slot) : Option (Except Nat Rec) :=
  match u.cop.toNat with
  | 0x12 => some (s.recBin 0x40 (slotFx u true 0))
  | 0x13 => some (s.recBin 0x41 (slotFx u true 0))
  | 0x14 => some (s.recBin 0x42 (slotFx u true 0))
  | 0x15 => some (s.recBin 0x45 (slotFx u true 0))
  | 0x16 => some (s.recBin 0x46 (slotFx u true 0))
  | 0x17 => some (s.recBin 0x48 (slotFx u true 0))
  | 0x18 => some (s.recBin 0x49 (slotFx u true 0))
  | 0x19 => some (s.recBin 0x4A (slotFx u true 0))
  | 0x1A => some (s.recImm 0x58 (slotFj u))
  | 0x1B => some (s.recImm 0x59 (slotFj u))
  | 0x1C => some (s.recScalar 0x53 (slotFx u true 0))
  | 0x1D => some (s.recScalar 0x54 (slotFx u true 0))
  | 0x1F => some (s.recUn 0x47 (slotFx u false (u.args.imm.setWidth 15)))
  | _ => none

/-- R185: the error of a slot whose operands do not let it record. -/
def State.slotBad (s : State) (u : Slot) : Option Nat :=
  match s.slotAsks u with
  | some (.error c) => some c
  | _ => none

/-- R62: what slot `n` does, the PC apart, or why the word does nothing yet. -/
def State.slotRun (s : State) (u : Slot) (n : Nat) : Except Issue State :=
  let x := s.x u.args.d
  let y := s.x u.args.a
  let put (v : W64) : Except Issue State := .ok (s.setX u.args.d v)
  let fp (r : FpRes) : Except Issue State :=
    if enabledFlags s.fctrl r.flags != 0 then .error (Issue.fault causeFp)
    else .ok ((s.raiseFlags r.flags).setX u.args.d r.val)
  match u.cop.toNat with
  | 0x00 => put (x + y)
  | 0x01 => put (x - y)
  | 0x02 => put (x &&& y)
  | 0x03 => put (x ||| y)
  | 0x04 => put (x ^^^ y)
  | 0x05 => put (x <<< shiftCount y)
  | 0x06 => put (x >>> shiftCount y)
  | 0x07 => put (x.sshiftRight (shiftCount y))
  | 0x08 => put (x + u.args.imm.signExtend 64)
  | 0x09 => put (x <<< u.args.imm.toNat)
  | 0x0A => put (x >>> u.args.imm.toNat)
  | 0x0B => put (sltVal false x y)
  | 0x0C => put (minmaxVal (u.args.imm.toNat % 4) x y)
  | 0x0D => put (x * y)
  | 0x0E => fp (faddVal 0xA s.fctrl false x y)
  | 0x0F => fp (fmulVal 0xA s.fctrl x y)
  | 0x10 => fp (fminmaxVal 0xA (bitAt u.args.imm 0) x y)
  | 0x11 => .ok s
  | 0x1E => .ok (s.slotMove u n)
  | _ =>
    match s.slotAsks u with
    | some q => s.slotRec n q
    | none => .ok s

/-- R162: a trap names the slot that faulted. -/
def Issue.inSlot1 : Issue → Issue
  | .trap i => .trap { i with slot := true }
  | i => i

/-- R64: a pair word issues as a whole. Neither slot reads what the other writes (R63), so slot 1 may run after
slot 0. The operands of both slots are checked before their nodes are counted (R76, R185),
and a fault of slot 0 comes before any of slot 1 (R137). -/
def State.pairWord (s : State) (u0 u1 : Slot) : Issue :=
  let n := (if slotVector u0 then 1 else 0) + (if slotVector u1 then 1 else 0)
  if !s.th.dsp.room n then .wait .drain false 0
  else if (s.slotBad u0).isSome then Issue.fault ((s.slotBad u0).getD 0)
  else
    match if slotVector u0 then .ok s else s.slotRun u0 0 with
    | .error i => i
    | .ok _ =>
      if (s.slotBad u1).isSome then (Issue.fault ((s.slotBad u1).getD 0)).inSlot1
      else if s.th.rcp.free < n then Issue.fault causeCapacity
      else
        match s.slotRun u0 0 with
        | .error i => i
        | .ok s1 =>
          match s1.slotRun u1 1 with
          | .error i => i.inSlot1
          | .ok s2 => .done s2.retire

/-- R62: COP 0x00. -/
def execAddSlot (a0 : SlotArgs) (s1 : Slot) (s : State) : Host.Outcome State Fault Refusal :=
  s.settle (s.pairWord ⟨0x00, a0⟩ s1)

/-- R62: COP 0x01. -/
def execSubSlot (a0 : SlotArgs) (s1 : Slot) (s : State) : Host.Outcome State Fault Refusal :=
  s.settle (s.pairWord ⟨0x01, a0⟩ s1)

/-- R62: COP 0x02. -/
def execAndSlot (a0 : SlotArgs) (s1 : Slot) (s : State) : Host.Outcome State Fault Refusal :=
  s.settle (s.pairWord ⟨0x02, a0⟩ s1)

/-- R62: COP 0x03. -/
def execOrSlot (a0 : SlotArgs) (s1 : Slot) (s : State) : Host.Outcome State Fault Refusal :=
  s.settle (s.pairWord ⟨0x03, a0⟩ s1)

/-- R62: COP 0x04. -/
def execXorSlot (a0 : SlotArgs) (s1 : Slot) (s : State) : Host.Outcome State Fault Refusal :=
  s.settle (s.pairWord ⟨0x04, a0⟩ s1)

/-- R62: COP 0x05. -/
def execShlSlot (a0 : SlotArgs) (s1 : Slot) (s : State) : Host.Outcome State Fault Refusal :=
  s.settle (s.pairWord ⟨0x05, a0⟩ s1)

/-- R62: COP 0x06. -/
def execShrSlot (a0 : SlotArgs) (s1 : Slot) (s : State) : Host.Outcome State Fault Refusal :=
  s.settle (s.pairWord ⟨0x06, a0⟩ s1)

/-- R62: COP 0x07. -/
def execSraSlot (a0 : SlotArgs) (s1 : Slot) (s : State) : Host.Outcome State Fault Refusal :=
  s.settle (s.pairWord ⟨0x07, a0⟩ s1)

/-- R62: COP 0x08. -/
def execAddiSlot (a0 : SlotArgs) (s1 : Slot) (s : State) : Host.Outcome State Fault Refusal :=
  s.settle (s.pairWord ⟨0x08, a0⟩ s1)

/-- R62: COP 0x09. -/
def execShliSlot (a0 : SlotArgs) (s1 : Slot) (s : State) : Host.Outcome State Fault Refusal :=
  s.settle (s.pairWord ⟨0x09, a0⟩ s1)

/-- R62: COP 0x0A. -/
def execShriSlot (a0 : SlotArgs) (s1 : Slot) (s : State) : Host.Outcome State Fault Refusal :=
  s.settle (s.pairWord ⟨0x0A, a0⟩ s1)

/-- R62: COP 0x0B. -/
def execSltSlot (a0 : SlotArgs) (s1 : Slot) (s : State) : Host.Outcome State Fault Refusal :=
  s.settle (s.pairWord ⟨0x0B, a0⟩ s1)

/-- R62: COP 0x0C. -/
def execMinmaxSlot (a0 : SlotArgs) (s1 : Slot) (s : State) : Host.Outcome State Fault Refusal :=
  s.settle (s.pairWord ⟨0x0C, a0⟩ s1)

/-- R62: COP 0x0D. -/
def execMulSlot (a0 : SlotArgs) (s1 : Slot) (s : State) : Host.Outcome State Fault Refusal :=
  s.settle (s.pairWord ⟨0x0D, a0⟩ s1)

/-- R62: COP 0x0E. -/
def execFaddSlot (a0 : SlotArgs) (s1 : Slot) (s : State) : Host.Outcome State Fault Refusal :=
  s.settle (s.pairWord ⟨0x0E, a0⟩ s1)

/-- R62: COP 0x0F. -/
def execFmulSlot (a0 : SlotArgs) (s1 : Slot) (s : State) : Host.Outcome State Fault Refusal :=
  s.settle (s.pairWord ⟨0x0F, a0⟩ s1)

/-- R62: COP 0x10. -/
def execFminmaxSlot (a0 : SlotArgs) (s1 : Slot) (s : State) : Host.Outcome State Fault Refusal :=
  s.settle (s.pairWord ⟨0x10, a0⟩ s1)

/-- R62: COP 0x11. -/
def execNopSlot (a0 : SlotArgs) (s1 : Slot) (s : State) : Host.Outcome State Fault Refusal :=
  s.settle (s.pairWord ⟨0x11, a0⟩ s1)

/-- R62: COP 0x12. -/
def execVaddSlot (a0 : SlotArgs) (s1 : Slot) (s : State) : Host.Outcome State Fault Refusal :=
  s.settle (s.pairWord ⟨0x12, a0⟩ s1)

/-- R62: COP 0x13. -/
def execVsubSlot (a0 : SlotArgs) (s1 : Slot) (s : State) : Host.Outcome State Fault Refusal :=
  s.settle (s.pairWord ⟨0x13, a0⟩ s1)

/-- R62: COP 0x14. -/
def execVmulSlot (a0 : SlotArgs) (s1 : Slot) (s : State) : Host.Outcome State Fault Refusal :=
  s.settle (s.pairWord ⟨0x14, a0⟩ s1)

/-- R62: COP 0x15. -/
def execVminSlot (a0 : SlotArgs) (s1 : Slot) (s : State) : Host.Outcome State Fault Refusal :=
  s.settle (s.pairWord ⟨0x15, a0⟩ s1)

/-- R62: COP 0x16. -/
def execVmaxSlot (a0 : SlotArgs) (s1 : Slot) (s : State) : Host.Outcome State Fault Refusal :=
  s.settle (s.pairWord ⟨0x16, a0⟩ s1)

/-- R62: COP 0x17. -/
def execVandSlot (a0 : SlotArgs) (s1 : Slot) (s : State) : Host.Outcome State Fault Refusal :=
  s.settle (s.pairWord ⟨0x17, a0⟩ s1)

/-- R62: COP 0x18. -/
def execVorSlot (a0 : SlotArgs) (s1 : Slot) (s : State) : Host.Outcome State Fault Refusal :=
  s.settle (s.pairWord ⟨0x18, a0⟩ s1)

/-- R62: COP 0x19. -/
def execVxorSlot (a0 : SlotArgs) (s1 : Slot) (s : State) : Host.Outcome State Fault Refusal :=
  s.settle (s.pairWord ⟨0x19, a0⟩ s1)

/-- R62: COP 0x1A. -/
def execVshliSlot (a0 : SlotArgs) (s1 : Slot) (s : State) : Host.Outcome State Fault Refusal :=
  s.settle (s.pairWord ⟨0x1A, a0⟩ s1)

/-- R62: COP 0x1B. -/
def execVshriSlot (a0 : SlotArgs) (s1 : Slot) (s : State) : Host.Outcome State Fault Refusal :=
  s.settle (s.pairWord ⟨0x1B, a0⟩ s1)

/-- R62: COP 0x1C. -/
def execVaddsSlot (a0 : SlotArgs) (s1 : Slot) (s : State) : Host.Outcome State Fault Refusal :=
  s.settle (s.pairWord ⟨0x1C, a0⟩ s1)

/-- R62: COP 0x1D. -/
def execVmulsSlot (a0 : SlotArgs) (s1 : Slot) (s : State) : Host.Outcome State Fault Refusal :=
  s.settle (s.pairWord ⟨0x1D, a0⟩ s1)

/-- R62: COP 0x1E. -/
def execVmovSlot (a0 : SlotArgs) (s1 : Slot) (s : State) : Host.Outcome State Fault Refusal :=
  s.settle (s.pairWord ⟨0x1E, a0⟩ s1)

/-- R62: COP 0x1F. -/
def execVunarySlot (a0 : SlotArgs) (s1 : Slot) (s : State) : Host.Outcome State Fault Refusal :=
  s.settle (s.pairWord ⟨0x1F, a0⟩ s1)

end Sys2Proof.Machine
end

