-- ==== Sys2Proof/Machine/Dispatch.lean ====
section
/-! DEFINITION. Machine/Dispatch.lean: one arm for each constructor of Instr. -/

namespace Sys2Proof.Machine

open Sys2Proof

/-- The meaning of an instruction, or of a step of the machine itself. -/
def exec (i : Instr) (s : State) : Host.Outcome State Fault Refusal :=
  match i with
  | .add f => Sys2Proof.Machine.execAdd f s
  | .sub f => Sys2Proof.Machine.execSub f s
  | .and f => Sys2Proof.Machine.execAnd f s
  | .or f => Sys2Proof.Machine.execOr f s
  | .xor f => Sys2Proof.Machine.execXor f s
  | .shl f => Sys2Proof.Machine.execShl f s
  | .shr f => Sys2Proof.Machine.execShr f s
  | .sra f => Sys2Proof.Machine.execSra f s
  | .mul f => Sys2Proof.Machine.execMul f s
  | .mulh f => Sys2Proof.Machine.execMulh f s
  | .div f => Sys2Proof.Machine.execDiv f s
  | .rem f => Sys2Proof.Machine.execRem f s
  | .slt f => Sys2Proof.Machine.execSlt f s
  | .minmax f => Sys2Proof.Machine.execMinmax f s
  | .bitcnt f => Sys2Proof.Machine.execBitcnt f s
  | .addi f => Sys2Proof.Machine.execAddi f s
  | .andi f => Sys2Proof.Machine.execAndi f s
  | .ori f => Sys2Proof.Machine.execOri f s
  | .xori f => Sys2Proof.Machine.execXori f s
  | .shli f => Sys2Proof.Machine.execShli f s
  | .shri f => Sys2Proof.Machine.execShri f s
  | .srai f => Sys2Proof.Machine.execSrai f s
  | .lui f => Sys2Proof.Machine.execLui f s
  | .slti f => Sys2Proof.Machine.execSlti f s
  | .auipc f => Sys2Proof.Machine.execAuipc f s
  | .csel f => Sys2Proof.Machine.execCsel f s
  | .ext f => Sys2Proof.Machine.execExt f s
  | .ins f => Sys2Proof.Machine.execIns f s
  | .fadd f => Sys2Proof.Machine.execFadd f s
  | .fmul f => Sys2Proof.Machine.execFmul f s
  | .ffma f => Sys2Proof.Machine.execFfma f s
  | .fdiv f => Sys2Proof.Machine.execFdiv f s
  | .fcmp f => Sys2Proof.Machine.execFcmp f s
  | .fcvt f => Sys2Proof.Machine.execFcvt f s
  | .fminmax f => Sys2Proof.Machine.execFminmax f s
  | .fclass f => Sys2Proof.Machine.execFclass f s
  | .ld f => Sys2Proof.Machine.execLd f s
  | .st f => Sys2Proof.Machine.execSt f s
  | .ldpair f => Sys2Proof.Machine.execLdpair f s
  | .stpair f => Sys2Proof.Machine.execStpair f s
  | .br f => Sys2Proof.Machine.execBr f s
  | .jal f => Sys2Proof.Machine.execJal f s
  | .jalr f => Sys2Proof.Machine.execJalr f s
  | .loop f => Sys2Proof.Machine.execLoop f s
  | .fsqrt f => Sys2Proof.Machine.execFsqrt f s
  | .frnd f => Sys2Proof.Machine.execFrnd f s
  | .mfs f => Sys2Proof.Machine.execMfs f s
  | .mts f => Sys2Proof.Machine.execMts f s
  | .trap f => Sys2Proof.Machine.execTrap f s
  | .break f => Sys2Proof.Machine.execBreak f s
  | .rdcyc f => Sys2Proof.Machine.execRdcyc f s
  | .setvl f => Sys2Proof.Machine.execSetvl f s
  | .waitlt f => Sys2Proof.Machine.execWaitlt f s
  | .nop f => Sys2Proof.Machine.execNop f s
  | .fence f => Sys2Proof.Machine.execFence f s
  | .slotq f => Sys2Proof.Machine.execSlotq f s
  | .slotgate f => Sys2Proof.Machine.execSlotgate f s
  | .cacheop f => Sys2Proof.Machine.execCacheop f s
  | .vadd f => Sys2Proof.Machine.execVadd f s
  | .vsub f => Sys2Proof.Machine.execVsub f s
  | .vmul f => Sys2Proof.Machine.execVmul f s
  | .vfma f => Sys2Proof.Machine.execVfma f s
  | .vdiv f => Sys2Proof.Machine.execVdiv f s
  | .vmin f => Sys2Proof.Machine.execVmin f s
  | .vmax f => Sys2Proof.Machine.execVmax f s
  | .vunary f => Sys2Proof.Machine.execVunary f s
  | .vand f => Sys2Proof.Machine.execVand f s
  | .vor f => Sys2Proof.Machine.execVor f s
  | .vxor f => Sys2Proof.Machine.execVxor f s
  | .vshl f => Sys2Proof.Machine.execVshl f s
  | .vshr f => Sys2Proof.Machine.execVshr f s
  | .vcvt f => Sys2Proof.Machine.execVcvt f s
  | .vcmp f => Sys2Proof.Machine.execVcmp f s
  | .vsel f => Sys2Proof.Machine.execVsel f s
  | .vsfu f => Sys2Proof.Machine.execVsfu f s
  | .vclass f => Sys2Proof.Machine.execVclass f s
  | .vrnd f => Sys2Proof.Machine.execVrnd f s
  | .vadds f => Sys2Proof.Machine.execVadds f s
  | .vmuls f => Sys2Proof.Machine.execVmuls f s
  | .vfmas f => Sys2Proof.Machine.execVfmas f s
  | .vmins f => Sys2Proof.Machine.execVmins f s
  | .vmaxs f => Sys2Proof.Machine.execVmaxs f s
  | .vshli f => Sys2Proof.Machine.execVshli f s
  | .vshri f => Sys2Proof.Machine.execVshri f s
  | .vcmps f => Sys2Proof.Machine.execVcmps f s
  | .vsplat f => Sys2Proof.Machine.execVsplat f s
  | .viota f => Sys2Proof.Machine.execViota f s
  | .vbcast f => Sys2Proof.Machine.execVbcast f s
  | .vslide f => Sys2Proof.Machine.execVslide f s
  | .vmov f => Sys2Proof.Machine.execVmov f s
  | .vld f => Sys2Proof.Machine.execVld f s
  | .vldx f => Sys2Proof.Machine.execVldx f s
  | .vtread f => Sys2Proof.Machine.execVtread f s
  | .vkld f => Sys2Proof.Machine.execVkld f s
  | .vst f => Sys2Proof.Machine.execVst f s
  | .vstx f => Sys2Proof.Machine.execVstx f s
  | .vcst f => Sys2Proof.Machine.execVcst f s
  | .vkst f => Sys2Proof.Machine.execVkst f s
  | .vred f => Sys2Proof.Machine.execVred f s
  | .vsegred f => Sys2Proof.Machine.execVsegred f s
  | .vscan f => Sys2Proof.Machine.execVscan f s
  | .vforce f => Sys2Proof.Machine.execVforce f s
  | .vpass f => Sys2Proof.Machine.execVpass f s
  | .kop f => Sys2Proof.Machine.execKop f s
  | .kpop f => Sys2Proof.Machine.execKpop f s
  | .vflags f => Sys2Proof.Machine.execVflags f s
  | .lqopPush f => Sys2Proof.Machine.execLqopPush f s
  | .lqopPop f => Sys2Proof.Machine.execLqopPop f s
  | .lqopDrop f => Sys2Proof.Machine.execLqopDrop f s
  | .vmulh f => Sys2Proof.Machine.execVmulh f s
  | .vpopc f => Sys2Proof.Machine.execVpopc f s
  | .mopa f => Sys2Proof.Machine.execMopa f s
  | .mops f => Sys2Proof.Machine.execMops f s
  | .mzero f => Sys2Proof.Machine.execMzero f s
  | .mscale f => Sys2Proof.Machine.execMscale f s
  | .maddt f => Sys2Proof.Machine.execMaddt f s
  | .mtrn f => Sys2Proof.Machine.execMtrn f s
  | .mtld f => Sys2Proof.Machine.execMtld f s
  | .mtst f => Sys2Proof.Machine.execMtst f s
  | .mpack f => Sys2Proof.Machine.execMpack f s
  | .mtwr f => Sys2Proof.Machine.execMtwr f s
  | .mrred f => Sys2Proof.Machine.execMrred f s
  | .bload f => Sys2Proof.Machine.execBload f s
  | .bfromt f => Sys2Proof.Machine.execBfromt f s
  | .msave f => Sys2Proof.Machine.execMsave f s
  | .mrest f => Sys2Proof.Machine.execMrest f s
  | .mopt f => Sys2Proof.Machine.execMopt f s
  | .sscfg f => Sys2Proof.Machine.execSscfg f s
  | .sscan f => Sys2Proof.Machine.execSscan f s
  | .ssstep f => Sys2Proof.Machine.execSsstep f s
  | .ssld f => Sys2Proof.Machine.execSsld f s
  | .ssst f => Sys2Proof.Machine.execSsst f s
  | .ssrst f => Sys2Proof.Machine.execSsrst f s
  | .cpy f => Sys2Proof.Machine.execCpy f s
  | .cpy2d f => Sys2Proof.Machine.execCpy2d f s
  | .cpyt f => Sys2Proof.Machine.execCpyt f s
  | .cpyx f => Sys2Proof.Machine.execCpyx f s
  | .cpyf f => Sys2Proof.Machine.execCpyf f s
  | .cpyr f => Sys2Proof.Machine.execCpyr f s
  | .cpypub f => Sys2Proof.Machine.execCpypub f s
  | .stcfg f => Sys2Proof.Machine.execStcfg f s
  | .stmap f => Sys2Proof.Machine.execStmap f s
  | .stfl f => Sys2Proof.Machine.execStfl f s
  | .arm f => Sys2Proof.Machine.execArm f s
  | .arwait f => Sys2Proof.Machine.execArwait f s
  | .cinv f => Sys2Proof.Machine.execCinv f s
  | .stinv f => Sys2Proof.Machine.execStinv f s
  | .amo f => Sys2Proof.Machine.execAmo f s
  | .amow f => Sys2Proof.Machine.execAmow f s
  | .cas f => Sys2Proof.Machine.execCas f s
  | .vamo f => Sys2Proof.Machine.execVamo f s
  | .ldaq f => Sys2Proof.Machine.execLdaq f s
  | .strl f => Sys2Proof.Machine.execStrl f s
  | .semtas f => Sys2Proof.Machine.execSemtas f s
  | .semclr f => Sys2Proof.Machine.execSemclr f s
  | .cdrd f => Sys2Proof.Machine.execCdrd f s
  | .cdwr f => Sys2Proof.Machine.execCdwr f s
  | .cdamo f => Sys2Proof.Machine.execCdamo f s
  | .cbar f => Sys2Proof.Machine.execCbar f s
  | .vtb f => Sys2Proof.Machine.execVtb f s
  | .lfetch f => Sys2Proof.Machine.execLfetch f s
  | .lstop f => Sys2Proof.Machine.execLstop f s
  | .lbr f => Sys2Proof.Machine.execLbr f s
  | .launch f => Sys2Proof.Machine.execLaunch f s
  | .yield f => Sys2Proof.Machine.execYield f s
  | .taskend f => Sys2Proof.Machine.execTaskend f s
  | .leaseq f => Sys2Proof.Machine.execLeaseq f s
  | .tret f => Sys2Proof.Machine.execTret f s
  | .ctxsv f => Sys2Proof.Machine.execCtxsv f s
  | .ctxrs f => Sys2Proof.Machine.execCtxrs f s
  | .tlbinv f => Sys2Proof.Machine.execTlbinv f s
  | .pgsetSet f => Sys2Proof.Machine.execPgsetSet f s
  | .pgsetNorm f => Sys2Proof.Machine.execPgsetNorm f s
  | .pgsetWbset f => Sys2Proof.Machine.execPgsetWbset f s
  | .pgcnt f => Sys2Proof.Machine.execPgcnt f s
  | .nqpost f => Sys2Proof.Machine.execNqpost f s
  | .waiti f => Sys2Proof.Machine.execWaiti f s
  | .stepcmt f => Sys2Proof.Machine.execStepcmt f s
  | .stepabt f => Sys2Proof.Machine.execStepabt f s
  | .qctlRd f => Sys2Proof.Machine.execQctlRd f s
  | .qctlStop f => Sys2Proof.Machine.execQctlStop f s
  | .qctlStart f => Sys2Proof.Machine.execQctlStart f s
  | .qctlSetw f => Sys2Proof.Machine.execQctlSetw f s
  | .qctlSetp f => Sys2Proof.Machine.execQctlSetp f s
  | .addSlot a0 s1 => Sys2Proof.Machine.execAddSlot a0 s1 s
  | .subSlot a0 s1 => Sys2Proof.Machine.execSubSlot a0 s1 s
  | .andSlot a0 s1 => Sys2Proof.Machine.execAndSlot a0 s1 s
  | .orSlot a0 s1 => Sys2Proof.Machine.execOrSlot a0 s1 s
  | .xorSlot a0 s1 => Sys2Proof.Machine.execXorSlot a0 s1 s
  | .shlSlot a0 s1 => Sys2Proof.Machine.execShlSlot a0 s1 s
  | .shrSlot a0 s1 => Sys2Proof.Machine.execShrSlot a0 s1 s
  | .sraSlot a0 s1 => Sys2Proof.Machine.execSraSlot a0 s1 s
  | .addiSlot a0 s1 => Sys2Proof.Machine.execAddiSlot a0 s1 s
  | .shliSlot a0 s1 => Sys2Proof.Machine.execShliSlot a0 s1 s
  | .shriSlot a0 s1 => Sys2Proof.Machine.execShriSlot a0 s1 s
  | .sltSlot a0 s1 => Sys2Proof.Machine.execSltSlot a0 s1 s
  | .minmaxSlot a0 s1 => Sys2Proof.Machine.execMinmaxSlot a0 s1 s
  | .mulSlot a0 s1 => Sys2Proof.Machine.execMulSlot a0 s1 s
  | .faddSlot a0 s1 => Sys2Proof.Machine.execFaddSlot a0 s1 s
  | .fmulSlot a0 s1 => Sys2Proof.Machine.execFmulSlot a0 s1 s
  | .fminmaxSlot a0 s1 => Sys2Proof.Machine.execFminmaxSlot a0 s1 s
  | .nopSlot a0 s1 => Sys2Proof.Machine.execNopSlot a0 s1 s
  | .vaddSlot a0 s1 => Sys2Proof.Machine.execVaddSlot a0 s1 s
  | .vsubSlot a0 s1 => Sys2Proof.Machine.execVsubSlot a0 s1 s
  | .vmulSlot a0 s1 => Sys2Proof.Machine.execVmulSlot a0 s1 s
  | .vminSlot a0 s1 => Sys2Proof.Machine.execVminSlot a0 s1 s
  | .vmaxSlot a0 s1 => Sys2Proof.Machine.execVmaxSlot a0 s1 s
  | .vandSlot a0 s1 => Sys2Proof.Machine.execVandSlot a0 s1 s
  | .vorSlot a0 s1 => Sys2Proof.Machine.execVorSlot a0 s1 s
  | .vxorSlot a0 s1 => Sys2Proof.Machine.execVxorSlot a0 s1 s
  | .vshliSlot a0 s1 => Sys2Proof.Machine.execVshliSlot a0 s1 s
  | .vshriSlot a0 s1 => Sys2Proof.Machine.execVshriSlot a0 s1 s
  | .vaddsSlot a0 s1 => Sys2Proof.Machine.execVaddsSlot a0 s1 s
  | .vmulsSlot a0 s1 => Sys2Proof.Machine.execVmulsSlot a0 s1 s
  | .vmovSlot a0 s1 => Sys2Proof.Machine.execVmovSlot a0 s1 s
  | .vunarySlot a0 s1 => Sys2Proof.Machine.execVunarySlot a0 s1 s
  | .vstartWrite f => Sys2Proof.Machine.execVstartWrite f s
  | .fstatusAccess write f => Sys2Proof.Machine.execFstatusAccess write f s
  | .browbaseWrite f => Sys2Proof.Machine.execBrowbaseWrite f s
  | .postedStorePerformed k => Sys2Proof.Machine.execPostedStorePerformed k s
  | .elementGroupCommit slot => Sys2Proof.Machine.execElementGroupCommit slot s
  | .passComplete slot => Sys2Proof.Machine.execPassComplete slot s
  | .operationComplete u => Sys2Proof.Machine.execOperationComplete u s
  | .versionedCopy k => Sys2Proof.Machine.execVersionedCopy k s
  | .recordFetch part q => Sys2Proof.Machine.execRecordFetch part q s
  | .waitConditionHold part q k => Sys2Proof.Machine.execWaitConditionHold part q k s
  | .taskStart part q => Sys2Proof.Machine.execTaskStart part q s
  | .preload part q => Sys2Proof.Machine.execPreload part q s
  | .taskComplete task => Sys2Proof.Machine.execTaskComplete task s
  | .preempt task => Sys2Proof.Machine.execPreempt task s
  | .resume task => Sys2Proof.Machine.execResume task s
  | .drainHorizon r => Sys2Proof.Machine.execDrainHorizon r s
  | .slotStart r => Sys2Proof.Machine.execSlotStart r s
  | .overrun r => Sys2Proof.Machine.execOverrun r s
  | .slotEnd r => Sys2Proof.Machine.execSlotEnd r s
  | .slotExtensionEnd r => Sys2Proof.Machine.execSlotExtensionEnd r s
  | .matrixRowUnit u => Sys2Proof.Machine.execMatrixRowUnit u s
  | .uncorrectableError place => Sys2Proof.Machine.execUncorrectableError place s
  | .channelOutOfService ch => Sys2Proof.Machine.execChannelOutOfService ch s
  | .repairReload ch image => Sys2Proof.Machine.execRepairReload ch image s
  | .doorbell part q value => Sys2Proof.Machine.execDoorbell part q value s
  | .configWrite c => Sys2Proof.Machine.execConfigWrite c s
  | .quiesce part => Sys2Proof.Machine.execQuiesce part s
  | .resumePartition part => Sys2Proof.Machine.execResumePartition part s
  | .leapSlot leap => Sys2Proof.Machine.execLeapSlot leap s
  | .hotRefreshAnnounce hot => Sys2Proof.Machine.execHotRefreshAnnounce hot s
  | .linkTransaction seq body => Sys2Proof.Machine.execLinkTransaction seq body s
  | .linkReset side => Sys2Proof.Machine.execLinkReset side s
  | .lrxdoneExchange peerDone => Sys2Proof.Machine.execLrxdoneExchange peerDone s
  | .imageVerify image => Sys2Proof.Machine.execImageVerify image s
  | .cellReady cell => Sys2Proof.Machine.execCellReady cell s
  | .attestationRequest part nonce => Sys2Proof.Machine.execAttestationRequest part nonce s
  | .instructionFetch => Sys2Proof.Machine.execInstructionFetch s
  | .loadDataReturn => Sys2Proof.Machine.execLoadDataReturn s
  | .pollBackoffEnd => Sys2Proof.Machine.execPollBackoffEnd s
  | .entryStart => Sys2Proof.Machine.execEntryStart s
  | .passLaunch => Sys2Proof.Machine.execPassLaunch s
  | .matrixUnit => Sys2Proof.Machine.execMatrixUnit s
  | .ssbUnit => Sys2Proof.Machine.execSsbUnit s
  | .copyUnit => Sys2Proof.Machine.execCopyUnit s
  | .indirectStream => Sys2Proof.Machine.execIndirectStream s
  | .deferredFaultDelivery => Sys2Proof.Machine.execDeferredFaultDelivery s
  | .droppedStoreDelivery => Sys2Proof.Machine.execDroppedStoreDelivery s
  | .waitTimeout => Sys2Proof.Machine.execWaitTimeout s
  | .waitiExpiry => Sys2Proof.Machine.execWaitiExpiry s
  | .slotgateRelease => Sys2Proof.Machine.execSlotgateRelease s
  | .machineCheck => Sys2Proof.Machine.execMachineCheck s
  | .periodBoundary => Sys2Proof.Machine.execPeriodBoundary s
  | .hotRefreshSwitch => Sys2Proof.Machine.execHotRefreshSwitch s
  | .criticalTemperature => Sys2Proof.Machine.execCriticalTemperature s
  | .flitReplay => Sys2Proof.Machine.execFlitReplay s
  | .powerLoss => Sys2Proof.Machine.execPowerLoss s
  | .boot => Sys2Proof.Machine.execBoot s
  | .correctableError => Sys2Proof.Machine.execCorrectableError s
  | .peerrstClear => Sys2Proof.Machine.execPeerrstClear s

end Sys2Proof.Machine
end

