-- ==== Sys2Proof/Machine/Schedule.lean ====
section
/-! DEFINITION. Machine/Schedule.lean: what can happen next, and the step built from it (log entry 4). -/

namespace Sys2Proof.Machine

/-- One thing that can happen: a step of the machine itself, at a thread or not, or the next word of a thread. -/
inductive Act where
  | event (place : Option HwId) (i : Instr)
  | word (place : HwId)
  deriving DecidableEq, Repr

/-- What the threads of a pair take in turn: the SFE (R134), the stream sequencer (R13), the matrix array and the copy engine
(R14). -/
inductive Turn where
  | sfe
  | sequencer
  | array
  | copy
  deriving DecidableEq, Repr

/-- An action, what it takes in turn, and whether its operation keeps its engine until it reaches a boundary (R14). -/
structure Offer where
  act : Act
  turn : Option Turn
  keeps : Bool
  deriving DecidableEq, Repr

/-- The place of an action's thread. -/
def Act.place : Act → Option HwId
  | .event p _ => p
  | .word h => some h

/-- A list with one entry where a test holds. -/
def oneIf {α : Type} (b : Bool) (a : α) : List α := if b then [a] else []

/-! ### Turns within a pair -/

/-- The thread served last. -/
def Turn.last (k : Turn) (p : Pair) : Nat :=
  match k with
  | .sfe => p.sfeLast
  | .sequencer => p.seqLast
  | .array => p.arrayLast
  | .copy => p.copyLast

/-- The pair once a thread has been served. -/
def Turn.serve (k : Turn) (slot : Nat) (p : Pair) : Pair :=
  match k with
  | .sfe => { p with sfeLast := slot }
  | .sequencer => { p with seqLast := slot }
  | .array => { p with arrayLast := slot }
  | .copy => { p with copyLast := slot }

/-- Round-robin order: of the slots that qualify, the first after the one served last. -/
def nextSlot (last : Nat) (ok : Nat → Bool) : Option Nat := ([1, 2, 3, 4].map fun d => (last + d) % 4).find? ok

/-- R14: the next unit of a scan is a chunk, in the matrix array. -/
def State.chunkNext (s : State) : Bool :=
  s.th.dsp.ssb.elim false fun o => match decodeOpc o.e.word with
    | some (.sscan _) => nextIsChunk s.th.sr.ssinfo false o.n o.prog
    | _ => false

/-- What a step of the thread in focus takes in turn. -/
def State.turnOf (s : State) (i : Instr) : Option Turn :=
  match i with
  | .entryStart | .passLaunch => some .sequencer
  | .matrixUnit | .matrixRowUnit .matrix => some .array
  | .ssbUnit => if s.chunkNext then some .array else none
  | .copyUnit | .indirectStream => some .copy
  | _ => none

/-- The operation of the thread in focus keeps what it takes in turn. -/
def State.keepsTurn (s : State) (k : Option Turn) : Bool :=
  match k with
  | some .array => s.th.dsp.matrix.any Op.within
  | some .copy => s.th.dsp.copy.any Op.within
  | _ => false

/-- The thread in focus is served. -/
def State.takeTurn (s : State) (k : Option Turn) : State :=
  match k with
  | some k => s.setPair (k.serve s.th.slot s.pair)
  | none => s

/-- R13, R14, R134: an offer stands, of all there are, if it takes nothing in turn or its thread is the next in round-robin
order; an operation off its boundary goes on before any other. -/
def State.stands (s : State) (os : List Offer) (o : Offer) : Bool :=
  match o.turn, o.act.place with
  | some k, some h =>
    let rivals := (os.filter fun v => v.turn == some k).filterMap fun v => (v.act.place.filter fun g =>
      g.cluster == h.cluster && g.pair == h.pair).map fun g => (g.slot, v.keeps)
    let last := k.last (s.pairOf h.cluster h.pair)
    if rivals.contains (last, true) then h.slot == last
    else nextSlot last (fun n => rivals.any fun v => v.1 == n) == some h.slot
  | _, _ => true

/-- R134: the word of the thread in focus is the next its pair issues. -/
def State.wordNext (s : State) : Bool :=
  nextSlot s.pair.sfeLast (fun n => s.threads.any fun t =>
    t.cluster == s.th.cluster && t.pair == s.th.pair && t.slot == n && (s.focus t.hw).ready) == some s.th.slot

/-! ### A thread -/

/-- The bytes that a word of the thread in focus would store to, one without `.late` (R148, R299, R302, R303, R329). -/
def State.storeRange (s : State) (i : Instr) : Option Rng :=
  let at_ (f : FM) (n : Nat) : Option Rng := some (Rng.span (s.address f).toNat n)
  match i with
  | .st f => if bitAt f.fn 0 then none else at_ f (bytesOf f.ty.toNat)
  | .stpair f => if bitAt f.fn 0 then none else at_ f 16
  | .strl f | .amo f | .amow f | .cas f => at_ f (bytesOf f.ty.toNat)
  | .arm f => at_ f 16
  | _ => none

/-- R151: the word of the thread in focus stores to what these nodes' leaves have read, and every condition it stalled on
has been met: it is performed before they are pending leaves again. -/
def State.storesAhead (s : State) (ns : List Node) : Bool :=
  s.ready && match s.nextWord with
    | .ok i => (s.storeRange i).elim false fun r =>
        ns.any (fun n => n.isMemLeaf && r.meetsAny n.reads) && s.th.meetArit r true false == .go
    | .error _ => false

/-- The stream sequencer's steps of the thread in focus (R13, R191, R193). -/
def State.streamActs (s : State) : List Instr :=
  let pass (i : PassSlot) : List Instr := match s.th.dsp.pass i with
    | some p => oneIf p.going (.elementGroupCommit i) ++
        oneIf (p.over && !s.storesAhead (s.th.rcp.reach p.roots)) (.passComplete i)
    | none => []
  pass .p0 ++ pass .p1 ++ oneIf s.launchNow.isSome .passLaunch ++ oneIf s.startNow.isSome .entryStart

/-- The engines' steps of the thread in focus (R156, R258, R271, R280, R316, R324). -/
def State.engineActs (s : State) : List Instr :=
  let d := s.th.dsp
  let ended (u : EngineUnit) : List Instr := (d.unit u).elim [] fun o =>
    oneIf (s.opOver o && !s.storesAhead (s.th.rcp.reach o.e.node.toList)) (.operationComplete u)
  let gather (o : Op) : Bool := match decodeOpc o.e.word with
    | some (.cpyx _) => true
    | _ => false
  let matrix := d.matrix.elim [] fun o =>
    oneIf o.going (if byRows o.e.word then Instr.matrixRowUnit .matrix else Instr.matrixUnit)
  let rows := (List.range d.bloads.length).flatMap fun i =>
    (d.bloads[i]?).elim [] fun o => oneIf o.going (Instr.matrixRowUnit (.bload i))
  let ssb := d.ssb.elim [] fun o => oneIf o.going Instr.ssbUnit
  let copy := d.copy.elim [] fun o => oneIf o.going (if gather o then Instr.indirectStream else Instr.copyUnit)
  matrix ++ rows ++ ssb ++ copy ++ ended .matrix ++ (List.range d.bloads.length).flatMap (fun i => ended (.bload i)) ++
    ended .ssb ++ ended .copy

/-- The scalar front end's steps of the thread in focus, its words apart (R131, R150, R155, R165, R313, R374). -/
def State.frontActs (s : State) : List Instr :=
  let t := s.th
  oneIf (t.atBoundary && t.dueDrop.isSome) .droppedStoreDelivery ++
    oneIf (t.atBoundary && t.dueDrop.isNone && t.dueFault.isSome) .deferredFaultDelivery ++
    oneIf (!t.lineHere) .instructionFetch ++ oneIf s.dataDue .loadDataReturn ++
    oneIf (t.fe.backoff.elim false fun u => u ≤ s.now) .pollBackoffEnd ++
    oneIf (!t.faultDue && (t.waitOver s.now).isSome && t.waitCounts) .waitTimeout ++ oneIf s.waitiOver .waitiExpiry ++
    oneIf s.gateOpen .slotgateRelease

/-- The posted stores of the thread in focus (R150), and the copies they wait for (R117). -/
def State.postedActs (s : State) : List Instr :=
  (List.range s.th.fe.posted.length).flatMap fun i =>
    oneIf ((s.th.fe.posted[i]?).elim false s.firstWrite) (.versionedCopy i) ++
      oneIf (s.postedReady i).isSome (.postedStorePerformed i)

/-- The request that a step of the thread in focus makes, if it was issued before the link's reset (R381). -/
def State.requestOf (s : State) (i : Instr) : Option Flying :=
  let h := s.th.hw
  let op (o : Option Op) : Option Flying := o.map fun o => .op h o.e.seq
  match i with
  | .elementGroupCommit k | .passComplete k => some (.pass h k)
  | .matrixUnit | .matrixRowUnit .matrix => op s.th.dsp.matrix
  | .matrixRowUnit (.bload k) => op s.th.dsp.bloads[k]?
  | .ssbUnit => op s.th.dsp.ssb
  | .copyUnit | .indirectStream => op s.th.dsp.copy
  | .postedStorePerformed k => s.th.fe.posted[k]?.map fun p => .posted h p.seq
  | .instructionFetch => some (.fetch h)
  | _ => none

/-- R381: a request stands on the link until the exchange tells what became of it. -/
def State.awaits (s : State) (u : Option Flying) : Bool := s.link.exchanging && s.link.out.any fun o => u == some o.req

/-- What the thread in focus can do next, turns apart. -/
def State.threadOffers (s : State) : List Offer :=
  let h := s.th.hw
  let own := if s.th.run == .running then s.frontActs ++ s.streamActs ++ s.engineActs else []
  (((own ++ s.postedActs).filter fun i => !s.awaits (s.requestOf i)).map fun i => (⟨.event (some h) i, s.turnOf i, s.keepsTurn (s.turnOf i)⟩ : Offer)) ++
    oneIf s.ready ⟨.word h, some .sfe, false⟩

/-! ### The launch engine -/

/-- R345: a condition of a fetched record has something to show. -/
def State.conditionDue (s : State) (u : Queue) (f : Fetched) (i : Nat) : Bool :=
  !f.held.getD i true && match f.record.waits[i]? with
    | none => false
    | some w => match s.testWait u w with
      | .open_ => false
      | .invalid => !f.letting.noted.contains (pageOf w.2.2)
      | _ => true

/-- The launch engine's steps for a queue (R343, R345). -/
def State.queueActs (s : State) (u : Queue) : List Instr :=
  let on : Bool := (s.part? u.part).elim false fun p => !p.quiesce && s.partOn p
  match u.fetched with
  | none => oneIf (on && u.canFetch && !s.awaits (some (.record u.part u.q))) (.recordFetch u.part u.q)
  | some f =>
    oneIf (on && f.letDue && !s.awaits (some (.record u.part u.q))) (.recordFetch u.part u.q) ++
      (List.range f.record.waits.length).flatMap fun i => oneIf (s.conditionDue u f i) (.waitConditionHold u.part u.q i)

/-- R350: the start, the resumption, the displacement or the new round that the engine has chosen for a partition. -/
def State.startActs (s : State) (p : Part) : List Instr :=
  match s.chooseIn p with
  | some (.start u (.first _) _ _) => [.taskStart u.part u.q]
  | some (.start _ (.again t) _ _) => [.resume t.id]
  | some (.displace u _ _) =>
    (match u.again with
      | id :: _ => [.resume id]
      | [] => [.taskStart u.part u.q])
  | some (.round u _) => [.taskStart u.part u.q]
  | none => []

/-- R353: a queue's next record has lines of its code or its slots to preload. -/
def State.preloadDue (s : State) (u : Queue) : Bool :=
  match s.nextRecord u.part u.q with
  | some (_, f, ps) =>
    let code := s.codeLines u f.kernel
    let lines := code.2.slotLines u f.record
    ps.any fun v => !((s.pairOf v.1 v.2).newCode code.1).isEmpty ||
      !(s.newLines v f.record (u.part, u.q, f.index) lines.1).isEmpty
  | none => false

/-- The launch engine's steps for a task (R31, R352, R359). -/
def State.taskActs (s : State) (t : Task) : List Instr :=
  oneIf (s.taskOver t.id) (.taskComplete t.id) ++ oneIf (s.canPreempt t && s.areasOpen t) (.preempt t.id) ++
    oneIf (t.state == .preempted && t.letting.elim false fun l => !l.ready && l.retry) (.resume t.id)

/-- What the launch engine can do next. -/
def State.launchActs (s : State) : List Instr :=
  s.tasks.flatMap s.taskActs ++ s.parts.flatMap s.startActs ++ s.queues.flatMap s.queueActs ++
    s.queues.flatMap (fun u => oneIf (s.preloadDue u) (.preload u.part u.q))

/-! ### The whole machine -/

/-- The step that a due event of the calendar is. -/
def CalEvent.instr : CalEvent → Instr
  | .hotSwitch => .hotRefreshSwitch
  | .slotEnd r => .slotEnd r
  | .period => .periodBoundary
  | .horizon r => .drainHorizon r
  | .slotStart r => .slotStart r
  | .overrun r => .overrun r

/-- Everything the device can do next, in the order the schedule numbers it. -/
def State.acts (s : State) : List Act :=
  let os := s.threads.flatMap fun t => (s.focus t.hw).threadOffers
  (s.launchActs.map (Act.event none)) ++ ([SlotRes.dram, .link].filter s.cal.ext).map (fun r => Act.event none (.slotExtensionEnd r)) ++
    (os.filter (s.stands os)).map Offer.act

/-- Where an action belongs: 0 for the launch engine and the calendar, and a number for each thread's place. -/
def Act.source (a : Act) : Nat := a.place.elim 0 fun h => 1 + (h.cluster * 8 + h.pair) * 4 + h.slot

/-- The schedule that no choice disturbs: the places take turns, in rising order and around again, and within a place its
actions do, one a round. `turn` holds the round and the place served last. -/
def State.rotate (s : State) (as : List Act) : Option Act × State :=
  let later := as.filter fun a => s.turn % 2 ^ 32 < a.source
  let round := s.turn / 2 ^ 32 + if later.isEmpty then 1 else 0
  let from_ := if later.isEmpty then as else later
  match from_ with
  | [] => (none, s)
  | a :: l =>
    let place := l.foldl (fun m b => min m b.source) a.source
    let mine := from_.filter fun b => b.source == place
    (mine[round % mine.length]?, { s with turn := round * 2 ^ 32 + place })

/-- R374: a thread whose SLOTGATE is released at this tick. -/
def State.gateDue (s : State) : Option HwId :=
  if s.cal.started then (s.threads.find? fun t => t.run == .running && (s.focus t.hw).gateOpen).map Thread.hw else none

/-- What happens next at this very tick, before anything else: what the calendar has due, or the release of a
SLOTGATE. -/
def State.urgent (s : State) : Option Act :=
  match s.cal.due with
  | some (_, e) => some (.event none e.instr)
  | none => s.gateDue.map fun h => .event (some h) .slotgateRelease

/-- What happens next otherwise: an event from outside, then what the schedule chooses. Choice 1 issues the next word of
the thread in focus if it is ready and its turn has come, choice n + 2 takes the n-th action, and any other leaves it to the
places' turns. -/
def State.pickAct (s : State) : Option Act × State :=
  match s.inputs with
  | i :: is => (some (.event none i), { s with inputs := is })
  | [] =>
    let c := s.choose
    if c.1 == 1 && c.2.ready && c.2.wordNext then (some (.word c.2.th.hw), c.2)
    else if 2 ≤ c.1 then (c.2.acts[(c.1 - 2) % c.2.acts.length]?, c.2)
    else c.2.rotate c.2.acts

/-- The tick `n` ticks on, or that of the calendar's next event if it comes first. -/
def Cal.after (c : Cal) (n : Nat) : Nat :=
  if c.started then
    match c.nextEvent with
    | some (t, _) => max c.tick (min (c.tick + n) t)
    | none => c.tick + n
  else c.tick + n

/-- The traffic of the device itself and of the host goes on: what was made before this tick, as far as nothing keeps it
back (R368, R379). -/
def State.flow (s : State) : State := (s.payOwed (some s.now)).letCross

/-- The ticks a step lasts, but not past an event of the calendar. -/
def State.lasts (s : State) : State :=
  match s.pace with
  | [] => { s with cal.tick := s.cal.after 1 }
  | p :: ps => { s with cal.tick := s.cal.after p, pace := ps }

/-- Time passes. -/
def State.pass (s : State) : State := s.flow.lasts

/-- Time passes after a step that has a next state. -/
def afterwards (o : Host.Outcome State Fault Refusal) : Host.Outcome State Fault Refusal :=
  match o with
  | .next s => .next s.pass
  | .fault r => .fault r
  | .refused r => .refused r

/-- An action performed. -/
def State.act (run : Instr → State → Host.Outcome State Fault Refusal) (s : State) (a : Act) :
    Host.Outcome State Fault Refusal :=
  match a with
  | .event none i => run i s
  | .event (some h) i => run i ((s.focus h).takeTurn ((s.focus h).turnOf i))
  | .word h => (s.focus h).issueWord run

/-- A step of a module without power: BOOT, if that comes next from outside, and nothing otherwise (R381, R384). -/
def State.dark (run : Instr → State → Host.Outcome State Fault Refusal) (s : State) :
    Host.Outcome State Fault Refusal :=
  match s.inputs with
  | .boot :: is => run .boot { s with inputs := is }
  | _ :: is => .next { s with inputs := is }
  | [] => .fault .noPower

/-- The step, given the meanings of instructions. What is urgent takes no time. -/
def State.advance (run : Instr → State → Host.Outcome State Fault Refusal) (s : State) :
    Host.Outcome State Fault Refusal :=
  match s.urgent with
  | some a => s.act run a
  | none =>
    match s.pickAct with
    | (none, s1) => .next s1.pass
    | (some a, s1) => afterwards (s1.act run a)

end Sys2Proof.Machine
end

