-- ==== Sys2Proof/Machine/Step.lean ====
section
/-! DEFINITION. Machine/Step.lean: one step of the machine, and the state in which a given word is its next. -/

namespace Sys2Proof.Machine

/-- One step. -/
def step (s : State) : Host.Outcome State Fault Refusal :=
  if s.boot.power then s.advance exec else s.dark exec

/-- The state with a word placed where the thread in focus takes its next instruction (log entry 1). Every word of the
device is 64 bits, and bits of `w` beyond `nbits` are 0. -/
def State.withFetchWord (s : State) (nbits w : Nat) : State := s.placeWord (BitVec.ofNat 64 (w % 2 ^ nbits))

end Sys2Proof.Machine
end

