-- ==== Sys2Proof/Safety.lean ====
section
/-! DEFINITION. Safety.lean: what holds of every state a run can reach, and how a word that completes leaves the
machine, in the terms the statements use. -/

namespace Sys2Proof.Machine

/-- What every step keeps: memory is in its canonical form. -/
def State.Inv (s : State) : Prop := s.mem.wf = true

/-- The state once the word at the PC has completed and has changed nothing but the PC: the next word follows at PC + 8
and no wait is left (R59). -/
def State.passed (s : State) : State :=
  { s with th := { s.th with pc := s.th.pc + 8, fe := { s.th.fe with wait := none } } }

/-- The state with x register `d` of the thread in focus holding `v`; a write of x0 is discarded (R129). -/
def State.withX (s : State) (d : BitVec 6) (v : W64) : State :=
  { s with th := { s.th with xs := if d = 0 then s.th.xs else s.th.xs.setIfInBounds d.toNat v } }

/-- The state once a word has completed whose only result is `v` in x register `d`. -/
def State.wrote (s : State) (d : BitVec 6) (v : W64) : State := (s.withX d v).passed

/-- The state once a word has sent the thread to `target`: no wait is left, and the poll run of a LOOP at another
address has ended (R155). -/
def State.sent (s : State) (target : W64) : State :=
  { s with th := { s.th with
    pc := target
    fe := { s.th.fe with
      wait := none
      poll := s.th.fe.poll.bind fun p => if p.pc = s.th.pc then some p else none } } }

/-- A task but for what its threads' activity adds up to (R357). -/
def Task.still (t : Task) : Task := { t with activity := Activity.zero }

end Sys2Proof.Machine
end

