-- ==== Sys2Proof/Certificates/Slice0/Obligations.lean ====
section
/-! DEFINITION. Certificates/Slice0/Obligations.lean: the statements for the provers. -/

open Sys2Proof Sys2Proof.Machine

/-! ### Scalar words -/

namespace Sys2Proof.Spec

open Sys2Proof Sys2Proof.Machine

/-- A value held between two bounds. -/
def clamp (lo hi v : Int) : Int := max lo (min hi v)

/-- R139, R140: the register and the value of a format X integer word. -/
def integerResult (i : Instr) (s : State) : Option (BitVec 6 × W64) :=
  match i with
  | .add f => some (f.d,
      match f.fnAt 0 2 with
      | 0 => BitVec.ofNat 64 ((s.x f.a).toNat + (s.x f.b).toNat)
      | 1 => BitVec.ofInt 64 (clamp (-2 ^ 63) (2 ^ 63 - 1) ((s.x f.a).toInt + (s.x f.b).toInt))
      | _ => BitVec.ofNat 64 (min (2 ^ 64 - 1) ((s.x f.a).toNat + (s.x f.b).toNat)))
  | .sub f => some (f.d,
      match f.fnAt 0 2 with
      | 0 => BitVec.ofInt 64 ((s.x f.a).toNat - (s.x f.b).toNat)
      | 1 => BitVec.ofInt 64 (clamp (-2 ^ 63) (2 ^ 63 - 1) ((s.x f.a).toInt - (s.x f.b).toInt))
      | _ => BitVec.ofNat 64 ((s.x f.a).toNat - (s.x f.b).toNat))
  | .and f => some (f.d, s.x f.a &&& s.x f.b)
  | .or f => some (f.d, s.x f.a ||| s.x f.b)
  | .xor f => some (f.d, s.x f.a ^^^ s.x f.b)
  | .shl f => some (f.d, BitVec.ofNat 64 ((s.x f.a).toNat * 2 ^ ((s.x f.b).toNat % 64)))
  | .shr f => some (f.d, BitVec.ofNat 64 ((s.x f.a).toNat / 2 ^ ((s.x f.b).toNat % 64)))
  | .sra f => some (f.d, BitVec.ofInt 64 ((s.x f.a).toInt / 2 ^ ((s.x f.b).toNat % 64)))
  | .mul f => some (f.d, BitVec.ofNat 64 ((s.x f.a).toNat * (s.x f.b).toNat))
  | .mulh f => some (f.d,
      match f.fnAt 0 2 with
      | 0 => BitVec.ofInt 64 ((s.x f.a).toInt * (s.x f.b).toInt / 2 ^ 64)
      | 1 => BitVec.ofNat 64 ((s.x f.a).toNat * (s.x f.b).toNat / 2 ^ 64)
      | _ => BitVec.ofInt 64 ((s.x f.a).toInt * (s.x f.b).toNat / 2 ^ 64))
  | .div f => some (f.d,
      if s.x f.b = 0 then 0xFFFFFFFFFFFFFFFF
      else if f.fnAt 0 1 = 1 then BitVec.ofNat 64 ((s.x f.a).toNat / (s.x f.b).toNat)
      else BitVec.ofInt 64 ((s.x f.a).toInt.tdiv (s.x f.b).toInt))
  | .rem f => some (f.d,
      if s.x f.b = 0 then s.x f.a
      else if f.fnAt 0 1 = 1 then BitVec.ofNat 64 ((s.x f.a).toNat % (s.x f.b).toNat)
      else BitVec.ofInt 64 ((s.x f.a).toInt.tmod (s.x f.b).toInt))
  | .slt f => some (f.d,
      if f.fnAt 0 1 = 1 then (if (s.x f.a).toNat < (s.x f.b).toNat then 1 else 0)
      else if (s.x f.a).toInt < (s.x f.b).toInt then 1 else 0)
  | .minmax f => some (f.d,
      match f.fnAt 0 2 with
      | 0 => BitVec.ofInt 64 (min (s.x f.a).toInt (s.x f.b).toInt)
      | 1 => BitVec.ofInt 64 (max (s.x f.a).toInt (s.x f.b).toInt)
      | 2 => BitVec.ofNat 64 (min (s.x f.a).toNat (s.x f.b).toNat)
      | _ => BitVec.ofNat 64 (max (s.x f.a).toNat (s.x f.b).toNat))
  | .bitcnt f => some (f.d,
      match f.fnAt 0 2 with
      | 0 => BitVec.ofNat 64 ((List.range 64).countP fun i => (s.x f.a).getLsbD i)
      | 1 => BitVec.ofNat 64 ((List.range 64).takeWhile fun i => !(s.x f.a).getLsbD (63 - i)).length
      | _ => BitVec.ofNat 64 ((List.range 64).takeWhile fun i => !(s.x f.a).getLsbD i).length)
  | _ => none

/-- R141: the register and the value of a format J integer word. -/
def immediateResult (i : Instr) (s : State) : Option (BitVec 6 × W64) :=
  match i with
  | .addi f => some (f.d, BitVec.ofInt 64 ((s.x f.a).toInt + f.imm.toInt))
  | .andi f => some (f.d, s.x f.a &&& BitVec.ofInt 64 f.imm.toInt)
  | .ori f => some (f.d, s.x f.a ||| BitVec.ofInt 64 f.imm.toInt)
  | .xori f => some (f.d, s.x f.a ^^^ BitVec.ofInt 64 f.imm.toInt)
  | .shli f => some (f.d, BitVec.ofNat 64 ((s.x f.a).toNat * 2 ^ (f.imm.toNat % 64)))
  | .shri f => some (f.d, BitVec.ofNat 64 ((s.x f.a).toNat / 2 ^ (f.imm.toNat % 64)))
  | .srai f => some (f.d, BitVec.ofInt 64 ((s.x f.a).toInt / 2 ^ (f.imm.toNat % 64)))
  | .lui f => some (f.d, BitVec.ofInt 64 (f.imm.toInt * 2 ^ 32))
  | .slti f => some (f.d, if (s.x f.a).toInt < f.imm.toInt then 1 else 0)
  | .auipc f => some (f.d, BitVec.ofInt 64 (s.th.pc.toInt + 8 * f.imm.toInt))
  | _ => none

end Sys2Proof.Spec

/-- R139, R140: a format X integer word writes its result to xD and changes nothing else but the PC. -/
def Sys2Proof.Spec.IntegerWordsWriteTheirResult : Prop :=
  ∀ (i : Instr) (s : State) (d : BitVec 6) (v : W64), i.wf = true → Spec.integerResult i s = some (d, v) →
    exec i s = .next (s.wrote d v)

/-- R141: an immediate word writes its result to xD and changes nothing else but the PC. -/
def Sys2Proof.Spec.ImmediateWordsWriteTheirResult : Prop :=
  ∀ (i : Instr) (s : State) (d : BitVec 6) (v : W64), i.wf = true → Spec.immediateResult i s = some (d, v) →
    exec i s = .next (s.wrote d v)

/-- R142: CSEL picks xA or xB by xC; EXT takes xA[POS+W-1:POS], extended as S says; INS places xA[W-1:0] at POS in xD and
keeps xD's other bits. Nothing else changes but the PC. -/
def Sys2Proof.Spec.SelectAndBitFieldWords : Prop :=
  ∀ (f : FX) (s : State),
    exec (.csel f) s = .next (s.wrote f.d (if s.x f.c = 0 then s.x f.b else s.x f.a)) ∧
    (Instr.wf (.ext f) = true →
      exec (.ext f) s = .next (s.wrote f.d
        (let field := BitVec.extractLsb' (f.fnAt 0 6) (f.fnAt 6 6 + 1) (s.x f.a)
         if f.fnAt 12 1 = 1 then field.signExtend 64 else field.setWidth 64))) ∧
    (Instr.wf (.ins f) = true →
      ∃ v : W64, exec (.ins f) s = .next (s.wrote f.d v) ∧
        ∀ k < 64, v.getLsbD k =
          if f.fnAt 0 6 ≤ k ∧ k < f.fnAt 0 6 + f.fnAt 6 6 + 1 then (s.x f.a).getLsbD (k - f.fnAt 0 6)
          else (s.x f.d).getLsbD k)

/-- R139 to R142: the integer words of both formats, the selecting one and the bit-field ones write their result to
xD and change nothing else but the PC. -/
def Obligations.ScalarIntegerWords : Prop :=
  Spec.IntegerWordsWriteTheirResult ∧ Spec.ImmediateWordsWriteTheirResult ∧ Spec.SelectAndBitFieldWords

namespace Sys2Proof.Spec

open Sys2Proof Sys2Proof.Machine

/-- R143 to R146: the register, the value and the flags of a scalar floating-point word, from the operands and the FCTRL
it finds. -/
def floatResult (i : Instr) (s : State) : Option (BitVec 6 × FpRes) :=
  match i with
  | .fadd f => some (f.d, faddVal f.ty.toNat s.fctrl (bitAt f.fn 0) (s.x f.a) (s.x f.b))
  | .fmul f => some (f.d, fmulVal f.ty.toNat s.fctrl (s.x f.a) (s.x f.b))
  | .ffma f => some (f.d, ffmaVal f.ty.toNat s.fctrl (bitAt f.fn 0) (bitAt f.fn 1) (s.x f.a) (s.x f.b) (s.x f.c))
  | .fdiv f => some (f.d, fdivVal f.ty.toNat s.fctrl (s.x f.a) (s.x f.b))
  | .fsqrt f => some (f.d, fsqrtVal f.ty.toNat s.fctrl (s.x f.a))
  | .fminmax f => some (f.d, fminmaxVal f.ty.toNat (bitAt f.fn 0) (s.x f.a) (s.x f.b))
  | .frnd f => some (f.d, frndVal f.ty.toNat s.fctrl (f.fnAt 0 3) (bitAt f.fn 3) (s.x f.a))
  | .fcmp f => some (f.d, fcmpVal f.ty.toNat (f.fnAt 0 3) (s.x f.a) (s.x f.b))
  | .fcvt f => some (f.d, fcvtVal f.ty.toNat (f.fnAt 0 4) s.fctrl s.th.sr.rseed (s.x f.a) (s.x f.b))
  | _ => none

/-- R160, R162: TRAPSTAT as a precise trap leaves it: PM, and PEND while a deferred fault or a dropped store is held. -/
def statOf (s : State) : W64 :=
  (if s.th.smode then 0x400 else 0) ||| (if s.th.dsp.deferred = [] ∧ s.th.fe.dropped = [] then 0 else 0x100)

/-- R160 to R163: a precise trap at the word at the PC has been taken: the trap registers hold its report, the mode is S,
the PC is TRAPVEC, and no part of the word has taken effect. -/
def Trapped (s t : State) (code acc : Nat) (addr : W64) : Prop :=
  t.th.tr = { trapvec := s.th.tr.trapvec, trappc := s.th.pc, trapcause := BitVec.ofNat 64 (256 * acc + code),
              traproot := s.th.pc, trapnode := 0, trapelem := 0, trapaddr := addr,
              trapstat := statOf s, ctxarea := s.th.tr.ctxarea } ∧
    t.th.smode = true ∧ t.th.pc = s.th.tr.trapvec ∧ t.th.xs = s.th.xs ∧ t.th.sr = s.th.sr ∧ t.th.cc = s.th.cc ∧
    t.th.rcp = s.th.rcp ∧ t.th.dsp = s.th.dsp ∧ t.th.fe.posted = s.th.fe.posted ∧ t.rest = s.rest ∧
    t.tasks = s.tasks ∧ t.mem = s.mem

/-- FSTATUS with flags ORed in (R44). -/
def withFlags (s : State) (fl : BitVec 5) : State :=
  { s with th := { s.th with sr := { s.th.sr with fstatus := s.th.sr.fstatus ||| fl.setWidth 64 } } }

/-- R152: BR's conditions, CND 0 to 6. -/
def branchHolds (cnd : Nat) (x y : W64) : Prop :=
  match cnd with
  | 0 => x = y
  | 1 => x ≠ y
  | 2 => x.toInt < y.toInt
  | 3 => y.toInt ≤ x.toInt
  | 4 => x.toNat < y.toNat
  | 5 => y.toNat ≤ x.toNat
  | _ => True

/-- R154: the conditions of LOOP's poll forms, CND 1 to 3. -/
def pollHolds (cnd : Nat) (x y : W64) : Prop :=
  match cnd with
  | 1 => x = y
  | 2 => x ≠ y
  | _ => x &&& y = 0

/-- R155: the poll run a taken poll-form LOOP at the PC is in: the one under way there, or a new one. -/
def pollRun (s : State) : Poll :=
  match s.th.fe.poll with
  | some p => if p.pc = s.th.pc then p else ⟨s.th.pc, s.cal.tick, s.th.sr.waitbudget.toNat % 2 ^ 48⟩
  | none => ⟨s.th.pc, s.cal.tick, s.th.sr.waitbudget.toNat % 2 ^ 48⟩

/-- A finite value as a rational number. -/
def ratOf (v : Val) : Option ℚ :=
  match v with
  | .fin neg m e => some ((if neg then -1 else 1) * m * (2 : ℚ) ^ e)
  | _ => none

end Sys2Proof.Spec

/-- R43 to R45: a scalar floating-point word that raises no enabled flag writes xD and ORs its flags into FSTATUS; one that
raises an enabled flag faults with FP_TRAP and leaves xD and FSTATUS as they were. -/
def Sys2Proof.Spec.FloatWordsCompleteOrTrap : Prop :=
  ∀ (i : Instr) (s : State) (d : BitVec 6) (r : FpRes), Spec.floatResult i s = some (d, r) →
    ((∀ k < 5, r.flags.getLsbD k = true → s.th.sr.fctrl.getLsbD (8 + k) = false) →
      exec i s = .next (Spec.withFlags (s.wrote d r.val) r.flags)) ∧
    ((∃ k < 5, r.flags.getLsbD k = true ∧ s.th.sr.fctrl.getLsbD (8 + k) = true) →
      ∃ t, exec i s = .next t ∧ Spec.Trapped s t 0x12 0 0)

/-- R145: FCMP of finite values compares the numbers; a NaN operand makes `.eq`, `.lt` and `.le` false and `.un` and `.ne`
true; `.lt` and `.le` raise IV for any NaN, the others for a signalling NaN alone, and nothing else is raised. -/
def Sys2Proof.Spec.FcmpComparesNumbersAndNans : Prop :=
  ∀ (f : FX) (x y : W64), Instr.wf (.fcmp f) = true →
    let ty := f.ty.toNat
    let a := regVal ty x
    let b := regVal ty y
    let r := fcmpVal ty (f.fnAt 0 3) x y
    (∀ p q, Spec.ratOf a = some p → Spec.ratOf b = some q → r.flags = 0 ∧
      (r.val = 1 ↔ match f.fnAt 0 3 with
        | 0 => p = q
        | 1 => p < q
        | 2 => p ≤ q
        | 3 => False
        | _ => p ≠ q)) ∧
    (a.isNan = true ∨ b.isNan = true →
      r.val = (if f.fnAt 0 3 = 3 ∨ f.fnAt 0 3 = 4 then 1 else 0) ∧
      r.flags = if f.fnAt 0 3 = 1 ∨ f.fnAt 0 3 = 2 ∨ a.isSig = true ∨ b.isSig = true then 0x10 else 0)

namespace Sys2Proof.Spec

open Sys2Proof Sys2Proof.Machine

/-- R35, R37, R38: exponent bits, fraction bits and bias of a floating-point type. -/
def fpShape (ty : Nat) : Nat × Nat × Nat :=
  match ty with
  | 0x8 => (5, 10, 15)
  | 0x9 => (8, 7, 127)
  | 0xA => (8, 23, 127)
  | 0xB => (11, 52, 1023)
  | 0xC => (4, 3, 7)
  | _ => (5, 2, 15)

/-- The place of a type's sign bit. -/
def fpTop (ty : Nat) : Nat := (fpShape ty).1 + (fpShape ty).2.1

/-- A code without its sign. -/
def fpCode (ty : Nat) (x : W64) : Nat := x.toNat % 2 ^ fpTop ty

def fpNeg (ty : Nat) (x : W64) : Bool := x.getLsbD (fpTop ty)

/-- The code of a type's infinity, for the types that have one. -/
def fpInfCode (ty : Nat) : Nat := (2 ^ (fpShape ty).1 - 1) * 2 ^ (fpShape ty).2.1

/-- R35, R38: the code of the largest finite value. -/
def fpMax (ty : Nat) : Nat := if ty = 0xC then 0x7E else fpInfCode ty - 1

def fpInf (ty : Nat) (x : W64) : Bool := ty != 0xC && fpCode ty x == fpInfCode ty

def fpFin (ty : Nat) (x : W64) : Bool := fpCode ty x ≤ fpMax ty

def fpNan (ty : Nat) (x : W64) : Bool := !fpFin ty x && !fpInf ty x

/-- R38, R147: a signalling NaN; E4M3 and E5M2 have none. -/
def fpSig (ty : Nat) (x : W64) : Bool := fpNan ty x && ty < 0xC && !x.getLsbD ((fpShape ty).2.1 - 1)

/-- The magnitude of a code, read on past the largest finite one as if the exponent went on. -/
def fpMag (ty c : Nat) : ℚ :=
  let fb := (fpShape ty).2.1
  let bias : Int := (fpShape ty).2.2
  if c < 2 ^ fb then c * (2 : ℚ) ^ (1 - bias - fb)
  else (2 ^ fb + c % 2 ^ fb : Nat) * (2 : ℚ) ^ (((c / 2 ^ fb : Nat) : Int) - bias - fb)

/-- The number a finite code stands for. -/
def fpNum (ty : Nat) (x : W64) : ℚ := (if fpNeg ty x then -1 else 1) * fpMag ty (fpCode ty x)

/-- R130: a code with its sign, zero-extended. -/
def fpSigned (ty : Nat) (neg : Bool) (c : Nat) : W64 := BitVec.ofNat 64 ((if neg then 2 ^ fpTop ty else 0) + c)

/-- The order of values that are not NaN, -0 below +0 (R144). -/
def fpKey (ty : Nat) (x : W64) : Int := if fpNeg ty x then -(fpCode ty x : Int) - 1 else fpCode ty x

/-- R35: the canonical NaN. -/
def fpCanon (ty : Nat) : W64 :=
  match ty with
  | 0x8 => 0x7E00
  | 0x9 => 0x7FC0
  | 0xA => 0x7FC00000
  | 0xB => 0x7FF8000000000000
  | 0xC => 0x7F
  | _ => 0x7E

/-- R37: the result of an operation that has a NaN among its operands, with IV for a signalling one. -/
def nanOf (ty : Nat) (xs : List W64) : FpRes := ⟨fpCanon ty, if xs.any (fpSig ty) then 0x10 else 0⟩

/-- IEEE 754-2019, R37: an operation with no result: the canonical NaN and IV. -/
def invalid (ty : Nat) : FpRes := ⟨fpCanon ty, 0x10⟩

/-- R42: the directions that round a value of this sign away from zero. -/
def roundsAway (rm : Nat) (neg : Bool) : Bool := (rm == 2 && !neg) || (rm == 3 && neg)

/-- R144: a sign flipped exactly, NaNs included, where a modifier says so. -/
def flipSign (ty : Nat) (c : Bool) (x : W64) : W64 := if c then x ^^^ BitVec.ofNat 64 (2 ^ fpTop ty) else x

/-- R35: the number a code of an integer type stands for. -/
def intNum (ty : Nat) (x : W64) : Int :=
  if ty % 2 = 0 then (x.setWidth (8 * 2 ^ (ty / 2))).toInt else (x.setWidth (8 * 2 ^ (ty / 2))).toNat

/-- R35: the smallest and the largest value of an integer type. -/
def intLow (ty : Nat) : Int := if ty % 2 = 0 then -2 ^ (8 * 2 ^ (ty / 2) - 1) else 0
def intHigh (ty : Nat) : Int := if ty % 2 = 0 then 2 ^ (8 * 2 ^ (ty / 2) - 1) - 1 else 2 ^ (8 * 2 ^ (ty / 2)) - 1

/-- R42: `n` is `v` rounded to an integer. -/
def RoundsToInt (rm : Nat) (v : ℚ) (n : Int) : Prop :=
  match rm with
  | 0 => |v - n| ≤ 1 / 2 ∧ (|v - n| = 1 / 2 → n % 2 = 0)
  | 1 => |(n : ℚ)| ≤ |v| ∧ |v| < |(n : ℚ)| + 1 ∧ 0 ≤ n * v
  | 2 => v ≤ n ∧ n < v + 1
  | _ => n ≤ v ∧ v < n + 1

/-- R147: the class of a code. -/
def fpClass (ty : Nat) (x : W64) : Nat :=
  if fpSig ty x then 8
  else if fpNan ty x then 9
  else if fpInf ty x then (if fpNeg ty x then 0 else 7)
  else if fpCode ty x = 0 then (if fpNeg ty x then 3 else 4)
  else if fpCode ty x < 2 ^ (fpShape ty).2.1 then (if fpNeg ty x then 2 else 5)
  else if fpNeg ty x then 1
  else 6

/-- R37: IEEE 754-2019's sum of two operands where it needs no rounding: a NaN, an infinity or a zero sum. -/
def AddSpecial (ty rm : Nat) (x y : W64) (r : FpRes) : Prop :=
  (fpNan ty x = true ∨ fpNan ty y = true → r = nanOf ty [x, y]) ∧
  (fpInf ty x = true → fpInf ty y = true →
    r = if fpNeg ty x = fpNeg ty y then ⟨fpSigned ty (fpNeg ty x) (fpInfCode ty), 0⟩ else invalid ty) ∧
  (fpInf ty x = true → fpFin ty y = true → r = ⟨fpSigned ty (fpNeg ty x) (fpInfCode ty), 0⟩) ∧
  (fpFin ty x = true → fpInf ty y = true → r = ⟨fpSigned ty (fpNeg ty y) (fpInfCode ty), 0⟩) ∧
  (fpFin ty x = true → fpFin ty y = true → fpNum ty x + fpNum ty y = 0 →
    r = ⟨fpSigned ty
      (if fpCode ty x = 0 ∧ fpCode ty y = 0 ∧ fpNeg ty x = fpNeg ty y then fpNeg ty x else rm == 3) 0, 0⟩)

/-- R37: IEEE 754-2019's product of two operands where it needs no rounding. -/
def MulSpecial (ty : Nat) (x y : W64) (r : FpRes) : Prop :=
  let neg := fpNeg ty x != fpNeg ty y
  (fpNan ty x = true ∨ fpNan ty y = true → r = nanOf ty [x, y]) ∧
  (fpInf ty x = true → fpInf ty y = true ∨ fpFin ty y = true ∧ fpCode ty y ≠ 0 →
    r = ⟨fpSigned ty neg (fpInfCode ty), 0⟩) ∧
  (fpInf ty y = true → fpFin ty x = true → fpCode ty x ≠ 0 → r = ⟨fpSigned ty neg (fpInfCode ty), 0⟩) ∧
  ((fpInf ty x = true ∧ fpCode ty y = 0) ∨ (fpCode ty x = 0 ∧ fpInf ty y = true) → r = invalid ty) ∧
  (fpFin ty x = true → fpFin ty y = true → fpCode ty x = 0 ∨ fpCode ty y = 0 → r = ⟨fpSigned ty neg 0, 0⟩)

/-- R37, R58: IEEE 754-2019's fused product and sum of three operands where it needs no rounding; ∞ × 0 raises IV even
beside a quiet NaN addend. -/
def FmaSpecial (ty rm : Nat) (x y z : W64) (r : FpRes) : Prop :=
  let neg := fpNeg ty x != fpNeg ty y
  let noProduct := (fpInf ty x && fpCode ty y == 0) || (fpCode ty x == 0 && fpInf ty y)
  let infinite := fpInf ty x || fpInf ty y
  (fpNan ty x = true ∨ fpNan ty y = true → r = nanOf ty [x, y, z]) ∧
  (noProduct = true → r = invalid ty) ∧
  (noProduct = false → fpNan ty x = false → fpNan ty y = false → fpNan ty z = true → r = nanOf ty [z]) ∧
  (noProduct = false → fpNan ty x = false → fpNan ty y = false → infinite = true →
    (fpInf ty z = true → fpNeg ty z ≠ neg → r = invalid ty) ∧
    (fpFin ty z = true ∨ (fpInf ty z = true ∧ fpNeg ty z = neg) → r = ⟨fpSigned ty neg (fpInfCode ty), 0⟩)) ∧
  (fpFin ty x = true → fpFin ty y = true → fpInf ty z = true → r = ⟨fpSigned ty (fpNeg ty z) (fpInfCode ty), 0⟩) ∧
  (fpFin ty x = true → fpFin ty y = true → fpFin ty z = true → fpNum ty x * fpNum ty y + fpNum ty z = 0 →
    r = ⟨fpSigned ty
      (if (fpCode ty x = 0 ∨ fpCode ty y = 0) ∧ fpCode ty z = 0 ∧ fpNeg ty z = neg then neg else rm == 3) 0, 0⟩)

/-- R144: IEEE 754-2019's quotient where it needs no rounding; a finite nonzero dividend over zero raises DZ. -/
def DivSpecial (ty : Nat) (x y : W64) (r : FpRes) : Prop :=
  let neg := fpNeg ty x != fpNeg ty y
  (fpNan ty x = true ∨ fpNan ty y = true → r = nanOf ty [x, y]) ∧
  ((fpInf ty x = true ∧ fpInf ty y = true) ∨ (fpCode ty x = 0 ∧ fpCode ty y = 0) → r = invalid ty) ∧
  (fpInf ty x = true → fpFin ty y = true → r = ⟨fpSigned ty neg (fpInfCode ty), 0⟩) ∧
  (fpFin ty x = true → fpInf ty y = true → r = ⟨fpSigned ty neg 0, 0⟩) ∧
  (fpFin ty x = true → fpCode ty x ≠ 0 → fpCode ty y = 0 → r = ⟨fpSigned ty neg (fpInfCode ty), 0x08⟩) ∧
  (fpCode ty x = 0 → fpFin ty y = true → fpCode ty y ≠ 0 → r = ⟨fpSigned ty neg 0, 0⟩)

/-- R144: the square root where it needs no rounding: a zero keeps its sign, and a negative value is invalid. -/
def SqrtSpecial (ty : Nat) (x : W64) (r : FpRes) : Prop :=
  (fpNan ty x = true → r = nanOf ty [x]) ∧
  (fpCode ty x = 0 → r = ⟨fpSigned ty (fpNeg ty x) 0, 0⟩) ∧
  (fpNan ty x = false → fpCode ty x ≠ 0 → fpNeg ty x = true → r = invalid ty) ∧
  (fpInf ty x = true → fpNeg ty x = false → r = ⟨fpSigned ty false (fpInfCode ty), 0⟩)

/-- R144: FRND: an integral value of the operand's sign, NX only under `.x`; infinities stay and NaNs are canonical. -/
def Integral (ty rm : Nat) (raise : Bool) (x : W64) (r : FpRes) : Prop :=
  (fpNan ty x = true → r = nanOf ty [x]) ∧
  (fpInf ty x = true → r = ⟨fpSigned ty (fpNeg ty x) (fpInfCode ty), 0⟩) ∧
  (fpFin ty x = true → ∀ n : Int, RoundsToInt rm (fpNum ty x) n →
    fpFin ty r.val = true ∧ fpNum ty r.val = n ∧ r.val = fpSigned ty (fpNeg ty x) (fpCode ty r.val) ∧
    r.flags = if raise = true ∧ (n : ℚ) ≠ fpNum ty x then 1 else 0)

/-- R46: a conversion into an integer type. -/
def ToInteger (ty src rm : Nat) (x : W64) (r : FpRes) : Prop :=
  let v : ℚ := if src < 8 then intNum src x else fpNum src x
  let beyond : BitVec 5 := if src < 8 then 0 else 0x10
  (8 ≤ src → fpNan src x = true → r = ⟨0, 0x10⟩) ∧
  (8 ≤ src → fpInf src x = true →
    r = ⟨BitVec.ofInt 64 (if fpNeg src x then intLow ty else intHigh ty), 0x10⟩) ∧
  (src < 8 ∨ fpFin src x = true → ∀ n : Int, RoundsToInt rm v n →
    (n < intLow ty → r = ⟨BitVec.ofInt 64 (intLow ty), beyond⟩) ∧
    (intHigh ty < n → r = ⟨BitVec.ofInt 64 (intHigh ty), beyond⟩) ∧
    (intLow ty ≤ n → n ≤ intHigh ty → r = ⟨BitVec.ofInt 64 n, if (n : ℚ) = v then 0 else 1⟩))

/-- R46: a conversion into a floating-point type where it needs no rounding. -/
def ToFloatSpecial (ty src : Nat) (x : W64) (r : FpRes) : Prop :=
  (8 ≤ src → fpNan src x = true → r = ⟨fpCanon ty, if fpSig src x then 0x10 else 0⟩) ∧
  (8 ≤ src → fpInf src x = true →
    r = if ty = 0xC then ⟨fpSigned ty (fpNeg src x) (fpMax ty), 0x05⟩
        else ⟨fpSigned ty (fpNeg src x) (fpInfCode ty), 0⟩) ∧
  (8 ≤ src → fpCode src x = 0 → r = ⟨fpSigned ty (fpNeg src x) 0, 0⟩) ∧
  (src < 8 → intNum src x = 0 → r = ⟨0, 0⟩)

end Sys2Proof.Spec

/-- R147: FCLASS writes the one bit of xD[9:0] that its operand's class has, raises no flag, and changes nothing else but
the PC. -/
def Sys2Proof.Spec.FclassWritesOneClassBit : Prop :=
  ∀ (f : FX) (s : State), Instr.wf (.fclass f) = true →
    exec (.fclass f) s = .next (s.wrote f.d (BitVec.ofNat 64 (2 ^ Spec.fpClass f.ty.toNat (s.x f.a))))

/-- R37, R46, R144, R146: the results that need no rounding: NaNs are canonical, with IV for a signalling operand or an
operation that has no result; infinities and zeros with their signs; a division by zero; the minimum and the maximum; an
integral value; a conversion into an integer type, which saturates with IV for a floating-point source and without a flag
for an integer one. (That an integer source saturates in an integer type as wide as its own, and not in a narrower one
alone, is log entry 100, the model's reading.) -/
def Sys2Proof.Spec.FloatResultsThatNeedNoRounding : Prop :=
  ∀ (ty : Nat) (fctrl : BitVec 13) (x y z : W64),
    let rm := (fctrl.extractLsb' 0 2).toNat
    (8 ≤ ty → ty < 12 →
      (∀ neg : Bool, Spec.AddSpecial ty rm x (Spec.flipSign ty neg y) (faddVal ty fctrl neg x y)) ∧
      Spec.MulSpecial ty x y (fmulVal ty fctrl x y) ∧
      (∀ np nc : Bool, Spec.FmaSpecial ty rm (Spec.flipSign ty np x) y (Spec.flipSign ty nc z)
        (ffmaVal ty fctrl np nc x y z)) ∧
      Spec.DivSpecial ty x y (fdivVal ty fctrl x y) ∧
      Spec.SqrtSpecial ty x (fsqrtVal ty fctrl x) ∧
      (∀ isMax : Bool, fminmaxVal ty isMax x y =
        if Spec.fpNan ty x ∨ Spec.fpNan ty y then Spec.invalid ty
        else
          let v := if decide (Spec.fpKey ty x ≤ Spec.fpKey ty y) = isMax then y else x
          ⟨Spec.fpSigned ty (Spec.fpNeg ty v) (Spec.fpCode ty v), 0⟩) ∧
      (∀ sel < 5, ∀ raise : Bool,
        Spec.Integral ty (if sel = 4 then rm else sel) raise x (frndVal ty fctrl sel raise x))) ∧
    (∀ src < 14, ∀ seed : W64, ty ≠ src →
      (ty < 8 → Spec.ToInteger ty src rm x (fcvtVal ty src fctrl seed x y)) ∧
      (8 ≤ ty → ty < 14 → Spec.ToFloatSpecial ty src x (fcvtVal ty src fctrl seed x y)))

/-- R43 to R45, R143 to R147: the scalar floating-point words: they complete with their flags or trap; what FCMP
compares; the results that need no rounding (those that do: FloatWordsRound); what FCLASS writes. -/
def Obligations.ScalarFloatWords : Prop :=
  Spec.FloatWordsCompleteOrTrap ∧ Spec.FcmpComparesNumbersAndNans ∧ Spec.FloatResultsThatNeedNoRounding ∧
  Spec.FclassWritesOneClassBit

namespace Sys2Proof.Spec

open Sys2Proof Sys2Proof.Machine

/-- R42: `c` is the finite code of a type nearest `v` in the direction `rm`, with `v`'s sign; a tie goes to the even
code. -/
def Nearest (ty rm : Nat) (v : ℝ) (c : W64) : Prop :=
  let num (y : W64) : ℝ := fpNum ty y
  let r := num c
  fpFin ty c = true ∧ c = fpSigned ty (fpNeg ty c) (fpCode ty c) ∧ (fpNeg ty c = true ↔ v < 0) ∧
  match rm with
  | 0 => ∀ y, fpFin ty y = true → |v - r| ≤ |v - num y| ∧
      (|v - r| = |v - num y| → num y = r ∨ fpCode ty c % 2 = 0)
  | 1 => |r| ≤ |v| ∧ ∀ y, fpFin ty y = true → |num y| ≤ |v| → |num y| ≤ |r|
  | 2 => v ≤ r ∧ ∀ y, fpFin ty y = true → v ≤ num y → r ≤ num y
  | _ => r ≤ v ∧ ∀ y, fpFin ty y = true → num y ≤ v → num y ≤ r

/-- IEEE 754-2019: `v`, rounded with an exponent of any size, is beyond a type's largest finite value. -/
def Overflows (ty rm : Nat) (neg : Bool) (v : ℝ) : Prop :=
  let top : ℝ := fpMag ty (fpMax ty)
  let ulp : ℝ := fpMag ty (fpMax ty) - fpMag ty (fpMax ty - 1)
  if rm = 0 then top + ulp / 2 < |v| ∨ (|v| = top + ulp / 2 ∧ fpMax ty % 2 = 1)
  else if roundsAway rm neg = true then top < |v|
  else top + ulp ≤ |v|

/-- R44: `v` is tiny after rounding: rounded with an exponent of any size it is below a type's smallest normal value. -/
def Tiny (ty rm : Nat) (neg : Bool) (v : ℝ) : Prop :=
  let least : ℝ := fpMag ty (2 ^ (fpShape ty).2.1)
  let ulp : ℝ := fpMag ty 1
  |v| < least ∧
  (if rm = 0 then |v| < least - ulp / 4 else if roundsAway rm neg = true then |v| ≤ least - ulp / 2 else True)

/-- R37, R44, R46: `r` is the rounding of the nonzero `v` into a type. Overflow gives infinity or the largest finite value
by the direction, or with `sat` the largest finite value, and raises OF and NX; otherwise NX tells an inexact result and
UF an inexact one that is tiny. -/
def RoundedTo (ty rm : Nat) (sat : Bool) (v : ℝ) (r : FpRes) : Prop :=
  ∀ neg : Bool, (neg = true ↔ v < 0) →
    (Overflows ty rm neg v →
      r = ⟨fpSigned ty neg
        (if sat = true ∨ ¬ (rm = 0 ∨ roundsAway rm neg = true) then fpMax ty else fpInfCode ty), 0x05⟩) ∧
    (¬ Overflows ty rm neg v →
      Nearest ty rm v r.val ∧
      ((fpNum ty r.val : ℝ) = v → r.flags = 0) ∧
      ((fpNum ty r.val : ℝ) ≠ v → Tiny ty rm neg v → r.flags = 0x03) ∧
      ((fpNum ty r.val : ℝ) ≠ v → ¬ Tiny ty rm neg v → r.flags = 0x01))

/-- R48: `r` is the nonzero `v` rounded stochastically into a type: exact, or one of the two codes `c` and `c + 1` about
it, by the hash; then R46's saturation and R44's underflow. -/
def StochasticTo (ty : Nat) (seed : W64) (idx : Nat) (v : ℚ) (r : FpRes) : Prop :=
  ∀ neg : Bool, (neg = true ↔ v < 0) →
    (∀ c ≤ fpMax ty, fpMag ty c = |v| → r = ⟨fpSigned ty neg c, 0⟩) ∧
    (fpMag ty (fpMax ty + 1) ≤ |v| → r = ⟨fpSigned ty neg (fpMax ty), 0x05⟩) ∧
    (∀ c ≤ fpMax ty, fpMag ty c < |v| → |v| < fpMag ty (c + 1) →
      let f := ⌊(|v| - fpMag ty c) / (fpMag ty (c + 1) - fpMag ty c) * 2 ^ 32⌋
      let k := if ((srHash seed idx).toNat : Int) < f then c + 1 else c
      r = if fpMax ty < k then ⟨fpSigned ty neg (fpMax ty), 0x05⟩
          else ⟨fpSigned ty neg k, if k < 2 ^ (fpShape ty).2.1 then 0x03 else 0x01⟩)

end Sys2Proof.Spec

/-- R37, R43, R44, R46, R48, R143, R144, R146: FADD, FMUL, FFMA, FDIV and FSQRT round the exact sum, product, fused sum,
quotient or root of finite operands once, by FCTRL.RM, where it is not zero, with the flags of IEEE 754-2019, and so do the
element operations of FP16 and BF16 that compute the same (ElementValues); FCVT rounds
the source's number into a floating-point type the same way but saturates, and with FCTRL.SR = 1 rounds into FP16, BF16,
E4M3 and E5M2 stochastically with xB[47:0] as its index. -/
def Obligations.FloatWordsRound : Prop :=
  ∀ (ty : Nat) (fctrl : BitVec 13) (x y z : W64),
    let rm := (fctrl.extractLsb' 0 2).toNat
    let num (w : W64) : ℝ := Spec.fpNum ty w
    (8 ≤ ty → ty < 12 → Spec.fpFin ty x = true →
      (num x > 0 → Spec.RoundedTo ty rm false (Real.sqrt (num x)) (fsqrtVal ty fctrl x)) ∧
      (Spec.fpFin ty y = true →
        (∀ neg : Bool, let y1 := Spec.flipSign ty neg y
          num x + num y1 ≠ 0 → Spec.RoundedTo ty rm false (num x + num y1) (faddVal ty fctrl neg x y)) ∧
        (num x * num y ≠ 0 → Spec.RoundedTo ty rm false (num x * num y) (fmulVal ty fctrl x y)) ∧
        (num x ≠ 0 → num y ≠ 0 → Spec.RoundedTo ty rm false (num x / num y) (fdivVal ty fctrl x y)) ∧
        (Spec.fpFin ty z = true → ∀ np nc : Bool,
          let v := num (Spec.flipSign ty np x) * num y + num (Spec.flipSign ty nc z)
          v ≠ 0 → Spec.RoundedTo ty rm false v (ffmaVal ty fctrl np nc x y z)))) ∧
    (∀ src < 14, ∀ seed : W64, 8 ≤ ty → ty < 14 → ty ≠ src → src < 8 ∨ Spec.fpFin src x = true →
      let v : ℚ := if src < 8 then (Spec.intNum src x : ℚ) else Spec.fpNum src x
      let r := fcvtVal ty src fctrl seed x y
      v ≠ 0 →
        (fctrl.getLsbD 2 = false ∨ ty = 0xA ∨ ty = 0xB → Spec.RoundedTo ty rm true v r) ∧
        (fctrl.getLsbD 2 = true → ty ≠ 0xA → ty ≠ 0xB →
          Spec.StochasticTo ty seed (y.extractLsb' 0 48).toNat v r))

/-- R152, R153: where BR, JAL and an aligned JALR send the thread, and the link that JAL and JALR leave in xD. A BR whose
condition fails goes to PC + 8. -/
def Sys2Proof.Spec.BranchAndJumpTargets : Prop :=
  (∀ (f : FB) (s : State),
    (Spec.branchHolds f.cnd.toNat (s.x5 f.a) (s.x5 f.b) →
      exec (.br f) s = .next (s.sent (BitVec.ofInt 64 (s.th.pc.toInt + 8 * f.ofs.toInt)))) ∧
    (¬ Spec.branchHolds f.cnd.toNat (s.x5 f.a) (s.x5 f.b) → exec (.br f) s = .next s.passed)) ∧
  (∀ (f : FJ) (s : State),
    exec (.jal f) s = .next ((s.withX f.d (s.th.pc + 8)).sent (BitVec.ofInt 64 (s.th.pc.toInt + 8 * f.imm.toInt)))) ∧
  (∀ (f : FJ) (s : State),
    let t := BitVec.ofInt 64 ((s.x f.a).toInt + f.imm.toInt)
    t.toNat % 8 = 0 → exec (.jalr f) s = .next ((s.withX f.d (s.th.pc + 8)).sent t))

/-- R153: a JALR to an address that is not a multiple of 8 faults precisely with MISALIGNED, TRAPADDR holds the target, and
nothing is written. -/
def Sys2Proof.Spec.MisalignedJumpTraps : Prop :=
  ∀ (f : FJ) (s : State),
    let a := BitVec.ofInt 64 ((s.x f.a).toInt + f.imm.toInt)
    a.toNat % 8 ≠ 0 →
    ∃ t, exec (.jalr f) s = .next t ∧ Spec.Trapped s t 0x05 0 a

/-- R152, R153: branches and jumps, and the JALR that traps. -/
def Obligations.BranchesAndJumps : Prop := Spec.BranchAndJumpTargets ∧ Spec.MisalignedJumpTraps

/-- R154, R155: a count-form LOOP lowers xA by one and is taken while the result is not 0; a poll form is taken while its
condition holds, and holds the thread for 16 cycles; one that falls through, or whose run has lasted longer than its
budget, does not branch. -/
def Sys2Proof.Spec.LoopWords : Prop :=
  (∀ (f : FB) (s : State), f.cnd = 0 →
    exec (.loop f) s = .next
      (let s1 := s.withX (f.a.setWidth 6) (s.x5 f.a - 1)
       if s.x5 f.a = 1 then s1.passed else s1.sent (BitVec.ofInt 64 (s.th.pc.toInt + 8 * f.ofs.toInt)))) ∧
  (∀ (f : FB) (s : State), Instr.wf (.loop f) = true → f.cnd ≠ 0 →
    let taken := Spec.pollHolds f.cnd.toNat (s.x5 f.a) (s.x5 f.b)
    let run := Spec.pollRun s
    (¬ taken → ∃ t, exec (.loop f) s = .next t ∧ t.th.pc = s.th.pc + 8 ∧ t.th.xs = s.th.xs ∧ t.mem = s.mem ∧
      ∀ p, t.th.fe.poll = some p → p.pc ≠ s.th.pc) ∧
    (taken → run.budget ≠ 0 → s.cal.tick - run.since ≤ run.budget →
      ∃ t, exec (.loop f) s = .next t ∧ t.th.pc = BitVec.ofInt 64 (s.th.pc.toInt + 8 * f.ofs.toInt) ∧
        t.th.fe.poll = some run ∧ t.th.fe.backoff = some (s.cal.tick + 16) ∧ t.th.xs = s.th.xs ∧ t.mem = s.mem) ∧
    (taken → run.budget = 0 ∨ run.budget < s.cal.tick - run.since →
      ∃ t, exec (.loop f) s = .next t ∧ Spec.Trapped s t 0x16 0 0))

/-- R157: WAITLT goes on at once when its counter is below n, waits without a bound when it is not, and faults with
UNRELEASABLE_WAIT when n is 0. -/
def Sys2Proof.Spec.WaitltWaitsForItsCounter : Prop :=
  ∀ (f : FJ) (s : State),
    (f.imm ≠ 0 → (s.th.cc[f.d.toNat]?.getD 0).toNat < f.imm.toNat → exec (.waitlt f) s = .next s.passed) ∧
    (f.imm ≠ 0 → f.imm.toNat ≤ (s.th.cc[f.d.toNat]?.getD 0).toNat → s.th.fe.wait = none →
      exec (.waitlt f) s = .next
        { s with th := { s.th with fe := { s.th.fe with wait := some ⟨s.th.pc, .counter, s.cal.tick, none, 0⟩ } } }) ∧
    (f.imm = 0 → ∃ t, exec (.waitlt f) s = .next t ∧ Spec.Trapped s t 0x15 0 0)

/-- R154, R155, R157: the count and poll forms of LOOP, and WAITLT. -/
def Obligations.LoopForms : Prop := Spec.LoopWords ∧ Spec.WaitltWaitsForItsCounter

/-! ### Traps and state registers -/

/-- R160, R162: what taking a trap saves, where it goes, and that nothing else is saved or changed: of the thread only the
trap registers, the mode, the PC, the SAVED bits (R273, R289), and the line and the wait of the interrupted word; of the
rest of the machine only the thread's own place in a semaphore's queue or at the barrier is given up (R309, R311). -/
def Sys2Proof.Spec.TakingATrap : Prop :=
  ∀ (s : State) (pc : W64) (i : TrapInfo) (stop pend part pidx : Bool), i.src < 16 →
    let t := s.takeTrap pc i stop pend part pidx
    t.th.tr.trappc = pc ∧ t.th.tr.trapcause = BitVec.ofNat 64 (256 * i.acc + i.code) ∧ t.th.tr.traproot = i.root ∧
    t.th.tr.trapnode = i.node ∧ t.th.tr.trapelem = i.elem ∧ t.th.tr.trapaddr = i.addr ∧
    t.th.tr.trapvec = s.th.tr.trapvec ∧ t.th.tr.ctxarea = s.th.tr.ctxarea ∧
    t.th.tr.trapstat.extractLsb' 12 52 = BitVec.ofNat 52 i.src ∧
    t.th.tr.trapstat.getLsbD 11 = i.slot ∧ t.th.tr.trapstat.getLsbD 10 = s.th.smode ∧
    t.th.tr.trapstat.getLsbD 9 = stop ∧ t.th.tr.trapstat.getLsbD 8 = pend ∧ t.th.tr.trapstat.getLsbD 7 = part ∧
    t.th.tr.trapstat.getLsbD 6 = pidx ∧ t.th.tr.trapstat.extractLsb' 0 6 = 0 ∧
    t.th = { s.th with
      tr := t.th.tr
      smode := true
      pc := s.th.tr.trapvec
      tiles := s.th.tiles.map fun m => { m with saved := false }
      ssb := { s.th.ssb with saved := false }
      fe := { s.th.fe with line := none, wait := none, poll := none, backoff := none } } ∧
    t.comms = s.comms.map (fun c => { c with
      waiters := c.waiters.filter fun w => w.2 ≠ s.th.hw
      arrived := c.arrived.filter fun h => h ≠ s.th.hw }) ∧
    t = { s with th := t.th, comms := t.comms }

/-- R163, R173: TRAP and BREAK trap in either mode with TRAPELEM = IMM; TRAPPC names the next word for TRAP and the word
itself for BREAK, and TRAPROOT the word. Registers and memory are as they were. -/
def Sys2Proof.Spec.TrapAndBreakEnterTheHandler : Prop :=
  ∀ (f : FJ) (s : State),
    (∃ t, exec (.trap f) s = .next t ∧ t.th.tr.trapcause = 0x1A ∧ t.th.tr.trappc = s.th.pc + 8 ∧
      t.th.tr.traproot = s.th.pc ∧ t.th.tr.trapelem = f.imm.setWidth 64 ∧
      t.th.tr.trapnode = 0 ∧ t.th.tr.trapaddr = 0 ∧ t.th.tr.trapstat = Spec.statOf s ∧
      t.th.smode = true ∧ t.th.pc = s.th.tr.trapvec ∧ t.th.xs = s.th.xs ∧ t.th.sr = s.th.sr ∧ t.mem = s.mem) ∧
    (∃ t, exec (.break f) s = .next t ∧ t.th.tr.trapcause = 0x19 ∧ t.th.tr.trappc = s.th.pc ∧
      t.th.tr.traproot = s.th.pc ∧ t.th.tr.trapelem = f.imm.setWidth 64 ∧
      t.th.tr.trapnode = 0 ∧ t.th.tr.trapaddr = 0 ∧ t.th.tr.trapstat = Spec.statOf s ∧
      t.th.smode = true ∧ t.th.pc = s.th.tr.trapvec ∧ t.th.xs = s.th.xs ∧ t.th.sr = s.th.sr ∧ t.mem = s.mem)

/-- R160, R162, R163, R173: taking a trap, and the two words whose effect it is. -/
def Obligations.TrapsEnterTheHandler : Prop := Spec.TakingATrap ∧ Spec.TrapAndBreakEnterTheHandler

/-- R166: TRET in S mode returns to the mode of TRAPSTAT.PM at TRAPPC and writes no register but TRAPSTAT. With a pass
stopped in either slot, `tret` has it go on from VSTART with its saved P, and `tret.drop` or PART abandons it. That TRET
clears TRAPSTAT.STOP and keeps every other bit is the model's reading, log entry 49. -/
def Obligations.ReturnFromTrap : Prop :=
  ∀ (f : FJ) (s : State), s.th.smode = true →
    (∃ t, exec (.tret f) s = .next t ∧ t.th.smode = s.th.tr.trapstat.getLsbD 10 ∧ t.th.pc = s.th.tr.trappc ∧
      t.th.xs = s.th.xs ∧ t.th.sr = s.th.sr ∧ t.mem = s.mem ∧ t.rest = s.rest ∧ t.tasks = s.tasks ∧
      t.th.tr = { s.th.tr with trapstat := t.th.tr.trapstat } ∧
      ∀ k < 64, t.th.tr.trapstat.getLsbD k = (s.th.tr.trapstat.getLsbD k && k != 9)) ∧
    (∀ (l : PassSlot) (p : Pass), s.th.tr.trapstat.getLsbD 9 = true → s.th.dsp.stopped = some (.pass l) →
      s.th.dsp.pass l = some p → s.th.dsp.paused = false →
      (f.imm.getLsbD 0 = false → s.th.tr.trapstat.getLsbD 7 = false →
        ∃ t q, exec (.tret f) s = .next t ∧ t.th.dsp.pass l = some q ∧ q.halted = false ∧ q.start = p.start ∧
          q.p = p.p ∧ q.roots = p.roots ∧ t.th.rcp = s.th.rcp ∧ t.th.dsp.stopped = none) ∧
      (f.imm.getLsbD 0 = true ∨ s.th.tr.trapstat.getLsbD 7 = true →
        ∃ t, exec (.tret f) s = .next t ∧ t.th.dsp.pass l = none ∧ t.th.dsp.stopped = none ∧
          t.th.rcp.vnames = s.th.rcp.vnames ∧ t.th.rcp.knames = s.th.rcp.knames ∧ t.mem = s.mem))

namespace Sys2Proof.Spec

open Sys2Proof Sys2Proof.Machine

/-- R75, R182: the words of the S-mode opcodes, STEPCMT and STEPABT apart, and TASKEND's `.all`. -/
def sModeWord (i : Instr) : Bool :=
  match i with
  | .tret _ | .ctxsv _ | .ctxrs _ | .tlbinv _ | .pgsetSet _ | .pgsetNorm _ | .pgsetWbset _ | .pgcnt _ | .nqpost _
  | .waiti _ | .qctlRd _ | .qctlStop _ | .qctlStart _ | .qctlSetw _ | .qctlSetp _ | .vstartWrite _
  | .browbaseWrite _ => true
  | .taskend f => f.imm.getLsbD 15
  | _ => false

/-- R172: what a state register reads as, by its SN. -/
def stateRegister (s : State) (sn : Nat) : Option W64 :=
  let t := s.th
  match sn with
  | 0x000 => some t.sr.vl
  | 0x001 => some (BitVec.ofNat 64 t.vstart)
  | 0x002 => some (BitVec.ofNat 64 (8 * t.sr.target))
  | 0x003 => some (BitVec.ofNat 64 (2 ^ 16 * t.sr.weight) ||| t.sr.groups.setWidth 64)
  | 0x004 => some (t.sr.tilegrant.setWidth 64)
  | 0x005 => some 128
  | 0x006 => some t.sr.fctrl
  | 0x007 => some t.sr.fstatus
  | 0x008 => some t.sr.rseed
  | 0x009 => some t.sr.recipemode
  | 0x00A => some (BitVec.ofNat 64 (t.rcp.budget - t.rcp.nodes.length))
  | 0x00B => some (BitVec.ofNat 64 t.sr.browbase)
  | 0x00C => some (BitVec.ofNat 64 t.sr.browlim)
  | 0x00D => some t.sr.remoteflags
  | 0x00E => some ((t.sr.ssinfo &&& ~~~0x4000000000000000) ||| (if t.ssb.dirty then 0x4000000000000000 else 0))
  | 0x020 => some (BitVec.ofNat 64 (s.cal.tick / 6400))
  | 0x021 => some (BitVec.ofNat 64 s.cal.calnext)
  | 0x022 => some (BitVec.ofNat 64 s.cal.calkind)
  | 0x023 => some (BitVec.ofNat 64 s.cal.callen)
  | 0x024 => some (s.cal.calrev.setWidth 64)
  | 0x040 => some t.sr.waitbudget
  | 0x050 => some t.sr.coord
  | 0x051 => some t.sr.stage
  | 0x052 => some t.sr.shape
  | 0x053 => some t.sr.taskarg
  | 0x061 => some (0x03000000 ||| (Config.stepping.setWidth 64 + 1))
  | 0x100 => some t.tr.trapvec
  | 0x101 => some t.tr.trappc
  | 0x102 => some t.tr.trapcause
  | 0x103 => some t.tr.traproot
  | 0x104 => some t.tr.trapnode
  | 0x105 => some t.tr.trapelem
  | 0x106 => some t.tr.trapaddr
  | 0x107 => some t.tr.trapstat
  | 0x108 => some t.tr.ctxarea
  | 0x109 => some s.task.ptbase
  | 0x10A => some s.task.ctxid
  | 0x10B => some (BitVec.ofNat 64 s.task.part)
  | 0x10C => some s.task.stepno
  | 0x10D => some s.task.stepdone
  | 0x10E => some s.task.pgctrbase
  | 0x10F => some s.task.pgthresh
  | 0x110 => some s.task.nqbase
  | n =>
    if 0x030 ≤ n ∧ n ≤ 0x037 then some ((t.cc[n - 0x030]?.getD 0).setWidth 64)
    else if 0x010 ≤ n ∧ n ≤ 0x013 then
      let slots := (t.lq (n - 0x010)).slots
      some (BitVec.ofNat 64 (256 * (slots.countP fun u => u.filled.isSome && !u.taken) + slots.length))
    else none

/-- R172: the registers an MTS writes, BROWBASE, BROWLIM and VSTART apart, with whether U mode may, and what the register
then holds of the value written (reserved bits are held 0, R4). -/
def written (s : State) (sn : Nat) (v : W64) : Option (Bool × W64) :=
  match sn with
  | 0x000 => some (false, v &&& 0xFFFFFFFFFFFF)
  | 0x003 => some (true, BitVec.ofNat 64 (2 ^ 16 * max 1 (v.toNat / 2 ^ 16 % 16)) ||| s.th.sr.groups.setWidth 64)
  | 0x006 => some (true, v &&& 0x1F07)
  | 0x008 => some (true, v)
  | 0x009 => some (true, v &&& 0x3)
  | 0x00D => some (true, v &&& 0x1F)
  | 0x040 => some (true, v &&& 0xFFFFFFFFFFFF)
  | 0x100 => some (false, v &&& ~~~0x7)
  | 0x101 => some (false, v &&& ~~~0x7)
  | 0x102 => some (false, v &&& 0xF3F)
  | 0x103 => some (false, v)
  | 0x104 => some (false, v)
  | 0x105 => some (false, v)
  | 0x106 => some (false, v)
  | 0x107 => some (false, (s.th.tr.trapstat &&& ~~~0x400) ||| (v &&& 0x400))
  | 0x108 => some (false, v)
  | 0x109 => some (false, v)
  | 0x10E => some (false, v &&& 0xFFFFFFFFF0001)
  | 0x10F => some (false, v &&& 0xFFFF)
  | 0x110 => some (false, v)
  | n => if 0x030 ≤ n ∧ n ≤ 0x037 then some (false, v &&& 0xFFFF) else none

/-- The thread's task stands in the task table. -/
def HasTask (s : State) : Prop := ∃ k ∈ s.tasks, k.id = s.th.task

end Sys2Proof.Spec

/-- R75, R199, R253, R360: a privileged word issued in U mode faults with PRIVILEGED, and no part of it takes effect; so do
STEPCMT and STEPABT where the launch record did not set SA, and where it did they do not trap. -/
def Obligations.PrivilegedWordsTrapInUserMode : Prop :=
  ∀ (i : Instr) (s : State), s.th.smode = false →
    (Spec.sModeWord i = true → ∃ t, exec i s = .next t ∧ Spec.Trapped s t 0x03 0 0) ∧
    (∀ f : FJ, i = .stepcmt f ∨ i = .stepabt f → s.task.record.sa = false →
      ∃ t, exec i s = .next t ∧ Spec.Trapped s t 0x03 0 0) ∧
    (∀ f : FJ, i = .stepcmt f ∨ i = .stepabt f → s.task.record.sa = true →
      ∃ t, exec i s = .next t ∧ t.th.tr = s.th.tr ∧ t.th.smode = false ∧ (t.th.pc = s.th.pc ∨ t.th.pc = s.th.pc + 8))

/-- R171, R172: MFS writes the register's value to xD and changes nothing else but the PC; one closed to U mode faults there
with PRIVILEGED. MFS of FSTATUS, VSTART and SSINFO waits while work that can raise flags is in flight (R44). -/
def Sys2Proof.Spec.MfsReadsStateRegisters : Prop :=
  ∀ (f : FS) (s : State),
    (s.th.smode = false → 0x100 ≤ f.sn.toNat → ∃ t, exec (.mfs f) s = .next t ∧ Spec.Trapped s t 0x03 0 0) ∧
    (∀ v, s.th.smode = true ∨ f.sn.toNat < 0x100 → f.sn ≠ 0x007 →
      (f.sn = 0x001 ∨ f.sn = 0x00E → s.th.flagsDue = false) → Spec.stateRegister s f.sn.toNat = some v →
      exec (.mfs f) s = .next (s.wrote f.d v)) ∧
    (s.th.flagsDue = false → exec (.fstatusAccess false f) s = .next (s.wrote f.d s.th.sr.fstatus)) ∧
    (s.th.flagsDue = true → s.th.fe.wait = none → ∀ i, i = .fstatusAccess false f ∨ i = .fstatusAccess true f ∨
        (i = .mfs f ∧ (f.sn = 0x001 ∨ f.sn = 0x00E)) →
      exec i s = .next
        { s with th := { s.th with fe := { s.th.fe with wait := some ⟨s.th.pc, .flags, s.cal.tick, none, 0⟩ } } })

/-- R171, R172: MTS of a register writable in the mode writes it, so that it reads as the value written with its reserved and
read-only bits left out, and changes no other state register, no x register and no byte of memory; a register read-only in
a mode faults with PRIVILEGED in U mode, and is left alone in S mode. That CTXAREA, PTBASE and NQBASE keep all 64 bits
written is the model's choice, log entry 87. -/
def Sys2Proof.Spec.MtsWritesOneStateRegister : Prop :=
  ∀ (f : FS) (s : State),
    (∀ u v, Spec.written s f.sn.toNat (s.x f.a) = some (u, v) → s.th.smode = true ∨ u = true → Spec.HasTask s →
      ∃ t, exec (.mts f) s = .next t ∧ Spec.stateRegister t f.sn.toNat = some v ∧
        (∀ n, n ≠ f.sn.toNat → Spec.stateRegister t n = Spec.stateRegister s n) ∧
        t.th.pc = s.th.pc + 8 ∧ t.th.xs = s.th.xs ∧ t.th.dsp = s.th.dsp ∧ t.th.rcp = s.th.rcp ∧ t.rest = s.rest ∧
        t.mem = s.mem) ∧
    (∀ v, Spec.written s f.sn.toNat (s.x f.a) = some (false, v) → s.th.smode = false →
      ∃ t, exec (.mts f) s = .next t ∧ Spec.Trapped s t 0x03 0 0) ∧
    (Spec.written s f.sn.toNat (s.x f.a) = none → f.sn ∉ [0x001, 0x007, 0x00B, 0x00C] →
      (s.th.smode = true → exec (.mts f) s = .next s.passed) ∧
      (s.th.smode = false → ∃ t, exec (.mts f) s = .next t ∧ Spec.Trapped s t 0x03 0 0)) ∧
    (s.th.flagsDue = false → ∃ t, exec (.fstatusAccess true f) s = .next t ∧ t.th.sr.fstatus = s.x f.a &&& 0x1F ∧
      (∀ n, n ≠ 0x007 → Spec.stateRegister t n = Spec.stateRegister s n) ∧ t.th.pc = s.th.pc + 8 ∧
      t.th.xs = s.th.xs ∧ t.th.dsp = s.th.dsp ∧ t.th.rcp = s.th.rcp ∧ t.rest = s.rest ∧ t.mem = s.mem)

/-- R171, R172: MFS and MTS. -/
def Obligations.StateRegisterWords : Prop := Spec.MfsReadsStateRegisters ∧ Spec.MtsWritesOneStateRegister

/-- R253: an S-mode MTS of BROWBASE or BROWLIM writes it where the range stays in order, inside the B store and clear of
every other active thread's; otherwise it faults with OPERAND_RANGE and changes nothing. -/
def Sys2Proof.Spec.BrowRangeWrites : Prop :=
  ∀ (f : FS) (s : State), s.th.smode = true → Instr.wf (.browbaseWrite f) = true →
    let base := if f.sn = 0x00B then (s.x f.a).toNat % 2 ^ 14 else s.th.sr.browbase
    let lim := if f.sn = 0x00B then s.th.sr.browlim else (s.x f.a).toNat % 2 ^ 15
    let bad := lim < base ∨ 16384 < lim ∨
      ∃ u ∈ s.activeThreads s.th.cluster s.th.pair, u.slot ≠ s.th.slot ∧ u.sr.browbase < lim ∧ base < u.sr.browlim ∧
        u.sr.browbase < u.sr.browlim
    (¬ bad → exec (.browbaseWrite f) s =
      .next ({ s with th := { s.th with sr := { s.th.sr with browbase := base, browlim := lim } } } : State).passed) ∧
    (bad → ∃ t, exec (.browbaseWrite f) s = .next t ∧ Spec.Trapped s t 0x04 0 0)

/-- R199: the unit an operation's progress is taken in, by its word: 8 k steps of a MOPA-type pairing of grouped types, 8
rows of MTLD, MTST and MPACK, 4,096 bytes of a copy, and one of anything else. -/
def Sys2Proof.Spec.progressUnit (word : W64) : Nat :=
  let single (ty : BitVec 4) : Bool := ty = 0x8 ∨ ty = 0x9 ∨ ty = 0xA
  match decodeOpc word with
  | some (.mopa f) | some (.mops f) | some (.mopt f) => if single f.ty = true ∧ single f.tyb = true then 1 else 8
  | some (.mtld _) | some (.mtst _) | some (.mpack _) => 8
  | some (.cpy _) | some (.cpy2d _) | some (.cpyt _) | some (.cpyx _) | some (.cpyf _) | some (.cpyr _)
  | some (.cpypub _) => 4096
  | _ => 1

/-- R199: an S-mode MTS of VSTART sets the point a stopped pass, in either slot, goes on from, rounded down to a multiple of
its P, and that of a stopped engine operation, rounded down to its unit; a value at or beyond its length makes it
complete; the write is ignored with STOP = 0 or PART = 1. VSTART then reads that point, and nothing is committed by the
write. -/
def Sys2Proof.Spec.VstartMovesWhatStopped : Prop :=
  ∀ (f : FS) (s : State), s.th.smode = true →
    let v := (s.x f.a).toNat % 2 ^ 48
    (s.th.tr.trapstat.getLsbD 9 = false ∨ s.th.tr.trapstat.getLsbD 7 = true →
      exec (.vstartWrite f) s = .next s.passed) ∧
    (s.th.tr.trapstat.getLsbD 9 = true → s.th.tr.trapstat.getLsbD 7 = false →
      (∀ (l : PassSlot) (p : Pass), s.th.dsp.stopped = some (.pass l) → s.th.dsp.pass l = some p → p.ready = true →
        ∃ t q, exec (.vstartWrite f) s = .next t ∧ t.th.dsp.pass l = some q ∧
          q.start = (if p.len ≤ v then p.len else v - v % p.p) ∧ q.p = p.p ∧ q.roots = p.roots ∧ q.halted = p.halted ∧
          t.th.vstart = q.start ∧ t.th.pc = s.th.pc + 8 ∧ t.th.xs = s.th.xs ∧ t.th.tr = s.th.tr ∧ t.mem = s.mem) ∧
      (∀ (n : Nat) (o : Op), s.th.dsp.stopped = some (.op n) → s.th.dsp.op? n = some o → o.dev = false →
        ∃ t q, exec (.vstartWrite f) s = .next t ∧ t.th.dsp.op? n = some q ∧
          q.prog = (if o.n ≤ v then o.n else v - v % Spec.progressUnit o.e.word) ∧ q.e = o.e ∧ q.n = o.n ∧
          q.halted = o.halted ∧ t.th.vstart = q.prog ∧ t.th.pc = s.th.pc + 8 ∧ t.th.xs = s.th.xs ∧
          t.th.tr = s.th.tr ∧ t.mem = s.mem))

/-- R199, R253: the MTS words that move a row range, and the start of what a fault stopped. -/
def Obligations.RowRangeAndVstartWrites : Prop := Spec.BrowRangeWrites ∧ Spec.VstartMovesWhatStopped

/-! ### Words that read the calendar, the lease and the lanes -/

/-- R173, R174, R373: NOP changes nothing but the PC; RDCYC writes calendar time; SLOTQ writes the calendar registers, taken
at one tick, into its five fields. Nothing else changes. -/
def Sys2Proof.Spec.CalendarReadingWords : Prop :=
  (∀ (f : FJ) (s : State), exec (.nop f) s = .next s.passed) ∧
  (∀ (f : FX) (s : State), exec (.rdcyc f) s = .next (s.wrote f.d (BitVec.ofNat 64 s.cal.tick))) ∧
  (∀ (f : FX) (s : State), s.cal.dramSpan s.cal.nextSlot < 2 ^ 15 → s.cal.linkSpan s.cal.nextSlot < 2 ^ 15 →
    ∃ v : W64, exec (.slotq f) s = .next (s.wrote f.d v) ∧
      v.extractLsb' 51 13 = BitVec.ofNat 13 s.cal.calnext ∧ v.extractLsb' 45 6 = BitVec.ofNat 6 s.cal.calkind ∧
      v.extractLsb' 30 15 = BitVec.ofNat 15 (s.cal.dramSpan s.cal.nextSlot) ∧
      v.extractLsb' 15 15 = BitVec.ofNat 15 (s.cal.linkSpan s.cal.nextSlot) ∧
      v.extractLsb' 0 15 = s.cal.calrev.extractLsb' 0 15)

/-- R374: SLOTGATE faults with OPERAND_RANGE above 5,800; it goes on at once with CALNEXT in xD when the gap is there, and
otherwise waits, with no bound, until it is; the machine's own release then does the same. -/
def Sys2Proof.Spec.SlotgateWaitsForItsGap : Prop :=
  ∀ (f : FJ) (s : State),
    let n := if f.a = 0 then f.imm.toNat else (s.x f.a).toNat
    let g := min n (6400 - if s.cal.hot then 896 else 448)
    (5800 < n → ∃ t, exec (.slotgate f) s = .next t ∧ Spec.Trapped s t 0x04 0 0) ∧
    (n ≤ 5800 → g ≤ s.cal.calnext → exec (.slotgate f) s = .next (s.wrote f.d (BitVec.ofNat 64 s.cal.calnext))) ∧
    (n ≤ 5800 → s.cal.calnext < g → s.th.fe.wait = none → exec (.slotgate f) s = .next
      { s with th := { s.th with fe := { s.th.fe with wait := some ⟨s.th.pc, .slotgate, s.cal.tick, none, g⟩ } } }) ∧
    (∀ w, s.th.run = .running → s.th.fe.wait = some w → w.kind = .slotgate → w.pc = s.th.pc → w.aux ≤ s.cal.calnext →
      s.nextWord = .ok (.slotgate f) →
      exec .slotgateRelease s = .next (s.wrote f.d (BitVec.ofNat 64 s.cal.calnext)))

/-- R363: LEASEQ's result: 0 when no single range holds every byte; otherwise bit 63, bit 62 when declared writable ranges
cover every byte, bit 61 for the code range, and the lowest index of a declared range that holds them all. It raises no
fault and changes nothing else. -/
def Sys2Proof.Spec.LeaseqReportsTheLease : Prop :=
  ∀ (f : FX) (s : State), (∀ r ∈ s.task.ranges, r.1 < 16) →
    let a := (s.x f.a).toNat
    let e := a + max (s.x f.b).toNat 1
    let holds (r : Nat × LeaseRange) : Prop := r.2.base ≤ a ∧ e ≤ r.2.base + r.2.len
    let code : Prop := s.task.kernel.entry.toNat ≤ a ∧ e ≤ s.task.kernel.entry.toNat + s.task.kernel.codelen
    ∃ v : W64, exec (.leaseq f) s = .next (s.wrote f.d v) ∧
      ((∀ r ∈ s.task.ranges, ¬ holds r) → ¬ code → v = 0) ∧
      ((∃ r ∈ s.task.ranges, holds r) ∨ code →
        v.getLsbD 63 = true ∧
        (v.getLsbD 62 = true ↔ ∀ b, a ≤ b → b < e →
          ∃ r ∈ s.task.ranges, r.2.w = true ∧ r.2.base ≤ b ∧ b < r.2.base + r.2.len) ∧
        (v.getLsbD 61 = true ↔ code) ∧ v.extractLsb' 4 57 = 0 ∧
        (∀ r ∈ s.task.ranges, holds r → v.toNat % 16 ≤ r.1) ∧
        ((∃ r ∈ s.task.ranges, holds r ∧ v.toNat % 16 = r.1) ∨
          ((∀ r ∈ s.task.ranges, ¬ holds r) ∧ v.toNat % 16 = 0)))

/-- R173, R174, R363, R373, R374: the words that read the calendar, SLOTGATE, which waits for it, and LEASEQ, which reads the
lease. -/
def Obligations.CalendarWords : Prop :=
  Spec.CalendarReadingWords ∧ Spec.SlotgateWaitsForItsGap ∧ Spec.LeaseqReportsTheLease

/-- R27: how sixteen lane groups are divided among one to four threads by weight: one group each, the rest by weight rounded
down, and what is left one group each by the greatest fraction dropped, ties to the lower slot first. -/
def Sys2Proof.Spec.LaneGroupsAreSharedByWeight : Prop :=
  ∀ ws : List Nat, 0 < ws.length → ws.length ≤ 4 → (∀ w ∈ ws, 1 ≤ w ∧ w ≤ 15) →
    let base (i : Nat) : Nat := 1 + (16 - ws.length) * ws.getD i 0 / ws.sum
    let part (i : Nat) : Nat := (16 - ws.length) * ws.getD i 0 % ws.sum
    let share (i : Nat) : Nat := (laneShares ws).getD i 0
    (laneShares ws).length = ws.length ∧ (laneShares ws).sum = 16 ∧
      ∀ i < ws.length, (share i = base i ∨ share i = base i + 1) ∧
        ∀ j < ws.length, share i = base i + 1 → share j = base j → part j < part i ∨ (part j = part i ∧ i < j)

/-- R27, R210: SETVL writes the length to VL and to xD and divides the pair's lane groups anew by the weights of its active
threads; a length above 2^48 - 1 faults with OPERAND_RANGE. No other register and no byte of memory changes. -/
def Sys2Proof.Spec.SetvlSetsTheLength : Prop :=
  ∀ (f : FJ) (s : State),
    let n := if f.a = 0 then f.imm.toNat else (s.x f.a).toNat
    let s1 : State := { s with th := { s.th with sr := { s.th.sr with vl := BitVec.ofNat 64 n, divided := s.th.sr.weight } } }
    let us := s1.activeThreads s.th.cluster s.th.pair
    (2 ^ 48 ≤ n → ∃ t, exec (.setvl f) s = .next t ∧ Spec.Trapped s t 0x04 0 0) ∧
    (n < 2 ^ 48 → ∃ t, exec (.setvl f) s = .next t ∧ t.th.pc = s.th.pc + 8 ∧
      t.th.xs = (s.withX f.d (BitVec.ofNat 64 n)).th.xs ∧
      t.th.sr = { s1.th.sr with groups := t.th.sr.groups, target := t.th.sr.target } ∧
      (∀ k < us.length, (us.getD k s1.th).slot = s.th.slot → s.th.run = .running → s.th.slot < 4 →
        t.th.sr.target = (laneShares (us.map fun u => max 1 u.sr.divided)).getD k 0) ∧
      t.th.cc = s.th.cc ∧ t.th.tr = s.th.tr ∧ t.th.dsp = s.th.dsp ∧ t.th.rcp = s.th.rcp ∧ t.th.fe.posted = s.th.fe.posted ∧
      t.tasks = s.tasks ∧ t.mem = s.mem)

/-- R27, R210: SETVL, and the division of a pair's lane groups it brings about. -/
def Obligations.SetvlSharesTheLanes : Prop := Spec.LaneGroupsAreSharedByWeight ∧ Spec.SetvlSetsTheLength

/-! ### Scalar accesses to memory -/

namespace Sys2Proof.Spec

open Sys2Proof Sys2Proof.Machine

/-- R67: the address of a format M word: xA plus the sign-extended offset. -/
def addressOf (f : FM) (s : State) : W64 := BitVec.ofInt 64 ((s.x5 f.a).toInt + f.ofs.toInt)

/-- The scalar words that access memory: the kind of access (R162), the address and the width in bytes. -/
def accessOf (i : Instr) (s : State) : Option (Nat × W64 × Nat) :=
  match i with
  | .ld f | .ldaq f => some (0, addressOf f s, bytesOf f.ty.toNat)
  | .ldpair f => some (0, addressOf f s, 16)
  | .st f | .strl f => some (1, addressOf f s, bytesOf f.ty.toNat)
  | .stpair f => some (1, addressOf f s, 16)
  | .amo f | .amow f | .cas f => some (3, addressOf f s, bytesOf f.ty.toNat)
  | _ => none

/-- R97: bits 63 to 55 of an address equal its bit 54. -/
def Canonical (va : W64) : Prop := ∀ k, 54 ≤ k → k < 64 → va.getLsbD k = va.getLsbD 54

/-- R112: every byte of a span lies in a declared range of the task's lease, with W = 1 for a write. -/
def Leased (k : Task) (write : Bool) (a n : Nat) : Prop :=
  ∀ b, a ≤ b → b < a + n → ∃ r ∈ k.ranges, (write = true → r.2.w = true) ∧ r.2.base ≤ b ∧ b < r.2.base + r.2.len

/-- R366 to R368, R381: no drain horizon, slot or link reset keeps a resource back. -/
def Open (s : State) : Prop :=
  s.cal.dramHeld = false ∧ s.cal.dramStopped = false ∧ s.cal.linkHeld = false ∧ s.cal.linkStopped = false ∧
    s.link.exchanging = false

/-- R358, R367, R368: no drain, slot, link reset or token quota keeps an access at a physical address waiting. -/
def Available (s : State) (pa : Nat) : Prop :=
  (isHost pa = true → s.cal.linkHeld = false ∧ s.cal.linkStopped = false ∧ s.link.exchanging = false) ∧
  (s.anyWindow pa = true → s.cal.linkHeld = false ∧ s.cal.linkStopped = false) ∧
  (isDram pa = true → s.cal.dramHeld = false ∧ s.cal.dramStopped = false ∧ s.quota = none)

/-- R112: the host does not refuse an access of its page, which it may by choice (log entry 86). -/
def HostServes (s : State) (x : Xl) : Prop := leafLoc x.leaf = true → s.choices.head? ≠ some 1

/-- R105, R125: no earlier access of the thread, a posted store or a copy's DEV access, must come first. -/
def InOrder (s : State) (x : Xl) (a n : Nat) : Prop :=
  (∀ p ∈ s.th.fe.posted, p.blocks a n (leafCls x.leaf == clsDev) = false) ∧
    (leafCls x.leaf = clsDev → s.th.devCopying = false)

/-- Every byte outside some bytes reads as before. -/
def SameOutside (s t : State) (lo n : Nat) : Prop := ∀ a, a < lo ∨ lo + n ≤ a → t.mem.read a = s.mem.read a

/-- What a scalar access leaves: every register of the thread but the x registers, its dispatched work and its recipe, the
other threads, and the tasks, what is counted of their activity (R357) apart. -/
def SameThread (s t : State) : Prop :=
  t.th.sr = s.th.sr ∧ t.th.cc = s.th.cc ∧ t.th.tr = s.th.tr ∧ t.th.smode = s.th.smode ∧ t.th.dsp = s.th.dsp ∧
    t.th.rcp = s.th.rcp ∧ t.rest = s.rest ∧ t.tasks.map Task.still = s.tasks.map Task.still

end Sys2Proof.Spec

/-- R149, R300: the first checks of a scalar access, in order: a misaligned address faults with MISALIGNED; an aligned one
that is not canonical with DATA_ACCESS; each names its address and changes nothing. -/
def Sys2Proof.Spec.AccessesAreCheckedForAlignmentFirst : Prop :=
  ∀ (i : Instr) (s : State) (kind : Nat) (va : W64) (n : Nat), i.wf = true →
    Spec.accessOf i s = some (kind, va, n) → s.th.fe.posted.length ≤ 30 →
    (va.toNat % n ≠ 0 → ∃ t, exec i s = .next t ∧ Spec.Trapped s t 0x05 kind va) ∧
    (va.toNat % n = 0 → ¬ Spec.Canonical va → ∃ t, exec i s = .next t ∧ Spec.Trapped s t 0x08 kind va)

/-- R112, R149: a U-mode access with any byte outside the lease ends the task: each thread the task holds ends, what it
dispatched is abandoned, the status is LEASE_VIOLATION, and no handler runs; memory and the x registers are as they were. -/
def Sys2Proof.Spec.AccessesOutsideTheLeaseEndTheTask : Prop :=
  ∀ (i : Instr) (s : State) (kind : Nat) (va : W64) (n : Nat), i.wf = true →
    Spec.accessOf i s = some (kind, va, n) → s.th.fe.posted.length ≤ 30 → s.th.run = .running → s.th.smode = false →
    va.toNat % n = 0 → Spec.Canonical va → ¬ Spec.Leased s.task (kind != 0) va.toNat n →
    ∃ t, exec i s = .next t ∧ t.th.run = .ended ∧ t.th.pc = s.th.pc ∧ t.th.smode = false ∧ t.th.tr = s.th.tr ∧
      t.th.xs = s.th.xs ∧ t.th.dsp.queue = [] ∧ t.th.dsp.passes = [] ∧ t.th.dsp.ops = [] ∧ t.mem = s.mem ∧
      (∀ u ∈ t.rest, u.task = s.th.task → u.run = .idle ∨ u.run = .ended) ∧
      (∀ k ∈ t.tasks, k.id = s.th.task → k.status = 0x0006)

/-- R99 to R104: a data access through a 64 KiB page whose entries are in order, with every permission the access needs, is
translated to the leaf's frame and the low sixteen bits of the address; the leaf's A is set, and D for a write, and no other
byte of memory changes. No cached translation stands in the way, and no resource is kept back. -/
def Sys2Proof.Spec.MappedPagesTranslate : Prop :=
  ∀ (s : State) (smode : Bool) (kind : Nat) (va : W64) (n : Nat),
    let e0 := s.mem.word (leafFrame s.task.ptbase + 8 * (va.toNat / 2 ^ 42 % 2 ^ 13))
    let e1 := s.mem.word (leafFrame e0 + 8 * (va.toNat / 2 ^ 29 % 2 ^ 13))
    let at2 := leafFrame e1 + 8 * (va.toNat / 2 ^ 16 % 2 ^ 13)
    let e := s.mem.word at2
    let write := kind = 1 ∨ kind = 3
    kind ≠ 2 → Spec.Canonical va → (smode = false → Spec.Leased s.task (kind != 0) va.toNat n) → (∀ pa, s.poisoned pa = false) →
    s.tlb = [] → s.channelsOut = [] → s.mem.wf = true → Spec.Open s →
    tableOk e0 = true → tableOk e1 = true → e.getLsbD 63 = false → e.getLsbD 0 = true → e.extractLsb' 60 4 = 0 →
    e.getLsbD 9 = false → e.getLsbD 6 = false → e.extractLsb' 4 2 = 0 → e.extractLsb' 7 2 = 0 →
    isDram (leafFrame e) = true → e.getLsbD 13 = false → (∀ r ∈ s.regions, r.skew = 0) →
    (smode = false → e.getLsbD 3 = true) → (write → e.getLsbD 1 = true ∧ e.getLsbD 11 = false) →
    ∃ s1, s.check smode kind va n = .ok (⟨at2, e, leafFrame e + va.toNat % 2 ^ 16⟩, s1) ∧
      (s1.mem.word at2).getLsbD 14 = true ∧ (write → (s1.mem.word at2).getLsbD 15 = true) ∧
      (∀ k < 64, k ≠ 14 → k ≠ 15 → (s1.mem.word at2).getLsbD k = e.getLsbD k) ∧
      Spec.SameOutside s s1 at2 8 ∧ s1.th = s.th ∧ s1.tasks.map Task.still = s.tasks.map Task.still

/-- R99 to R104, R112, R149: what a data access is checked for, in order. -/
def Obligations.AccessesAreChecked : Prop :=
  Spec.AccessesAreCheckedForAlignmentFirst ∧ Spec.AccessesOutsideTheLeaseEndTheTask ∧ Spec.MappedPagesTranslate

/-- R130, R148, R150, R299: a load whose access passes every check, with its memory available and not poisoned, writes xD
with the bytes its address holds, extended, and awaits its data. No other register changes, and of memory only the leaf
entry that translated the address (its A bit): what the page counts is counted later (R113). -/
def Sys2Proof.Spec.PlainLoadsReturnMemory : Prop :=
  ∀ (i : Instr) (f : FM) (s s1 : State) (x : Xl), i = .ld f ∨ i = .ldaq f → i.wf = true → s.mem.wf = true →
    let va := Spec.addressOf f s
    let n := bytesOf f.ty.toNat
    let pa := s1.readPa x
    s.sAccess 0 false va n = .ok (x, s1) →
    Spec.InOrder s x va.toNat n → Spec.Available s x.pa → Spec.HostServes s1 x →
    isRegSpace pa = false → s1.poisonIn pa n = none →
    ∃ t, exec i s = .next t ∧
      t.th.xs = (s.withX f.d (extendTo64 f.ty.toNat (leNat (t.mem.readN pa n)))).th.xs ∧
      t.th.pc = s.th.pc + 8 ∧ t.th.fe.posted = s.th.fe.posted ∧ Spec.SameThread s t ∧
      (∃ w, t.th.fe.loadWait = some w ∧ w.pc = s.th.pc ∧ w.va = va) ∧ Spec.SameOutside s t x.leafPa 8

/-- R148: LDPAIR writes xD and xB with the 8 bytes at its address and the 8 after them, where its access passes every check;
nothing else changes but as a load says. -/
def Sys2Proof.Spec.LdpairReturnsTwoWords : Prop :=
  ∀ (f : FM) (s s1 : State) (x : Xl), Instr.wf (.ldpair f) = true → s.mem.wf = true →
    let va := Spec.addressOf f s
    let pa := s1.readPa x
    s.sAccess 0 false va 16 = .ok (x, s1) →
    Spec.InOrder s x va.toNat 16 → Spec.Available s x.pa → Spec.HostServes s1 x →
    leafCls x.leaf ≠ clsDev → isRegSpace pa = false → s1.poisonIn pa 16 = none →
    ∃ t, exec (.ldpair f) s = .next t ∧
      t.th.xs = ((s.withX f.d (t.mem.word pa)).withX f.b (t.mem.word (pa + 8))).th.xs ∧
      t.th.pc = s.th.pc + 8 ∧ t.th.fe.posted = s.th.fe.posted ∧ Spec.SameThread s t ∧
      Spec.SameOutside s t x.leafPa 8

/-- R392: a load from the register space: 8 aligned bytes at the doorbell of a queue with EN = 1 read its PROD; a narrower
access of a doorbell, the doorbell of a queue with EN = 0, and anything else outside the partition's fabric windows read
zero; no byte of memory but the leaf entry changes. -/
def Sys2Proof.Spec.RegisterSpaceReads : Prop :=
  ∀ (i : Instr) (f : FM) (s s1 : State) (x : Xl), i = .ld f ∨ i = .ldaq f → i.wf = true → s.mem.wf = true →
    let va := Spec.addressOf f s
    let n := bytesOf f.ty.toNat
    let pa := s1.readPa x
    s.sAccess 0 false va n = .ok (x, s1) →
    Spec.InOrder s x va.toNat n → Spec.Available s x.pa → isRegSpace pa = true →
    s.fabricWindow s.task.part pa = false →
    ∃ t v, exec i s = .next t ∧ t.th.xs = (s.withX f.d v).th.xs ∧ t.th.pc = s.th.pc + 8 ∧ Spec.SameThread s t ∧
      t.queues = s.queues ∧ Spec.SameOutside s t x.leafPa 8 ∧
      let idx := (pa - 0x4000000000000) % 0x10000 / 8
      let door := s.queue? ((pa - 0x4000000000000) / 0x10000) idx
      (∀ u, n = 8 → pa % 8 = 0 → idx < 64 → door = some u → u.conf.en = true → v = BitVec.ofNat 64 (u.prod % 2 ^ 64)) ∧
      (n < 8 ∨ pa % 8 ≠ 0 ∨ 64 ≤ idx ∨ door = none ∨ (∃ u, door = some u ∧ u.conf.en = false) → v = 0)

/-- R130, R148, R150, R299, R392: what loads return. -/
def Obligations.LoadsReturnMemory : Prop :=
  Spec.PlainLoadsReturnMemory ∧ Spec.LdpairReturnsTwoWords ∧ Spec.RegisterSpaceReads

/-- R148, R150, R299: a store whose access passes every check is posted with the bytes of its register and the STEPNO then in
force, and the next word may issue. No register changes, and of memory only the leaf entry's A and D: the bytes are stored
later. STRL's post also names the dispatched work it must follow. -/
def Sys2Proof.Spec.PlainStoresArePosted : Prop :=
  ∀ (f : FM) (s s1 : State) (x : Xl),
    let va := Spec.addressOf f s
    let n := bytesOf f.ty.toNat
    let bytes := leBytes n (s.x f.d).toNat
    s.th.fe.posted.length < 32 → s.mem.wf = true → (leafCls x.leaf = clsDev → s.th.devCopying = false) →
    (Instr.wf (.st f) = true → s.sAccess 1 (f.fn.getLsbD 0) va n = .ok (x, s1) →
      ∃ t p, exec (.st f) s = .next t ∧ t.th.fe.posted = s.th.fe.posted ++ [p] ∧
        p.va = va.toNat ∧ p.pa = x.pa ∧ p.bytes = bytes ∧ p.stepno = s.task.stepno ∧ p.kind = .store ∧ p.pc = s.th.pc ∧
        p.release = none ∧ t.th.xs = s.th.xs ∧ t.th.pc = s.th.pc + 8 ∧ Spec.SameThread s t ∧
        Spec.SameOutside s t x.leafPa 8) ∧
    (Instr.wf (.strl f) = true → s.th.hasPending = false → s.sAccess 1 false va n = .ok (x, s1) →
      ∃ t p, exec (.strl f) s = .next t ∧ t.th.fe.posted = s.th.fe.posted ++ [p] ∧
        p.va = va.toNat ∧ p.pa = x.pa ∧ p.bytes = bytes ∧ p.stepno = s.task.stepno ∧ p.kind = .store ∧ p.pc = s.th.pc ∧
        p.release = some s.th.dsp.nextSeq ∧ t.th.xs = s.th.xs ∧ t.th.pc = s.th.pc + 8 ∧ Spec.SameThread s t ∧
        Spec.SameOutside s t x.leafPa 8)

/-- R148, R149: STPAIR posts its sixteen bytes as one store, and on a DEV page as two stores of 8 bytes, the lower address
first. -/
def Sys2Proof.Spec.StpairIsPosted : Prop :=
  ∀ (f : FM) (s s1 : State) (x : Xl), Instr.wf (.stpair f) = true → s.mem.wf = true →
    let va := Spec.addressOf f s
    let lo := leBytes 8 (s.x f.d).toNat
    let hi := leBytes 8 (s.x f.b).toNat
    s.sAccess 1 (f.fn.getLsbD 0) va 16 = .ok (x, s1) → (leafCls x.leaf = clsDev → s.th.devCopying = false) →
    s.th.fe.posted.length + (if leafCls x.leaf = clsDev then 2 else 1) ≤ 32 →
    ∃ t, exec (.stpair f) s = .next t ∧ t.th.xs = s.th.xs ∧ t.th.pc = s.th.pc + 8 ∧ Spec.SameThread s t ∧
      Spec.SameOutside s t x.leafPa 8 ∧
      (leafCls x.leaf ≠ clsDev → ∃ p, t.th.fe.posted = s.th.fe.posted ++ [p] ∧ p.pa = x.pa ∧ p.bytes = lo ++ hi) ∧
      (leafCls x.leaf = clsDev → ∃ p q, t.th.fe.posted = s.th.fe.posted ++ [p, q] ∧ p.pa = x.pa ∧ p.bytes = lo ∧
        q.pa = x.pa + 8 ∧ q.bytes = hi ∧ p.seq < q.seq)

/-- R148 to R150, R299: stores are posted. -/
def Obligations.StoresArePosted : Prop := Spec.PlainStoresArePosted ∧ Spec.StpairIsPosted

/-- R117, R125, R150: a posted store that no earlier one blocks is performed: it leaves the list, its bytes stand at the
physical address its page gives (on a versioned page, in the half that is not committed), and every other byte reads as
before, but for what the first write of a step copies. No register changes. -/
def Sys2Proof.Spec.FreeStoresArePerformed : Prop :=
  ∀ (k : Nat) (s s1 : State) (p : Posted) (pa : Nat), s.th.fe.posted[k]? = some p → p.kind = .store → p.bytes ≠ [] →
    s.mem.wf = true → s.th.postedFree p = true → s.th.releaseFree p = true → Spec.Available s p.pa →
    (leafVer p.leaf = true → s.shutAt p.leafPa = false) →
    Spec.HostServes s p.xl → s.writePa p.xl p.stepno = some (pa, s1) → isRegSpace pa = false → s.channelsOut = [] →
    ∃ t, exec (.postedStorePerformed k) s = .next t ∧
      t.th.fe.posted = s.th.fe.posted.filter (fun q => q.seq != p.seq) ∧
      t.mem.readN pa p.bytes.length = p.bytes ∧ Spec.SameOutside s1 t pa p.bytes.length ∧
      (leafVer p.leaf = false → pa = p.pa ∧ s1 = s) ∧
      t.th.xs = s.th.xs ∧ t.th.pc = s.th.pc ∧ Spec.SameThread s t

/-- R119, R150: a posted store to a versioned page whose step is over stores nothing; its fault is kept for the thread's next
boundary. -/
def Sys2Proof.Spec.StoresOfAnOldStepAreDropped : Prop :=
  ∀ (k : Nat) (s : State) (p : Posted), s.th.fe.posted[k]? = some p → p.kind = .store → leafVer p.leaf = true →
    p.stepno ≠ s.task.stepno → s.th.postedFree p = true → s.th.releaseFree p = true → Spec.Available s p.pa →
    s.shutAt p.leafPa = false → Spec.HostServes s p.xl →
    ∃ t, exec (.postedStorePerformed k) s = .next t ∧ t.mem = s.mem ∧
      t.th.fe.posted = s.th.fe.posted.filter (fun q => q.seq != p.seq) ∧
      t.th.fe.dropped = s.th.fe.dropped ++ [⟨p.seq, p.pc, BitVec.ofNat 64 p.va, 0x18, 1, p.smode⟩] ∧
      t.th.xs = s.th.xs ∧ t.th.pc = s.th.pc ∧ Spec.SameThread s t

/-- R117, R119, R125, R150: how a posted store ends. -/
def Obligations.PostedStoresArePerformed : Prop := Spec.FreeStoresArePerformed ∧ Spec.StoresOfAnOldStepAreDropped

/-! ### Atomics, fences and communication registers -/

namespace Sys2Proof.Spec

open Sys2Proof Sys2Proof.Machine

/-- An integer of a 32- or 64-bit type, by its bits: TY 4 and 6 are signed (R34). -/
def intVal (ty v : Nat) : Int :=
  if ty % 2 = 0 ∧ 2 ^ (8 * bytesOf ty) ≤ 2 * v then (v : Int) - 2 ^ (8 * bytesOf ty) else v

/-- R302: what an atomic on an integer type, or a swap, stores, from the location's old value and the register's bits. -/
def atomicNew (op ty old x : Nat) : Nat :=
  let w := 2 ^ (8 * bytesOf ty)
  match op with
  | 0 => x % w
  | 1 => (old + x) % w
  | 2 => (old &&& x) % w
  | 3 => (old ||| x) % w
  | 4 => (old ^^^ x) % w
  | 5 => if intVal ty old ≤ intVal ty (x % w) then old else x % w
  | _ => if intVal ty old ≤ intVal ty (x % w) then x % w else old

/-- The thread has no root pending, no dispatched work unfinished and no store posted: a releasing word need not wait. -/
def Quiet (s : State) : Prop :=
  s.th.hasPending = false ∧ s.th.unfinished = false ∧ s.th.fe.posted = []

/-- The word at the PC stands waiting, without a bound, and has done nothing else. -/
def waiting (s : State) (k : WaitKind) (aux : Nat) : State :=
  { s with th := { s.th with fe := { s.th.fe with wait := some ⟨s.th.pc, k, s.cal.tick, none, aux⟩ } } }

/-- The word at the PC stands in a wait bounded by WAITBUDGET (R313). -/
def waitingFor (s : State) (k : WaitKind) (aux : Nat) : State :=
  { s with th := { s.th with fe := { s.th.fe with
      wait := some ⟨s.th.pc, k, s.cal.tick, some (s.th.sr.waitbudget.toNat % 2 ^ 48), aux⟩ } } }

/-- R296: the words but FENCE that release at their issue and then wait for every earlier access: SEMCLR, CBAR, CDAMO with
`.rl`, STEPCMT and STEPABT where they may run, PGSET in S mode, a LAUNCH whose queue and record pass their checks, and AMO
and CAS with `.rl` whose access passes its own. (STRL and AMOW post their write with what it must follow, R299.) -/
def releases (i : Instr) (s : State) : Bool :=
  match i with
  | .semclr _ | .cbar _ => true
  | .cdamo f => f.imm.getLsbD 13
  | .stepcmt _ | .stepabt _ => s.th.smode || s.task.record.sa
  | .pgsetSet _ | .pgsetNorm _ | .pgsetWbset _ => s.th.smode
  | .launch f =>
    match s.launchQueue f with
    | .ok u =>
      (match s.readRecord (recordBytes u.conf / 64) (addressOf f s) with
      | .error (.trap _) | .error .lease => false
      | _ => true)
    | .error _ => false
  | .amo f =>
    f.fn.getLsbD 4 &&
      (s.releaseCheck 3 (addressOf f s) (bytesOf f.ty.toNat) (s.atomicCheck (addressOf f s) (bytesOf f.ty.toNat))).isOk
  | .cas f =>
    f.fn.getLsbD 1 &&
      (s.releaseCheck 3 (addressOf f s) (bytesOf f.ty.toNat) (s.atomicCheck (addressOf f s) (bytesOf f.ty.toNat))).isOk
  | _ => false

/-- R296: the word at the PC has launched the roots pending by an entry of its own address that stands for VPASS, and waits
where it stands. -/
def LaunchesItsRoots (s t : State) : Prop :=
  ∃ e, t.th.dsp.queue = s.th.dsp.queue ++ [e] ∧ e.word = vpassWord ∧ e.pc = s.th.pc ∧ e.smode = s.th.smode ∧
    t.th.fe.wait = some ⟨s.th.pc, .fence, s.cal.tick, none, 0⟩ ∧ t.th.pc = s.th.pc ∧ t.th.xs = s.th.xs ∧
    t.th.sr = s.th.sr ∧ t.th.rcp = s.th.rcp ∧ t.mem = s.mem

/-- R308: the register a communication word names. -/
def commReg (f : FJ) : Nat := f.imm.toNat % 64

/-- R310: what CDAMO leaves in the register. -/
def cdNew (op : Nat) (old x : W64) : W64 :=
  match op with
  | 0 => x
  | 1 => BitVec.ofNat 64 (old.toNat + x.toNat)
  | 2 => old &&& x
  | 3 => old ||| x
  | 4 => old ^^^ x
  | 5 => BitVec.ofInt 64 (min old.toInt x.toInt)
  | 6 => BitVec.ofInt 64 (max old.toInt x.toInt)
  | 7 => BitVec.ofNat 64 (min old.toNat x.toNat)
  | _ => BitVec.ofNat 64 (max old.toNat x.toNat)

/-- What a communication word leaves apart from its own registers and its set. -/
def SameButComms (s t : State) : Prop :=
  SameThread s t ∧ t.tasks = s.tasks ∧ t.th.fe.posted = s.th.fe.posted ∧ t.mem = s.mem

end Sys2Proof.Spec

/-- R302: AMO on an integer type, or a swap, once its access may be performed: xD takes the old value, extended, the location
the new one, and no other byte reads otherwise than after the translation (A and D of the leaf); no flag rises. -/
def Sys2Proof.Spec.IntegerAmosReadModifyWrite : Prop :=
  ∀ (f : FM) (s s1 : State) (x : Xl), Instr.wf (.amo f) = true → f.ty.toNat < 8 ∨ f.fnAt 0 3 = 0 →
    f.fn.getLsbD 4 = false ∨ Spec.Quiet s → s.mem.wf = true →
    let va := Spec.addressOf f s
    let n := bytesOf f.ty.toNat
    let old := leNat (s1.mem.readN x.pa n)
    s.atomicReady va n = .ok (x, s1) → leafVer x.leaf = false → isRegSpace x.pa = false → s1.poisonIn x.pa n = none →
    Spec.HostServes s1 x → s1.channelsOut = [] →
    ∃ t, exec (.amo f) s = .next t ∧
      t.th.xs = (s.withX f.d (extendTo64 f.ty.toNat old)).th.xs ∧
      t.mem.readN x.pa n = leBytes n (Spec.atomicNew (f.fnAt 0 3) f.ty.toNat old (s.x f.b).toNat) ∧
      Spec.SameOutside s1 t x.pa n ∧ Spec.SameOutside s s1 x.leafPa 8 ∧
      t.th.pc = s.th.pc + 8 ∧ t.th.fe.posted = s.th.fe.posted ∧ Spec.SameThread s t

/-- R302, R304: an AMO `.add` on a floating-point type stores the sum rounded to nearest even and ORs its flags into FSTATUS;
one that raises a flag FCTRL enables faults with FP_TRAP and leaves the location as it was. -/
def Sys2Proof.Spec.FloatAmosAddOrTrap : Prop :=
  ∀ (f : FM) (s s1 : State) (x : Xl), Instr.wf (.amo f) = true → 8 ≤ f.ty.toNat → f.fnAt 0 3 = 1 →
    f.fn.getLsbD 4 = false ∨ Spec.Quiet s → s.mem.wf = true →
    let ty := f.ty.toNat
    let va := Spec.addressOf f s
    let n := bytesOf ty
    let old := leNat (s1.mem.readN x.pa n)
    let sum := atomicVal 1 ty old (s.x f.b).toNat
    s.atomicReady va n = .ok (x, s1) → leafVer x.leaf = false → isRegSpace x.pa = false → s1.poisonIn x.pa n = none →
    Spec.HostServes s1 x → s1.channelsOut = [] →
    ((∀ k < 5, sum.2.getLsbD k = true → s.th.sr.fctrl.getLsbD (8 + k) = false) →
      ∃ t, exec (.amo f) s = .next t ∧ t.th.xs = (s.withX f.d (extendTo64 ty old)).th.xs ∧
        t.th.sr = { s.th.sr with fstatus := s.th.sr.fstatus ||| sum.2.setWidth 64 } ∧
        t.mem.readN x.pa n = leBytes n sum.1 ∧ Spec.SameOutside s1 t x.pa n ∧ t.th.pc = s.th.pc + 8) ∧
    ((∃ k < 5, sum.2.getLsbD k = true ∧ s.th.sr.fctrl.getLsbD (8 + k) = true) →
      ∃ t, exec (.amo f) s = .next t ∧ Spec.Trapped s t 0x12 0 0)

/-- R303: CAS stores xB's low bits when the location holds xD's low bits and stores nothing otherwise; xD takes the old value,
extended, in both cases. -/
def Sys2Proof.Spec.CasComparesAndSwaps : Prop :=
  ∀ (f : FM) (s s1 : State) (x : Xl), Instr.wf (.cas f) = true → f.fn.getLsbD 1 = false ∨ Spec.Quiet s →
    s.mem.wf = true →
    let va := Spec.addressOf f s
    let n := bytesOf f.ty.toNat
    let old := leNat (s1.mem.readN x.pa n)
    s.atomicReady va n = .ok (x, s1) → leafVer x.leaf = false → isRegSpace x.pa = false → s1.poisonIn x.pa n = none →
    Spec.HostServes s1 x → s1.channelsOut = [] →
    ∃ t, exec (.cas f) s = .next t ∧
      t.th.xs = (s.withX f.d (extendTo64 f.ty.toNat old)).th.xs ∧
      t.mem.readN x.pa n = leBytes n (if old = (s.x f.d).toNat % 2 ^ (8 * n) then (s.x f.b).toNat else old) ∧
      Spec.SameOutside s1 t x.pa n ∧ Spec.SameOutside s s1 x.leafPa 8 ∧
      t.th.pc = s.th.pc + 8 ∧ t.th.fe.posted = s.th.fe.posted ∧ Spec.SameThread s t

/-- R301 to R304: AMO and CAS. -/
def Obligations.AtomicWords : Prop :=
  Spec.IntegerAmosReadModifyWrite ∧ Spec.FloatAmosAddOrTrap ∧ Spec.CasComparesAndSwaps

/-- R302, R305: AMOW is posted with the register's bits, `.rl` with the dispatched work it must follow; when it is performed
the location takes the new value and the flags are ORed into REMOTEFLAGS. -/
def Obligations.AmowIsPostedAndPerformed : Prop :=
  (∀ (f : FM) (s s1 : State) (x : Xl), Instr.wf (.amow f) = true → s.th.fe.posted.length < 32 → s.th.hasPending = false →
    s.mem.wf = true →
    let va := Spec.addressOf f s
    let n := bytesOf f.ty.toNat
    s.atomicCheck va n = .ok (x, s1) → s.th.meetArit (Rng.span va.toNat n) true false = .go → s1.poisonIn x.pa n = none →
    ∃ t p, exec (.amow f) s = .next t ∧ t.th.fe.posted = s.th.fe.posted ++ [p] ∧ p.va = va.toNat ∧ p.pa = x.pa ∧
      p.bytes = leBytes n (s.x f.b).toNat ∧ p.kind = .atomic (f.fnAt 0 3) f.ty.toNat ∧
      p.release = (if f.fn.getLsbD 4 then some s.th.dsp.nextSeq else none) ∧ t.th.xs = s.th.xs ∧
      t.th.pc = s.th.pc + 8 ∧ Spec.SameThread s t ∧ Spec.SameOutside s t x.leafPa 8) ∧
  (∀ (k op ty : Nat) (s : State) (p : Posted), s.th.fe.posted[k]? = some p → p.kind = .atomic op ty →
    s.th.postedFree p = true → s.th.releaseFree p = true → Spec.Available s p.pa → leafVer p.leaf = false →
    isRegSpace p.pa = false → s.poisonIn p.pa p.bytes.length = none → Spec.HostServes s p.xl → s.channelsOut = [] →
    s.mem.wf = true →
    let n := p.bytes.length
    let new := atomicVal op ty (leNat (s.mem.readN p.pa n)) (leNat p.bytes)
    ∃ t, exec (.postedStorePerformed k) s = .next t ∧ t.mem.readN p.pa n = leBytes n new.1 ∧
      Spec.SameOutside s t p.pa n ∧ t.th.sr = { s.th.sr with remoteflags := s.th.sr.remoteflags ||| new.2.setWidth 64 } ∧
      t.th.fe.posted = s.th.fe.posted.filter (fun q => q.seq != p.seq) ∧ t.th.xs = s.th.xs ∧ t.th.pc = s.th.pc)

/-- R296, R300, R309 to R311, R340, R362, R364: a releasing word with roots still pending launches them by an entry of its
own address, and while any earlier access is not performed it waits, without a bound, where it stands. -/
def Sys2Proof.Spec.ReleasingWordsWait : Prop :=
  ∀ (i : Instr) (s : State), Spec.releases i s = true → s.th.fe.wait = none →
    (s.th.hasPending = false → (s.th.unfinished = true ∨ s.th.fe.posted ≠ []) →
      exec i s = .next (Spec.waiting s .fence 0)) ∧
    (s.th.hasPending = true → s.th.dsp.room 1 = true → ∃ t, exec i s = .next t ∧ Spec.LaunchesItsRoots s t)

/-- R296 to R298, R313: `.vs` waits for roots pending, which it launches, and for dispatched work, and `.all` for posted
stores too. The wait has no bound, but while WB holds a write of the thread it counts against WAITBUDGET, and with none to
spend faults with WAIT_TIMEOUT. -/
def Sys2Proof.Spec.FencesWaitForEarlierWork : Prop :=
  ∀ (f : FX) (s : State), f.fnAt 0 2 = 1 ∨ f.fnAt 0 2 = 3 → s.th.fe.wait = none →
    (s.th.hasPending = false → s.th.unfinished = true ∨ (f.fnAt 0 2 = 3 ∧ s.th.fe.posted ≠ []) →
      (s.th.writeHeld = false → exec (.fence f) s = .next (Spec.waiting s .fence 0)) ∧
      (s.th.writeHeld = true → s.th.sr.waitbudget.toNat % 2 ^ 48 ≠ 0 →
        exec (.fence f) s = .next (Spec.waitingFor s .fence 0)) ∧
      (s.th.writeHeld = true → s.th.sr.waitbudget.toNat % 2 ^ 48 = 0 →
        ∃ t, exec (.fence f) s = .next t ∧ Spec.Trapped s t 0x16 0 0)) ∧
    (s.th.hasPending = true → s.th.dsp.room 1 = true → s.th.writeHeld = false →
      ∃ t, exec (.fence f) s = .next t ∧ Spec.LaunchesItsRoots s t)

/-- R297, R305: a fence whose before-set is performed merges REMOTEFLAGS into FSTATUS, clears it and goes on; `.sv` waits for
posted stores alone, and `.vv` takes one entry of the dispatch queue. -/
def Sys2Proof.Spec.FencesWaitAndMerge : Prop :=
  ∀ (f : FX) (s : State),
    let merged : State :=
      ({ s with th := { s.th with sr := { s.th.sr with
        fstatus := s.th.sr.fstatus ||| s.th.sr.remoteflags, remoteflags := 0 } } } : State).passed
    (f.fnAt 0 2 = 0 → s.th.fe.posted = [] → exec (.fence f) s = .next merged) ∧
    (f.fnAt 0 2 = 0 → s.th.fe.posted ≠ [] → s.th.fe.wait = none → exec (.fence f) s = .next (Spec.waiting s .fence 0)) ∧
    (f.fnAt 0 2 = 1 → s.th.hasPending = false → s.th.unfinished = false → exec (.fence f) s = .next merged) ∧
    (f.fnAt 0 2 = 3 → Spec.Quiet s → exec (.fence f) s = .next merged) ∧
    (f.fnAt 0 2 = 2 → s.th.hasPending = false → s.th.dsp.room 1 = true →
      ∃ t e, exec (.fence f) s = .next t ∧ t.th.dsp.queue = s.th.dsp.queue ++ [e] ∧ e.word = packX 0x38 f ∧
        e.pc = s.th.pc ∧ t.th.pc = s.th.pc + 8 ∧ t.th.xs = s.th.xs ∧ t.th.sr = s.th.sr ∧ t.th.rcp = s.th.rcp ∧
        t.mem = s.mem)

/-- R296 to R298, R305, R313: what releasing words and fences wait for, and how a fence completes. -/
def Obligations.ReleasesAndFences : Prop :=
  Spec.ReleasingWordsWait ∧ Spec.FencesWaitForEarlierWork ∧ Spec.FencesWaitAndMerge

/-- R309: SEMTAS of a clear semaphore nobody waits for sets it and goes on, and otherwise joins the end of its queue in a
bounded wait; SEMCLR with a waiter leaves the bit set and lets the oldest waiter go on, and without one clears the bit. -/
def Sys2Proof.Spec.SemaphoresAreHandedOn : Prop :=
  ∀ (f : FJ) (s : State),
    let n := Spec.commReg f
    let c := s.comm
    (s.th.fe.wait = none → c.sems.getLsbD n = false → (∀ w ∈ c.waiters, w.1 ≠ n) →
      ∃ t, exec (.semtas f) s = .next t ∧ t.comm = { c with sems := c.sems ||| BitVec.twoPow 64 n } ∧
        t.th.pc = s.th.pc + 8 ∧ t.th.xs = s.th.xs ∧ Spec.SameButComms s t) ∧
    (s.th.fe.wait = none → (c.sems.getLsbD n = true ∨ ∃ w ∈ c.waiters, w.1 = n) → s.th.sr.waitbudget.toNat % 2 ^ 48 ≠ 0 →
      ∃ t, exec (.semtas f) s = .next t ∧ t.comm = { c with waiters := c.waiters ++ [(n, s.th.hw)] } ∧
        t.th = (Spec.waitingFor s .semaphore n).th ∧ t.rest = s.rest ∧ t.mem = s.mem) ∧
    (s.th.fe.wait = none → (c.sems.getLsbD n = true ∨ ∃ w ∈ c.waiters, w.1 = n) → s.th.sr.waitbudget.toNat % 2 ^ 48 = 0 →
      ∃ t, exec (.semtas f) s = .next t ∧ Spec.Trapped s t 0x16 0 0) ∧
    (Spec.Quiet s → (∀ w ∈ c.waiters, w.1 ≠ n) →
      ∃ t, exec (.semclr f) s = .next t ∧ t.comm = { c with sems := c.sems &&& ~~~(BitVec.twoPow 64 n) } ∧
        t.th.pc = s.th.pc + 8 ∧ t.th.xs = s.th.xs ∧ Spec.SameButComms s t) ∧
    (∀ w, Spec.Quiet s → c.waiters.find? (fun v => v.1 == n) = some w → w.2 ≠ s.th.hw →
      ∃ t, exec (.semclr f) s = .next t ∧ t.comm = { c with waiters := c.waiters.erase w } ∧
        t.th.pc = s.th.pc + 8 ∧ t.th.xs = s.th.xs ∧ t.mem = s.mem ∧ t.tasks = s.tasks ∧
        t.rest = s.rest.map (fun u =>
          if u.hw == w.2 then { u with pc := u.pc + 8, fe := { u.fe with wait := none } } else u))

/-- R310: CDRD reads, CDWR writes, and CDAMO reads and changes the data register named, of the set of the thread's task on its
own cluster; no other register of the set and no other set changes. -/
def Sys2Proof.Spec.DataRegisterWords : Prop :=
  ∀ (f : FJ) (s : State),
    let n := Spec.commReg f
    let c := s.comm
    let old := c.cds.toArray.getD n 0
    (exec (.cdrd f) s = .next (s.wrote f.d old)) ∧
    (∃ t, exec (.cdwr f) s = .next t ∧ t.comm = { c with cds := c.cds.setIfInBounds n (s.x f.a) } ∧
      t.th.pc = s.th.pc + 8 ∧ t.th.xs = s.th.xs ∧ Spec.SameButComms s t ∧
      ∀ d, ¬ (d.cluster = s.th.cluster ∧ d.task = s.th.task) → (d ∈ t.comms ↔ d ∈ s.comms)) ∧
    (Instr.wf (.cdamo f) = true → f.imm.getLsbD 13 = false ∨ Spec.Quiet s →
      ∃ t, exec (.cdamo f) s = .next t ∧
        t.comm = { c with cds := c.cds.setIfInBounds n (Spec.cdNew (f.imm.toNat / 256 % 16) old (s.x f.a)) } ∧
        t.th.pc = s.th.pc + 8 ∧ t.th.xs = (s.withX f.d old).th.xs ∧ Spec.SameButComms s t ∧
        ∀ d, ¬ (d.cluster = s.th.cluster ∧ d.task = s.th.task) → (d ∈ t.comms ↔ d ∈ s.comms))

/-- R311: a CBAR that has released, with other participants still to come, arrives and waits, bounded by WAITBUDGET; the last
one to arrive lets every participant that waits go on, and the next generation begins with none arrived. -/
def Sys2Proof.Spec.TheLastArrivalOpensTheBarrier : Prop :=
  ∀ (f : FJ) (s : State), Spec.Quiet s → s.th.fe.wait = none →
    let c := s.comm
    let left := s.threads.filter fun u =>
      u.task == c.task && u.cluster == c.cluster && u.run != .ended && !c.arrived.contains u.hw
    (1 < left.length → s.th.sr.waitbudget.toNat % 2 ^ 48 ≠ 0 →
      ∃ t, exec (.cbar f) s = .next t ∧ t.comm = { c with arrived := c.arrived ++ [s.th.hw] } ∧
        t.th = (Spec.waitingFor s .barrier 0).th ∧ t.rest = s.rest ∧ t.mem = s.mem) ∧
    (1 < left.length → s.th.sr.waitbudget.toNat % 2 ^ 48 = 0 →
      ∃ t, exec (.cbar f) s = .next t ∧ Spec.Trapped s t 0x16 0 0) ∧
    (left.length ≤ 1 → c.arrived.Nodup → s.th.hw ∉ c.arrived →
      ∃ t, exec (.cbar f) s = .next t ∧ t.comm = { c with arrived := [] } ∧ t.th.pc = s.th.pc + 8 ∧
        t.th.xs = s.th.xs ∧ Spec.SameThread { s with rest := t.rest } t ∧ t.tasks = s.tasks ∧ t.mem = s.mem ∧
        t.rest = s.rest.map (fun u =>
          if u.hw ∈ c.arrived then { u with pc := u.pc + 8, fe := { u.fe with wait := none } } else u))

/-- R308 to R311: semaphores, communication registers and the barrier. -/
def Obligations.CommunicationWords : Prop :=
  Spec.SemaphoresAreHandedOn ∧ Spec.DataRegisterWords ∧ Spec.TheLastArrivalOpensTheBarrier

/-! ### Recording, dispatch and pair words -/

namespace Sys2Proof.Spec

open Sys2Proof Sys2Proof.Machine

/-- R185, R207: the words that record a node or take a dispatch entry (VPASS, VMOV, VLDX and FENCE apart): the length field,
and the request as its operands give it, or the cause of its fault. -/
def recordingOf (i : Instr) (s : State) : Option (Nat × Except Nat Rec) :=
  match i with
  | .vadd f => some (f.ls.toNat, s.recBin 0x40 f)
  | .vsub f => some (f.ls.toNat, s.recBin 0x41 f)
  | .vmul f => some (f.ls.toNat, s.recBin 0x42 f)
  | .vdiv f => some (f.ls.toNat, s.recBin 0x44 f)
  | .vmin f => some (f.ls.toNat, s.recBin 0x45 f)
  | .vmax f => some (f.ls.toNat, s.recBin 0x46 f)
  | .vmulh f => some (f.ls.toNat, s.recBin 0x71 f)
  | .vand f => some (f.ls.toNat, s.recBin 0x48 f)
  | .vor f => some (f.ls.toNat, s.recBin 0x49 f)
  | .vxor f => some (f.ls.toNat, s.recBin 0x4A f)
  | .vshl f => some (f.ls.toNat, s.recBin 0x4B f)
  | .vshr f => some (f.ls.toNat, s.recBin 0x4C f)
  | .vadds f => some (f.ls.toNat, s.recScalar 0x53 f)
  | .vmuls f => some (f.ls.toNat, s.recScalar 0x54 f)
  | .vmins f => some (f.ls.toNat, s.recScalar 0x56 f)
  | .vmaxs f => some (f.ls.toNat, s.recScalar 0x57 f)
  | .vshli f => some (f.ls.toNat, s.recImm 0x58 f)
  | .vshri f => some (f.ls.toNat, s.recImm 0x59 f)
  | .vslide f => some (f.ls.toNat, s.recImm 0x5E f)
  | .vunary f => some (f.ls.toNat, s.recUn 0x47 f)
  | .vpopc f => some (f.ls.toNat, s.recUn 0x72 f)
  | .vrnd f => some (f.ls.toNat, s.recUn 0x52 f)
  | .vsfu f => some (f.ls.toNat, s.recUn 0x50 f)
  | .vscan f => some (f.ls.toNat, s.recUn 0x6A f)
  | .vfma f => some (f.ls.toNat, s.recFma f)
  | .vfmas f => some (f.ls.toNat, s.recFmas f)
  | .vcvt f => some (f.ls.toNat, s.recCvt f)
  | .vcmp f => some (f.ls.toNat, s.recCmp f)
  | .vcmps f => some (f.ls.toNat, s.recCmps f)
  | .vclass f => some (f.ls.toNat, s.recClass f)
  | .vsel f => some (f.ls.toNat, s.recSel f)
  | .kop f => some (f.ls.toNat, s.recKop f)
  | .vflags f => some (f.ls.toNat, s.recFlags f)
  | .vsplat f => some (f.ls.toNat, s.recSplat f)
  | .viota f => some (f.ls.toNat, s.recIota f)
  | .vbcast f => some (f.ls.toNat, s.recBcast f)
  | .vsegred f => some (f.ls.toNat, s.recSegred f)
  | .vld f => some (f.ls.toNat, s.recLd f)
  | .vkld f => some (f.ls.toNat, s.recKld f)
  | .vtread f => some (f.ls.toNat, s.recTread f)
  | .vtb f => if (s.address f).toNat % 8 = 0 then some (f.ls.toNat, s.recTb f) else none
  | .cpyx f => some (f.ls.toNat, s.recCpyx f)
  | .mscale f => some (f.ls.toNat, s.recMscale f)
  | .mtwr f => some (f.ls.toNat, s.recMtwr f)
  | .mrred f => some (f.ls.toNat, s.recMrred f)
  | .vst f => some (f.ls.toNat, s.recSt f)
  | .vstx f => some (f.ls.toNat, s.recStx f)
  | .vcst f => some (f.ls.toNat, s.recCst f)
  | .vkst f => some (f.ls.toNat, s.recKst f)
  | .vred f => some (f.ls.toNat, s.recRed f)
  | .vamo f => some (f.ls.toNat, s.recAmo f)
  | .vforce f => some (f.ls.toNat, s.recForce f)
  | .kpop f => some (f.ls.toNat, s.recKpop f)
  | .mopa f => some (f.ls.toNat, s.recMop 0x80 f false)
  | .mops f => some (f.ls.toNat, s.recMop 0x81 f false)
  | .mopt f => some (f.ls.toNat, s.recMop 0x8F f true)
  | .mzero f => some (f.ls.toNat, .ok (recPlain 0x82 f))
  | .maddt f => some (f.ls.toNat, .ok (recPlain 0x84 f))
  | .mtrn f => some (f.ls.toNat, .ok (recPlain 0x85 f))
  | .mtld f => some (f.ls.toNat, .ok (s.recMove 0x86 f))
  | .mtst f => some (f.ls.toNat, .ok (s.recMoveOut 0x87 f))
  | .mpack f => some (f.ls.toNat, .ok (s.recMoveOut 0x88 f))
  | .bload f => some (f.ls.toNat, .ok (s.recMove 0x8B f))
  | .bfromt f => some (f.ls.toNat, .ok { recPlain 0x8C f with vb := s.x f.b })
  | .msave f => some (f.ls.toNat, .ok { recPlain 0x8D f with va := s.x f.a })
  | .mrest f => some (f.ls.toNat, .ok { recPlain 0x8E f with va := s.x f.a })
  | .sscfg f => some (f.ls.toNat, .ok { word := packJ 0xA0 f, parts := 0, fixedLen := some 1,
                                        va := if f.a = 0 then f.imm.setWidth 64 else s.x f.a })
  | .sscan f => some (f.ls.toNat, s.recScan 0xA1 f false)
  | .ssstep f => some (f.ls.toNat, s.recScan 0xA2 f true)
  | .ssld f => some (f.ls.toNat, .ok (s.recState 0xA3 f))
  | .ssst f => some (f.ls.toNat, .ok (s.recState 0xA4 f))
  | .ssrst f => some (f.ls.toNat, .ok { word := packX 0xA5 f, parts := 0, cc := counterX f })
  | .cpy f => some (f.ls.toNat, .ok (s.recCopy 0xB0 f))
  | .cpyf f => some (f.ls.toNat, .ok (s.recCopy 0xB4 f))
  | .cpyr f => some (f.ls.toNat, .ok (s.recCopy 0xB5 f))
  | .cpypub f => some (f.ls.toNat, .ok (s.recCopy 0xB6 f))
  | .cpy2d f => some (f.ls.toNat, .ok (s.recPitched 0xB1 f))
  | .cpyt f => some (f.ls.toNat, .ok (s.recPitched 0xB2 f))
  | .stmap f => some (f.ls.toNat, if s.pairShared then .error causeRange else
      .ok { s.recStash 0xB8 f with entryRng := some (s.stmapRng f.d.toNat (s.address f) (s.x f.b)) })
  | .stfl f => some (f.ls.toNat, .ok (s.recStash 0xB9 f))
  | .stinv f => some (f.ls.toNat, .ok (s.recStash 0xBD f))
  | _ => none

/-- R196: the ARIT entries a request would take with a length. -/
def aritNeed (s : State) (q : Rec) (lsrc len : Nat) : Nat :=
  let ns := s.newNodes q lsrc len
  let e := s.newRecEntry q ((ns[0]?).map fun n => n.idx) lsrc len
  (ns.map fun n => n.reads.length + n.writes.length).sum + e.reads.length + e.writes.length

/-- R12, R64, R156, R185, R188, R189, R196: a request is accepted: the queue, the counter, the length queue, the node budget
and the ARIT have room, a length is there, and the lengths that are known agree. `lsrc` and `len` say the length it takes. -/
def Accepted (s : State) (ls : Nat) (q : Rec) (lsrc len : Nat) (t : Thread) : Prop :=
  s.th.dsp.room 1 = true ∧
  (∀ n, q.cc = some n → s.th.cc[n]?.getD 0 ≠ 0xFFFF) ∧
  (∀ n, q.fixedLen = some n → lsrc = 5 ∧ len = n ∧ t = s.th) ∧
  (q.fixedLen = none → s.th.takeLen ls = .ok (lsrc, len, t)) ∧
  (∀ l k, q.reserve = some (l, k) → (s.th.lq l).slots.length + k ≤ 16) ∧
  q.parts ≤ s.th.rcp.free ∧
  s.th.aritUsed + aritNeed s q lsrc len ≤ 64 ∧
  (∀ f, q.own = some f → f (knownLen lsrc len) = true) ∧
  (q.own = none →
    s.th.rcp.lengthsOk (q.sa.toList ++ q.sb.toList ++ q.sc.toList ++ q.sk.toList) (knownLen lsrc len) = true)

/-- The words of two vector sources of one type under a mask (R211, R214, R218). -/
def binaryWord (i : Instr) : Option FX :=
  match i with
  | .vadd f | .vsub f | .vmul f | .vdiv f | .vmin f | .vmax f | .vmulh f | .vand f | .vor f | .vxor f | .vshl f | .vshr f
  | .vcmp f => some f
  | _ => none

/-- R61: the slots of a pair word. -/
def pairOf (i : Instr) : Option (Slot × Slot) :=
  match i with
  | .addSlot a u => some (⟨0x00, a⟩, u)
  | .subSlot a u => some (⟨0x01, a⟩, u)
  | .andSlot a u => some (⟨0x02, a⟩, u)
  | .orSlot a u => some (⟨0x03, a⟩, u)
  | .xorSlot a u => some (⟨0x04, a⟩, u)
  | .shlSlot a u => some (⟨0x05, a⟩, u)
  | .shrSlot a u => some (⟨0x06, a⟩, u)
  | .sraSlot a u => some (⟨0x07, a⟩, u)
  | .addiSlot a u => some (⟨0x08, a⟩, u)
  | .shliSlot a u => some (⟨0x09, a⟩, u)
  | .shriSlot a u => some (⟨0x0A, a⟩, u)
  | .sltSlot a u => some (⟨0x0B, a⟩, u)
  | .minmaxSlot a u => some (⟨0x0C, a⟩, u)
  | .mulSlot a u => some (⟨0x0D, a⟩, u)
  | .faddSlot a u => some (⟨0x0E, a⟩, u)
  | .fmulSlot a u => some (⟨0x0F, a⟩, u)
  | .fminmaxSlot a u => some (⟨0x10, a⟩, u)
  | .nopSlot a u => some (⟨0x11, a⟩, u)
  | .vaddSlot a u => some (⟨0x12, a⟩, u)
  | .vsubSlot a u => some (⟨0x13, a⟩, u)
  | .vmulSlot a u => some (⟨0x14, a⟩, u)
  | .vminSlot a u => some (⟨0x15, a⟩, u)
  | .vmaxSlot a u => some (⟨0x16, a⟩, u)
  | .vandSlot a u => some (⟨0x17, a⟩, u)
  | .vorSlot a u => some (⟨0x18, a⟩, u)
  | .vxorSlot a u => some (⟨0x19, a⟩, u)
  | .vshliSlot a u => some (⟨0x1A, a⟩, u)
  | .vshriSlot a u => some (⟨0x1B, a⟩, u)
  | .vaddsSlot a u => some (⟨0x1C, a⟩, u)
  | .vmulsSlot a u => some (⟨0x1D, a⟩, u)
  | .vmovSlot a u => some (⟨0x1E, a⟩, u)
  | .vunarySlot a u => some (⟨0x1F, a⟩, u)
  | _ => none

/-- R62: what a scalar slot writes, with the flags it raises; a NOP writes nothing. -/
def scalarSlot (u : Slot) (s : State) : Option (Option (BitVec 6 × W64) × Flags) :=
  let x := s.x u.args.d
  let y := s.x u.args.a
  let n := u.args.imm.toNat
  let put (v : W64) : Option (Option (BitVec 6 × W64) × Flags) := some (some (u.args.d, v), 0)
  let fp (r : FpRes) : Option (Option (BitVec 6 × W64) × Flags) := some (some (u.args.d, r.val), r.flags)
  match u.cop.toNat with
  | 0x00 => put (BitVec.ofNat 64 (x.toNat + y.toNat))
  | 0x01 => put (BitVec.ofInt 64 (x.toNat - y.toNat))
  | 0x02 => put (x &&& y)
  | 0x03 => put (x ||| y)
  | 0x04 => put (x ^^^ y)
  | 0x05 => put (BitVec.ofNat 64 (x.toNat * 2 ^ (y.toNat % 64)))
  | 0x06 => put (BitVec.ofNat 64 (x.toNat / 2 ^ (y.toNat % 64)))
  | 0x07 => put (BitVec.ofInt 64 (x.toInt / 2 ^ (y.toNat % 64)))
  | 0x08 => put (BitVec.ofInt 64 (x.toInt + u.args.imm.toInt))
  | 0x09 => put (BitVec.ofNat 64 (x.toNat * 2 ^ n))
  | 0x0A => put (BitVec.ofNat 64 (x.toNat / 2 ^ n))
  | 0x0B => put (if x.toInt < y.toInt then 1 else 0)
  | 0x0C => put (match n % 4 with
      | 0 => BitVec.ofInt 64 (min x.toInt y.toInt)
      | 1 => BitVec.ofInt 64 (max x.toInt y.toInt)
      | 2 => BitVec.ofNat 64 (min x.toNat y.toNat)
      | _ => BitVec.ofNat 64 (max x.toNat y.toNat))
  | 0x0D => put (BitVec.ofNat 64 (x.toNat * y.toNat))
  | 0x0E => fp (faddVal 0xA s.fctrl false x y)
  | 0x0F => fp (fmulVal 0xA s.fctrl x y)
  | 0x10 => fp (fminmaxVal 0xA (u.args.imm.getLsbD 0) x y)
  | 0x11 => some (none, 0)
  | _ => none

/-- The state with what a scalar slot writes. -/
def withSlot (s : State) (r : Option (BitVec 6 × W64)) : State :=
  match r with
  | some (d, v) => s.withX d v
  | none => s

/-- R62: a vector slot that records a node: the opcode and fields of the full word it stands for. -/
def slotOpcode (u : Slot) : Option Nat :=
  match u.cop.toNat with
  | 0x12 => some 0x40
  | 0x13 => some 0x41
  | 0x14 => some 0x42
  | 0x15 => some 0x45
  | 0x16 => some 0x46
  | 0x17 => some 0x48
  | 0x18 => some 0x49
  | 0x19 => some 0x4A
  | 0x1A => some 0x58
  | 0x1B => some 0x59
  | 0x1C => some 0x53
  | 0x1D => some 0x54
  | 0x1E => some 0x5F
  | 0x1F => some 0x47
  | _ => none

end Sys2Proof.Spec

/-- R12, R25, R43, R156, R185, R188, R200, R204: a recording word whose request is accepted makes its node and takes a
dispatch entry, both holding the word and the values captured at issue, binds its name, raises its counter, and goes on to
the next word. No x register, no state register and no byte of memory changes: nothing is computed yet. -/
def Sys2Proof.Spec.RecordingWordsRecord : Prop :=
  ∀ (i : Instr) (s : State) (ls : Nat) (q : Rec) (lsrc len : Nat) (t0 : Thread), i.wf = true →
    Spec.recordingOf i s = some (ls, .ok q) → Spec.Accepted s ls q lsrc len t0 →
    s.th.rcp.budget ≤ 256 →
    ∃ t e, exec i s = .next t ∧ t.th.dsp.queue = s.th.dsp.queue ++ [e] ∧ t.th.dsp.nextSeq = s.th.dsp.nextSeq + 1 ∧
      e.word = q.word ∧ encode i = some e.word ∧
      e.serial = (q.isRoot && s.th.sr.recipemode.getLsbD 0) ∧ e.nojoin = (q.isRoot && s.th.sr.recipemode.getLsbD 1) ∧
      e.rseed = s.th.sr.rseed ∧ e.aw = q.arrival.getD 0 ∧ e.pc = s.th.pc ∧ e.a = q.va ∧ e.b = q.vb ∧ e.c = q.vc ∧
      e.d = q.d ∧ e.fctrl = s.th.sr.fctrl.setWidth 13 ∧
      e.stepno = s.task.stepno ∧ e.smode = s.th.smode ∧ e.lsrc = lsrc ∧ e.len = len ∧ e.seq = s.th.dsp.nextSeq ∧
      (q.parts = 0 → e.node = none) ∧
      (1 ≤ q.parts → ∃ n, e.node = some n.idx ∧ (∀ m ∈ s.th.rcp.nodes, m.idx ≠ n.idx) ∧ n.word = q.word ∧
        n.pc = s.th.pc ∧ n.sa = q.sa ∧ n.sb = q.sb ∧ n.sc = q.sc ∧ n.sk = q.sk ∧
        (n.va, n.vb, n.vc) = q.caps.getD (q.va, q.vb, q.vc) ∧ n.fctrl = s.th.sr.fctrl.setWidth 13 ∧
        n.rseed = s.th.sr.rseed ∧ n.lsrc = lsrc ∧
        n.smode = s.th.smode ∧
        (n.isRoot = true → n ∈ t.th.rcp.nodes) ∧
        (∀ d, q.dest = some d → q.leafDest = none → d < 64 → n ∈ t.th.rcp.nodes ∧ t.th.rcp.vnames[d]? = some (some n.idx)) ∧
        (∀ d, q.kdest = some d → q.ovf = none → d ≠ 0 → d < 8 →
          n ∈ t.th.rcp.nodes ∧ t.th.rcp.knames[d]? = some (some n.idx))) ∧
      (∀ d, q.dest ≠ some d → q.leafDest ≠ some d → t.th.rcp.vnames[d]? = s.th.rcp.vnames[d]?) ∧
      (∀ d, q.kdest ≠ some d → q.ovf ≠ some d → t.th.rcp.knames[d]? = s.th.rcp.knames[d]?) ∧
      (q.cc = none → t.th.cc = s.th.cc) ∧
      (∀ n, q.cc = some n → t.th.cc = s.th.cc.setIfInBounds n (s.th.cc[n]?.getD 0 + 1)) ∧
      t.th.pc = s.th.pc + 8 ∧ t.th.xs = s.th.xs ∧ t.th.sr = s.th.sr ∧ t.th.tr = s.th.tr ∧ t.rest = s.rest ∧
      t.tasks = s.tasks ∧ t.mem = s.mem

/-- R12, R64, R185, R188: a recording word that is not accepted: a full queue keeps it waiting and no fault arises; with room,
an operand its entry refuses faults with the cause, too few free nodes fault with RECIPE_CAPACITY, and a known length that
does not agree with a source's faults with LENGTH_MISMATCH; nothing is recorded. A VTB whose block is misaligned names its
address. -/
def Sys2Proof.Spec.RecordingWordsThatCannotRecord : Prop :=
  ∀ (i : Instr) (s : State) (ls : Nat),
    (∀ r, Spec.recordingOf i s = some (ls, r) → s.th.dsp.room 1 = false → s.th.fe.wait = none →
      exec i s = .next (Spec.waiting s .drain 0)) ∧
    (∀ c, s.th.dsp.room 1 = true → Spec.recordingOf i s = some (ls, .error c) →
      ∃ t, exec i s = .next t ∧ Spec.Trapped s t c 0 0) ∧
    (∀ q, Spec.recordingOf i s = some (ls, .ok q) →
      (s.th.dsp.room 1 = true → q.cc = none → q.reserve = none → q.fixedLen = none → ls = 0 → s.th.rcp.free < q.parts →
        ∃ t, exec i s = .next t ∧ Spec.Trapped s t 0x0F 0 0) ∧
      (∀ j n k, s.th.dsp.room 1 = true → q.cc = none → q.reserve = none → q.fixedLen = none → q.own = none → ls = 0 →
        q.parts ≤ s.th.rcp.free → s.th.aritUsed + Spec.aritNeed s q 0 (s.th.sr.vl.toNat % 2 ^ 48) ≤ 64 →
        q.sa = some j → s.th.rcp.node? j = some n → n.known = some k → k ≠ s.th.sr.vl.toNat % 2 ^ 48 →
        ∃ t, exec i s = .next t ∧ Spec.Trapped s t 0x10 0 0)) ∧
    (∀ f : FM, s.recTb f = .error 0x05 →
      (s.th.dsp.room 1 = true → ∃ t, exec (.vtb f) s = .next t ∧ Spec.Trapped s t 0x05 0 (Spec.addressOf f s)) ∧
      (s.th.dsp.room 1 = false → s.th.fe.wait = none → exec (.vtb f) s = .next (Spec.waiting s .drain 0)))

/-- R183 to R188: recording, and why it may not happen. -/
def Obligations.RecordingWords : Prop := Spec.RecordingWordsRecord ∧ Spec.RecordingWordsThatCannotRecord

/-- R185, R187, R207, R211: a word of two vector sources names the nodes bound to vA and vB, each of the word's type, and the
mask bound to its K (none for k0); a name with no binding, or bound to a node of another type, faults with OPERAND_RANGE
where the dispatch queue has room; where it has none the word is not ready, and raises no fault (R12, R134). -/
def Obligations.VectorWordsNameTheirSources : Prop :=
  ∀ (i : Instr) (f : FX) (s : State), Spec.binaryWord i = some f →
    (∀ ia ib (na nb : Node), s.th.rcp.vnames[f.a.toNat]? = some (some ia) → s.th.rcp.node? ia = some na →
      na.nty = .elem f.ty.toNat → s.th.rcp.vnames[f.b.toNat]? = some (some ib) → s.th.rcp.node? ib = some nb →
      nb.nty = .elem f.ty.toNat →
      (f.k = 0 → ∃ q, Spec.recordingOf i s = some (f.ls.toNat, .ok q) ∧ q.sa = some ia ∧ q.sb = some ib ∧ q.sk = none ∧
        q.parts = 1 ∧ encode i = some q.word) ∧
      (∀ ik nk, f.k ≠ 0 → s.th.rcp.knames[f.k.toNat]? = some (some ik) → s.th.rcp.node? ik = some nk → nk.nty = .mask →
        ∃ q, Spec.recordingOf i s = some (f.ls.toNat, .ok q) ∧ q.sa = some ia ∧ q.sb = some ib ∧ q.sk = some ik ∧
          q.parts = 1 ∧ encode i = some q.word)) ∧
    (s.th.dsp.room 1 = false → s.th.fe.wait = none → exec i s = .next (Spec.waiting s .drain 0)) ∧
    (s.th.dsp.room 1 = true → s.th.rcp.vnames[f.a.toNat]? = some none ∨ s.th.rcp.vnames[f.b.toNat]? = some none ∨
        (∃ ia na, s.th.rcp.vnames[f.a.toNat]? = some (some ia) ∧ s.th.rcp.node? ia = some na ∧
          na.nty ≠ .elem f.ty.toNat) ∨
        (∃ ib nb, s.th.rcp.vnames[f.b.toNat]? = some (some ib) ∧ s.th.rcp.node? ib = some nb ∧
          nb.nty ≠ .elem f.ty.toNat) ∨
        (f.k ≠ 0 ∧ s.th.rcp.knames[f.k.toNat]? = some none) ∨
        (∃ ik nk, f.k ≠ 0 ∧ s.th.rcp.knames[f.k.toNat]? = some (some ik) ∧ s.th.rcp.node? ik = some nk ∧
          nk.nty ≠ .mask) →
      ∃ t, exec i s = .next t ∧ Spec.Trapped s t 0x04 0 0)

/-- R62 to R64: a pair word of two scalar slots that raise no enabled flag writes both results, each slot reading what stood
before the word, and goes on; one that raises an enabled flag faults and writes nothing. -/
def Sys2Proof.Spec.ScalarPairWords : Prop :=
  ∀ (i : Instr) (s : State) (u0 u1 : Slot) (r0 r1 : Option (BitVec 6 × W64)) (g0 g1 : Flags), i.wf = true →
    Spec.pairOf i = some (u0, u1) → Spec.scalarSlot u0 s = some (r0, g0) → Spec.scalarSlot u1 s = some (r1, g1) →
    s.th.dsp.room 0 = true →
    ((∀ k < 5, (g0 ||| g1).getLsbD k = true → s.th.sr.fctrl.getLsbD (8 + k) = false) →
      exec i s = .next (Spec.withFlags (Spec.withSlot (Spec.withSlot s r0) r1).passed (g0 ||| g1))) ∧
    ((∃ k < 5, (g0 ||| g1).getLsbD k = true ∧ s.th.sr.fctrl.getLsbD (8 + k) = true) →
      ∃ t, exec i s = .next t ∧ t.th.tr.trapcause = 0x12 ∧ t.th.tr.trappc = s.th.pc ∧ t.th.xs = s.th.xs ∧
        t.th.sr = s.th.sr ∧ t.mem = s.mem)

/-- R62, R64: a pair word whose slot 0 is a vector slot beside a scalar slot that raises no flag: the vector slot takes one
entry of the queue, with the full word it stands for and slot number 0, the scalar slot writes its result, and the word goes
on. VMOV makes no node; any other takes one. -/
def Sys2Proof.Spec.VectorSlotsTakeOneEntry : Prop :=
  ∀ (i : Instr) (s s1 : State) (u0 u1 : Slot) (r1 : Option (BitVec 6 × W64)) (opc : Nat), i.wf = true →
    Spec.pairOf i = some (u0, u1) → Spec.slotOpcode u0 = some opc → Spec.scalarSlot u1 s = some (r1, 0) →
    s.th.dsp.room 1 = true → 1 ≤ s.th.rcp.free → s.slotRun u0 0 = .ok s1 →
    ∃ t e, exec i s = .next t ∧ t.th.dsp.queue = s.th.dsp.queue ++ [e] ∧ e.pc = s.th.pc ∧ e.slot = false ∧
      e.word.toNat / 2 ^ 55 = opc ∧ (e.node = none ↔ opc = 0x5F) ∧
      t.th.pc = s.th.pc + 8 ∧ t.th.xs = (Spec.withSlot s r1).th.xs ∧ t.th.sr = s.th.sr ∧ t.mem = s.mem

/-- R61 to R63, R135, R136: pair words of scalar and of vector slots. -/
def Obligations.PairWords : Prop := Spec.ScalarPairWords ∧ Spec.VectorSlotsTakeOneEntry

/-! ### VPASS, VMOV, LQOP, VLDX, lane words -/

/-- R189, R241, R243, R244: VPASS takes an entry of the queue, and with `.wait` holds the issue of its mode; VMOV binds D to A's
node, makes no node and takes an entry; LQOP push reserves and fills a slot, pop takes the oldest untaken slot, writes its
length to xD or waits until it is filled, and drop takes it; a pop or drop with no such slot, and a push to a full queue or
above 2^48 - 1, fault with OPERAND_RANGE. -/
def Sys2Proof.Spec.PassMoveAndLengthQueueWords : Prop :=
  ∀ (f : FX) (s : State),
    let l := s.th.lq (f.fn.toNat / 8 % 4)
    let n := f.fn.toNat / 8 % 4
    (s.th.dsp.room 1 = true → f.fn.getLsbD 0 = false →
      ∃ t e, exec (.vpass f) s = .next t ∧ t.th.dsp.queue = s.th.dsp.queue ++ [e] ∧ e.word = packX 0x6C f ∧ e.node = none ∧
        e.pc = s.th.pc ∧ t.th.pc = s.th.pc + 8 ∧ t.th.xs = s.th.xs ∧ t.th.sr = s.th.sr ∧ t.th.rcp = s.th.rcp ∧
        t.mem = s.mem) ∧
    (s.th.dsp.room 1 = true → Instr.wf (.vpass f) = true → f.fn.getLsbD 0 = true →
      ∃ t e, exec (.vpass f) s = .next t ∧ t.th.dsp.queue = s.th.dsp.queue ++ [e] ∧ e.word = packX 0x6C f ∧
        e.node = none ∧ e.smode = s.th.smode ∧ t.th.dsp.waitS = (s.th.smode || s.th.dsp.waitS) ∧
        t.th.dsp.waitU = (!s.th.smode || s.th.dsp.waitU) ∧
        (s.th.dsp.deferred = [] → s.th.dsp.stopped = none → t.th.serialHold = true) ∧
        t.th.dsp.pass0 = s.th.dsp.pass0 ∧ t.th.dsp.pass1 = s.th.dsp.pass1 ∧ t.th.pc = s.th.pc + 8 ∧
        t.th.xs = s.th.xs ∧ t.th.rcp = s.th.rcp ∧ t.mem = s.mem) ∧
    (s.th.dsp.room 1 = true →
      ∃ t e, exec (.vmov f) s = .next t ∧ t.th.dsp.queue = s.th.dsp.queue ++ [e] ∧ e.word = packX 0x5F f ∧ e.node = none ∧
        (f.fn.getLsbD 0 = false → t.th.rcp.vnames =
          s.th.rcp.vnames.setIfInBounds f.d.toNat (s.th.rcp.vnames[f.a.toNat]?.getD none) ∧
          t.th.rcp.knames = s.th.rcp.knames) ∧
        (f.fn.getLsbD 0 = true → f.d ≠ 0 → t.th.rcp.vnames = s.th.rcp.vnames ∧ t.th.rcp.knames =
          s.th.rcp.knames.setIfInBounds f.d.toNat (if f.a = 0 then none else s.th.rcp.knames[f.a.toNat]?.getD none)) ∧
        (∀ m ∈ t.th.rcp.nodes, m ∈ s.th.rcp.nodes) ∧
        t.th.pc = s.th.pc + 8 ∧ t.th.xs = s.th.xs ∧ t.th.sr = s.th.sr ∧ t.mem = s.mem) ∧
    ((s.x f.a).toNat < 2 ^ 48 → l.slots.length < 16 →
      ∃ t d, exec (.lqopPush f) s = .next t ∧ d < 16 ∧ (t.th.lq n).next = ((l.next + d) % 16 + 1) % 16 ∧
        (∀ u ∈ l.slots, u.no ≠ (l.next + d) % 16) ∧ (∀ j < d, ∃ u ∈ l.slots, u.no = (l.next + j) % 16) ∧
        (t.th.lq n).slots.getLast? = some ⟨(l.next + d) % 16, false, some (s.x f.a).toNat⟩ ∧
        (∀ u ∈ l.slots, u.taken = false ∨ u.filled = none → u ∈ (t.th.lq n).slots) ∧
        t.th.pc = s.th.pc + 8 ∧ t.th.xs = s.th.xs ∧ t.th.sr = s.th.sr ∧ t.mem = s.mem) ∧
    (2 ^ 48 ≤ (s.x f.a).toNat ∨ 16 ≤ l.slots.length → ∃ t, exec (.lqopPush f) s = .next t ∧ Spec.Trapped s t 0x04 0 0) ∧
    (l.slots.find? (fun u => !u.taken) = none → ∀ i, i = .lqopPop f ∨ i = .lqopDrop f →
      ∃ t, exec i s = .next t ∧ Spec.Trapped s t 0x04 0 0) ∧
    (∀ u, l.slots.find? (fun u => !u.taken) = some u →
      (∀ k, u.filled = some k → ∃ t, exec (.lqopPop f) s = .next t ∧
        t.th.xs = (s.withX f.d (BitVec.ofNat 64 k)).th.xs ∧ (∀ v ∈ (t.th.lq n).slots, v.no ≠ u.no ∨ v.filled = none) ∧
        t.th.pc = s.th.pc + 8 ∧ t.th.sr = s.th.sr ∧ t.mem = s.mem) ∧
      (u.filled = none → s.th.fe.wait = none → exec (.lqopPop f) s = .next (Spec.waiting s .lqPop 0)) ∧
      (∃ t, exec (.lqopDrop f) s = .next t ∧
        (∀ v ∈ (t.th.lq n).slots, v.no = u.no → v.taken = true ∧ v.filled = none) ∧
        t.th.pc = s.th.pc + 8 ∧ t.th.xs = s.th.xs ∧ t.th.sr = s.th.sr ∧ t.mem = s.mem))

/-- R247, log entry 18: LSTOP ends the thread's lane block; LFETCH moves its lane to a block inside the kernel's code, and
faults with OPERAND_RANGE at one outside; LBR's compare of integers of any type moves the lane to the target inside the
block where it holds, and to its next word where it does not; a target outside the block faults with ILLEGAL_ENCODING.
Nothing else of the thread changes. -/
def Sys2Proof.Spec.LaneControlWords : Prop :=
  ∀ (s : State),
    (∀ f : FJ, exec (.lstop f) s =
      .next ({ s with th := { s.th with lane := { s.th.lane with done := true } } } : State).passed) ∧
    (∀ f : FJ,
      let a := BitVec.ofInt 64 (s.th.lane.pc.toInt + 8 * f.imm.toInt)
      let n := f.d.toNat + 1
      let code := s.task.kernel.entry.toNat ≤ a.toNat ∧
        a.toNat + 8 * n ≤ s.task.kernel.entry.toNat + s.task.kernel.codelen
      (code → s.th.lane.fetches < 65536 → exec (.lfetch f) s =
        .next ({ s with th := { s.th with lane := { s.th.lane with
          pc := a, base := a, len := n, fetches := s.th.lane.fetches + 1 } } } : State).passed) ∧
      (¬ code → ∃ t, exec (.lfetch f) s = .next t ∧ Spec.Trapped s t 0x04 0 0) ∧
      (code → 65536 ≤ s.th.lane.fetches → ∃ t, exec (.lfetch f) s = .next t ∧ Spec.Trapped s t 0x13 0 0)) ∧
    (∀ f : FB, f.cnd = 6 →
      let a := BitVec.ofInt 64 (s.th.lane.pc.toInt + 8 * f.ofs.toInt)
      (s.th.lane.base.toNat ≤ a.toNat → a.toNat < s.th.lane.base.toNat + 8 * s.th.lane.len →
        exec (.lbr f) s = .next ({ s with th := { s.th with lane := { s.th.lane with pc := a } } } : State).passed)) ∧
    (∀ f : FB, f.fn.toNat % 16 < 8 →
      let x := extendTo64 (f.fn.toNat % 16) (s.th.lane.regs.getD f.a.toNat 0).toNat
      let y := extendTo64 (f.fn.toNat % 16) (s.th.lane.regs.getD f.b.toNat 0).toNat
      let a := BitVec.ofInt 64 (s.th.lane.pc.toInt + 8 * f.ofs.toInt)
      let inside := s.th.lane.base.toNat ≤ a.toNat ∧ a.toNat < s.th.lane.base.toNat + 8 * s.th.lane.len
      let moved (pc : W64) : State := { s with th := { s.th with lane := { s.th.lane with pc := pc } } }
      (¬ Spec.branchHolds f.cnd.toNat x y → exec (.lbr f) s = .next (moved (s.th.lane.pc + 8)).passed) ∧
      (Spec.branchHolds f.cnd.toNat x y → inside → exec (.lbr f) s = .next (moved a).passed) ∧
      (Spec.branchHolds f.cnd.toNat x y → ¬ inside → ∃ t, exec (.lbr f) s = .next t ∧ Spec.Trapped s t 0x01 0 0))

/-- R189, R241, R243, R244, R247: the words that launch, move names and handle length queues, and the lane blocks' own
words issued by the front end. -/
def Obligations.SequencerControlWords : Prop := Spec.PassMoveAndLengthQueueWords ∧ Spec.LaneControlWords

/-- R323: the bytes of a stream parameter block of which some field lies outside its values. -/
def Sys2Proof.Spec.BlockRefused (b : List Byte) : Prop :=
  let num (i n : Nat) : Nat := leNat ((b.drop i).take n)
  (∃ k, 38 ≤ k ∧ k < 64 ∧ b.getD k 0 ≠ 0) ∨ 3 < num 37 1 ∨ num 36 1 < 2 ∨ 7 < num 36 1 ∨
    ¬ (num 32 4 ∈ [1, 2, 4] ∨ (num 32 4 % 8 = 0 ∧ 8 ≤ num 32 4 ∧ num 32 4 ≤ 65536)) ∨
    num 24 8 = 0 ∨ 2 ^ 48 ≤ num 24 8 ∨ 2 ^ 48 ≤ num 16 8 ∨ num 8 8 % min (num 32 4) 8 ≠ 0 ∨
    num 0 8 % bytesOf (num 36 1) ≠ 0

/-- R229, R323, R326: VLDX reads its 64-byte parameter block as it issues; with a block in order it records a leaf whose
ranges are the indices and the table. A block with a field outside R323's values faults with OPERAND_RANGE, precisely
(R326); that one on a DEV page or one with SD does too is the model's reading of R323 and R326, log entry 77. With no room in
the dispatch queue the word is not ready, and raises no fault. -/
def Obligations.VldxRecordsFromItsBlock : Prop :=
  ∀ (f : FM) (s s1 : State) (k : Option Nat), s.ksrc f.k.toNat = .ok k →
    (s.th.dsp.room 1 = false → s.th.fe.wait = none → exec (.vldx f) s = .next (Spec.waiting s .drain 0)) ∧
    (∀ b t0 lsrc len,
      let q : Rec := { word := packM 0x61 f, sk := k, va := s.address f, dest := some f.d.toNat,
                       nodeRng := some ([b.indexRng b.count, b.tableRng], []) }
      s.blockAtIssue (s.address f) = .ok (b, s1) → Spec.Accepted s1 f.ls.toNat q lsrc len t0 → s.th.rcp.budget ≤ 256 →
      ∃ t e n, exec (.vldx f) s = .next t ∧ t.th.dsp.queue = s.th.dsp.queue ++ [e] ∧ e.word = packM 0x61 f ∧
        e.node = some n.idx ∧ n ∈ t.th.rcp.nodes ∧ n.va = s.address f ∧ n.reads = [b.indexRng b.count, b.tableRng] ∧
        n.writes = [] ∧ t.th.rcp.vnames[f.d.toNat]? = some (some n.idx) ∧ t.th.pc = s.th.pc + 8 ∧ t.th.xs = s.th.xs ∧
        t.th.sr = s.th.sr ∧ t.mem = s1.mem) ∧
    (∀ x : Xl, s.th.dsp.room 1 = true → s.sAccess 0 false (Spec.addressOf f s) 64 = .ok (x, s1) →
      (∀ p ∈ s.th.fe.posted, p.blocks (Spec.addressOf f s).toNat 64 false = false) →
      (leafCls x.leaf = 3 ∨ leafSd x.leaf = true → ∃ t, exec (.vldx f) s = .next t ∧ Spec.Trapped s t 0x04 0 0) ∧
      (leafCls x.leaf ≠ 3 → leafSd x.leaf = false → Spec.Available s x.pa → Spec.HostServes s1 x →
        isRegSpace (s1.readPa x) = false → s1.poisonIn (s1.readPa x) 64 = none →
        Spec.BlockRefused (s1.mem.readN (s1.readPa x) 64) →
        ∃ t, exec (.vldx f) s = .next t ∧ Spec.Trapped s t 0x04 0 0))

/-! ### Words that act on translations, pages, queues and the caches -/

/-- R104, R176: TLBINV in S mode drops the cached translations its kind names and no other, and changes nothing else but the
PC; while a posted store of any thread still goes by a translation it names, it waits. -/
def Sys2Proof.Spec.TlbinvDropsTranslations : Prop :=
  ∀ (f : FX) (s : State), s.th.smode = true → Instr.wf (.tlbinv f) = true →
    let first := (s.x f.a).toNat % 2 ^ 55
    let n := (s.x f.b).toNat
    let names (c : Ctx) (vpn : Nat) : Prop := c.part = s.task.part ∧ match f.fnAt 0 2 with
      | 0 => c.id = some s.task.ctxid ∧ n ≠ 0 ∧ first / 65536 ≤ vpn ∧ vpn ≤ (first + n - 1) / 65536
      | 1 => c.id = some s.task.ctxid
      | _ => True
    let used : Prop := ∃ u ∈ s.threads, ∃ p ∈ u.fe.posted, names (s.ctxOf u) (p.va % 2 ^ 55 / 65536)
    (¬ used → ∃ l, exec (.tlbinv f) s = .next ({ s with tlb := l } : State).passed ∧
      ∀ x, x ∈ l ↔ x ∈ s.tlb ∧ ¬ names x.ctx x.vpn) ∧
    (used → s.th.fe.wait = none → exec (.tlbinv f) s = .next (Spec.waiting s .drain 0))

/-- The words of an instruction that reach the link for what they do not change (R379): the thread, the others and memory
are as they were, and so are the tasks, their activity apart. -/
def Sys2Proof.Spec.Crossed (s u : State) : Prop :=
  u.th = s.th ∧ u.rest = s.rest ∧ u.mem = s.mem ∧ u.tasks.map Task.still = s.tasks.map Task.still

/-- R112, R115, R177: PGSET in S mode, with nothing of the thread outstanding, writes xB (or the leaf with WB set) as the leaf
of xA, drops every cached copy of it, and leaves the old leaf in xD; where it sets WB and a write through the old leaf is
left, it waits for that once the leaf is written. Where a live lease keeps the fields it would change it faults with
OPERAND_RANGE, and an address with no valid leaf with DATA_ACCESS. -/
def Obligations.PgsetChangesALeaf : Prop :=
  ∀ (f : FX) (s : State) (w : Walked), s.th.smode = true → s.th.fe.wait = none → Spec.Quiet s → s.channelsOut = [] →
    s.mem.wf = true → Spec.Open s →
    (Spec.Canonical (s.x f.a) → s.walk s.task.ptbase 0 (s.x f.a) = .ok w → w.leaf.getLsbD 0 = true →
      let size := if w.big then 2 ^ 29 else 2 ^ 16
      let first := (s.x f.a).toNat / size * size
      (∀ i new, (i = .pgsetSet f ∧ new = s.x f.b) ∨ (i = .pgsetWbset f ∧ new = w.leaf ||| 0x800) →
        ((w.leaf ^^^ new) &&& 0x3F1 = 0 ∨ s.leased first size = false) →
        ∃ t, exec i s = .next t ∧ t.mem.word w.leafPa = new ∧
          Spec.SameOutside s t w.leafPa 8 ∧ (∀ x ∈ t.tlb, x.leafPa ≠ w.leafPa) ∧
          (∀ x ∈ s.tlb, x.leafPa ≠ w.leafPa → x ∈ t.tlb) ∧ t.th.sr = s.th.sr ∧
          (s.writesThrough w.leafPa = false ∨ new.getLsbD 11 = false ∨ w.leaf.getLsbD 11 = true →
            t.th.xs = (s.withX f.d w.leaf).th.xs ∧ t.th.pc = s.th.pc + 8) ∧
          (s.writesThrough w.leafPa = true → new.getLsbD 11 = true → w.leaf.getLsbD 11 = false →
            t.th.xs = s.th.xs ∧ t.th.pc = s.th.pc ∧
            t.th.fe.wait = some ⟨s.th.pc, .pageTable, s.cal.tick, none, w.leaf.toNat⟩)) ∧
      ((w.leaf ^^^ s.x f.b) &&& 0x3F1 ≠ 0 → s.leased first size = true →
        ∃ t u, exec (.pgsetSet f) s = .next t ∧ Spec.Crossed s u ∧ Spec.Trapped u t 0x04 0 0)) ∧
    (∀ i, i = .pgsetSet f ∨ i = .pgsetWbset f ∨ i = .pgsetNorm f →
      ¬ Spec.Canonical (s.x f.a) ∨ (Spec.Canonical (s.x f.a) ∧ s.walk s.task.ptbase 0 (s.x f.a) = .ok w ∧
        w.leaf.getLsbD 0 = false) →
      ∃ t u, exec i s = .next t ∧ Spec.Crossed s u ∧ Spec.Trapped u t 0x08 0 (s.x f.a))

/-- R117: the committed half of a versioned page is H where STAG is the step's, and H xor the commit map's bit of STAG where
it is not; reads, the step's own included, go to it; a write that carries the current STEPNO goes to the other half, and one
that carries another goes nowhere. A page that is not versioned has one half. -/
def Sys2Proof.Spec.HalvesOfAVersionedPage : Prop :=
  ∀ (s : State) (x : Xl) (sw : W64),
    let e := s.mem.word x.leafPa
    let stag := e.extractLsb' 52 8
    let c : Bool := if stag = s.task.stepno.setWidth 8 then e.getLsbD 10
      else e.getLsbD 10 != s.task.cmap.getLsbD stag.toNat
    let half (h : Bool) : Nat := x.pa + (if h then 0x10000 else 0)
    s.task.committed e = c ∧
    (x.leaf.getLsbD 9 = false → s.readPa x = x.pa ∧ s.writePa x sw = some (x.pa, s)) ∧
    (x.leaf.getLsbD 9 = true → s.readPa x = half c ∧
      (sw ≠ s.task.stepno → s.writePa x sw = none) ∧
      (sw = s.task.stepno → s.mem.wf = true → s.channelsOut = [] → e.getLsbD 16 = false →
        (x.leafPa + 8 ≤ inHalf (leafFrame e) (!c) ∨ inHalf (leafFrame e) (!c) + 0x10000 ≤ x.leafPa) →
        ∃ s1, s.writePa x sw = some (half (!c), s1)))

/-- R117, R177: the first write of a step to a versioned page, and PGSET's normalise, copy the committed half of the page
onto the other and set STAG to the step and H to the committed half; no other byte and no other bit of the leaf changes. -/
def Sys2Proof.Spec.NormalisingCopiesAHalf : Prop :=
  ∀ (s : State) (leafPa : Nat),
    let e := s.mem.word leafPa
    let c := s.task.committed e
    let src := inHalf (leafFrame e) c
    let dst := inHalf (leafFrame e) (!c)
    let step := s.task.stepno.setWidth 8
    let Done (t : State) : Prop :=
      (∀ j < 0x10000, t.mem.read (dst + j) = s.mem.read (src + j)) ∧
      (t.mem.word leafPa).extractLsb' 52 8 = step ∧ (t.mem.word leafPa).getLsbD 10 = c ∧
      (∀ k < 64, k ≠ 10 → (k < 52 ∨ 60 ≤ k) → (t.mem.word leafPa).getLsbD k = e.getLsbD k) ∧
      (∀ a, ¬ (dst ≤ a ∧ a < dst + 0x10000) → ¬ (leafPa ≤ a ∧ a < leafPa + 8) → t.mem.read a = s.mem.read a)
    s.mem.wf = true → s.channelsOut = [] → e.getLsbD 16 = false → e.extractLsb' 52 8 ≠ step →
    (leafPa + 8 ≤ dst ∨ dst + 0x10000 ≤ leafPa) →
    (∀ k p, s.th.fe.posted[k]? = some p → p.leafPa = leafPa → leafVer p.leaf = true → p.stepno = s.task.stepno →
      s.shutAt p.pa = false → s.shutAt leafPa = false →
      ∃ t, exec (.versionedCopy k) s = .next t ∧ Done t ∧ t.th = s.th ∧ t.tasks = s.tasks) ∧
    (∀ f w, s.th.smode = true → s.th.fe.wait = none → Spec.Quiet s → Spec.Open s → Spec.Canonical (s.x f.a) →
      s.walk s.task.ptbase 0 (s.x f.a) = .ok w → w.leafPa = leafPa → w.leaf = e → e.getLsbD 0 = true →
      e.getLsbD 9 = true →
      ∃ t, exec (.pgsetNorm f) s = .next t ∧ Done t ∧ t.th.xs = (s.withX f.d e).th.xs ∧ t.th.pc = s.th.pc + 8)

/-- R117, R177: which half of a versioned page an access uses, and the copy of the committed half onto the other. -/
def Obligations.NormalisingCopiesTheCommittedHalf : Prop :=
  Spec.HalvesOfAVersionedPage ∧ Spec.NormalisingCopiesAHalf

/-- R122, R178: PGCNT in S mode: an address that is not a counted host page's faults with OPERAND_RANGE; with PGCTRBASE.EN = 0 the
result is 0 and memory is not touched; otherwise xD takes the page's 16-bit counter, and `.clr` sets it to 0, once no slot
keeps the counter's memory back (R367); a poisoned counter faults with DATA_POISON and stays as it is. -/
def Sys2Proof.Spec.PgcntReadsACounter : Prop :=
  ∀ (f : FX) (s : State), s.th.smode = true → s.mem.wf = true →
    let pa := (s.x f.a).toNat
    let good := pa % 65536 = 0 ∧ 2 ^ 51 ≤ pa ∧ pa < 2 ^ 51 + 2 ^ 40
    let at_ := leafFrame s.task.pgctrbase + 2 * (pa % 2 ^ 40 / 65536)
    (¬ good → ∃ t, exec (.pgcnt f) s = .next t ∧ Spec.Trapped s t 0x04 0 0) ∧
    (good → s.task.pgctrbase.getLsbD 0 = false → exec (.pgcnt f) s = .next (s.wrote f.d 0)) ∧
    (good → s.task.pgctrbase.getLsbD 0 = true → s.shutAt at_ = true → s.th.fe.wait = none →
      exec (.pgcnt f) s = .next (Spec.waiting s .drain 0)) ∧
    (good → s.task.pgctrbase.getLsbD 0 = true → s.shutAt at_ = false → s.poisoned at_ = true →
      ∃ t, exec (.pgcnt f) s = .next t ∧ Spec.Trapped s t 0x0A 3 (BitVec.ofNat 64 (at_ / 64 * 64))) ∧
    (good → s.task.pgctrbase.getLsbD 0 = true → s.channelsOut = [] → s.shutAt at_ = false → s.poisoned at_ = false →
      ∃ t, exec (.pgcnt f) s = .next t ∧ t.th.xs = (s.withX f.d (BitVec.ofNat 64 (leNat (s.mem.readN at_ 2)))).th.xs ∧
        t.mem.readN at_ 2 = (if f.fn.getLsbD 0 then [0, 0] else s.mem.readN at_ 2) ∧ Spec.SameOutside s t at_ 2 ∧
        t.th.pc = s.th.pc + 8 ∧ t.th.sr = s.th.sr)

/-- R176, R178: TLBINV and PGCNT. -/
def Obligations.TranslationAndCounterWords : Prop := Spec.TlbinvDropsTranslations ∧ Spec.PgcntReadsACounter

/-- R179, R180: NQPOST in S mode to a descriptor with room writes the 16-byte entry at RINGPA + 16·(PROD mod 2^SIZE) and adds
one to PROD; to a full one it adds one to DROPS and writes no entry. A KIND below 0x8000, or a SIZE outside 4 to 16, faults
with OPERAND_RANGE. -/
def Sys2Proof.Spec.NqpostPostsAnEntry : Prop :=
  ∀ (f : FM) (s s1 : State) (x : Xl), s.th.smode = true → s.th.fe.posted = [] →
    s.sAccess 1 false (Spec.addressOf f s) 64 = .ok (x, s1) → leafCls x.leaf = 2 → s1.channelsOut = [] →
    s.mem.wf = true → Spec.Available s x.pa → Spec.HostServes s1 x → isRegSpace (s1.readPa x) = false →
    s1.poisonIn (s1.readPa x) 64 = none →
    let nq := s1.readPa x
    let size := leNat (s1.mem.readN (nq + 8) 4)
    let prod := leNat (s1.mem.readN (nq + 16) 4)
    let cons := leNat (s1.mem.readN (nq + 24) 4)
    let at_ := leNat (s1.mem.readN nq 8) + 16 * (prod % 2 ^ size)
    let kind := (s.x f.d).toNat % 2 ^ 16
    (kind < 0x8000 ∨ size < 4 ∨ 16 < size → ∃ t, exec (.nqpost f) s = .next t ∧ Spec.Trapped s t 0x04 0 0) ∧
    (0x8000 ≤ kind → 4 ≤ size → size ≤ 16 → (at_ + 16 ≤ nq ∨ nq + 64 ≤ at_) →
      ((prod + 2 ^ 32 - cons) % 2 ^ 32 < 2 ^ size →
        ∃ t, exec (.nqpost f) s = .next t ∧ t.mem.word at_ = s.x f.d ∧ t.mem.word (at_ + 8) = s.x f.b ∧
          leNat (t.mem.readN (nq + 16) 4) = (prod + 1) % 2 ^ 32 ∧
          (∀ a, ¬ (at_ ≤ a ∧ a < at_ + 16) → ¬ (nq + 16 ≤ a ∧ a < nq + 20) → t.mem.read a = s1.mem.read a) ∧
          t.th.xs = s.th.xs ∧ t.th.pc = s.th.pc + 8) ∧
      (2 ^ size ≤ (prod + 2 ^ 32 - cons) % 2 ^ 32 →
        ∃ t, exec (.nqpost f) s = .next t ∧ t.mem.word (nq + 32) = s1.mem.word (nq + 32) + 1 ∧
          Spec.SameOutside s1 t (nq + 32) 8 ∧ t.th.xs = s.th.xs ∧ t.th.pc = s.th.pc + 8))

/-- R181: WAITI in S mode waits until PROD of the queue at NQBASE differs from what it was when the word issued, and then
writes 1; when its ticks pass first, the machine ends the wait with 0 and no fault. -/
def Sys2Proof.Spec.WaitiWaitsForANotification : Prop :=
  ∀ (f : FJ) (s : State), s.th.smode = true →
    let prod := leNat (s.mem.readN (s.task.nqbase.toNat + 16) 4)
    let ticks := if f.imm = 0 then s.th.sr.waitbudget.toNat % 2 ^ 48 else f.imm.toNat
    (s.th.fe.wait = none → exec (.waiti f) s = .next { s with th := { s.th with fe := { s.th.fe with
      wait := some ⟨s.th.pc, .notification, s.cal.tick, some ticks, prod⟩ } } }) ∧
    (∀ w, s.th.fe.wait = some w → w.pc = s.th.pc → w.kind = .notification →
      (prod ≠ w.aux → exec (.waiti f) s = .next (s.wrote f.d 1)) ∧
      (prod = w.aux → exec (.waiti f) s = .next s) ∧
      (∀ b, prod = w.aux → w.budget = some b → b ≤ s.cal.tick - w.since → s.th.run = .running →
        s.nextWord = .ok (.waiti f) → exec .waitiExpiry s = .next (s.wrote f.d 0)))

/-- R179 to R181: NQPOST and WAITI. -/
def Obligations.NotificationWords : Prop := Spec.NqpostPostsAnEntry ∧ Spec.WaitiWaitsForANotification

/-- R182: QCTL in S mode on a configured queue of the partition: `.rd` reads its pending records, weight, priority and whether
it fetches, which it does not while PROD is invalid (R342), `.stop` and `.start` change whether it fetches, `.setw` and
`.setp` its weight and priority, the old one in xD; only that queue changes. A queue that is not configured, a weight of 0 and
a priority above 3 fault. -/
def Obligations.QctlActsOnAQueue : Prop :=
  ∀ (f : FX) (s : State) (u : Queue), s.th.smode = true →
    let q := (s.x f.a).toNat
    let ops : List Instr := [.qctlRd f, .qctlStop f, .qctlStart f, .qctlSetw f, .qctlSetp f]
    let only (v : Queue) : List Queue := s.queues.map fun w => if w.part = u.part ∧ w.q = u.q then v else w
    (64 ≤ q ∨ s.queue? s.task.part q = none ∨ (s.queue? s.task.part q = some u ∧ u.conf.en = false) →
      ∀ i ∈ ops, ∃ t, exec i s = .next t ∧ Spec.Trapped s t 0x04 0 0) ∧
    (q < 64 → s.queue? s.task.part q = some u → u.conf.en = true → u.conf.weight < 256 → u.conf.prio < 4 →
      (∃ v : W64, exec (.qctlRd f) s = .next (({ s with queues := only u } : State).wrote f.d v) ∧
        v.toNat / 2 ^ 32 = (u.prod + 2 ^ 32 - u.cons) % 2 ^ 32 % 2 ^ 17 ∧ v.toNat / 2 ^ 8 % 2 ^ 8 = u.conf.weight ∧
        v.toNat / 2 ^ 4 % 2 ^ 4 = u.conf.prio ∧ v.toNat % 2 ^ 4 =
          (if u.fetching = true ∧ (u.prod + 2 ^ 32 - u.cons) % 2 ^ 32 ≤ 2 ^ u.conf.size then 1 else 0)) ∧
      exec (.qctlStop f) s = .next (({ s with queues := only { u with fetching := false } } : State).wrote f.d 0) ∧
      exec (.qctlStart f) s = .next (({ s with queues := only { u with fetching := true } } : State).wrote f.d 0) ∧
      ((s.x f.b).toNat % 256 ≠ 0 → exec (.qctlSetw f) s =
        .next (({ s with queues := only { u with conf := { u.conf with weight := (s.x f.b).toNat % 256 } } } : State).wrote f.d
          (BitVec.ofNat 64 u.conf.weight))) ∧
      ((s.x f.b).toNat % 256 = 0 → ∃ t, exec (.qctlSetw f) s = .next t ∧ Spec.Trapped s t 0x04 0 0) ∧
      ((s.x f.b).toNat < 4 → exec (.qctlSetp f) s =
        .next (({ s with queues := only { u with conf := { u.conf with prio := (s.x f.b).toNat } } } : State).wrote f.d
          (BitVec.ofNat 64 u.conf.prio))) ∧
      (4 ≤ (s.x f.b).toNat → ∃ t, exec (.qctlSetp f) s = .next t ∧ Spec.Trapped s t 0x04 0 0))

/-- R175, R332, R335: with nothing of the thread outstanding, CACHEOP `.iall` empties the pair's instruction cache, `.iinv`
drops the lines that the named bytes lie in and no other, and the thread fetches its next word again; while anything it has
dispatched, in either mode, or posted is not over, CACHEOP waits (log entries 7 and 57). STCFG gives the pair its stash ways,
xD the old number; CINV goes on. Each faults with OPERAND_RANGE above its limit, and no byte of memory changes. -/
def Obligations.CacheAndStashWords : Prop :=
  ∀ (s : State),
    (∀ f : FM, (f.fn.getLsbD 0 = true ∨ (s.x f.b).toNat ≤ 2 ^ 32) → s.th.fe.wait = none →
      (s.th.dsp.queue ≠ [] ∨ s.th.dsp.passes ≠ [] ∨ s.th.dsp.ops ≠ [] ∨ s.th.fe.posted ≠ []) →
      exec (.cacheop f) s = .next (Spec.waiting s .drain 0)) ∧
    (s.th.dsp.queue = [] → s.th.dsp.passes = [] → s.th.dsp.ops = [] → s.th.fe.posted = [] →
    (∀ f : FM, f.fn.getLsbD 0 = true → ∃ t, exec (.cacheop f) s = .next t ∧ t.pair.icache = [] ∧ t.th.fe.line = none ∧
      t.th.pc = s.th.pc + 8 ∧ t.th.xs = s.th.xs ∧ t.th.sr = s.th.sr ∧ t.mem = s.mem) ∧
    (∀ f : FM, f.fn.getLsbD 0 = false → (s.x f.b).toNat ≤ 2 ^ 32 →
      let a := (Spec.addressOf f s).toNat
      let named (line : Nat) : Prop := ∃ v w, a ≤ v ∧ v < a + (s.x f.b).toNat ∧
        s.walk s.task.ptbase 0 (BitVec.ofNat 64 v) = .ok w ∧ leafV w.leaf = true ∧
        s.readPa ⟨w.leafPa, w.leaf, leafAddr w (BitVec.ofNat 64 v)⟩ / 64 = line / 64
      ∃ t, exec (.cacheop f) s = .next t ∧ (∀ l ∈ t.pair.icache, l ∈ s.pair.icache) ∧
      (∀ l ∈ s.pair.icache, l.1 % 64 = 0 → (l ∈ t.pair.icache ↔ ¬ named l.1)) ∧ t.th.fe.line = none ∧
      t.th.pc = s.th.pc + 8 ∧ t.th.xs = s.th.xs ∧ t.th.sr = s.th.sr ∧ t.mem = s.mem) ∧
    (∀ f : FM, f.fn.getLsbD 0 = false → 2 ^ 32 < (s.x f.b).toNat →
      ∃ t, exec (.cacheop f) s = .next t ∧ Spec.Trapped s t 0x04 0 0) ∧
    (∀ f : FX, (s.x f.a).toNat ≤ 12 → s.pairShared = false → ∃ t, exec (.stcfg f) s = .next t ∧
      t.pair.ways = (s.x f.a).toNat ∧ t.th.xs = (s.withX f.d (BitVec.ofNat 64 s.pair.ways)).th.xs ∧
      (∀ k v, t.pair.slot k = some v → v.off + v.len ≤ 32768 * (s.x f.a).toNat ∧ s.pair.slot k = some v) ∧
      t.th.pc = s.th.pc + 8 ∧ t.th.sr = s.th.sr ∧ t.mem = s.mem) ∧
    (∀ f : FX, 12 < (s.x f.a).toNat ∨ s.pairShared = true →
      ∃ t, exec (.stcfg f) s = .next t ∧ Spec.Trapped s t 0x04 0 0) ∧
    (∀ f : FM, (s.x f.b).toNat ≤ 2 ^ 32 →
      s.th.meetArit (Rng.span (Spec.addressOf f s).toNat (s.x f.b).toNat) true true = .go →
      exec (.cinv f) s = .next s.passed) ∧
    (∀ f : FM, 2 ^ 32 < (s.x f.b).toNat → ∃ t, exec (.cinv f) s = .next t ∧ Spec.Trapped s t 0x04 0 0))

/-- R327, R329, R330: ARM sets an arrival word's TARGET from xB and its COUNT to 0, keeps GEN and arms it; ARWAIT reads GEN
into xD once it differs from xB and until then waits, bounded by WAITBUDGET. Only the word's 16 bytes change. -/
def Obligations.ArrivalWords : Prop :=
  ∀ (f : FM) (s s1 : State) (x : Xl), leafVer x.leaf = false → isRegSpace x.pa = false → Spec.HostServes s1 x →
    s.mem.wf = true → s1.channelsOut = [] → s1.poisonIn x.pa 16 = none →
    let old := leNat (s1.mem.readN x.pa 16)
    let gen := old / 2 ^ 64 % 2 ^ 32
    let v := (s.x f.b).toNat
    (s.arrivalOpen 3 (Spec.addressOf f s) = .ok (x, s1) → 0 < v → v < 2 ^ 32 →
      ∃ t, exec (.arm f) s = .next t ∧ leNat (t.mem.readN x.pa 16) = v + 2 ^ 64 * gen + 2 ^ 96 ∧
        Spec.SameOutside s1 t x.pa 16 ∧ t.th.xs = s.th.xs ∧ t.th.pc = s.th.pc + 8 ∧ Spec.SameThread s t) ∧
    (v = 0 ∨ 2 ^ 32 ≤ v → ∃ t, exec (.arm f) s = .next t ∧ Spec.Trapped s t 0x04 0 0) ∧
    (s.arrivalOpen 0 (Spec.addressOf f s) = .ok (x, s1) → v < 2 ^ 32 → gen ≠ v →
      ∃ t, exec (.arwait f) s = .next t ∧ t.th.xs = (s.withX f.d (BitVec.ofNat 64 gen)).th.xs ∧ t.mem = s1.mem ∧
        t.th.pc = s.th.pc + 8 ∧ Spec.SameThread s t) ∧
    (s.arrivalOpen 0 (Spec.addressOf f s) = .ok (x, s1) → v < 2 ^ 32 → gen = v → s.th.fe.wait = none →
      s.th.sr.waitbudget.toNat % 2 ^ 48 ≠ 0 → exec (.arwait f) s = .next (Spec.waitingFor s .arrival 0))

/-! ### Steps, tasks and contexts -/

/-- R118, R364: STEPCMT and STEPABT, with nothing of the thread outstanding, move the task to the next step: STEPNO goes up by
one, into xD; a commit sets the old step's bit of the commit map and STEPDONE; the new step's bit is cleared; no other bit
of the map changes. -/
def Sys2Proof.Spec.StepWordsAdvanceTheStep : Prop :=
  ∀ (f : FJ) (s : State) (i : Instr) (commit : Bool), (i = .stepcmt f ∧ commit = true) ∨ (i = .stepabt f ∧ commit = false) →
    s.th.smode = true ∨ s.task.record.sa = true → Spec.Quiet s → Spec.HasTask s →
    let old := s.task.stepno.toNat % 256
    let new := (s.task.stepno + 1).toNat % 256
    ∃ t, exec i s = .next t ∧ t.task.stepno = s.task.stepno + 1 ∧
      t.task.stepdone = (if commit then s.task.stepno else s.task.stepdone) ∧
      (∀ k < 256, t.task.cmap.getLsbD k =
        if k = new then false else if k = old ∧ commit = true then true else s.task.cmap.getLsbD k) ∧
      t.th.xs = (s.withX f.d (s.task.stepno + 1)).th.xs ∧ t.th.pc = s.th.pc + 8 ∧ t.th.sr = s.th.sr ∧ t.th.tr = s.th.tr ∧
      (∀ k ∈ s.tasks, k.id ≠ s.th.task → k ∈ t.tasks) ∧ t.mem = s.mem

/-- R360: TASKEND of a thread with no work left ends the thread with its status and discards its recipe; a nonzero status
becomes the task's when it has none. With work dispatched it waits; with roots pending it launches them first. `.all` in S
mode ends every thread of the task and abandons its work. -/
def Sys2Proof.Spec.TaskendEndsTheThread : Prop :=
  ∀ (f : FJ) (s : State), s.th.fe.wait = none →
    let status := f.imm.toNat % 2 ^ 15
    (f.imm.getLsbD 15 = false → s.th.hasPending = false → s.th.dsp.queue = [] → s.th.dsp.passes = [] → s.th.dsp.ops = [] →
      ∃ t, exec (.taskend f) s = .next t ∧ t.th.run = .ended ∧ t.th.endStatus = status ∧ t.th.rcp.nodes = [] ∧
        t.th.xs = s.th.xs ∧ t.th.fe.posted = s.th.fe.posted ∧ t.mem = s.mem ∧
        (Spec.HasTask s → t.task.status =
          if status ≠ 0 ∧ s.task.status = 0 then 0x8000 + status else s.task.status)) ∧
    (f.imm.getLsbD 15 = false → s.th.hasPending = false →
      s.th.dsp.queue ≠ [] ∨ s.th.dsp.passes ≠ [] ∨ s.th.dsp.ops ≠ [] →
      exec (.taskend f) s = .next (Spec.waiting s .taskEnd 0)) ∧
    (f.imm.getLsbD 15 = false → s.th.hasPending = true → s.th.dsp.room 1 = true →
      ∃ t e, exec (.taskend f) s = .next t ∧ t.th.dsp.queue = s.th.dsp.queue ++ [e] ∧ e.word = vpassWord ∧ e.pc = s.th.pc ∧
        e.smode = s.th.smode ∧ t.th.fe.wait = some ⟨s.th.pc, .taskEnd, s.cal.tick, none, 0⟩ ∧ t.th.run = s.th.run ∧
        t.th.pc = s.th.pc ∧ t.th.xs = s.th.xs ∧ t.th.sr = s.th.sr ∧ t.th.rcp = s.th.rcp ∧ t.mem = s.mem) ∧
    (f.imm.getLsbD 15 = true → s.th.smode = true →
      ∃ t, exec (.taskend f) s = .next t ∧ t.mem = s.mem ∧ (s.th.run ≠ .idle → t.th.run = .ended) ∧
        (∀ u ∈ t.rest, u.task = s.th.task → u.run = .idle ∨ (u.run = .ended ∧ u.dsp.queue = [] ∧ u.dsp.passes = [])))

/-- R118, R360, R364: STEPCMT, STEPABT and TASKEND. -/
def Obligations.StepAndTaskEndWords : Prop := Spec.StepWordsAdvanceTheStep ∧ Spec.TaskendEndsTheThread

/-- R362: LAUNCH copies the slot's bytes at its address into the queue's ring at PROD, leaves the old PROD in xD and adds one
to it; to a full queue it copies nothing and xD is all ones. A queue that is not configured or not LAUNCH-fed faults with
OPERAND_RANGE, and a U-mode word without ULAUNCH with PRIVILEGED; that OPERAND_RANGE comes first, in U mode without ULAUNCH
too, is the model's choice (log entry 94). -/
def Obligations.LaunchEnqueuesARecord : Prop :=
  ∀ (f : FM) (s s1 : State) (u : Queue) (b : List Byte), s.th.fe.wait = none →
    let q := (s.x f.b).toNat
    let slot := if u.conf.version1 then 192 else 256
    let at_ := u.conf.ringBase + slot * (u.prod % 2 ^ u.conf.size)
    (64 ≤ q ∨ s.queue? s.task.part (q % 64) = none → ∃ t, exec (.launch f) s = .next t ∧ Spec.Trapped s t 0x04 0 0) ∧
    (q < 64 → s.queue? s.task.part q = some u → u.conf.en = false ∨ u.conf.feedLaunch = false →
      ∃ t, exec (.launch f) s = .next t ∧ Spec.Trapped s t 0x04 0 0) ∧
    (q < 64 → s.queue? s.task.part q = some u → u.conf.en = true → u.conf.feedLaunch = true → s.th.smode = false →
      u.conf.ulaunch = false → ∃ t, exec (.launch f) s = .next t ∧ Spec.Trapped s t 0x03 0 0) ∧
    (q < 64 → s.queue? s.task.part q = some u → u.conf.en = true → u.conf.feedLaunch = true →
      s.th.smode = true ∨ u.conf.ulaunch = true → Spec.Quiet s → s1.channelsOut = [] → b.length = slot →
      s.mem.wf = true → Spec.Available s at_ →
      s.readRecord (slot / 64) (Spec.addressOf f s) = .ok (b, s1) →
      ((u.prod + 2 ^ 32 - u.cons) % 2 ^ 32 < 2 ^ u.conf.size →
        ∃ t, exec (.launch f) s = .next t ∧ t.mem.readN at_ slot = b ∧ Spec.SameOutside s1 t at_ slot ∧
          t.queue? u.part u.q = some { u with prod := (u.prod + 1) % 2 ^ 32 } ∧
          t.th.xs = (s.withX f.d (BitVec.ofNat 64 u.prod)).th.xs ∧ t.th.pc = s.th.pc + 8) ∧
      (2 ^ u.conf.size ≤ (u.prod + 2 ^ 32 - u.cons) % 2 ^ 32 →
        ∃ t, exec (.launch f) s = .next t ∧ t.mem = s1.mem ∧ t.queues = s1.queues ∧
          t.th.xs = (s.withX f.d 0xFFFFFFFFFFFFFFFF).th.xs ∧ t.th.pc = s.th.pc + 8))

/-- An image area of whole pages that are not versioned, each in a frame of its own. -/
def Sys2Proof.Spec.PlainArea (s : State) (ar : Area) : Prop :=
  s.mem.wf = true ∧ s.channelsOut = [] ∧ (ar.map fun x => x.pa).Nodup ∧
    ∀ x ∈ ar, x.leaf.getLsbD 9 = false ∧ x.pa % 65536 = 0 ∧ x.pa ≠ 0 ∧ isRegSpace x.pa = false

/-- R361: YIELD writes 1 and sets its task on its way to a pre-emption when a ready record could take a place of it, and
writes 0 otherwise; nothing else of the thread changes but the PC. -/
def Sys2Proof.Spec.YieldCompletes : Prop :=
  ∀ (f : FJ) (s : State),
    (s.yieldsTo = false → exec (.yield f) s = .next (s.wrote f.d 0)) ∧
    (s.yieldsTo = true → Spec.HasTask s → ∃ t, exec (.yield f) s = .next t ∧ t.th = (s.wrote f.d 1).th ∧
      (s.task.state = .running → t.task.state = .leaving) ∧ t.mem = s.mem)

/-- R32, R168 to R170, R204: what CTXSV writes into the first page of its area, which lies at `base`: the header, FULL telling
whether the area is another than CTXAREA's, PC from TRAPPC, MODE U and SEQ one more than it was; the U-mode state registers;
the progress records of the two pass slots; the bindings. The x-register region keeps its bytes. -/
def Sys2Proof.Spec.ImageWritten (s t : State) (a : W64) (base seq : Nat) : Prop :=
  let num (off n : Nat) : Nat := leNat (t.mem.readN (base + off) n)
  let tr := s.th.tr
  let pass (off : Nat) (o : Option Pass) : Prop := match o with
    | none => num (off + 20) 1 = 0
    | some p => num off 8 = p.pc.toNat ∧ num (off + 8) 8 = p.start % 2 ^ 64 ∧ num (off + 16) 4 = p.p % 2 ^ 32 ∧
        num (off + 20) 1 = 1
  num 0 4 = 0x58544346 ∧ num 4 1 = 1 ∧ num 5 1 = (if a = tr.ctxarea then 0 else 1) ∧ num 6 2 = s.th.tileCount ∧
  num 8 8 = tr.trappc.toNat ∧ num 18 2 = 0 ∧
  (∀ m : Fin 8, num (20 + 2 * m.val) 2 = (s.th.tiles[m.val]).hwm % 2 ^ 16) ∧
  num 36 4 = 0 ∧ num 40 8 = s.th.sr.coord.toNat ∧ num 48 4 = s.th.sr.shape.toNat % 2 ^ 32 ∧
  num 52 4 = s.th.sr.stage.toNat % 2 ^ 32 ∧ num 56 8 = s.task.ctxid.toNat ∧ num 64 8 = s.task.stepno.toNat ∧
  num 72 8 = s.task.stepdone.toNat ∧ num 80 32 = s.task.cmap.toNat ∧
  num 112 8 = tr.trapvec.toNat ∧ num 120 8 = tr.trappc.toNat ∧ num 128 8 = tr.trapcause.toNat ∧
  num 136 8 = tr.traproot.toNat ∧ num 144 8 = tr.trapnode.toNat ∧ num 152 8 = tr.trapelem.toNat ∧
  num 160 8 = tr.trapaddr.toNat ∧ num 168 8 = tr.trapstat.toNat ∧ num 176 16 = 0 ∧ num 192 8 = (seq + 1) % 2 ^ 64 ∧
  num 200 56 = 0 ∧
  (∀ n < 0x80, n ≠ 0x00E → ∀ v, Spec.stateRegister t n = some v → num (0x200 + 8 * n) 8 = v.toNat) ∧
  (∀ v, Spec.stateRegister s 0x00E = some v → num 0x270 8 = v.toNat) ∧
  pass 0x600 s.th.dsp.pass0 ∧ pass 0x620 s.th.dsp.pass1 ∧
  (∀ i < 64, num (0x1000 + 2 * i) 2 = ((s.th.rcp.vnames[i]?.getD none).getD 0xFFFF) % 2 ^ 16) ∧
  (∀ k, 1 ≤ k → k < 8 → num (0x107E + 2 * k) 2 = ((s.th.rcp.knames[k]?.getD none).getD 0xFFFF) % 2 ^ 16)

/-- R31, R32, R170: CTXSV in S mode stops the thread's U-mode work where it stands, writes the image, leaves the area's
address in CTXAREA and everything saved clean, and goes on. -/
def Sys2Proof.Spec.CtxsvWritesTheImage : Prop :=
  ∀ (f : FM) (s s1 : State) (ar : Area), s.th.smode = true →
    let a := Spec.addressOf f s
    s.contextArea a 1 = .ok (ar, s1) →
    ∃ t, exec (.ctxsv f) s = .next t ∧ t.th.tr = { s.th.tr with ctxarea := a } ∧ t.th.dsp.paused = true ∧
      (∀ p, t.th.dsp.pass0 = some p → p.halted = true) ∧ (∀ p, t.th.dsp.pass1 = some p → p.halted = true) ∧
      (∀ o, t.th.dsp.matrix = some o → o.halted = true) ∧ (∀ o, t.th.dsp.ssb = some o → o.halted = true) ∧
      (∀ o, t.th.dsp.copy = some o → o.halted = true) ∧
      (∀ m : Fin 8, (t.th.tiles[m.val]).dirty = false) ∧ t.th.ssb.dirty = false ∧
      t.th.xs = s.th.xs ∧ t.th.smode = true ∧ t.th.pc = s.th.pc + 8 ∧
      (Spec.PlainArea s1 ar → ∀ x, ar.head? = some x →
        Spec.ImageWritten s t a x.pa (leNat (s1.mem.readN (x.pa + 192) 8)) ∧
        t.mem.readN (x.pa + 0x100) 0x100 = s1.mem.readN (x.pa + 0x100) 0x100)

/-- R31, R170, R361: YIELD; CTXSV, which writes the image; CTXRS from an image in order, which loads the state registers, the
step's header words and every trap register from it, TRAPPC from its PC, with PM U and with STOP set where a progress record
is in use, sets CTXAREA, keeps COORD, SHAPE and STAGE, and leaves U-mode work stopped until TRET. None of them writes another
x register. That reserved bits of TRAPVEC, TRAPPC, TRAPCAUSE and TRAPSTAT are loaded as 0 is the model's reading, log entry
73, and so is that the header's CTXID and step words are loaded, log entry 42. -/
def Obligations.YieldAndContextWords : Prop :=
  Spec.YieldCompletes ∧ Spec.CtxsvWritesTheImage ∧
  (∀ (f : FM) (s s1 : State) (ar : Area), s.th.smode = true →
    let a := Spec.addressOf f s
    (a.toNat % 65536 ≠ 0 → (∃ t, exec (.ctxsv f) s = .next t ∧ Spec.Trapped s t 0x05 1 a) ∧
      (∃ t, exec (.ctxrs f) s = .next t ∧ Spec.Trapped s t 0x05 0 a)) ∧
    (s.contextArea a 0 = .ok (ar, s1) → s1.imageBad a ar = none →
      headerOk (s1.areaRead ar 0 256) s.th.tileCount = true →
      recordsOk (nodeRecords (s1.areaRead ar 0x2000 16384)) = true →
      ∃ t, exec (.ctxrs f) s = .next t ∧ t.th.tr.ctxarea = a ∧
        (let w (i : Nat) : W64 := wordOf (s1.areaRead ar 0 256) i
         t.th.tr.trapvec = w 112 &&& ~~~7 ∧ t.th.tr.trappc = w 8 &&& ~~~7 ∧ t.th.tr.trapcause = w 128 &&& 0xF3F ∧
         t.th.tr.traproot = w 136 ∧ t.th.tr.trapnode = w 144 ∧ t.th.tr.trapelem = w 152 ∧ t.th.tr.trapaddr = w 160 ∧
         let used : Prop := ∃ i < 16, fieldOf (s1.areaRead ar 0x600 512) (32 * i + 20) 1 ≠ 0
         (used → t.th.tr.trapstat = (w 168 &&& 0xFBC0) ||| 0x200) ∧ (¬ used → t.th.tr.trapstat = w 168 &&& 0xFBC0) ∧
         (Spec.HasTask s → t.task.ctxid = w 56 ∧ t.task.stepno = w 64 ∧ t.task.stepdone = w 72)) ∧
        (let v (n : Nat) : W64 := wordOf (s1.areaRead ar 0x200 1024) (8 * n)
         t.th.sr.vl = v 0 &&& 0xFFFFFFFFFFFF ∧ t.th.sr.fctrl = v 6 &&& 0x1F07 ∧ t.th.sr.fstatus = v 7 &&& 0x1F ∧
         t.th.sr.rseed = v 8 ∧ t.th.sr.waitbudget = v 0x40 &&& 0xFFFFFFFFFFFF) ∧
        t.th.sr.coord = s.th.sr.coord ∧ t.th.sr.shape = s.th.sr.shape ∧ t.th.sr.stage = s.th.sr.stage ∧
        t.th.dsp.paused = true ∧ t.th.xs = s.th.xs ∧ t.th.smode = true ∧ t.th.pc = s.th.pc + 8))

/-! ### Steps of the machine itself: fetch, delivery, the sequencer and the engines -/

/-- R112, R131, R150, R155, R313, R379: an instruction line arrives with the 64 bytes of memory at the PC's line, or those the
pair's cache of 64 KiB holds, or with the fault its translation met, which the word at the PC will take, unless in U mode it
lies outside the execute range, which ends the task with nothing translated or read; a load's data returns, with it the
answer on the link and the counts it kept back; a back-off ends; a bounded wait whose budget has run out faults. -/
def Obligations.FrontEndSteps : Prop :=
  (∀ (s : State), s.th.run = .running → s.th.lineHere = false →
    (¬ Spec.Canonical s.th.pc → ∃ t l, exec .instructionFetch s = .next t ∧ t.th.fe.line = some l ∧
      l.va = s.th.pc.toNat / 64 * 64 ∧ l.bad = some (TrapInfo.at 0x06 2 s.th.pc) ∧ t.mem = s.mem) ∧
    (Spec.Canonical s.th.pc → s.th.smode = false → s.task.inCode s.th.pc.toNat 8 = false →
      ∃ l, exec .instructionFetch s = .next { s with th := { s.th with fe := { s.th.fe with line := some l } } } ∧
        l.bad.isSome = true) ∧
    (∀ (x : Xl) (s1 : State), Spec.Canonical s.th.pc → s.th.smode = true ∨ s.task.inCode s.th.pc.toNat 8 = true →
      s.translate s.ctx s.th.smode 2 (BitVec.ofNat 64 (s.th.pc.toNat / 64 * 64)) = .ok (x, s1) →
      s1.poisoned (s1.readPa x) = false → Spec.Available s (s1.readPa x) → Spec.HostServes s1 x →
      ∃ t l, exec .instructionFetch s = .next t ∧ t.th.fe.line = some l ∧ l.va = s.th.pc.toNat / 64 * 64 ∧
        l.pa = s1.readPa x ∧ l.bad = none ∧ l.poisoned = false ∧
        (∀ b, (s1.readPa x, b) ∈ s1.pair.icache → ∃ c, (s1.readPa x, c) ∈ s1.pair.icache ∧ l.bytes = c) ∧
        ((∀ b, (s1.readPa x, b) ∉ s1.pair.icache) → l.bytes = s1.physRead (s1.readPa x) 64) ∧
        t.th.pc = s1.th.pc ∧ t.th.xs = s1.th.xs ∧ Spec.SameThread s1 t ∧ t.mem = s1.mem ∧
        (s1.pair.icache.length ≤ 1024 → t.pair.icache.length ≤ 1024)) ∧
    (∀ i : TrapInfo, Spec.Canonical s.th.pc → s.th.smode = true ∨ s.task.inCode s.th.pc.toNat 8 = true →
      s.translate s.ctx s.th.smode 2 (BitVec.ofNat 64 (s.th.pc.toNat / 64 * 64)) = .error (.trap i) →
      ∃ t l, exec .instructionFetch s = .next t ∧ t.th.fe.line = some l ∧ l.bad = some i ∧ t.mem = s.mem)) ∧
  (∀ (s : State) (l : Line), s.th.fe.line = some l → Spec.Canonical s.th.pc → s.th.smode = false →
    s.task.inCode s.th.pc.toNat 8 = false → s.nextWord = .error s.leaseViolation) ∧
  (∀ (s : State) (w : LoadWait), s.th.fe.loadWait = some w →
    (w.unsent = true ∨ (s.link.exchanging = true ∧ ∃ o ∈ s.link.out, o.req = .load s.th.hw) →
      exec .loadDataReturn s = .next s) ∧
    (w.unsent = false → s.link.exchanging = false ∨ (∀ o ∈ s.link.out, o.req ≠ .load s.th.hw) →
      ∃ t, exec .loadDataReturn s = .next t ∧ t.th = { s.th with fe := { s.th.fe with loadWait := none } } ∧
        t.link.out = s.link.out.filter (fun o => o.req ≠ .load s.th.hw) ∧
        t.owed = s.owed.map (fun o => if o.load = some s.th.hw then { o with load := none } else o) ∧
        t.rest = s.rest ∧ t.tasks = s.tasks ∧ t.mem = s.mem)) ∧
  (∀ (s : State) (u : Nat), s.th.fe.backoff = some u → u ≤ s.cal.tick → exec .pollBackoffEnd s =
    .next { s with th := { s.th with fe := { s.th.fe with backoff := none } } }) ∧
  (∀ (s : State) (w : Wait) (b : Nat), s.th.run = .running → s.th.faultDue = false → s.th.fe.wait = some w →
    w.pc = s.th.pc → w.kind ≠ .notification → w.budget = some b → b ≤ s.cal.tick - w.since →
    ∃ t acc addr, exec .waitTimeout s = .next t ∧ Spec.Trapped s t 0x16 acc addr ∧
      (w.kind ≠ .writeBlock → acc = 0 ∧ addr = 0))

/-- R160 to R163, R165: at a boundary the outstanding deferred fault that is due is delivered: the trap registers take its
report, STOP tells that its operation stays stopped and PEND that more faults are outstanding, the mode is S and the PC is
TRAPVEC. A dropped store is delivered likewise; that it comes before any deferred fault is the model's reading, log entry
76. -/
def Obligations.DeferredFaultsAreDelivered : Prop :=
  ∀ s : State, s.th.atBoundary = true →
    (∀ f : DFault, s.th.dueDrop = none → s.th.dueFault = some f →
      ∃ t, exec .deferredFaultDelivery s = .next t ∧ t.th.pc = s.th.tr.trapvec ∧ t.th.smode = true ∧
        t.th.tr.trappc = s.th.pc ∧ t.th.tr.trapcause = BitVec.ofNat 64 (256 * f.info.acc + f.info.code) ∧
        t.th.tr.traproot = f.info.root ∧ t.th.tr.trapnode = f.info.node ∧ t.th.tr.trapelem = f.info.elem ∧
        t.th.tr.trapaddr = f.info.addr ∧ t.th.tr.trapstat.getLsbD 10 = s.th.smode ∧
        t.th.tr.trapstat.getLsbD 9 = f.ref.isSome ∧ t.th.tr.trapstat.getLsbD 11 = f.info.slot ∧
        t.th.dsp.stopped = f.ref ∧ t.th.dsp.deferred = s.th.dsp.deferred.filter (fun g => g ≠ f) ∧
        (t.th.tr.trapstat.getLsbD 8 = true ↔ t.th.dsp.deferred ≠ [] ∨ s.th.fe.dropped ≠ []) ∧
        t.th.dsp.queue = s.th.dsp.queue ∧ t.th.dsp.passes = s.th.dsp.passes ∧ t.th.xs = s.th.xs ∧ t.th.sr = s.th.sr ∧
        t.th.cc = s.th.cc ∧ t.th.rcp = s.th.rcp ∧ t.rest = s.rest ∧ t.tasks = s.tasks ∧ t.mem = s.mem) ∧
    (∀ d : Dropped, s.th.dueDrop = some d →
      ∃ t, exec .droppedStoreDelivery s = .next t ∧ t.th.pc = s.th.tr.trapvec ∧ t.th.smode = true ∧
        t.th.tr.trappc = s.th.pc ∧ t.th.tr.trapcause = BitVec.ofNat 64 (256 * d.acc + d.code) ∧ t.th.tr.traproot = d.pc ∧
        t.th.tr.trapaddr = d.addr ∧ t.th.tr.trapstat.getLsbD 10 = s.th.smode ∧ t.th.tr.trapstat.getLsbD 9 = false ∧
        t.th.fe.dropped = s.th.fe.dropped.erase d ∧ t.th.dsp = s.th.dsp ∧ t.th.xs = s.th.xs ∧ t.th.sr = s.th.sr ∧
        t.rest = s.rest ∧ t.tasks = s.tasks ∧ t.mem = s.mem)

/-- A thread, the lane groups it holds apart. -/
def Sys2Proof.Spec.groupless (u : Thread) : Thread := { u with sr := { u.sr with groups := 0 } }

/-- R13, R156, R191: the sequencer's head entry: a VPASS with nothing pending leaves the queue; a joining root becomes
pending; a fence whose turn it is leaves, with REMOTEFLAGS merged; an engine word starts in its engine. A pass that may
launch takes a free slot with its roots, from element 0. An engine operation all of whose units are done, and counted at its
arrival word (R328), leaves its engine and lowers its counter; lane groups may then move (R29). -/
def Obligations.SequencerSteps : Prop :=
  (∀ (s : State) (e : Entry), s.th.run = .running → s.th.headEntry = some e →
    (s.th.plan = .drop → exec .entryStart s = .next { s with th := s.th.unqueue e }) ∧
    (∀ k, s.th.plan = .pend k → ∃ t, exec .entryStart s = .next t ∧ t.th.rcp.pending = s.th.rcp.pending ++ [k] ∧
      t.th.dsp.queue = s.th.dsp.queue.filter (fun q => q.seq ≠ e.seq) ∧ t.th.xs = s.th.xs ∧ t.mem = s.mem) ∧
    (s.th.plan = .fence → s.th.dsp.passes = [] → s.th.dsp.ops = [] →
      ∃ t, exec .entryStart s = .next t ∧ t.th.dsp.queue = s.th.dsp.queue.filter (fun q => q.seq ≠ e.seq) ∧
        t.th.sr = { s.th.sr with fstatus := s.th.sr.fstatus ||| s.th.sr.remoteflags, remoteflags := 0 } ∧
        t.th.xs = s.th.xs ∧ t.mem = s.mem) ∧
    (∀ t, s.th.plan = .engine → s.startEngine e = some t → exec .entryStart s = .next t) ∧
    (∀ (i : PassSlot) (roots : List Nat), s.th.plan = .launch roots true → s.th.dsp.unready = none →
      s.th.dsp.freeSlot = some i → s.th.launchable e.seq roots = true →
      (∀ n ∈ s.th.rcp.reach roots, ∀ f, n.instr ≠ some (.vldx f)) → s.th.launchBad roots 0 = none →
      ∃ t p, exec .passLaunch s = .next t ∧ t.th.dsp.pass i = some p ∧ p.roots = roots ∧ p.seq = e.seq ∧ p.pc = e.pc ∧
        p.start = 0 ∧ p.p = s.th.passSize ∧ p.halted = false ∧ p.ready = true ∧ p.serves = none ∧
        p.smode = e.smode ∧ p.serial = e.serial ∧
        t.th.dsp.queue = s.th.dsp.queue.filter (fun q => q.seq ≠ e.seq) ∧ (∀ k ∈ roots, k ∉ t.th.rcp.pending) ∧
        t.th.xs = s.th.xs ∧ t.th.sr = s.th.sr ∧ t.mem = s.mem)) ∧
  (∀ (s : State) (u : EngineUnit) (o : Op), s.th.dsp.unit u = some o → s.th.run = .running → o.halted = false →
    o.n ≤ o.prog → o.keep = [] → (∀ w ∈ s.owed, ∀ pa n, w.kind ≠ .arrive pa n (some (s.th.hw, o.e.seq))) →
    ∃ t, exec (.operationComplete u) s = .next t ∧ t.th.dsp.op? o.e.seq = none ∧
      (∀ c, wordCounter o.e.word = some c → t.th.cc = (s.th.ccDown c).cc) ∧
      (wordCounter o.e.word = none → t.th.cc = s.th.cc) ∧ t.th.xs = s.th.xs ∧ t.th.pc = s.th.pc ∧
      t.th.sr = { s.th.sr with groups := t.th.sr.groups } ∧ t.th.tr = s.th.tr ∧ t.th.dsp.queue = s.th.dsp.queue ∧
      t.rest.map Spec.groupless = s.rest.map Spec.groupless ∧ t.tasks = s.tasks ∧ t.mem = s.mem)

/-- R193, R197, R191: an element group that meets no fault and nothing that holds it commits: its writes and atomics are
performed in the order of roots and elements, the flags its evaluation raised enter FSTATUS, and the pass goes on from the
group's end, the next multiple of P or its length, where an atomic that fails as it is performed stops it (R307). A group that
meets a fault writes nothing: the pass stands halted where it was and the fault is outstanding. A pass all of whose groups
have committed leaves its slot, its roots with it. -/
def Obligations.GroupsCommitAndPassesComplete : Prop :=
  ∀ (s : State) (i : PassSlot) (p : Pass), s.th.dsp.pass i = some p → s.th.run = .running → p.ready = true →
    p.halted = false → p.serves = none → p.treeOnly = false →
    let g := s.th.groupOf p
    let roots := s.th.rcp.nodes.filter fun n => n.idx ∈ p.roots
    let q := (s.evaluate g p.carries p.back (g.wants roots)).prepare g p.p roots
    let done := q.w.s.performActs q.acts.reverse
    let stop := min ((p.start / p.p + 1) * p.p) p.len
    (p.start < p.len → q.w.blocked = true → exec (.elementGroupCommit i) s = .next s) ∧
    (p.start < p.len → q.w.blocked = false → pickFault q.w.faults = none → q.held = none →
      (∀ f, pickFault done.2 = some f → f.lease = false) →
      ∃ t u, exec (.elementGroupCommit i) s = .next t ∧ t.th.dsp.pass i = some u ∧ u.start = stop ∧ u.roots = p.roots ∧
        u.halted = (pickFault done.2).isSome ∧ t.mem = done.1.mem ∧ t.th.xs = done.1.th.xs ∧
        t.th.sr.fstatus = done.1.th.sr.fstatus ||| q.w.flags.setWidth 64) ∧
    (∀ f : PassFault, p.start < p.len → q.w.blocked = false → pickFault q.w.faults = some f → f.lease = false →
      ∃ t d, exec (.elementGroupCommit i) s = .next t ∧ t.th.dsp.pass i = some { p with halted := true, hold := none } ∧
        t.th.dsp.deferred = q.w.s.th.dsp.deferred ++ [d] ∧ d.ref = some (.pass i) ∧ d.seq = p.seq ∧ d.smode = p.smode ∧
        d.info.code = f.code ∧ d.info.elem = BitVec.ofNat 64 f.elem ∧ d.info.addr = f.addr ∧ t.mem = q.w.s.mem ∧
        t.th.xs = q.w.s.th.xs ∧ t.th.pc = q.w.s.th.pc) ∧
    (p.len ≤ p.start → (∀ n ∈ roots, ∀ f, n.instr ≠ some (.vred f)) →
      ∃ t, exec (.passComplete i) s = .next t ∧ t.th.dsp.pass i = none ∧ (∀ k ∈ p.roots, t.th.rcp.node? k = none) ∧
        (∀ k ∈ p.roots, k ∉ t.th.rcp.pending) ∧ t.th.xs = s.th.xs ∧ t.th.pc = s.th.pc ∧ t.th.tr = s.th.tr ∧
        t.mem = s.mem) ∧
    (∀ (n : Node) (f : FM), p.len ≤ p.start → roots = [n] → n.instr = some (.vred f) → f.fnAt 2 2 = 0 → p.skipped = false →
      let r := redResult f ((Work.start s p.carries []).lanes n p.p)
      r.2 = 0 →
      ∃ t, exec (.passComplete i) s = .next t ∧ t.th.dsp.pass i = none ∧ t.mem = s.mem ∧ t.th.pc = s.th.pc ∧
        t.th.xs = (s.withX (f.b)
          (if f.fnAt 6 2 == 3 then r.1 else extendTo64 f.ty.toNat r.1.toNat)).th.xs)

/-- R258, R261, R271, R280, R287, R316, R325, R333: the next unit of the operation in each engine. MZERO leaves its tile +0
everywhere, other tiles as they were; SSRST leaves the SSB +0; STMAP leaves its stash slot mapped where it says, or unmapped
for a length of 0. Every other operation's unit is the one its word names. -/
def Obligations.EngineUnitsRun : Prop :=
  (∀ (s : State) (o : Op), s.th.dsp.matrix = some o → s.th.run = .running → o.going = true →
    (byRows o.e.word = false → exec .matrixUnit s = .next (s.arrayUnit o)) ∧
    (byRows o.e.word = true → exec (.matrixRowUnit .matrix) s = .next (s.rowsUnit o)) ∧
    (∀ f : FT, decodeOpc o.e.word = some (.mzero f) → f.mt.toNat < 8 →
      ∃ t, exec .matrixUnit s = .next t ∧ (∀ r c, (t.th.tile f.mt.toNat).at r c = 0) ∧
        (t.th.tile f.mt.toNat).poisoned = [] ∧ (∀ m < 8, m ≠ f.mt.toNat → t.th.tile m = s.th.tile m) ∧
        (∃ u, t.th.dsp.matrix = some u ∧ u.prog = 1 ∧ u.halted = false) ∧ t.th.xs = s.th.xs ∧ t.th.sr = s.th.sr ∧
        t.th.bst = s.th.bst ∧ t.th.ssb = s.th.ssb ∧ t.mem = s.mem)) ∧
  (∀ (s : State) (i : Nat) (o : Op), s.th.dsp.bloads[i]? = some o → s.th.run = .running → o.going = true →
    exec (.matrixRowUnit (.bload i)) s = .next (s.bloadUnit o)) ∧
  (∀ (s : State) (o : Op), s.th.dsp.ssb = some o → s.th.run = .running → o.going = true →
    exec .ssbUnit s = .next (s.ssbUnit o) ∧
    (∀ f : FX, decodeOpc o.e.word = some (.ssrst f) →
      ∃ t, exec .ssbUnit s = .next t ∧ t.th.ssb.rows = [] ∧ t.th.ssb.poisoned = [] ∧
        (∃ u, t.th.dsp.ssb = some u ∧ u.prog = 1) ∧ t.th.xs = s.th.xs ∧ t.th.tiles = s.th.tiles ∧ t.mem = s.mem)) ∧
  (∀ (s : State) (o : Op), s.th.dsp.copy = some o → s.th.run = .running → o.going = true →
    (∀ f : FM, decodeOpc o.e.word = some (.cpyx f) → exec .indirectStream s = .next (s.cpyxUnit o f)) ∧
    (∀ f : FM, decodeOpc o.e.word = some (.cpyr f) → exec .copyUnit s = .next (s.cpyrUnit o f)) ∧
    (∀ (i : Instr) (f : FM), decodeOpc o.e.word = some i →
      i = .cpy f ∨ i = .cpy2d f ∨ i = .cpyt f ∨ i = .cpyf f ∨ i = .cpypub f →
      exec .copyUnit s = .next (if o.dev then s.devUnit o i else s.plainUnit o i)) ∧
    (∀ f : FM, decodeOpc o.e.word = some (.stfl f) ∨ decodeOpc o.e.word = some (.stinv f) →
      ∃ t, exec .copyUnit s = .next t ∧ t.th.xs = s.th.xs ∧ (∃ u, t.th.dsp.copy = some u ∧ u.prog = 1)) ∧
    (∀ f : FM, decodeOpc o.e.word = some (.stmap f) → f.d.toNat < 16 →
      ∃ t, exec .copyUnit s = .next t ∧ t.mem = s.mem ∧ t.th.xs = s.th.xs ∧
        (∃ u, t.th.dsp.copy = some u ∧ u.prog = 1) ∧
        t.pair.slot f.d.toNat = (if stashLen o.e.b = 0 then none
          else some ⟨o.e.a.toNat, stashOff o.e.b, stashLen o.e.b⟩)))

/-! ### Errors, the link, power and bring-up -/

/-- R121, R123, R124: a corrected error is reported; an uncorrectable one is reported and poisons what it strikes, a clean
line apart: a block of memory, of a tile, of the B-store or of the SSB; an instruction line, which no cache then keeps; an
error in a thread's own state ends its task. A pseudo-channel goes out of service once, is reported, and is back in service
after a reload with a good image, its blocks poisoned until written whole, in memory and in what the stash lines over it
give back. That the reload's repair table is verified as one of a boot is, takes its place, and is reported where it fails,
is the model's choice (log entry 29). -/
def Obligations.ErrorsPoisonWhatTheyStrike : Prop :=
  ∀ s : State,
    exec .correctableError s = .next { s with reports := s.reports ++ [.correctedError] } ∧
    (∀ pl : ErrorPlace, let s1 : State := { s with reports := s.reports ++ [.uncorrectable pl] }
      (∀ pa, pl = .cleanLine pa → exec (.uncorrectableError pl) s = .next s1) ∧
      (∀ pa, pl = .block pa → isDram pa = true ∨ isHost pa = true → ∃ l, exec (.uncorrectableError pl) s =
        .next { s1 with poison := l } ∧ ∀ b, b ∈ l ↔ b ∈ s.poison ∨ b = pa / 64 * 64) ∧
      (∀ i r b, pl = .tileBlock i r b → i < 8 → r < 128 → b < 8 →
        ∃ t, exec (.uncorrectableError pl) s = .next t ∧ (t.th.tile i).poisoned.contains (8 * r + b) = true ∧
          (t.th.tile i).rows = (s.th.tile i).rows ∧ (∀ j < 8, j ≠ i → t.th.tile j = s.th.tile j) ∧
          t.th.xs = s.th.xs ∧ t.reports = s1.reports ∧ t.mem = s.mem) ∧
      (∀ r b, pl = .bstoreBlock r b → r < 16384 → b < 8 → ∃ t, exec (.uncorrectableError pl) s = .next t ∧
        8 * r + b ∈ t.th.bst.poisoned ∧ t.th.bst.rows = s.th.bst.rows ∧ t.th.xs = s.th.xs ∧ t.reports = s1.reports ∧
        t.mem = s.mem) ∧
      (∀ b, pl = .ssbBlock b → b < 1024 → ∃ t, exec (.uncorrectableError pl) s = .next t ∧ b ∈ t.th.ssb.poisoned ∧
        t.th.ssb.rows = s.th.ssb.rows ∧ t.th.xs = s.th.xs ∧ t.reports = s1.reports ∧ t.mem = s.mem) ∧
      (∀ pa, pl = .instructionLine pa → ∃ t, exec (.uncorrectableError pl) s = .next t ∧
        (∀ p ∈ t.pairs, ∀ l ∈ p.icache, l.1 ≠ pa / 64 * 64) ∧
        (∀ l, t.th.fe.line = some l → l.pa = pa / 64 * 64 → l.bad = none → l.poisoned = true) ∧
        t.th.xs = s.th.xs ∧ t.th.pc = s.th.pc ∧ t.reports = s1.reports ∧ t.mem = s.mem) ∧
      (pl = .threadState → exec (.uncorrectableError pl) s = .next s1.machineCheck)) ∧
    (s.th.run = .running → ∃ t, exec .machineCheck s = .next t ∧ t.th.run = .ended ∧ t.th.dsp.queue = [] ∧
      t.reports = s.reports ++ [.machineCheck s.th.task] ∧ t.mem = s.mem ∧
      (∀ k ∈ t.tasks, k.id = s.th.task → k.status = 0x0007) ∧
      (∀ u ∈ t.rest, u.task = s.th.task → u.run = .idle ∨ u.run = .ended)) ∧
    (∀ ch, ch ∉ s.channelsOut → ch < 3072 → ∃ t, exec (.channelOutOfService ch) s = .next t ∧
      t.channelsOut = s.channelsOut ++ [ch] ∧ t.reports = s.reports ++ [.channelOut ch] ∧ t.th = s.th ∧ t.tasks = s.tasks ∧
      (∀ u, u ∈ t.stale ↔ u ∈ s.stale ∧ u.1 ≠ ch) ∧ t.mem = s.mem) ∧
    (∀ ch (table : BootImage), ch ∈ s.channelsOut → table.kind = 1 →
      exec (.repairReload ch table) s = .next
        (if Config.imageGood table then
          { s with
            channelsOut := s.channelsOut.filter (fun c => c ≠ ch)
            stale := s.stale ++ [(ch, [])]
            pairs := s.pairs.map fun p => { p with lines := p.lines.map fun l =>
              { l with homePoison := [l.pa, l.pa + 64].filter fun b => b ∈ l.homePoison ∨ s.channelOf b = some ch } }
            boot := { s.boot with images := s.boot.images.filter (fun i => i.kind ≠ 1) ++ [table] } }
        else { s with reports := s.reports ++ [.badImage 1] }))

/-- R367, R379 to R381: a host transaction that has been received already changes nothing; one that comes while the link
carries none waits; one out of its order is kept; the next in order is performed and acknowledged, a write of memory or of a
doorbell. A replayed flit changes nothing. A link reset numbers what the device had issued from TXSEQ + 1 on, discards what
was received and not performed, brings the link down, and begins the exchange, which the peer's LRXDONE ends: then the link
has its width again, a posted store that the host has performed is performed, and one it has lost faults with DATA_ACCESS.
PEERRST is set by a host reset and cleared by management. The order in which a reset numbers what was pending is the model's
choice (log entry 28), and so is that a transaction waits while the link carries none (log entry 103) and how a host write of
host memory comes to it (log entry 7). -/
def Obligations.LinkTransactionsAreInOrder : Prop :=
  ∀ s : State,
    exec .flitReplay s = .next s ∧
    exec .peerrstClear s = .next { s with link := { s.link with peerrst := false } } ∧
    (∀ (seq : Nat) (body : LinkBody),
      (seq ≤ s.link.rxdone ∨ (∃ r ∈ s.link.received ++ s.link.waiting, r.1 = seq) →
        exec (.linkTransaction seq body) s = .next s) ∧
      (s.link.rxdone < seq → (∀ r ∈ s.link.received ++ s.link.waiting, r.1 ≠ seq) →
        (s.linkClosed = true → exec (.linkTransaction seq body) s =
          .next { s with link := { s.link with waiting := s.link.waiting ++ [(seq, body)] } }) ∧
        (s.linkClosed = false → s.link.waiting = [] → s.link.rxdone + 1 < seq →
          (∀ r ∈ s.link.received, r.1 ≠ s.link.rxdone + 1) → exec (.linkTransaction seq body) s =
            .next { s with link := { s.link with received := s.link.received ++ [(seq, body)] } })) ∧
      (s.linkClosed = false → s.link.waiting = [] → s.link.received = [] → seq = s.link.rxdone + 1 →
        (∀ pa bytes, body = .write pa bytes → bytes ≠ [] → s.mem.wf = true → s.channelsOut = [] → isRegSpace pa = false →
          isDram pa = true ∧ s.shut .dram = false ∨ isHost pa = true →
          ∃ t, exec (.linkTransaction seq body) s = .next t ∧ t.mem.readN pa bytes.length = bytes ∧
            Spec.SameOutside s t pa bytes.length ∧ t.link = { s.link with rxdone := seq } ∧ t.th = s.th ∧
            t.queues = s.queues) ∧
        (∀ pa (v : W64) u, body = .write pa (leBytes 8 v.toNat) → isRegSpace pa = true → s.doorbell? pa 8 = some u →
          exec (.linkTransaction seq body) s = .next { s with
            queues := s.queues.map fun w => if w.part = u.part ∧ w.q = u.q then w.ring v else w
            link := { s.link with rxdone := seq } }))) ∧
    (∀ side : LinkSide, s.boot.stage ≠ 0 → s.link.exchanging = false →
      ∃ t l, exec (.linkReset side) s = .next t ∧ t.link.out = s.link.out ++ l ∧
        l.map LinkOut.seq = List.range' (s.link.txseq + 1) l.length ∧ t.link.txseq = s.link.txseq + l.length ∧
        t.link.exchanging = true ∧ t.link.width = 0 ∧ t.link.trained = s.link.trained ∧ t.link.received = [] ∧
        t.link.waiting = [] ∧ t.link.rxdone = s.link.rxdone ∧ t.link.peerrst = (s.link.peerrst || side == .host) ∧
        (s.rest = [] → t.th.xs = s.th.xs ∧ t.th.pc = s.th.pc) ∧ t.tasks = s.tasks ∧ t.mem = s.mem) ∧
    (∀ peerDone : Nat, s.link.exchanging = true → s.link.floor ≤ peerDone → peerDone ≤ s.link.txseq →
      let up : Link := { s.link with exchanging := false, out := [], width := s.link.trained, peerdone := peerDone }
      (s.link.out = [] → exec (.lrxdoneExchange peerDone) s = .next (State.reopen { s with link := up })) ∧
      (∀ n p, s.link.out = [⟨n, .posted s.th.hw p.seq⟩] → s.th.fe.posted.find? (fun q => q.seq == p.seq) = some p →
        (peerDone < n → s.th.run ≠ .ended → ∃ d, exec (.lrxdoneExchange peerDone) s = .next (State.reopen { s with
            th := { s.th with fe := { s.th.fe with
              posted := s.th.fe.posted.filter (fun q => q.seq ≠ p.seq), dropped := s.th.fe.dropped ++ [d] } }
            link := up }) ∧
          d.seq = p.seq ∧ d.pc = p.pc ∧ d.addr = BitVec.ofNat 64 p.va ∧ d.code = causeDataAccess ∧ d.smode = p.smode) ∧
        (n ≤ peerDone → exec (.lrxdoneExchange peerDone) s = .next (State.reopen
          (let u := State.performPosted { s with link := { up with peerdone := s.link.peerdone } } p
          { u with link := { u.link with peerdone := peerDone, txseq := s.link.txseq } })))))

/-- R381, R384 to R387: a power loss leaves host memory and nothing else, and then only a boot has an effect, and no step
follows with nothing from outside: power is applied and the module is in stage 0. A bad image keeps it there and is reported;
the last image it needs brings stage 1, in which the calendar starts and the link is a quarter wide; the first cell ready
brings stage 2. An attestation request is answered from the partition's configuration, its queues, fractions and regions, the
images and the nonce. A critical temperature ends every task with status MACHINE_CHECK (0x0007) and leaves stage 1. That a step
without power and with nothing from outside is a fault, and that other inputs are then lost, is the model's choice (log entry
82); that memory is kept at a critical temperature and the cells report again is its reading (log entry 80); so is that a bad
image holds the bring-up until the next boot (log entry 30). -/
def Obligations.PowerAndBringUp : Prop :=
  ∀ s : State,
    (∃ t, exec .powerLoss s = .next t ∧ t.boot.power = false ∧ t.boot.stage = 0 ∧ t.th = Thread.reset ∧ t.rest = [] ∧
      t.tasks = [] ∧ t.queues = [] ∧ t.parts = [] ∧ t.cal = Cal.reset ∧ t.link = Link.reset ∧
      (∀ a, t.mem.read a = if isHost a then s.mem.read a else (State.reset).mem.read a)) ∧
    (s.boot.power = false → exec .boot s = .next { s with boot := Boot.reset } ∧
      (s.inputs = [] → step s = .fault .noPower) ∧
      (∀ is, s.inputs = .boot :: is → step s = .next { s with inputs := is, boot := Boot.reset }) ∧
      (∀ i is, s.inputs = i :: is → i ≠ .boot → step s = .next { s with inputs := is })) ∧
    (s.boot.power = true → exec .boot s = .next s) ∧
    (∀ image : BootImage, s.boot.stage = 0 → s.boot.failed = none → image.kind < 3 →
      ∃ t, exec (.imageVerify image) s = .next t ∧
        if Config.imageGood image then image ∈ t.boot.images ∧ t.boot.failed = none ∧
          ((∀ k < 3, k ≠ image.kind → ∃ i ∈ s.boot.images, i.kind = k) →
            t.boot.stage = 1 ∧ t.cal.started = true ∧ t.cal.tick = 0 ∧ t.link.width = 1 ∧ t.link.trained = 1) ∧
          ((∃ k < 3, k ≠ image.kind ∧ ∀ i ∈ s.boot.images, i.kind ≠ k) → t.boot.stage = 0 ∧ t.cal = s.cal) ∧
          t.th = s.th ∧ t.mem = s.mem
        else t = { s with
          boot := { s.boot with failed := some image.kind }, reports := s.reports ++ [.badImage image.kind] }) ∧
    (∀ cell, s.boot.stage ≠ 0 → cell < 8 → ∃ l, exec (.cellReady cell) s =
      .next { s with boot := { s.boot with ready := l, stage := max s.boot.stage 2 } } ∧
      ∀ c, c ∈ l ↔ c ∈ s.boot.ready ∨ c = cell) ∧
    (∀ part nonce p, s.part? part = some p → exec (.attestationRequest part nonce) s = .next { s with
      boot := { s.boot with
        answers := s.boot.answers ++ [(part, Config.attestation p.conf
          ((s.queues.filter fun u => u.part = p.conf.id).map fun u => (u.q, u.conf))
          (s.fractions.filter fun f => f.cell ∈ p.conf.cells)
          (s.regions.filter fun r => ∃ n ∈ r.stackSet, n / 3 ∈ p.conf.cells) s.boot.images nonce)] } }) ∧
    (s.boot.stage ≠ 0 → ∃ t, exec .criticalTemperature s = .next t ∧ t.boot.stage = 1 ∧ t.boot.ready = [] ∧
      t.link.width = (if s.link.exchanging then 0 else 1) ∧ t.link.trained = 1 ∧
      t.reports = s.reports ++ [.critical] ∧ t.mem = s.mem ∧
      (∀ k ∈ t.tasks, k.status = 0x0007) ∧
      (∀ u ∈ t.threads, u.run = .running → u.task ∉ s.tasks.map Task.id))

/-! ### The calendar -/

/-- R366 to R370: at a slot's horizon its resource is held back, and what has been issued is noted; at its start it is held
back and stopped; at its end it is free again, and what it kept waiting goes on, unless housekeeping goes on, which is reported
and ends later. An overrun with no request issued before the horizon in flight changes nothing; with one, whether that one is
cancelled is a free value (log entry 25). Each is taken once, when it is due, and the calendar goes on past it. Stage 3, at
the DRAM slot of the period whose leap slot ends training once all eight cells are ready, is the model's reading (log entry
13); that housekeeping may go on past a slot by the schedule's choice is the model's (log entry 4). -/
def Obligations.SlotsHoldAndStopTheirResource : Prop :=
  ∀ (s : State) (r : SlotRes) (k : Nat),
    let past (e : CalEvent) : State := { s with cal := { s.cal with done := 16 * k + e.rank + 1 } }
    (s.cal.due = some (k, .horizon r) → ∃ l, exec (.drainHorizon r) s = .next
      { past (.horizon r) with cal := (past (.horizon r)).cal.setRes r true (s.cal.stopped r), draining := l } ∧
      (∀ u, u.1 ≠ r → (u ∈ l ↔ u ∈ s.draining)) ∧
      ∀ u, (r, u) ∈ l ↔ s.shut r = false ∧ u ∈ (past (.horizon r)).allFlying r false s.cal.tick ∧
        (past (.horizon r)).issued u = true) ∧
    (s.cal.due = some (k, .slotStart r) →
      ∃ t, exec (.slotStart r) s = .next t ∧ t.cal = (past (.slotStart r)).cal.setRes r true true ∧
        (s.boot.stage ≠ 2 ∨ r = .link → t.boot = s.boot ∧ t.link = s.link) ∧ t.th = s.th ∧ t.tasks = s.tasks ∧
        t.mem = s.mem) ∧
    (s.cal.due = some (k, .slotStart .dram) → s.boot.stage = 2 → (∀ c < 8, c ∈ s.boot.ready) →
      (∃ l ∈ s.cal.leaps, l.period = k / 6400 ∧ l.dram = true) →
      ∃ t, exec (.slotStart .dram) s = .next t ∧ t.boot.stage = 3 ∧
        t.link.width = (if s.link.exchanging then 0 else 3) ∧ t.link.trained = 3) ∧
    (s.cal.due = some (k, .slotEnd r) → (s.choose).1 = 0 ∨ s.cal.ext r = true → exec (.slotEnd r) s = .next (State.reopen
      { (past (.slotEnd r)).choose.2 with cal := (past (.slotEnd r)).cal.free r k })) ∧
    (s.cal.due = some (k, .slotEnd r) → (s.choose).1 ≠ 0 → s.cal.ext r = false →
      ∃ t, exec (.slotEnd r) s = .next t ∧ t.cal = (past (.slotEnd r)).cal.setExt r true ∧
        t.reports = s.reports ++ [.slotExtension r] ∧ t.th = s.th ∧ t.mem = s.mem) ∧
    (s.cal.ext r = true → exec (.slotExtensionEnd r) s = .next
      (State.reopen { s with cal := (s.cal.setExt r false).free r s.cal.tick })) ∧
    (s.owed = [] → s.link.waiting = [] → s.link.received = [] → s.heldUnits = [] → State.reopen s = s) ∧
    (s.cal.due = some (k, .overrun r) → (∀ u ∈ (past (.overrun r)).allFlying r false (k - 160), (r, u) ∉ s.draining) →
      exec (.overrun r) s = .next (past (.overrun r))) ∧
    (∀ u : Flying, s.cal.due = some (k, .overrun r) →
      ((past (.overrun r)).allFlying r false (k - 160)).filter (fun v => (r, v) ∈ s.draining) = [u] →
      exec (.overrun r) s = .next (let o : State := { past (.overrun r) with free := s.free + 1 }
        if (Config.overrunPick s.free).testBit 0 then o.cancel causeOverrun false r u else o))

/-- R355, R356, R358: at a period's boundary each bucket takes its rate, up to its depth; each task in place is charged one
time unit for each of its pairs, a pre-empted one nothing; and a running task over its turn budget sets out to be
pre-empted. -/
def Sys2Proof.Spec.PeriodsChargeTasks : Prop :=
  ∀ (s : State) (n : Nat), s.cal.due = some (n, .period) → (s.tasks.map Task.id).Nodup →
    ∃ t, exec .periodBoundary s = .next t ∧ t.tasks.map Task.id = s.tasks.map Task.id ∧
      (∀ k ∈ s.tasks, k.state ≠ .preempted → (t.taskOf k.id).turnTime = k.turnTime + k.pairs.length ∧
        (t.taskOf k.id).tused = k.tused + k.pairs.length) ∧
      (∀ k ∈ s.tasks, k.state = .preempted → t.taskOf k.id = k) ∧
      (∀ k ∈ s.tasks, k.state = .running → k.record.tbudget ≠ 0 → k.record.tbudget < k.turnTime + k.pairs.length →
        (t.taskOf k.id).state = .leaving) ∧
      (∀ k ∈ s.tasks, k.state = .running → k.record.tbudget = 0 → k.record.ebudget = 0 →
        (t.taskOf k.id).state = .running) ∧
      t.tokens.map Prod.fst = s.tokens.map Prod.fst ∧
      (∀ u ∈ s.tokens, ∀ f, s.fractions.find? (fun f => f.cell == u.1 / 32 && bitAt f.pairMask (u.1 % 32)) = some f →
        (u.1, min (u.2 + f.rate) (f.depth : Int)) ∈ t.tokens) ∧
      t.th = s.th ∧ t.mem = s.mem

/-- R371: a leap slot a frame ahead joins its period and CALREV goes up; a crossing of the temperature announces a switch of
the refresh at a frame's boundary, at least a frame ahead and 256 frames after the last; and the switch comes at its tick. -/
def Sys2Proof.Spec.LeapSlotsAndHotRefresh : Prop :=
  ∀ s : State,
    (∀ l : Leap, s.cal.started = true → 0 < l.len → l.len ≤ 16000 → l.dram = true ∨ l.links = true →
      s.cal.tick + 102400 ≤ 6400 * l.period → (∀ k ∈ s.cal.leaps, k.period ≠ l.period) →
      ∃ t, exec (.leapSlot l) s = .next t ∧
        t.cal = { s.cal with leaps := ⟨l.period, l.dram, l.links, l.len⟩ :: s.cal.leaps, calrev := s.cal.calrev + 1 } ∧
        t.th = s.th ∧ t.tasks = s.tasks) ∧
    (∀ warm, s.cal.started = true →
      (warm = s.cal.hot ∨ s.cal.announced ≠ none → exec (.hotRefreshAnnounce warm) s =
        .next { s with cal := { s.cal with warm := warm } }) ∧
      (warm ≠ s.cal.hot → s.cal.announced = none →
        ∃ t u, exec (.hotRefreshAnnounce warm) s = .next t ∧
          t.cal = { s.cal with warm := warm, announced := some (warm, u), calrev := s.cal.calrev + 1 } ∧
          u % 102400 = 0 ∧ s.cal.tick + 102400 ≤ u ∧ (∀ v, s.cal.lastSwitch = some v → v + 256 * 102400 ≤ u) ∧
          t.th = s.th)) ∧
    (∀ k on u, s.cal.due = some (k, .hotSwitch) → s.cal.announced = some (on, u) → s.cal.warm = on →
      exec .hotRefreshSwitch s = .next { s with
        cal := { s.cal with done := 16 * k + 1, hot := on, lastSwitch := some k, announced := none } })

/-- R355 to R358, R371: the boundaries of periods, leap slots, and the change of the refresh. -/
def Obligations.PeriodsLeapsAndRefresh : Prop := Spec.PeriodsChargeTasks ∧ Spec.LeapSlotsAndHotRefresh

/-! ### The launch engine -/

/-- R341: of some fractions, those in a queue's set are at most one on each of the eight cells. -/
def Sys2Proof.Spec.oneFractionOnEachCell (fs : List Fraction) (c : QueueConf) : Prop :=
  ∀ n < 8, (fs.filter fun f => f.cell = n ∧ f.id ∈ c.fractions).length ≤ 1

/-- R341, R342, R384: from stage 2 on a doorbell leaves its value as PROD, and an invalid one, or one on a LAUNCH-fed queue,
stops fetching; before it, or at a queue with EN = 0, a doorbell changes nothing. A configuration write of a queue within its
values sets it, its counters kept if it was configured and zero if not; in stage 0 only other items take effect; the wall
clock, regions, partitions and fractions take their items. That an item outside its values, or one that overlaps another,
changes nothing, and that a configuration word with no item of its own is kept, is the model's choice (log entry 39); so are
the credits of a new queue, zero (log entry 38), and a new fraction's full buckets (log entry 24). -/
def Obligations.DoorbellsAndConfiguration : Prop :=
  ∀ s : State,
    (∀ (part q : Nat) (v : W64) (u : Queue), s.queue? part q = some u → u.conf.en = true → 2 ≤ s.boot.stage →
      exec (.doorbell part q v) s = .next { s with queues := s.queues.map fun w =>
        if w.part = part ∧ w.q = q then
          { w with
            prod := v.toNat % 2 ^ 32
            fetching := w.fetching && !w.conf.feedLaunch &&
              decide ((v.toNat % 2 ^ 32 + 2 ^ 32 - w.cons) % 2 ^ 32 ≤ 2 ^ w.conf.size) } else w }) ∧
    (∀ (part q : Nat) (v : W64), s.boot.stage < 2 ∨ (∀ u, s.queue? part q = some u → u.conf.en = false) →
      exec (.doorbell part q v) s = .next s) ∧
    (∀ (a : Nat) (v : W64), exec (.configWrite (.other a v)) s =
      .next { s with config := (a, v) :: s.config.filter fun u => u.1 ≠ a }) ∧
    (∀ c : ConfigItem, s.boot.stage = 0 → (∀ a v, c ≠ .other a v) → exec (.configWrite c) s = .next s) ∧
    (s.boot.stage ≠ 0 →
      (∀ v, exec (.configWrite (.wallClock v)) s = .next { s with wallclock := v }) ∧
      (∀ (part q : Nat) (c : QueueConf),
        let ok : Prop := 4 ≤ c.size ∧ c.size ≤ 16 ∧ c.ringBase % 256 = 0 ∧ c.prio < 4 ∧ 1 ≤ c.weight ∧
          c.weight < 256 ∧ c.ptbase.toNat % 65536 = 0 ∧ Spec.oneFractionOnEachCell s.fractions c
        (64 ≤ q ∨ ¬ ok → exec (.configWrite (.queue part q c)) s = .next s) ∧
        (q < 64 → ok → (s.queue? part q).isSome = true → exec (.configWrite (.queue part q c)) s =
          .next { s with queues := s.queues.map fun w =>
            if w.part = part ∧ w.q = q then { w with conf := c, prod := c.prod % 2 ^ 32 } else w }) ∧
        (q < 64 → ok → s.queue? part q = none → ∃ t u, exec (.configWrite (.queue part q c)) s = .next t ∧
          t = { s with queues := s.queues ++ [u] } ∧ u.part = part ∧ u.q = q ∧ u.conf = c ∧ u.prod = c.prod % 2 ^ 32 ∧
          u.cons = 0 ∧ u.done = 0 ∧ u.ct = 0 ∧ u.ce = 0 ∧ u.fetched = none ∧ u.finished = [] ∧ u.again = [])) ∧
      (∀ r : Region,
        let ok : Prop := r.base % 2 ^ 29 = 0 ∧ r.size ≠ 0 ∧ r.stackSet.length ∈ [1, 3, 6, 12, 24] ∧
          r.stackSet.Pairwise (· < ·) ∧ (∀ n ∈ r.stackSet, n < 24)
        let runs : Prop := ∃ o ∈ s.regions, o.base = r.base ∧ ∃ p ∈ s.parts, (∃ n ∈ o.stackSet, n / 3 ∈ p.conf.cells) ∧
          ∃ k ∈ s.tasks, k.part = p.conf.id
        let apart : Prop := ∀ o ∈ s.regions, o.base ≠ r.base → o.base + o.size ≤ r.base ∨ r.base + r.size ≤ o.base
        (¬ ok ∨ runs → exec (.configWrite (.region r)) s = .next s) ∧
        (ok → ¬ runs → apart → ∃ t, exec (.configWrite (.region r)) s = .next t ∧ t = { s with regions := t.regions } ∧
          ∀ o, o ∈ t.regions ↔ o = r ∨ (o ∈ s.regions ∧ o.base ≠ r.base))) ∧
      (∀ c : PartConf, 2 ≤ s.boot.stage → (∀ n ∈ c.cells, n ∈ s.boot.ready) → s.part? c.id = none →
        exec (.configWrite (.partition c)) s =
          .next { s with parts := s.parts ++ [⟨c, c.ctxPool, false, false, []⟩] }) ∧
      (∀ c : PartConf, 2 ≤ s.boot.stage → (∀ n ∈ c.cells, n ∈ s.boot.ready) → (s.part? c.id).isSome = true →
        exec (.configWrite (.partition c)) s = .next { s with parts := s.parts.map fun p => if p.conf.id = c.id then
          { p with conf := c, pool := c.ctxPool.filter fun a => ∀ k ∈ s.tasks, k.part = c.id → a ∉ k.areas } else p }) ∧
      (∀ c : PartConf, s.boot.stage < 2 ∨ (∃ n ∈ c.cells, n ∉ s.boot.ready) →
        exec (.configWrite (.partition c)) s = .next s) ∧
      (∀ f : Fraction,
        let others := s.fractions.filter fun g => g.id ≠ f.id
        (fractionOk f = false ∨ (∃ g ∈ others, g.cell = f.cell ∧ g.pairMask &&& f.pairMask ≠ 0) ∨
            (∃ u ∈ s.queues, ¬ Spec.oneFractionOnEachCell (others ++ [f]) u.conf) →
          exec (.configWrite (.fraction f)) s = .next s) ∧
        (fractionOk f = true → (∀ g ∈ others, g.cell = f.cell → g.pairMask &&& f.pairMask = 0) →
          (∀ u ∈ s.queues, Spec.oneFractionOnEachCell (others ++ [f]) u.conf) →
          ∃ t, exec (.configWrite (.fraction f)) s = .next t ∧ t = { s with fractions := t.fractions, tokens := t.tokens } ∧
            (∀ g, g ∈ t.fractions ↔ g = f ∨ (g ∈ s.fractions ∧ g.id ≠ f.id)) ∧
            ∀ i < 32, bitAt f.pairMask i = true →
              t.tokens.find? (fun u => u.1 == 32 * f.cell + i) = some (32 * f.cell + i, (f.depth : Int)))))

/-- R343 to R346, R348, R351: the next record of a queue that has one, in order and with a valid header, is fetched: CONS goes
up by one and the queue holds it with its kernel; one that fails check 1, with no completion asked for, leaves the queue and
counts as finished. A fetched record of a kernel without ranges, whose conditions hold and whose code is mapped, has its
lease. A condition on another queue's DONE holds once DONE is past its value in 32-bit serial order. -/
def Obligations.RecordsAreFetchedAndChecked : Prop :=
  ∀ (s : State) (part q : Nat) (u : Queue), s.queue? part q = some u →
    let only (v : Queue → Queue) : State := { s with queues := s.queues.map fun w =>
      if w.part = part ∧ w.q = q then (v w) else w }
    (∀ (i : Nat) (a : List Nat), s.performOwed (.done part q i a) = only fun w => w.finish i) ∧
    (∀ p : Part, s.part? part = some p → p.quiesce = false → 2 ≤ s.boot.stage → (∀ n ∈ p.conf.cells, n ∈ s.boot.ready) →
      (u.fetched = none → u.conf.en = true → u.fetching = true → u.conf.version1 = false →
        0 < (u.prod + 2 ^ 32 - u.cons) % 2 ^ 32 → (u.prod + 2 ^ 32 - u.cons) % 2 ^ 32 ≤ 2 ^ u.conf.size →
        let at_ := u.conf.ringBase + 256 * (u.cons % 2 ^ u.conf.size)
        let raw := s.physRead at_ 256
        let got : State := if isHost at_ then (s.byEngine fun s => ((), s.crossLink 256)).2 else s
        let s0 : State := { got with queues := got.queues.map fun w =>
          if w.part = part ∧ w.q = q then { w with cons := (w.cons + 1) % 2 ^ 32 } else w }
        s.shutAt at_ = false → s.poisonIn at_ 256 = none →
        (∀ (h : List Byte) (s1 : State), recordOk raw = true → groupsOk raw = true →
          (recordOf raw).shapeOk (4 * p.conf.cells.length) = true →
          s0.engineRead u (recordOf raw).khdr 128 = .bytes h s1 → headerValid h = true →
          (kernelOf h).stages = 0 ∨ (kernelOf h).stages = (recordOf raw).ns →
          s1.placeable u (recordOf raw) (kernelOf h) = true →
          ∃ t f, exec (.recordFetch part q) s = .next t ∧
            t.queue? part q = some { u with cons := (u.cons + 1) % 2 ^ 32, fetched := some f } ∧ f.index = u.cons ∧
            f.record = recordOf raw ∧ f.kernel = kernelOf h ∧ f.letting.ready = false ∧ t.th = s.th ∧
            ((∀ k ∈ s.tasks, k.id ≠ 0) → t.tasks = s.tasks)) ∧
        (recordOk raw = false → (recordOf raw).compl = 0 → (recordOf raw).doneaw = none →
          exec (.recordFetch part q) s = .next (s0.owe (.done part q u.cons [])))) ∧
      (∀ (f : Fetched) (rs : List (Nat × LeaseRange)) (s1 s2 : State), u.fetched = some f →
        f.letting = ⟨none, false, [], true⟩ → (∀ b ∈ f.held, b = true) →
        s.readRanges u f.record.args f.kernel.ranges = some (.ok (rs, s1), true) →
        s1.walkPages u.conf.ptbase (leasePages f.kernel rs) = some s2 → s2.missing u.conf.ptbase f.kernel rs = [] →
        exec (.recordFetch part q) s = .next { s2 with queues := s2.queues.map fun w => if w.part = part ∧ w.q = q then
          { w with fetched := some { f with letting := ⟨some rs, true, [], false⟩ } } else w })) ∧
    (∀ (f : Fetched) (i : Nat) (w : Nat × Nat × W64), u.fetched = some f → f.held[i]? = some false →
      f.record.waits[i]? = some w →
      let met (s1 : State) : State := { s1 with queues := s1.queues.map fun v =>
        if v.part = part ∧ v.q = q then
          { v with fetched := some { f with held := f.held.set i true, letting := { f.letting with retry := true } } }
        else v }
      (∀ v : Queue, w.1 = 2 → w.2.1 < 2 ^ 32 → s.queue? part w.2.2.toNat = some v →
        ((∃ d < 2 ^ 31, (w.2.1 + 1 + d) % 2 ^ 32 = v.done % 2 ^ 32) →
          exec (.waitConditionHold part q i) s = .next (met s)) ∧
        ((∀ d < 2 ^ 31, (w.2.1 + 1 + d) % 2 ^ 32 ≠ v.done % 2 ^ 32) →
          exec (.waitConditionHold part q i) s = .next s)) ∧
      (∀ s1 : State, s.testWait u w = .holds s1 → exec (.waitConditionHold part q i) s = .next (met s1)) ∧
      (s.testWait u w = .open_ → exec (.waitConditionHold part q i) s = .next s))

/-- R19, R22, R352, R353: a start that the engine has chosen makes the record's task: a new number, the record, kernel and
pairs, running, and on each pair its threads at the kernel's entry in U mode with the argument pointer in x3 and every other
x register 0; the queue holds no fetched record. A record with a page whose leaf has since become invalid is sent back to
have its lease set up; a choice that only opens a new round keeps its credits. The task's number, one above the last, is the
model's choice (log entry 36); that ENTRY and TRAPVEC are masked to words is its reading (log entry 73). Preloading brings a
kernel's code lines into its pairs' caches and changes no byte of memory but the A bits its walks set. -/
def Obligations.TasksStartOnTheirPairs : Prop :=
  (∀ (s s1 : State) (part q : Nat) (u : Queue) (f : Fetched) (ps : List (Nat × Nat)) (p : Part),
    s.choose? part = some (.start u (.first f) ps s1) → u.q = q → s1.part? part = some p →
    s1.missing u.conf.ptbase f.kernel (f.letting.ranges.getD []) = [] →
    (∀ v ∈ s1.threads, v.task ≠ s1.nextTask + 1) →
    ∃ t k, exec (.taskStart part q) s = .next t ∧ t.tasks = s1.tasks ++ [k] ∧ k.id = s1.nextTask + 1 ∧ k.state = .running ∧
      k.index = f.index ∧ k.record = f.record ∧ k.kernel = f.kernel ∧ k.pairs = ps ∧ k.ptbase = u.conf.ptbase ∧
      k.stepno = 1 ∧ k.stepdone = 0 ∧ k.areas = p.pool.take f.record.threads ∧
      (∀ v ∈ t.threads, v.task = k.id → v.run = .running ∧ v.pc = f.kernel.entry &&& ~~~7 ∧ v.smode = false ∧
        v.xs = (Vector.replicate 32 0).setIfInBounds 3 f.record.args ∧ v.cc = Vector.replicate 8 0 ∧
        v.tr.trapvec = p.conf.trapvec &&& ~~~7 ∧ v.sr.vl = 0 ∧ v.rcp.nodes = [] ∧ v.dsp.queue = []) ∧
      (t.threads.filter fun v => v.task = k.id).length = ps.length * (f.record.nt * f.record.ns) ∧
      (∀ w, t.queue? u.part u.q = some w → w.fetched = none) ∧ t.mem = s1.mem) ∧
  (∀ (s s1 : State) (part q : Nat) (u : Queue) (f : Fetched) (ps : List (Nat × Nat)) (p : Part),
    s.choose? part = some (.start u (.first f) ps s1) → u.q = q → s1.part? part = some p →
    s1.missing u.conf.ptbase f.kernel (f.letting.ranges.getD []) ≠ [] →
    exec (.taskStart part q) s = .next { s1 with queues := s1.queues.map fun w => if w.part = part ∧ w.q = q then
      { w with fetched := some { f with letting := { f.letting with ready := false, retry := true } } } else w }) ∧
  (∀ (s s1 : State) (part q : Nat) (u : Queue) (ids : List Nat),
    s.choose? part = some (.displace u ids s1) → u.q = q → ∃ t, exec (.taskStart part q) s = .next t ∧
      (∀ k ∈ t.tasks, k.id ∈ ids → k.state ≠ .running) ∧ t.th = s1.th ∧ t.mem = s1.mem) ∧
  (∀ (s s1 : State) (part q : Nat) (u : Queue), s.choose? part = some (.round u s1) →
    exec (.taskStart part q) s = .next (if u.q = q then s1 else s)) ∧
  (∀ (s : State) (part q : Nat) (u : Queue) (f : Fetched) (ps : List (Nat × Nat)),
    s.nextRecord part q = some (u, f, ps) →
    let code := s.byEngine fun s => s.codeLines u f.kernel
    let lines := code.2.byEngine fun s => s.slotLines u f.record
    ∃ t, exec (.preload part q) s = .next t ∧ t.th = s.th ∧ t.rest = s.rest ∧ t.queues = s.queues ∧ t.mem = lines.2.mem ∧
      (ps.Nodup → (∀ v ∈ ps, (lines.2.pairOf v.1 v.2).icache.length + code.1.length ≤ 1024) →
        ∀ v ∈ ps, ∀ l ∈ code.1, ∃ b, (l.1, b) ∈ (t.pairOf v.1 v.2).icache) ∧
      ∀ l ∈ s.preloaded, l ∈ t.preloaded)

/-- R31, R167, R352, R359: a task whose threads have all ended completes: it leaves the machine with its threads and its
communication sets, its context areas are free again and its record is to count as finished, after all its accesses. A task
whose threads stand at the common boundary is pre-empted and waits at its queue's head; a resumption the engine has chosen
puts it on its pairs. QUIESCE sends the partition's tasks out and tells when all are out; the resumption of the partition sets
their leases up again. -/
def Obligations.TasksEndAndMove : Prop :=
  ∀ s : State,
    (∀ (k : Task) (u : Queue), s.tasks.find? (fun t => t.id == k.id) = some k → s.queue? k.part k.queue = some u →
      s.taskOver k.id = true → k.record.compl = 0 → k.record.doneaw = none →
      ∃ t, exec (.taskComplete k.id) s = .next t ∧ t.tasks = s.tasks.filter (fun j => j.id ≠ k.id) ∧
        (∀ v ∈ t.threads, v.run ≠ .idle → v.task ≠ k.id) ∧ (∀ c ∈ t.comms, c.task ≠ k.id) ∧
        (∀ p, s.part? k.part = some p → ∃ p1, t.part? k.part = some p1 ∧ p1.pool = p.pool ++ k.areas) ∧
        (∀ w, t.queue? k.part k.queue = some w → w.done = u.done ∧ k.id ∉ w.again) ∧
        t.owed.map Owed.kind = s.owed.map Owed.kind ++ [.done k.part k.queue k.index []] ∧ t.mem = s.mem) ∧
    (∀ k : Task, s.tasks.find? (fun t => t.id == k.id) = some k → s.canPreempt k = true → s.areasOpen k = true →
      ∃ t, exec (.preempt k.id) s = .next t ∧ (∀ j ∈ t.tasks, j.id = k.id → j.state = .preempted ∧ j.pairs = []) ∧
        (∀ c ∈ t.comms, c.task ≠ k.id) ∧ (∀ w, t.queue? k.part k.queue = some w → k.id ∈ w.again)) ∧
    (∀ (k h : Task) (u : Queue) (ps : List (Nat × Nat)) (s1 : State),
      s.tasks.find? (fun t => t.id == k.id) = some k → k.state = .preempted → k.letting = none →
      s.choose? k.part = some (.start u (.again h) ps s1) → h.id = k.id → s1.imagesOpen k 0 = true →
      exec (.resume k.id) s = .next ((s1.resumeTask k ps).tookTurn u)) ∧
    (∀ part : Nat, (s.tasks.map Task.id).Nodup →
      ∃ t, exec (.quiesce part) s = .next t ∧
        (∀ p ∈ t.parts, p.conf.id = part → p.quiesce = true ∧
          (p.quiesced = true ↔ ∀ k ∈ s.tasks, k.part = part → k.state = .preempted)) ∧
        t.tasks = s.tasks.map (fun k => if k.part = part ∧ k.state = .running then { k with state := .leaving } else k) ∧
        t.th = s.th ∧ t.queues = s.queues ∧ t.mem = s.mem) ∧
    (∀ (part : Nat) (p : Part), s.part? part = some p → p.quiesce = true → exec (.resumePartition part) s = .next { s with
      parts := s.parts.map fun p => if p.conf.id = part then { p with quiesce := false, quiesced := false } else p
      tasks := s.tasks.map fun k => if k.part = part ∧ k.state = .preempted then
        { k with letting := some ⟨none, false, [], true⟩ } else k })

/-! ### Words that complete -/

namespace Sys2Proof.Spec

open Sys2Proof Sys2Proof.Machine

/-- R185, R188, R207: a vector name is bound to a live node of a type that the entry accepts, whose length, where it is
known, is `n`, where that is known. -/
def Bound (s : State) (r : BitVec 6) (ok : NTy → Prop) (n : Option Nat) : Prop :=
  ∃ j m, s.th.rcp.vnames[r.toNat]? = some (some j) ∧ s.th.rcp.node? j = some m ∧ ok m.nty ∧
    ∀ l k, m.known = some l → n = some k → l = k

/-- R187, R188: a mask name is k0, or is bound to a live mask node of the length. -/
def Masked (s : State) (k : Nat) (n : Option Nat) : Prop :=
  k = 0 ∨ ∃ j m, s.th.rcp.knames[k]? = some (some j) ∧ s.th.rcp.node? j = some m ∧ m.nty = .mask ∧
    ∀ l k, m.known = some l → n = some k → l = k

/-- R188, R189: the length a word takes: VL with LS = 0, else that of the oldest slot of its length queue that no word has
taken, which is not known while the slot is not filled. -/
def LengthFor (s : State) (ls : Nat) (n : Option Nat) : Prop :=
  (ls = 0 ∧ n = some (s.th.sr.vl.toNat % 2 ^ 48)) ∨
    (ls ≠ 0 ∧ ∃ u, (s.th.lq (ls - 1)).slots.find? (fun u => !u.taken) = some u ∧ n = u.filled)

/-- The recording words that take no length from LS. -/
def fixedLength (i : Instr) : Bool :=
  match i with
  | .mrred _ | .sscfg _ | .ssstep _ | .stmap _ | .stfl _ | .stinv _ => true
  | _ => false

/-- R186, R240, R264: how many nodes a recording word makes; an engine word with no recipe operand makes none. -/
def nodesOf (i : Instr) : Nat :=
  match i with
  | .vforce _ => 2
  | .vcvt f => if f.c = 0 then 1 else 2
  | .vld f => if f.fnAt 2 3 = 0 then 1 else 2
  | .mtst f | .mpack f => if f.k = 0 then 0 else 1
  | .cpyx f => if f.fn.getLsbD 0 then 1 else 0
  | .mzero _ | .maddt _ | .mtrn _ | .mtld _ | .bload _ | .bfromt _ | .msave _ | .mrest _ | .sscfg _ | .ssld _ | .ssst _
  | .ssrst _ | .cpy _ | .cpyf _ | .cpyr _ | .cpypub _ | .cpy2d _ | .cpyt _ | .stmap _ | .stfl _ | .stinv _ => 0
  | _ => 1

/-- R196, R391: how many ranges a recording word takes at most. -/
def rangesOf (i : Instr) : Nat :=
  match i with
  | .vld _ | .vkld _ | .vst _ | .vstx _ | .vcst _ | .vkst _ | .vred _ | .vamo _ => 1
  | .vforce _ | .mtld _ | .mtst _ | .mpack _ | .bload _ | .msave _ | .mrest _ | .sscan _ | .ssstep _ | .ssld _ | .ssst _
  | .cpy _ | .cpyf _ | .cpyr _ | .cpypub _ | .cpy2d _ | .cpyt _ | .cpyx _ | .stmap _ | .stfl _ | .stinv _ => 2
  | _ => 0

/-- What the entry of each recording word asks of its operands: the names it reads bound to nodes of its types and of its
length (R207 to R245, R258 to R287, R306, R325), captured values within their ranges, and room in the length queue that it
reserves slots of (R189). -/
def OperandsHere (i : Instr) (s : State) (n : Option Nat) : Prop :=
  let elem (ty : BitVec 4) (t : NTy) : Prop := t = .elem ty.toNat
  let int (t : NTy) : Prop := ∃ y < 8, t = .elem y
  let any (_ : NTy) : Prop := True
  match i with
  | .vadd f | .vsub f | .vmul f | .vdiv f | .vmin f | .vmax f | .vmulh f | .vand f | .vor f | .vxor f | .vshl f | .vshr f
  | .vcmp f => Bound s f.a (elem f.ty) n ∧ Bound s f.b (elem f.ty) n ∧ Masked s f.k.toNat n
  | .vadds f | .vmuls f | .vmins f | .vmaxs f | .vcmps f | .vunary f | .vpopc f | .vrnd f | .vsfu f | .vscan f
  | .vclass f => Bound s f.a (elem f.ty) n ∧ Masked s f.k.toNat n
  | .vshli f | .vshri f | .vslide f => Bound s f.a (elem f.ty) n ∧ Masked s f.k.toNat n
  | .vfma f => Bound s f.a (elem f.ty) n ∧ Bound s f.b (elem f.ty) n ∧ Bound s f.c (elem f.ty) n ∧ Masked s f.k.toNat n
  | .vfmas f => Bound s f.a (elem f.ty) n ∧ Bound s f.c (elem f.ty) n ∧ Masked s f.k.toNat n
  | .vcvt f => Bound s f.a (fun t => t = .elem (f.fnAt 0 4)) n
  | .vsel f =>
    Bound s f.a (elem f.ty) n ∧ Bound s f.b (elem f.ty) n ∧ Masked s f.k.toNat n ∧ Masked s f.c.toNat n
  | .kop f => Masked s f.a.toNat n ∧ Masked s f.b.toNat n ∧ Masked s f.k.toNat n
  | .vflags f => Bound s f.a any n
  | .vsplat f | .viota f => Masked s f.k.toNat none
  | .vbcast f =>
    let m := (s.x f.b).toNat
    0 < m ∧ m < 2 ^ 48 ∧ Bound s f.a (elem f.ty) (some m) ∧ ∀ k, n = some k → k % m = 0
  | .vsegred f =>
    let m := (s.x f.b).toNat
    0 < m ∧ m < 2 ^ 48 ∧ Bound s f.a (elem f.ty) n ∧ ∀ k, n = some k → k % m = 0
  | .vld f => Masked s f.k.toNat n ∧ (f.ty = 0xF →
      (s.x f.b).toNat < 2 ^ 48 ∧ (s.x f.b).toNat % 2 ^ 24 ≠ 0 ∧ (s.x f.b).toNat / 2 ^ 24 ≠ 0)
  | .vkld f => Masked s f.k.toNat n
  | .vtread f => Masked s f.k.toNat n ∧ f.mt.toNat < s.th.tileCount ∧ (s.x f.b).toNat ≤ 127
  | .vtb f =>
    let a := (addressOf f s).toNat
    Masked s f.k.toNat n ∧ a % 8 = 0 ∧ s.task.kernel.entry.toNat ≤ a ∧
      a + 8 * (f.fnAt 2 3 + 1) ≤ s.task.kernel.entry.toNat + s.task.kernel.codelen ∧
      ∀ j < f.fnAt 0 2, Bound s (f.b + BitVec.ofNat 6 j)
        (fun t => t ≠ .mask ∧ (j ≠ 0 ∨ f.k = 0 ∨ t = .elem f.ty.toNat)) n
  | .cpyx f => f.fn.getLsbD 0 = true → Bound s f.b int n
  | .mscale f | .mtwr f => Bound s f.a (elem f.ty) n
  | .mrred f => f.mt.toNat < s.th.tileCount
  | .vst f => Bound s f.d (elem f.ty) n ∧ Masked s f.k.toNat n
  | .vcst f => Bound s f.d (elem f.ty) n ∧ Masked s f.k.toNat n ∧
      (f.fn.getLsbD 1 = true → (s.th.lq (f.fnAt 2 2)).slots.length + (f.fnAt 4 2 + 1) ≤ 16)
  | .vred f => Bound s f.d (elem f.ty) n ∧ Masked s f.k.toNat n ∧
      (f.fnAt 2 2 = 1 → (s.th.lq (f.fnAt 4 2)).slots.length + 1 ≤ 16)
  | .vstx f | .vamo f => Bound s f.d (elem f.ty) n ∧ Bound s f.b int n ∧ Masked s f.k.toNat n
  | .vkst f => Masked s f.d.toNat n ∧ Masked s f.k.toNat n
  | .vforce f => Bound s f.a (elem f.ty) n
  | .kpop f => Masked s f.a.toNat n ∧ Masked s f.k.toNat n ∧
      (s.th.lq f.d.toNat).slots.length + (f.fnAt 1 2 + 1) ≤ 16
  | .mopa f | .mops f => Bound s f.a (elem f.ty) (n.map (128 * ·))
  | .mopt f => Bound s f.a (elem f.ty) (n.map (128 * ·)) ∧ Bound s f.b (elem f.tyb) (n.map (128 * ·))
  | .sscan f | .ssstep f =>
    Bound s f.a any none ∧ Bound s (f.a + 1) any none ∧ Bound s (f.a + 2) any none ∧ Bound s (f.a + 3) any none
  | .stmap _ => ∀ u ∈ s.threads, u.run = .running → u.cluster = s.th.cluster → u.pair = s.th.pair → u.task = s.th.task
  | _ => True

/-- R61 to R64, R137, R185: a slot of a pair word that may do its part: a scalar slot raises no flag that FCTRL enables, a
vector slot's names are bound to nodes of its type and of VL elements. -/
def SlotHere (u : Slot) (s : State) : Prop :=
  let n := some (s.th.sr.vl.toNat % 2 ^ 48)
  let elem (t : NTy) : Prop := t = .elem u.args.ty.toNat
  match u.cop.toNat with
  | 0x12 | 0x13 | 0x14 | 0x15 | 0x16 | 0x17 | 0x18 | 0x19 =>
    Bound s u.args.d elem n ∧ Bound s u.args.a elem n ∧ Masked s u.args.k.toNat n
  | 0x1A | 0x1B | 0x1C | 0x1D => Bound s u.args.d elem n ∧ Masked s u.args.k.toNat n
  | 0x1E => True
  | 0x1F => Bound s u.args.a elem n ∧ Masked s u.args.k.toNat n
  | _ => ∃ r g, scalarSlot u s = some (r, g) ∧
      ∀ k < 5, g.getLsbD k = true → s.th.sr.fctrl.getLsbD (8 + k) = false

/-- R99 to R105: an address lies on a 64 KiB page of DRAM, not versioned, whose table entries are in order, whose class is
no DEV page, and which gives the permission a read or a write needs in a mode; `at2` is where its leaf lies. -/
def Page (s : State) (smode write : Bool) (va : W64) (at2 : Nat) : Prop :=
  let e0 := s.mem.word (leafFrame s.task.ptbase + 8 * (va.toNat / 2 ^ 42 % 2 ^ 13))
  let e1 := s.mem.word (leafFrame e0 + 8 * (va.toNat / 2 ^ 29 % 2 ^ 13))
  let e := s.mem.word at2
  at2 = leafFrame e1 + 8 * (va.toNat / 2 ^ 16 % 2 ^ 13) ∧ Canonical va ∧ tableOk e0 = true ∧ tableOk e1 = true ∧
    e.getLsbD 63 = false ∧ e.getLsbD 0 = true ∧ e.extractLsb' 60 4 = 0 ∧ e.getLsbD 13 = false ∧ e.getLsbD 9 = false ∧
    e.extractLsb' 7 2 = 0 ∧ e.getLsbD 6 = false ∧ e.extractLsb' 4 2 ≠ 3 ∧ isDram (leafFrame e) = true ∧
    (smode = false → e.getLsbD 3 = true) ∧
    (write = true → e.getLsbD 1 = true ∧ e.getLsbD 11 = false ∧ e.extractLsb' 4 2 ≠ 1)

/-- R103: the leaf has the bits that the access would set. -/
def Settled (s : State) (write : Bool) (at2 : Nat) : Prop :=
  (s.mem.word at2).getLsbD 14 = true ∧ (write = true → (s.mem.word at2).getLsbD 15 = true)

/-- The physical address an address of such a page has. -/
def placeOf (s : State) (va : W64) (at2 : Nat) : Nat := leafFrame (s.mem.word at2) + va.toNat % 2 ^ 16

/-- No cached translation, no poison, no channel out of service, no quota, and no resource kept back. -/
def Usual (s : State) : Prop :=
  s.tlb = [] ∧ s.poison = [] ∧ s.channelsOut = [] ∧ s.stale = [] ∧ s.quota = none ∧ Open s ∧ s.mem.wf = true ∧
    ∀ r ∈ s.regions, r.skew = 0

/-- R125, R151: nothing the thread has recorded, dispatched or posted meets some bytes. -/
def Apart (s : State) (a n : Nat) : Prop :=
  s.th.dsp.passes = [] ∧ s.th.dsp.ops = [] ∧
    (∀ m ∈ s.th.rcp.nodes, ∀ r ∈ m.reads ++ m.writes, r.hi < a ∨ a + n ≤ r.lo) ∧
    (∀ e ∈ s.th.dsp.queue, ∀ r ∈ e.reads ++ e.writes, r.hi < a ∨ a + n ≤ r.lo) ∧
    ∀ p ∈ s.th.fe.posted, p.va + p.bytes.length ≤ a ∨ a + n ≤ p.va

/-- R112, R149: `n` aligned bytes that a scalar access of the thread may reach at once; `at2` is where their leaf lies. -/
def Reached (s : State) (write : Bool) (va : W64) (n at2 : Nat) : Prop :=
  Usual s ∧ Page s s.th.smode write va at2 ∧ Apart s va.toNat n ∧ va.toNat % n = 0 ∧
    (s.th.smode = false → Leased s.task write va.toNat n)

end Sys2Proof.Spec

/-- R12, R25, R64, R156, R183 to R189, R196, R207 to R245, R258 to R287, R306, R315 to R336: every recording word, with the
names it reads bound as its entry asks, its captured values in range, and room for it in the dispatch queue, the counter, the
node budget, the length queues and the ARIT, completes its issue: it takes one entry, which holds the word, and the next word
follows; no x register, no state register and no byte of memory changes. -/
def Obligations.RecordingWordsComplete : Prop :=
  ∀ (i : Instr) (s : State) (ls : Nat) (r : Except Nat Rec) (n : Option Nat), i.wf = true →
    Spec.recordingOf i s = some (ls, r) → (Spec.fixedLength i = false → Spec.LengthFor s ls n) → Spec.OperandsHere i s n →
    s.th.dsp.queue.length < 32 →
    (∀ w c, encode i = some w → wordCounter w = some c → s.th.cc[c]?.getD 0 ≠ 0xFFFF) →
    s.th.rcp.budget ≤ 256 → s.th.rcp.nodes.length + Spec.nodesOf i ≤ s.th.rcp.budget →
    s.th.aritUsed + Spec.rangesOf i ≤ 64 →
    ∃ t e, exec i s = .next t ∧ t.th.dsp.queue = s.th.dsp.queue ++ [e] ∧ encode i = some e.word ∧ e.pc = s.th.pc ∧
      e.smode = s.th.smode ∧ t.th.pc = s.th.pc + 8 ∧ t.th.xs = s.th.xs ∧ t.th.sr = s.th.sr ∧ t.th.tr = s.th.tr ∧
      t.rest = s.rest ∧ t.tasks = s.tasks ∧ t.mem = s.mem

/-- R61 to R64, R135 to R137: a pair word both of whose slots may do their part, with room in the dispatch queue and in the
node budget for its vector slots, completes: each vector slot takes one entry, in order, with the opcode of its full word and
its slot's number; scalar slots write their results; and the next word follows. -/
def Obligations.PairWordsComplete : Prop :=
  ∀ (i : Instr) (s : State) (u0 u1 : Slot), i.wf = true → Spec.pairOf i = some (u0, u1) → Spec.SlotHere u0 s →
    Spec.SlotHere u1 s →
    let vectors : List (Nat × Bool) :=
      [(u0, false), (u1, true)].filterMap fun u => (Spec.slotOpcode u.1).map fun o => (o, u.2)
    let x (u : Slot) : Option (BitVec 6 × W64) := (Spec.scalarSlot u s).bind Prod.fst
    s.th.dsp.queue.length + vectors.length ≤ 32 → s.th.rcp.budget ≤ 256 →
    s.th.rcp.nodes.length + vectors.length ≤ s.th.rcp.budget → s.th.aritUsed ≤ 64 →
    ∃ t es, exec i s = .next t ∧ t.th.dsp.queue = s.th.dsp.queue ++ es ∧
      es.map (fun e => (e.word.toNat / 2 ^ 55, e.slot)) = vectors ∧ (∀ e ∈ es, e.pc = s.th.pc ∧ e.smode = s.th.smode) ∧
      t.th.xs = (Spec.withSlot (Spec.withSlot s (x u0)) (x u1)).th.xs ∧ t.th.pc = s.th.pc + 8 ∧ t.th.tr = s.th.tr ∧
      t.rest = s.rest ∧ t.tasks = s.tasks ∧ t.mem = s.mem

/-- R99 to R105, R112, R148 to R150, R299: loads and stores of bytes on a page of DRAM in order, which nothing the thread has
under way meets, complete: a load's registers take the bytes at its address, extended, and a store is posted with its bytes. -/
def Sys2Proof.Spec.LoadsAndStoresComplete : Prop :=
  ∀ (f : FM) (s : State) (at2 : Nat),
    let va := Spec.addressOf f s
    let n := bytesOf f.ty.toNat
    let pa := Spec.placeOf s va at2
    let posted (i : Instr) (bytes : List Byte) : Prop := ∃ t p, exec i s = .next t ∧
      t.th.fe.posted = s.th.fe.posted ++ [p] ∧ p.va = va.toNat ∧ p.pa = pa ∧ p.bytes = bytes ∧ p.kind = .store ∧
      t.th.xs = s.th.xs ∧ t.th.pc = s.th.pc + 8 ∧ Spec.SameThread s t ∧ Spec.SameOutside s t at2 8
    (∀ i, i = .ld f ∨ i = .ldaq f → i.wf = true → Spec.Reached s false va n at2 →
      ∃ t, exec i s = .next t ∧ t.th.xs = (s.withX f.d (extendTo64 f.ty.toNat (leNat (t.mem.readN pa n)))).th.xs ∧
        t.th.pc = s.th.pc + 8 ∧ Spec.SameThread s t ∧ Spec.SameOutside s t at2 8) ∧
    (Instr.wf (.ldpair f) = true → Spec.Reached s false va 16 at2 →
      ∃ t, exec (.ldpair f) s = .next t ∧
        t.th.xs = ((s.withX f.d (t.mem.word pa)).withX f.b (t.mem.word (pa + 8))).th.xs ∧
        t.th.pc = s.th.pc + 8 ∧ Spec.SameThread s t ∧ Spec.SameOutside s t at2 8) ∧
    (s.th.fe.posted.length < 32 →
      (Instr.wf (.st f) = true → Spec.Reached s true va n at2 → posted (.st f) (leBytes n (s.x f.d).toNat)) ∧
      (Instr.wf (.strl f) = true → Spec.Reached s true va n at2 → s.th.hasPending = false →
        posted (.strl f) (leBytes n (s.x f.d).toNat)) ∧
      (Instr.wf (.stpair f) = true → Spec.Reached s true va 16 at2 →
        posted (.stpair f) (leBytes 8 (s.x f.d).toNat ++ leBytes 8 (s.x f.b).toNat)))

/-- R300 to R305: atomics on such bytes, with nothing of the thread outstanding where they release, complete: AMO and CAS read
and write at once, AMOW is posted. A floating-point AMO is one that raises no flag FCTRL enables. -/
def Sys2Proof.Spec.AtomicsComplete : Prop :=
  ∀ (f : FM) (s : State) (at2 : Nat),
    let va := Spec.addressOf f s
    let ty := f.ty.toNat
    let n := bytesOf ty
    let pa := Spec.placeOf s va at2
    let old := leNat (s.mem.readN pa n)
    Spec.Reached s true va n at2 → at2 + 8 ≤ pa ∨ pa + n ≤ at2 →
    (Instr.wf (.amo f) = true → f.fn.getLsbD 4 = false ∨ Spec.Quiet s →
      (∀ k < 5, (atomicVal (f.fnAt 0 3) ty old (s.x f.b).toNat).2.getLsbD k = true →
        s.th.sr.fctrl.getLsbD (8 + k) = false) →
      ∃ t, exec (.amo f) s = .next t ∧ t.th.xs = (s.withX f.d (extendTo64 ty old)).th.xs ∧ t.th.pc = s.th.pc + 8 ∧
        leNat (t.mem.readN pa n) =
          (if ty < 8 ∨ f.fnAt 0 3 = 0 then Spec.atomicNew (f.fnAt 0 3) ty old (s.x f.b).toNat
          else (atomicVal 1 ty old (s.x f.b).toNat).1)) ∧
    (Instr.wf (.cas f) = true → f.fn.getLsbD 1 = false ∨ Spec.Quiet s →
      ∃ t, exec (.cas f) s = .next t ∧ t.th.xs = (s.withX f.d (extendTo64 ty old)).th.xs ∧ t.th.pc = s.th.pc + 8 ∧
        t.mem.readN pa n = leBytes n (if old = (s.x f.d).toNat % 2 ^ (8 * n) then (s.x f.b).toNat else old)) ∧
    (Instr.wf (.amow f) = true → f.fn.getLsbD 4 = false ∨ Spec.Quiet s → s.th.fe.posted.length < 32 →
      ∃ t p, exec (.amow f) s = .next t ∧ t.th.fe.posted = s.th.fe.posted ++ [p] ∧ p.pa = pa ∧
        p.bytes = leBytes n (s.x f.b).toNat ∧ p.kind = .atomic (f.fnAt 0 3) ty ∧ t.th.xs = s.th.xs ∧
        t.th.pc = s.th.pc + 8)

/-- R180, R229, R323, R327 to R330, R335: VLDX with a parameter block in order on such bytes, a mask and room for its leaf
records it; ARM and ARWAIT of an arrival word on such bytes set it and read its generation; NQPOST to a descriptor on such
bytes of a COH page posts; CINV of bytes that nothing under way meets orders the thread; each goes on. -/
def Sys2Proof.Spec.BlockAndArrivalWordsComplete : Prop :=
  ∀ (f : FM) (s : State) (at2 : Nat),
    let va := Spec.addressOf f s
    let pa := Spec.placeOf s va at2
    let v := (s.x f.b).toNat
    let free (n : Nat) : Prop := at2 + 8 ≤ pa ∨ pa + n ≤ at2
    (∀ ls n, ls = f.ls.toNat → Instr.wf (.vldx f) = true → Spec.Reached s false va 64 at2 → free 64 →
      ¬ Spec.BlockRefused (s.mem.readN pa 64) → Spec.Masked s f.k.toNat n → Spec.LengthFor s ls n →
      s.th.dsp.queue.length < 32 → s.th.rcp.budget ≤ 256 → s.th.rcp.nodes.length + 1 ≤ s.th.rcp.budget →
      s.th.aritUsed + 2 ≤ 64 →
      ∃ t e, exec (.vldx f) s = .next t ∧ t.th.dsp.queue = s.th.dsp.queue ++ [e] ∧ encode (.vldx f) = some e.word ∧
        t.th.xs = s.th.xs ∧ t.th.pc = s.th.pc + 8) ∧
    (Instr.wf (.arm f) = true → Spec.Reached s true va 16 at2 → free 16 → 0 < v → v < 2 ^ 32 →
      ∃ t, exec (.arm f) s = .next t ∧
        leNat (t.mem.readN pa 16) = v + 2 ^ 64 * (leNat (s.mem.readN pa 16) / 2 ^ 64 % 2 ^ 32) + 2 ^ 96 ∧
        t.th.xs = s.th.xs ∧ t.th.pc = s.th.pc + 8) ∧
    (Instr.wf (.arwait f) = true → Spec.Reached s false va 16 at2 → (s.mem.word at2).extractLsb' 4 2 ≠ 1 → free 16 →
      v < 2 ^ 32 → leNat (s.mem.readN pa 16) / 2 ^ 64 % 2 ^ 32 ≠ v →
      ∃ t, exec (.arwait f) s = .next t ∧
        t.th.xs = (s.withX f.d (BitVec.ofNat 64 (leNat (s.mem.readN pa 16) / 2 ^ 64 % 2 ^ 32))).th.xs ∧
        t.th.pc = s.th.pc + 8) ∧
    (Instr.wf (.nqpost f) = true → s.th.smode = true → Spec.Reached s true va 64 at2 → free 64 →
      (s.mem.word at2).extractLsb' 4 2 = 2 → 0x8000 ≤ (s.x f.d).toNat % 2 ^ 16 →
      4 ≤ leNat (s.mem.readN (pa + 8) 4) → leNat (s.mem.readN (pa + 8) 4) ≤ 16 →
      ∃ t, exec (.nqpost f) s = .next t ∧ t.th.xs = s.th.xs ∧ t.th.pc = s.th.pc + 8) ∧
    (v ≤ 2 ^ 32 → Spec.Apart s va.toNat v → exec (.cinv f) s = .next s.passed)

/-- R112, R169, R170, R177, R362: PGSET of a 64 KiB page in order, with nothing of the thread outstanding and no store
posted, completes in each of its three forms with the old leaf in xD; LAUNCH of a slot on pages in order to a queue that
takes it completes with the old PROD in xD, or all ones where the queue is full; CTXSV to an area of pages in order, and CTXRS
from one whose header and node records are right, complete in S mode while no S-mode work is under way. -/
def Sys2Proof.Spec.TableAndAreaWordsComplete : Prop :=
  ∀ (s : State), Spec.Usual s →
    (∀ (f : FX) (i : Instr), i = .pgsetSet f ∨ i = .pgsetWbset f ∨ i = .pgsetNorm f → s.th.smode = true →
      s.th.fe.wait = none → Spec.Quiet s → (∀ u ∈ s.threads, u.fe.posted = []) →
      let va := s.x f.a
      let e0 := s.mem.word (leafFrame s.task.ptbase + 8 * (va.toNat / 2 ^ 42 % 2 ^ 13))
      let e1 := s.mem.word (leafFrame e0 + 8 * (va.toNat / 2 ^ 29 % 2 ^ 13))
      let e := s.mem.word (leafFrame e1 + 8 * (va.toNat / 2 ^ 16 % 2 ^ 13))
      Spec.Canonical va → tableOk e0 = true → tableOk e1 = true → e.getLsbD 63 = false → e.getLsbD 0 = true →
      (i = .pgsetSet f → (e ^^^ s.x f.b) &&& 0x3F1 = 0 ∨ s.leased (va.toNat / 2 ^ 16 * 2 ^ 16) (2 ^ 16) = false) →
      (i = .pgsetNorm f → e.getLsbD 9 = true) →
      ∃ t, exec i s = .next t ∧ t.th.xs = (s.withX f.d e).th.xs ∧ t.th.pc = s.th.pc + 8) ∧
    (∀ (f : FM) (u : Queue) (at2 : Nat → Nat), s.th.fe.wait = none → Spec.Quiet s → (s.x f.b).toNat < 64 →
      s.queue? s.task.part (s.x f.b).toNat = some u → u.conf.en = true → u.conf.feedLaunch = true →
      s.th.smode = true ∨ u.conf.ulaunch = true →
      let va (k : Nat) : W64 := Spec.addressOf f s + BitVec.ofNat 64 (64 * k)
      (∀ k < (if u.conf.version1 then 3 else 4),
        Spec.Reached s false (va k) 64 (at2 k) ∧ Spec.Settled s false (at2 k)) →
      ∃ t, exec (.launch f) s = .next t ∧ t.th.pc = s.th.pc + 8 ∧ t.th.xs = (s.withX f.d
        (if (u.prod + 2 ^ 32 - u.cons) % 2 ^ 32 < 2 ^ u.conf.size then BitVec.ofNat 64 u.prod
        else 0xFFFFFFFFFFFFFFFF)).th.xs) ∧
    (∀ (f : FM) (at2 : Nat → Nat), s.th.smode = true → (∀ e ∈ s.th.dsp.queue, e.smode = false) →
      s.th.dsp.passes = [] → s.th.dsp.ops = [] →
      let a := Spec.addressOf f s
      let va (k : Nat) : W64 := a + BitVec.ofNat 64 (65536 * k)
      let first := leafFrame (s.mem.word (at2 0))
      a.toNat % 65536 = 0 →
      ((∀ k < 144, Spec.Page s true true (va k) (at2 k) ∧ Spec.Settled s true (at2 k)) →
        ∃ t, exec (.ctxsv f) s = .next t ∧ t.th.tr = { s.th.tr with ctxarea := a } ∧ t.th.dsp.paused = true ∧
          t.th.xs = s.th.xs ∧ t.th.smode = true ∧ t.th.pc = s.th.pc + 8) ∧
      ((∀ k < 144, Spec.Page s true false (va k) (at2 k) ∧ Spec.Settled s false (at2 k)) →
        headerOk (s.mem.readN first 256) s.th.tileCount = true →
        recordsOk (nodeRecords (s.mem.readN (first + 0x2000) 16384)) = true →
        ∃ t, exec (.ctxrs f) s = .next t ∧ t.th.tr.ctxarea = a ∧ t.th.dsp.paused = true ∧ t.th.xs = s.th.xs ∧
          t.th.smode = true ∧ t.th.pc = s.th.pc + 8))

/-- R297, R361: FENCE with nothing of its before-set unperformed completes (`.sv` with no store posted, `.vs` with no recipe
work pending or unfinished, `.all` with neither, `.vv` with room for its entry and for the launch of the roots pending), and
YIELD completes in every state, with 1 in xD where another head is to be placed and 0 where none is. -/
def Sys2Proof.Spec.FencesAndYieldComplete : Prop :=
  (∀ (f : FX) (s : State),
    (f.fnAt 0 2 = 0 ∧ s.th.fe.posted = []) ∨
      (f.fnAt 0 2 = 1 ∧ s.th.hasPending = false ∧ s.th.unfinished = false) ∨
      (f.fnAt 0 2 = 2 ∧ s.th.dsp.queue.length + (if s.th.hasPending then 2 else 1) ≤ 32) ∨
      (f.fnAt 0 2 = 3 ∧ Spec.Quiet s) →
    ∃ t, exec (.fence f) s = .next t ∧ t.th.pc = s.th.pc + 8 ∧ t.th.xs = s.th.xs ∧ t.th.fe.wait = none ∧ t.mem = s.mem) ∧
  ∀ (f : FJ) (s : State), ∃ t, exec (.yield f) s = .next t ∧ t.th.pc = s.th.pc + 8 ∧
    t.th.xs = (s.withX f.d (if s.yieldsTo then 1 else 0)).th.xs ∧ t.mem = s.mem

/-- R99 to R105, R112, R148 to R150, R169, R170, R177, R180, R229, R297, R299 to R305, R327 to R330, R335, R361, R362: where
the words that reach memory or wait for it complete, and YIELD. -/
def Obligations.AccessWordsComplete : Prop :=
  Spec.FencesAndYieldComplete ∧ Spec.LoadsAndStoresComplete ∧ Spec.AtomicsComplete ∧ Spec.BlockAndArrivalWordsComplete ∧ Spec.TableAndAreaWordsComplete

/-! ### What recorded operations compute -/

namespace Sys2Proof.Spec

open Sys2Proof Sys2Proof.Machine

/-- R35: the width in bits of an integer type. -/
def intBits (ty : Nat) : Nat := 8 * 2 ^ (ty / 2)

/-- R36: a number as an element of an integer type: its low bits, or with `sat` those of the nearest value of the type. -/
def asInt (ty : Nat) (sat : Bool) (v : Int) : W64 :=
  (BitVec.ofInt (intBits ty) (if sat then clamp (intLow ty) (intHigh ty) v else v)).setWidth 64

/-- A truth as a mask element. -/
def asMask (b : Bool) : W64 := if b then 1 else 0

/-- R211, R212, R214, R215, R218: the element of an integer operation from those of its sources and its captured scalar. -/
def integerElement (i : Instr) (x a b : W64) : Option W64 :=
  let two (f : FX) (y : W64) (g : Int → Int → Int) : Option W64 :=
    if f.ty.toNat < 8 then
      some (asInt f.ty.toNat (f.fn.getLsbD 0) (g (intNum f.ty.toNat a) (intNum f.ty.toNat y)))
    else none
  let shift (ty n : Nat) (left : Bool) : Option W64 :=
    let m := min n (intBits ty)
    some (asInt ty false (if left then intNum ty a * 2 ^ m else intNum ty a / 2 ^ m))
  let relation (f : FX) (y : W64) : Option W64 :=
    let p := intNum f.ty.toNat a
    let q := intNum f.ty.toNat y
    if f.ty.toNat < 8 then
      some (asMask (match f.fnAt 0 3 with
        | 0 => p == q
        | 1 => p != q
        | 2 => p < q
        | 3 => p ≤ q
        | 4 => q < p
        | _ => q ≤ p))
    else none
  match i with
  | .vadd f => two f b (· + ·)
  | .vadds f => two f x (· + ·)
  | .vsub f => two f b (· - ·)
  | .vmul f => two f b (· * ·)
  | .vmuls f => two f x (· * ·)
  | .vdiv f => two f b fun p q => if q = 0 then -1 else p.tdiv q
  | .vmin f => two f b min
  | .vmins f => two f x min
  | .vmax f => two f b max
  | .vmaxs f => two f x max
  | .vmulh f => two f b fun p q => p * q / 2 ^ intBits f.ty.toNat
  | .vand _ => some (a &&& b)
  | .vor _ => some (a ||| b)
  | .vxor _ => some (a ^^^ b)
  | .vshl f => shift f.ty.toNat b.toNat true
  | .vshr f => shift f.ty.toNat b.toNat false
  | .vshli f => shift f.ty.toNat f.imm.toNat true
  | .vshri f => shift f.ty.toNat f.imm.toNat false
  | .vunary f =>
    let p := intNum f.ty.toNat a
    if f.ty.toNat < 8 then
      some (asInt f.ty.toNat false (match f.fnAt 0 6 with
        | 0 => -p
        | 1 => |p|
        | _ => -p - 1))
    else none
  | .vpopc f =>
    let w := intBits f.ty.toNat
    let count : Nat :=
      match f.fnAt 0 2 with
      | 0 => (List.range w).countP fun k => a.getLsbD k
      | 1 => ((List.range w).takeWhile fun k => !a.getLsbD (w - 1 - k)).length
      | _ => ((List.range w).takeWhile fun k => !a.getLsbD k).length
    some (BitVec.ofNat 64 count)
  | .vcmp f => relation f b
  | .vcmps f => relation f x
  | _ => none

/-- R211 to R213, R215, R217 to R219: the element and flags of an operation of an arithmetic floating-point type, by what the
scalar words compute. -/
def floatElement (i : Instr) (fctrl : BitVec 13) (x a b c : W64) : Option FpRes :=
  let fp (f : FX) (r : FpRes) : Option FpRes := if 8 ≤ f.ty.toNat ∧ f.ty.toNat < 12 then some r else none
  let relation (f : FX) (y : W64) : Option FpRes :=
    let ty := f.ty.toNat
    fp f (match f.fnAt 0 3 with
      | 0 => fcmpVal ty 0 a y
      | 1 => fcmpVal ty 4 a y
      | 2 => fcmpVal ty 1 a y
      | 3 => fcmpVal ty 2 a y
      | 4 => fcmpVal ty 1 y a
      | 5 => fcmpVal ty 2 y a
      | _ => fcmpVal ty 3 a y)
  match i with
  | .vadd f => fp f (faddVal f.ty.toNat fctrl false a b)
  | .vadds f => fp f (faddVal f.ty.toNat fctrl false a x)
  | .vsub f => fp f (faddVal f.ty.toNat fctrl true a b)
  | .vmul f => fp f (fmulVal f.ty.toNat fctrl a b)
  | .vmuls f => fp f (fmulVal f.ty.toNat fctrl a x)
  | .vdiv f => fp f (fdivVal f.ty.toNat fctrl a b)
  | .vmin f => fp f (fminmaxVal f.ty.toNat false a b)
  | .vmins f => fp f (fminmaxVal f.ty.toNat false a x)
  | .vmax f => fp f (fminmaxVal f.ty.toNat true a b)
  | .vmaxs f => fp f (fminmaxVal f.ty.toNat true a x)
  | .vfma f => fp f (ffmaVal f.ty.toNat fctrl (f.fn.getLsbD 0) (f.fn.getLsbD 1) a b c)
  | .vfmas f => fp f (ffmaVal f.ty.toNat fctrl (f.fn.getLsbD 0) (f.fn.getLsbD 1) a x c)
  | .vrnd f => fp f (frndVal f.ty.toNat fctrl (f.fnAt 0 3) (f.fn.getLsbD 3) a)
  | .vcmp f => relation f b
  | .vcmps f => relation f x
  | .vclass f => fp f ⟨asMask (f.fn.getLsbD (fpClass f.ty.toNat a)), 0⟩
  | .vunary f =>
    let ty := f.ty.toNat
    fp f ⟨if f.fnAt 0 6 = 0 then fpSigned ty (!fpNeg ty a) (fpCode ty a) else fpSigned ty false (fpCode ty a), 0⟩
  | _ => none

/-- R223: a special function: its special cases, and where it is algebraic its correctly rounded value. -/
def SpecialFunction (fn rm : Nat) (a : W64) (r : FpRes) : Prop :=
  let neg := fpNeg 0xA a
  let num : ℝ := fpNum 0xA a
  let inf (n : Bool) : W64 := fpSigned 0xA n (fpInfCode 0xA)
  let zero := fpCode 0xA a = 0
  (fpNan 0xA a = true → r = nanOf 0xA [a]) ∧
  match fn with
  | 0 => fpInf 0xA a = true → r = ⟨if neg then 0 else inf false, 0⟩
  | 1 => (zero → r = ⟨inf true, 0x08⟩) ∧ (fpNan 0xA a = false → ¬ zero → neg = true → r = invalid 0xA) ∧
      (fpInf 0xA a = true → neg = false → r = ⟨inf false, 0⟩)
  | 2 => (zero → r = ⟨inf neg, 0x08⟩) ∧ (fpInf 0xA a = true → r = ⟨fpSigned 0xA neg 0, 0⟩) ∧
      (fpFin 0xA a = true → ¬ zero → RoundedTo 0xA rm false (1 / num) r)
  | 3 => (zero → r = ⟨inf neg, 0x08⟩) ∧ (fpNan 0xA a = false → ¬ zero → neg = true → r = invalid 0xA) ∧
      (fpInf 0xA a = true → neg = false → r = ⟨0, 0⟩) ∧
      (fpFin 0xA a = true → num > 0 → RoundedTo 0xA rm false (1 / Real.sqrt num) r)
  | 4 => SqrtSpecial 0xA a r ∧ (fpFin 0xA a = true → num > 0 → RoundedTo 0xA rm false (Real.sqrt num) r)
  | _ => (zero → r = ⟨0x3F000000, 0⟩) ∧ (fpInf 0xA a = true → r = ⟨if neg then 0 else 0x3F800000, 0⟩)

/-- R226, R227, R239: one operation of a fold, and what it starts from where that shows. -/
def foldOf (op ty : Nat) (sat : Bool) (c v : W64) : FpRes :=
  if ty < 8 then
    ⟨match op with
      | 0 => asInt ty sat (intNum ty c + intNum ty v)
      | 1 => asInt ty false (min (intNum ty c) (intNum ty v))
      | _ => asInt ty false (max (intNum ty c) (intNum ty v)), 0⟩
  else
    match op with
    | 0 => faddVal ty 0 false c v
    | 1 => fminmaxVal ty false c v
    | _ => fminmaxVal ty true c v

def foldStart (op ty : Nat) : W64 :=
  match op with
  | 0 => 0
  | 1 => if ty < 8 then asInt ty false (intHigh ty) else fpSigned ty false (fpInfCode ty)
  | _ => if ty < 8 then asInt ty false (intLow ty) else fpSigned ty true (fpInfCode ty)

/-- R55: the first element of a lane or segment. -/
def foldFirstOf (op ty : Nat) (v : W64) : FpRes :=
  if op ≠ 0 ∧ 8 ≤ ty ∧ fpNan ty v = true then ⟨fpCanon ty, 0x10⟩ else ⟨v, 0⟩

/-- A fold's next value, from none before or from one. -/
def foldNext (op ty : Nat) (sat : Bool) (c : Option W64) (v : W64) : FpRes :=
  match c with
  | none => foldFirstOf op ty v
  | some c => foldOf op ty sat c v

/-- A scalar result as a node's element. -/
def elemRes (r : FpRes) : EVal := ⟨some r.val, r.flags, false⟩

/-- What an element finds: its node's word, a mask that holds there, and its sources' elements. -/
def At (w : Work) (n : Node) (i : Instr) (e : Nat) (a b c : W64) : Prop :=
  n.instr = some i ∧ w.pastMask n e = false ∧ w.mask n e = some true ∧ (w.src n.sa e).val = some a ∧
    (w.src n.sb e).val = some b ∧ (w.src n.sc e).val = some c

end Sys2Proof.Spec

/-- R36, R187, R211 to R222: where its mask is true, an element of an operation is what the word computes from its sources'
elements; where it is false, source A's element stays, and a masked-off element of a leaf is zero. The flags join those of the
group, and an enabled one is a fault of that element. Floating-point elements are what the scalar words compute
(ScalarFloatWords, FloatWordsRound). -/
def Sys2Proof.Spec.ElementsOfOperations : Prop :=
  (∀ (w : Work) (g : Group) (n : Node) (i : Instr) (e : Nat) (a b c : W64), Spec.At w n i e a b c →
    (∀ v, Spec.integerElement i n.va a b = some v → w.plainElem g n e = (⟨some v, 0, false⟩, w)) ∧
    (∀ r, Spec.floatElement i n.fctrl n.va a b c = some r →
      w.plainElem g n e = (Spec.elemRes r, w.note n e r.flags)) ∧
    (∀ f, i = .vsfu f → ∃ r, w.plainElem g n e = (Spec.elemRes r, w.note n e r.flags) ∧
      Spec.SpecialFunction (f.fnAt 0 3) (n.fctrl.extractLsb' 0 2).toNat a r) ∧
    (∀ f, i = .vcvt f → n.part = 0 → f.ty.toNat < 14 → f.fnAt 0 4 < 14 → e < 2 ^ 48 →
      let r := fcvtVal f.ty.toNat (f.fnAt 0 4) n.fctrl n.rseed a (BitVec.ofNat 64 e)
      ∃ o, w.plainElem g n e =
        (⟨some (BitVec.ofNat 64 (r.val.toNat % 2 ^ widthOf f.ty.toNat)), r.flags, o⟩, w.note n e r.flags)) ∧
    (∀ f, i = .vflags f → w.plainElem g n e =
      (⟨some (Spec.asMask ((List.range 5).any fun k => (w.src n.sa e).flags.getLsbD k && f.fn.getLsbD k)), 0, false⟩, w)) ∧
    (∀ f, i = .vsel f → w.plainElem g n e = (⟨some (if n.sc = none ∨ c ≠ 0 then a else b), 0, false⟩, w)) ∧
    (∀ f, i = .kop f →
      let p := n.sa.isNone || a != 0
      let q := n.sb.isNone || b != 0
      w.plainElem g n e = (⟨some (Spec.asMask (match f.fnAt 0 3 with
        | 0 => p && q
        | 1 => p || q
        | 2 => p != q
        | 3 => p && !q
        | _ => !p)), 0, false⟩, w))) ∧
  (∀ (w : Work) (g : Group) (n : Node) (e : Nat), w.pastMask n e = false → w.mask n e = some false →
    (n.isLeaf = true → w.plainElem g n e = (⟨some (if n.nty = .elem 0xE then 0x10 else 0), 0, false⟩, w)) ∧
    (∀ j, n.isLeaf = false → n.sa = some j → w.plainElem g n e = (⟨(w.val j e).val, 0, false⟩, w))) ∧
  (∀ (w : Work) (n : Node) (e : Nat) (fl : Flags),
    let t := w.note n e fl
    t.flags = w.flags ||| fl ∧ t.s = w.s ∧ t.memo = w.memo ∧
      ((∀ k < 5, fl.getLsbD k = true → n.fctrl.getLsbD (8 + k) = false) → t.faults = w.faults) ∧
      ((∃ k < 5, fl.getLsbD k = true ∧ n.fctrl.getLsbD (8 + k) = true) →
        t.faults = ⟨e, n.seq, n.pc, 0x12, 0, 0, false⟩ :: w.faults))

/-- R224 to R227, R230, R239: VSLIDE takes its source's element at the distance, and zero outside; VBCAST repeats or expands;
VSPLAT, VIOTA and VTREAD give what they name; a scan, a segmented reduction and a reduction's lane fold element by element in
ascending order, and the final tree of a reduction folds neighbouring lanes first. -/
def Sys2Proof.Spec.ElementsMovedAndFolded : Prop :=
  (∀ (w : Work) (n : Node) (d : Int) (e : Nat), w.mask n e = some true →
    w.slideElem n d e = (if 0 ≤ (e : Int) + d ∧ (e : Int) + d < n.size then ⟨(w.src n.sa ((e : Int) + d).toNat).val, 0, false⟩
      else ⟨some (if n.nty = .elem 0xE then 0x10 else 0), 0, false⟩, w)) ∧
  (∀ (w : Work) (n : Node) (f : FX) (lo hi : Nat), (∀ k ∈ w.back, k.node ≠ n.idx) →
    let from_ (e : Nat) : Nat := if f.fn.getLsbD 0 then e / (n.size / n.va.toNat) else e % n.va.toNat
    (w.bcastNode n f [(lo, hi)]).1 =
      [⟨lo, (List.range' lo (hi - lo)).map fun e => ⟨(w.src n.sa (from_ e)).val, 0, false⟩⟩]) ∧
  (∀ (w : Work) (g : Group) (n : Node) (i : Instr) (e : Nat), n.instr = some i → w.pastMask n e = false →
    w.mask n e = some true →
    (∀ f, i = .vsplat f → w.plainElem g n e = (⟨some n.va, 0, false⟩, w)) ∧
    (∀ f, i = .viota f → w.plainElem g n e =
      (⟨some (Spec.asInt f.ty.toNat false ((n.va.toNat : Int) + e * f.imm.toInt)), 0, false⟩, w)) ∧
    (∀ f, i = .vtread f → (w.s.th.tile f.mt.toNat).poisoned = [] →
      let p := n.va.toNat + e / 128
      w.plainElem g n e = (⟨some ((if f.fn.getLsbD 0 then (w.s.th.tile f.mt.toNat).at (e % 128) p
        else (w.s.th.tile f.mt.toNat).at p (e % 128)).setWidth 64), 0, false⟩, w))) ∧
  (∀ (w : Work) (n : Node) (f : FX) (q : Fold) (e : Nat) (a : W64), (w.src n.sa e).val = some a →
    let op := f.fnAt 0 2
    let ty := f.ty.toNat
    (n.instr = some (.vscan f) → q.lost = false → w.mask n e = some true →
      let r : FpRes := match q.c with
        | none => ⟨a, 0⟩
        | some c => Spec.foldOf op ty (f.fn.getLsbD 3) c a
      w.scanElem n f q e =
        (⟨some (if f.fn.getLsbD 2 then q.c.getD (Spec.foldStart op ty) else r.val), r.flags, false⟩,
          ⟨some r.val, false⟩, w.note n e r.flags)) ∧
    (n.instr = some (.vscan f) → w.mask n e = some false → w.scanElem n f q e = (⟨some a, 0, false⟩, q, w)) ∧
    (∀ fl : Flags, n.instr = some (.vsegred f) → 0 < n.va.toNat → q.lost = false ∨ e % n.va.toNat = 0 →
      let m := n.va.toNat
      let r := Spec.foldNext op ty (f.fn.getLsbD 3) (if e % m = 0 then none else q.c) a
      let raised := (if e % m = 0 then 0 else fl) ||| r.flags
      w.segElem n f q fl e = (if (e + 1) % m = 0 then some ⟨some r.val, raised, false⟩ else none,
        ⟨some r.val, false⟩, raised, w.note n (e / m) r.flags))) ∧
  (∀ (w : Work) (n : Node) (f : FM) (p e : Nat) (v : W64), n.instr = some (.vred f) → 0 < p → (w.lanes n p).length = p →
    let ls := w.lanes n p
    let old := ls.getD (e % p) none
    let ty := f.ty.toNat
    let zero : Prop := if ty < 8 then Spec.intNum ty v = 0 else Spec.fpCode ty v = 0
    (f.fnAt 6 2 = 3 → ∀ k : W64, (zero → k = 0) → (¬ zero → k = 1) →
      ((w.reduce n f p e v).lanes n p) = ls.set (e % p) (some (old.getD 0 + k))) ∧
    (f.fnAt 6 2 ≠ 3 →
      ((w.reduce n f p e v).lanes n p) = ls.set (e % p) (some (Spec.foldNext (f.fnAt 6 2) ty (f.fn.getLsbD 1) old v).val))) ∧
  (∀ (f : FM) (ls : List (Option W64)), Instr.wf (.vred f) = true →
    let op := f.fnAt 6 2
    let ty := f.ty.toNat
    let vs := ls.filterMap id
    let num (v : W64) : Int := Spec.intNum ty v
    let two (a b : W64) : W64 := (Spec.foldOf op ty (f.fn.getLsbD 1) a b).val
    (op = 3 → redResult f ls = (BitVec.ofNat 64 (vs.map BitVec.toNat).sum, 0)) ∧
    (op ≠ 3 → vs = [] → redResult f ls = (Spec.foldStart op ty, 0)) ∧
    (ty < 8 → vs ≠ [] → vs.length ≤ 128 → (∀ v ∈ vs, v.toNat < 2 ^ Spec.intBits ty) →
      (op = 0 → f.fn.getLsbD 1 = false → redResult f ls = (Spec.asInt ty false (vs.map num).sum, 0)) ∧
      (op = 1 → (redResult f ls).1 ∈ vs ∧ ∀ v ∈ vs, num (redResult f ls).1 ≤ num v) ∧
      (op = 2 → (redResult f ls).1 ∈ vs ∧ ∀ v ∈ vs, num v ≤ num (redResult f ls).1)) ∧
    (∀ a b c d : W64, op ≠ 3 → vs = [a, b, c, d] → (redResult f ls).1 = two (two a b) (two c d)))

/-- R193, R234 to R238, R306: what a root does with an element whose mask is true: VST, VSTX and VCST write its bytes where
their address says, VKST its bit; and the bytes of a write take effect under its mask, and no other byte changes. -/
def Sys2Proof.Spec.RootsWriteTheirElements : Prop :=
  (∀ (q : Prep) (p : Nat) (n : Node) (e : Nat) (f : FM) (a b : W64) (off step : Int) (x : Xl) (s1 : State),
    let k := bytesOf f.ty.toNat
    f.ty.toNat < 14 →
    ((n.instr = some (.vst f) ∧ step = (if f.fn.getLsbD 1 then n.vb.toInt else k) ∧ off = e * step) ∨
      (n.instr = some (.vstx f) ∧ step = k ∧ ∃ j m t, n.sb = some j ∧ q.w.s.th.rcp.node? j = some m ∧ m.nty = .elem t ∧
        t < 8 ∧ off = Spec.intNum t b * k) ∨
      (n.instr = some (.vcst f) ∧ step = k ∧ off = q.w.count n * k)) →
    let va := n.va + BitVec.ofInt 64 off
    va.toNat % k = 0 → step % k = 0 → q.w.s.check n.smode 1 va k = .ok (x, s1) → leafCls x.leaf ≠ clsDev →
    leafSd x.leaf = false → leafVer x.leaf = false ∨ n.vc = s1.task.stepno → (s1.heldWrite false x k).1 = false →
    leafLoc x.leaf = false →
    let t := q.rootElem p n e a b
    t.acts = .write ⟨n, e, va, x, leBytes k a.toNat, List.replicate k 0xFF⟩ :: q.acts ∧ t.w.faults = q.w.faults ∧
      t.held = q.held ∧ t.w.blocked = q.w.blocked) ∧
  (∀ (q : Prep) (p : Nat) (n : Node) (e : Nat) (f : FM) (a b : W64) (x : Xl) (s1 : State), n.instr = some (.vkst f) →
    let va := n.va + BitVec.ofNat 64 (e / 8)
    q.w.s.check n.smode 1 va 1 = .ok (x, s1) → leafCls x.leaf ≠ clsDev → leafSd x.leaf = false →
    leafVer x.leaf = false ∨ n.vc = s1.task.stepno → (s1.heldWrite false x 1).1 = false → leafLoc x.leaf = false →
    let bit : Byte := BitVec.ofNat 8 (2 ^ (e % 8))
    (q.rootElem p n e a b).acts = .write ⟨n, e, va, x, [if a = 0 then 0 else bit], [bit]⟩ :: q.acts) ∧
  (∀ (s : State) (r : RootWrite), leafVer r.x.leaf = false → leafLoc r.x.leaf = false → isDram r.x.pa = true →
    s.mem.wf = true → s.channelsOut = [] → r.mask.length = r.bytes.length →
    let t := (s.performActs [.write r]).1
    let old (j : Nat) : Byte := s.mem.read (r.x.pa + j)
    (∀ j < r.bytes.length, t.mem.read (r.x.pa + j) =
      (old j &&& ~~~(r.mask.getD j 0)) ||| (r.bytes.getD j 0 &&& r.mask.getD j 0)) ∧
    Spec.SameOutside s t r.x.pa r.bytes.length ∧ t.th.xs = s.th.xs)

/-- R56, R258, R261, R281: the numbers of the matrix array and of the SSB, which round each step to nearest even as the scalar
words do: MADDT adds or subtracts tiles, MTRN transposes, one k of an FP32 outer product is a fused step at every element,
and a recurrent step of the SSB gives h := a·h + (b·x) at every entry and y := d·x + Σ c·h. -/
def Sys2Proof.Spec.TilesAndStatesTakeTheirValues : Prop :=
  (∀ (s : State) (o : Op) (f : FT), s.th.dsp.matrix = some o → s.th.run = .running → o.going = true → f.mt.toNat < 8 →
    f.ms.toNat < 8 → (s.th.tile f.ms.toNat).poisoned = [] → (∀ k, 8 ≤ k → o.e.fctrl.getLsbD k = false) →
    let bits (t : State) (m i j : Nat) : W64 := ((t.th.tile m).at i j).setWidth 64
    (decodeOpc o.e.word = some (.mtrn f) → ∃ t, exec .matrixUnit s = .next t ∧
      (∀ i < 128, ∀ j < 128, bits t f.mt.toNat i j = bits s f.ms.toNat j i) ∧
      (∀ m < 8, m ≠ f.mt.toNat → t.th.tile m = s.th.tile m) ∧ t.th.xs = s.th.xs ∧ t.mem = s.mem) ∧
    (decodeOpc o.e.word = some (.maddt f) → (s.th.tile f.mt.toNat).poisoned = [] → ∃ t, exec .matrixUnit s = .next t ∧
      (∀ i < 128, ∀ j < 128, bits t f.mt.toNat i j =
        (faddVal 0xA 0 (f.fn.getLsbD 0) (bits s f.mt.toNat i j) (bits s f.ms.toNat i j)).val) ∧
      (∀ m < 8, m ≠ f.mt.toNat → t.th.tile m = s.th.tile m) ∧ t.th.xs = s.th.xs ∧ t.mem = s.mem)) ∧
  (∀ (neg : Bool) (t : Tile) (as : List W64) (row : List Byte), as.length = 128 → row.length = 512 →
    ∃ bs, rowFactors 0xA row = some bs ∧
      let u := (mopTile false neg t (streamFactors 0xA as 1) [bs]).1
      ∀ i < 128, ∀ j < 128, ((u.at i j).setWidth 64 : W64) =
        (ffmaVal 0xA 0 neg false (as.getD i 0) (BitVec.ofNat 64 (leNat ((row.drop (4 * j)).take 4)))
          ((t.at i j).setWidth 64)).val) ∧
  (∀ (hs : List (List W64)) (la d a : W64) (bs cs xs : List W64) (p : Nat), p < hs.length → p < xs.length →
    (∀ h ∈ hs, h.length = bs.length) → cs.length = bs.length → (exp32 (regVal 0xA la)).1 = regVal 0xA a →
    let val (v : W64) : Val := regVal 0xA v
    let r := recurrentStep (hs.map fun h => h.map val) (val la) (val d) (bs.map val) (cs.map val) (xs.map val)
    let x := xs.getD p 0
    let next (n : Nat) : W64 :=
      (ffmaVal 0xA 0 false false a ((hs.getD p []).getD n 0) (fmulVal 0xA 0 (bs.getD n 0) x).val).val
    let dot := (List.range bs.length).foldl (fun z n => (ffmaVal 0xA 0 false false (cs.getD n 0) (next n) z).val) 0
    (∀ n < bs.length, (r.h.getD p []).getD n zeroVal = val (next n)) ∧
    r.y.getD p zeroVal = val (ffmaVal 0xA 0 false false d x dot).val)

/-- R316, R320: a unit of CPY leaves at its destination the bytes that stood at its source, and a unit of CPYF the fill's bytes,
for pages of DRAM in order; no other byte changes. -/
def Sys2Proof.Spec.CopiesMoveTheirBytes : Prop :=
  ∀ (s : State) (o : Op) (f : FM) (at2 at3 : Nat), s.th.dsp.copy = some o → s.th.run = .running → o.going = true →
    o.dev = false → o.keep = [] → Spec.Usual s → (∀ p ∈ s.pairs, p.lines = []) → f.fnAt 3 5 = 0 →
    let k := min 4096 (o.n - o.prog)
    let src := o.e.a + BitVec.ofNat 64 o.prog
    let dst := o.e.c + BitVec.ofNat 64 o.prog
    let pa := Spec.placeOf s dst at3
    Spec.Page s o.e.smode true dst at3 → Spec.Settled s true at3 → dst.toNat % 65536 + k ≤ 65536 →
    (o.e.smode = false → Spec.Leased s.task true dst.toNat k) → (at3 + 8 ≤ pa ∨ pa + k ≤ at3) →
    (decodeOpc o.e.word = some (.cpy f) → Spec.Page s o.e.smode false src at2 → Spec.Settled s false at2 →
      src.toNat % 65536 + k ≤ 65536 → (o.e.smode = false → Spec.Leased s.task false src.toNat k) →
      ∃ t u, exec .copyUnit s = .next t ∧ t.mem.readN pa k = s.mem.readN (Spec.placeOf s src at2) k ∧
        Spec.SameOutside s t pa k ∧ t.th.dsp.copy = some u ∧ u.prog = o.prog + k ∧ t.th.xs = s.th.xs) ∧
    (decodeOpc o.e.word = some (.cpyf f) → f.ty.toNat < 14 → dst.toNat % bytesOf f.ty.toNat = 0 →
      ∃ t u, exec .copyUnit s = .next t ∧
        (∀ j < k, t.mem.read (pa + j) = (leBytes (bytesOf f.ty.toNat) o.e.b.toNat).getD ((o.prog + j) % bytesOf f.ty.toNat) 0) ∧
        Spec.SameOutside s t pa k ∧ t.th.dsp.copy = some u ∧ u.prog = o.prog + k ∧ t.th.xs = s.th.xs)

/-- R36, R55, R56, R187, R193, R211 to R227, R230, R234 to R239, R258, R261, R281, R316, R320: the values that recorded
operations leave in elements, folds, memory, tiles and the SSB. -/
def Obligations.ElementValues : Prop :=
  Spec.ElementsOfOperations ∧ Spec.ElementsMovedAndFolded ∧ Spec.RootsWriteTheirElements ∧
  Spec.TilesAndStatesTakeTheirValues ∧ Spec.CopiesMoveTheirBytes

/-! ### Reset, memory's form, decoding and the step -/

/-- R380, R384: right after reset power is applied and the module is in stage 0: no image, no cell, no task, queue or
partition, the calendar not started, the link's counters at zero and nothing pending. That memory lists nothing, and that
the registers no rule gives a value hold zero, are the model's choices (log entries 2 and 3). Memory is in its canonical
form. -/
def Obligations.ResetState : Prop :=
  State.reset.boot = ⟨true, 0, [], none, [], []⟩ ∧ State.reset.cal.started = false ∧ State.reset.link.txseq = 0 ∧
  State.reset.link.rxdone = 0 ∧ State.reset.link.peerdone = 0 ∧ State.reset.link.peerrst = false ∧
  State.reset.tasks = [] ∧ State.reset.queues = [] ∧ State.reset.parts = [] ∧ State.reset.regions = [] ∧
  State.reset.th.run = .idle ∧ State.reset.rest = [] ∧ State.reset.poison = [] ∧ State.reset.tlb = [] ∧
  State.reset.owed = [] ∧ State.reset.link.width = 0 ∧ State.reset.reports = [] ∧ State.reset.inputs = [] ∧
  State.reset.mem = [] ∧ (∀ r : BitVec 6, State.reset.x r = 0) ∧ State.reset.Inv

/-- Every step keeps memory in its canonical form (log entry 3): addresses strictly rising, no cell that holds what an
unlisted byte reads as. It holds of every state that meets it, not only of those a run reaches. -/
def Obligations.StepKeepsMemoryCanonical : Prop := ∀ s t : State, s.Inv → step s = .next t → t.Inv

/-- R59 to R77: decoding the word of any instruction that has one gives the instruction back, with every operand at every
value its row admits. -/
def Obligations.DecodingUndoesEncoding : Prop :=
  ∀ (i : Instr) (w : W64), i.wf = true → encode i = some w → decode w = .ok i

/-- R59 to R77: a word that decodes is the word of the instruction it decodes to, which is well-formed: no two words stand
for one instruction, and no bit is ignored. -/
def Obligations.EncodingUndoesDecoding : Prop :=
  ∀ (w : W64) (i : Instr), decode w = .ok i → i.wf = true ∧ encode i = some w

/-- R61, R65 to R70: words written out in the spec decode to what they stand for: one of each format, and a pair word. -/
def Obligations.SampleWordsDecode : Prop :=
  decode 0x21880841D0000000 = .ok (.vfma ⟨4, 1, 2, 3, 0xA, 0, 0, 0, 0⟩) ∧
  decode 0x2F103D00FFFFFFFD = .ok (.vslide ⟨8, 7, 0xA, 0, 0, 0, 0xFFFFFFFD⟩) ∧
  decode 0x3204502889000040 = .ok (.vst ⟨2, 5, 0, 0xA, 1, 0, 1, 1, 0, 0, 0x040⟩) ∧
  decode 0x180C000100000000 = .ok (.mfs ⟨6, 0, 0x002, 0, 0⟩) ∧
  decode 0x3100499400000001 = .ok (.vtread ⟨0, 0, 9, 12, 0xA, 0, 0, 0, 0, 0, 0, 1⟩) ∧
  decode 0x6012429800089000 = .ok (.amo ⟨9, 4, 10, 6, 0, 0, 0, 0, 0, 0x89, 0⟩) ∧
  decode 0xA41834005230A800 = .ok (.vaddSlot ⟨3, 1, 0xA, 0, 0⟩ ⟨0x14, 35, 2, 0xA, 0, 0⟩)

/-- What an issued word leaves: the tick at which it completed is noted, unless it begins to wait (R369). -/
def Sys2Proof.Spec.issued (h : HwId) (o : Host.Outcome State Fault Refusal) : Host.Outcome State Fault Refusal :=
  match o with
  | .next t => .next (t.noteIssue h)
  | .fault f => .fault f
  | .refused r => .refused r

/-- R59, R76, R131, R134: when the schedule's choice is to issue and the thread in focus may, its turn on its pair having
come, and the line it has fetched holds a word at the PC that decodes to an instruction, a step is that instruction's effect
on a state in which the thread has been served and no VPASS holds it; after it the device's own traffic goes on, if there is
any, and otherwise only time passes (log entry 4). -/
def Obligations.StepRunsTheDecodedWord : Prop :=
  ∀ (s : State) (cs : List Nat) (l : Line) (i : Instr),
    let s1 : State := { s with choices := cs }
    s.boot.power = true → s.urgent = none → s.inputs = [] → s.choices = 1 :: cs → s1.ready = true → s1.wordNext = true →
    s.th.fe.line = some l → l.bad = none → l.poisoned = false → s.th.smode = true ∨ s.task.inCode s.th.pc.toNat 8 = true →
    decode (BitVec.ofNat 64 (leNat ((l.bytes.drop (s.th.pc.toNat % 64)).take 8))) = .ok i →
    step s = afterwards (Spec.issued s.th.hw (exec i { s1.served with th := s1.th.setWait false })) ∧
    ∀ t : State, t.cal.tick ≤ t.lasts.cal.tick ∧ t.pass = t.flow.lasts ∧
      (t.owed = [] → t.link.waiting = [] → t.link.received = [] →
        t.pass = { t with cal := { t.cal with tick := t.pass.cal.tick }, pace := t.pace.tail })

/-- Log entry 1: a word placed where the thread in focus takes its next instruction is the one the very next step runs. -/
def Obligations.APlacedWordIsRunNext : Prop :=
  ∀ (s : State) (w : W64) (i : Instr), decode w = .ok i → s.th.pc.toNat % 8 = 0 → s.th.slot < 4 →
    let p : State := { s.withFetchWord 64 w.toNat with choices := s.choices }
    step (s.withFetchWord 64 w.toNat) = afterwards (Spec.issued s.th.hw (exec i p.served))
end

