-- ==== Sys2Proof/Laws/Memory.lean ====
section
/-! SUPPORT. Laws/Memory.lean: reads after writes, and every memory operation keeps the canonical form. -/

set_option Elab.async false

namespace Sys2Proof.Laws

open Sys2Proof.Machine

/-! ### Reads after writes -/

/-- An address below every cell reads as the blank value. -/
theorem read_below (m : Memory) (a lo : Nat) (h : Memory.wfFrom lo m = true) (ha : a < lo) :
    m.read a = Memory.blank := by
  induction m generalizing lo with
  | nil => rfl
  | cons d m ih =>
    simp only [Memory.wfFrom, Bool.and_eq_true, decide_eq_true_eq] at h
    have : (d.1 == a) = false := by simp; omega
    simp [Memory.read, this, ih (d.1 + 1) h.2 (by omega)]

/-- Reading the byte just written gives it. -/
theorem read_write_same (m : Memory) (a : Nat) (b : Byte) (lo : Nat) (h : Memory.wfFrom lo m = true) :
    (m.write a b).read a = b := by
  induction m generalizing lo with
  | nil =>
    simp only [Memory.write]
    split
    · next hb => simp [Memory.read, (beq_iff_eq.mp hb)]
    · simp [Memory.read]
  | cons c m ih =>
    simp only [Memory.wfFrom, Bool.and_eq_true, decide_eq_true_eq] at h
    simp only [Memory.write]
    split
    · next hc =>
      have : (c.1 == a) = false := by simp; omega
      simp [Memory.read, this, ih _ h.2]
    · next hc =>
      split
      · next he =>
        split
        · next hb =>
          rw [beq_iff_eq.mp hb]
          exact read_below m a (c.1 + 1) h.2 (by have := beq_iff_eq.mp he; omega)
        · simp [Memory.read]
      · next he =>
        have hne : c.1 ≠ a := by simpa using he
        split
        · next hb =>
          rw [beq_iff_eq.mp hb]
          have : (c.1 == a) = false := by simp [hne]
          simp [Memory.read, this, read_below m a (c.1 + 1) h.2 (by omega)]
        · simp [Memory.read]

/-- A write leaves every other byte alone. -/
theorem read_write_other (m : Memory) (a x : Nat) (b : Byte) (hx : x ≠ a) : (m.write a b).read x = m.read x := by
  have hax : (a == x) = false := by simp; omega
  induction m with
  | nil =>
    simp only [Memory.write]
    split <;> simp [Memory.read, hax]
  | cons c m ih =>
    simp only [Memory.write]
    split
    · simp only [Memory.read, ih]
    · split
      · next he =>
        have : (c.1 == x) = false := by rw [beq_iff_eq.mp he]; exact hax
        split <;> simp [Memory.read, hax, this]
      · split <;> simp [Memory.read, hax]

/-! ### The canonical form -/

/-- The canonical form above a lower bound. -/
theorem wfFrom_mono (m : Memory) (lo lo' : Nat) (h : Memory.wfFrom lo m = true) (hl : lo' ≤ lo) :
    Memory.wfFrom lo' m = true := by
  cases m with
  | nil => rfl
  | cons c m =>
    simp only [Memory.wfFrom, Bool.and_eq_true, decide_eq_true_eq] at h ⊢
    exact ⟨⟨by omega, h.1.2⟩, h.2⟩

/-- A write keeps the canonical form. -/
theorem wfFrom_write (m : Memory) (a : Nat) (b : Byte) (lo : Nat) (h : Memory.wfFrom lo m = true) (ha : lo ≤ a) :
    Memory.wfFrom lo (m.write a b) = true := by
  induction m generalizing lo with
  | nil =>
    simp only [Memory.write]
    split
    · rfl
    · next hb =>
      simp only [Memory.wfFrom, Bool.and_eq_true, decide_eq_true_eq, bne_iff_ne, ne_eq, and_true]
      exact ⟨ha, by simpa using hb⟩
  | cons c m ih =>
    have h0 := h
    simp only [Memory.wfFrom, Bool.and_eq_true, decide_eq_true_eq] at h
    simp only [Memory.write]
    split
    · next hc =>
      simp only [Memory.wfFrom, Bool.and_eq_true, decide_eq_true_eq]
      exact ⟨h.1, ih _ h.2 (by omega)⟩
    · split
      · next he =>
        have hca := beq_iff_eq.mp he
        split
        · exact wfFrom_mono m _ _ h.2 (by omega)
        · next hb =>
          simp only [Memory.wfFrom, Bool.and_eq_true, decide_eq_true_eq, bne_iff_ne, ne_eq]
          exact ⟨⟨ha, by simpa using hb⟩, by rw [← hca]; exact h.2⟩
      · next hc he =>
        have hne : c.1 ≠ a := by simpa using he
        split
        · exact h0
        · next hb =>
          simp only [Memory.wfFrom, Bool.and_eq_true, decide_eq_true_eq, bne_iff_ne, ne_eq]
          exact ⟨⟨ha, by simpa using hb⟩, ⟨⟨by omega, by simpa using h.1.2⟩, h.2⟩⟩

/-- `Memory.write` keeps the canonical form. -/
theorem wf_write (m : Memory) (a : Nat) (b : Byte) (h : m.wf = true) : (m.write a b).wf = true :=
  wfFrom_write m a b 0 h (Nat.zero_le a)

/-- `Memory.writeN` keeps the canonical form. -/
theorem wf_writeN (m : Memory) (a : Nat) (bs : List Byte) (h : m.wf = true) : (m.writeN a bs).wf = true := by
  induction bs generalizing m a with
  | nil => exact h
  | cons b bs ih => exact ih _ _ (wf_write m a b h)

/-- Leaving cells out keeps the canonical form. -/
theorem wfFrom_filter (p : Host.Cell → Bool) (m : Memory) (lo : Nat) (h : Memory.wfFrom lo m = true) :
    Memory.wfFrom lo (m.filter p) = true := by
  induction m generalizing lo with
  | nil => rfl
  | cons c m ih =>
    simp only [Memory.wfFrom, Bool.and_eq_true, decide_eq_true_eq] at h
    rw [List.filter_cons]
    split
    · simp only [Memory.wfFrom, Bool.and_eq_true, decide_eq_true_eq]
      exact ⟨h.1, ih _ h.2⟩
    · exact wfFrom_mono _ _ _ (ih _ h.2) (by omega)

theorem wf_filter (p : Host.Cell → Bool) (m : Memory) (h : m.wf = true) : Memory.wf (m.filter p) = true :=
  wfFrom_filter p m 0 h

/-- Two canonical parts, the second above the first, make a canonical whole. -/
theorem wfFrom_append (m n : Memory) (lo mid : Nat) (hm : Memory.wfFrom lo m = true) (hn : Memory.wfFrom mid n = true)
    (hl : lo ≤ mid) (hb : ∀ c ∈ m, c.1 < mid) : Memory.wfFrom lo (m ++ n) = true := by
  induction m generalizing lo with
  | nil => exact wfFrom_mono n _ _ hn hl
  | cons c m ih =>
    simp only [Memory.wfFrom, Bool.and_eq_true, decide_eq_true_eq] at hm
    simp only [List.cons_append, Memory.wfFrom, Bool.and_eq_true, decide_eq_true_eq]
    exact ⟨hm.1, ih _ hm.2 (hb c (by simp)) fun d hd => hb d (by simp [hd])⟩

/-- Cells that all lie at or above an address are canonical above it. -/
theorem wfFrom_raise (m : Memory) (lo mid : Nat) (h : Memory.wfFrom lo m = true) (hb : ∀ c ∈ m, mid ≤ c.1) :
    Memory.wfFrom mid m = true := by
  cases m with
  | nil => rfl
  | cons c m =>
    simp only [Memory.wfFrom, Bool.and_eq_true, decide_eq_true_eq] at h ⊢
    exact ⟨⟨hb c (by simp), h.1.2⟩, h.2⟩

/-- Cells moved from one place to another, all of them at or above the old place, stay canonical. -/
theorem wfFrom_move (m : Memory) (lo src dst : Nat) (h : Memory.wfFrom lo m = true) (hs : src ≤ lo) :
    Memory.wfFrom (lo - src + dst) (m.map fun c => (c.1 - src + dst, c.2)) = true := by
  induction m generalizing lo with
  | nil => rfl
  | cons c m ih =>
    simp only [Memory.wfFrom, Bool.and_eq_true, decide_eq_true_eq] at h
    simp only [List.map_cons, Memory.wfFrom, Bool.and_eq_true, decide_eq_true_eq]
    have := ih (c.1 + 1) h.2 (by omega)
    exact ⟨⟨by omega, h.1.2⟩, by rw [show c.1 - src + dst + 1 = c.1 + 1 - src + dst by omega]; exact this⟩

/-- `Memory.copyFrame` keeps the canonical form. -/
theorem wf_copyFrame (m : Memory) (src dst : Nat) (h : m.wf = true) : (m.copyFrame src dst).wf = true := by
  have f (p : Host.Cell → Bool) : Memory.wfFrom 0 (m.filter p) = true := wf_filter p m h
  unfold Memory.copyFrame Memory.wf
  have low := f fun c => c.1 < dst
  have mid : Memory.wfFrom dst ((m.filter fun c => decide (src ≤ c.1) && decide (c.1 < src + 0x10000)).map
      fun c => (c.1 - src + dst, c.2)) = true := by
    have := wfFrom_move _ src src dst
      (wfFrom_raise _ 0 src (f fun c => decide (src ≤ c.1) && decide (c.1 < src + 0x10000)) (by simp; omega)) (Nat.le_refl _)
    simpa using this
  have top := wfFrom_raise _ 0 (dst + 0x10000) (f fun c => decide (dst + 0x10000 ≤ c.1)) (by simp)
  refine wfFrom_append _ _ 0 (dst + 0x10000) (wfFrom_append _ _ 0 dst low mid (by omega) (by simp)) top (by omega) ?_
  intro c hc
  simp only [List.mem_append, List.mem_filter, List.mem_map, decide_eq_true_eq, Bool.and_eq_true] at hc
  rcases hc with hc | ⟨d, hd, rfl⟩ <;> simp_all <;> omega

/-! ### Spans -/

/-- A span's bytes are what reading each of them gives. -/
theorem read_dropWhile (m : Memory) (a lo x : Nat) (h : Memory.wfFrom lo m = true) (hx : a ≤ x) :
    Memory.read (m.dropWhile fun c => decide (c.1 < a)) x = m.read x := by
  induction m generalizing lo with
  | nil => rfl
  | cons c m ih =>
    simp only [Memory.wfFrom, Bool.and_eq_true, decide_eq_true_eq] at h
    rw [List.dropWhile_cons]
    split
    · next hc =>
      have hc' : c.1 < a := by simpa using hc
      have : (c.1 == x) = false := by simp; omega
      simp [Memory.read, this, ih _ h.2]
    · rfl

theorem readN_eq (m : Memory) (a n : Nat) (h : m.wf = true) :
    m.readN a n = (List.range n).map fun i => m.read (a + i) := by
  unfold Memory.readN
  refine List.map_congr_left fun i _ => ?_
  exact read_dropWhile m a 0 (a + i) h (by omega)

/-- Bytes outside a span written stay as they were. -/
theorem read_writeN_other (m : Memory) (a x : Nat) (bs : List Byte) (h : x < a ∨ a + bs.length ≤ x) :
    (m.writeN a bs).read x = m.read x := by
  induction bs generalizing m a with
  | nil => rfl
  | cons b bs ih =>
    simp only [List.length_cons] at h
    rw [Memory.writeN, ih _ _ (by omega), read_write_other _ _ _ _ (by omega)]

/-- Each byte of a span written reads as it was written. -/
theorem read_writeN_same (m : Memory) (a i : Nat) (bs : List Byte) (h : m.wf = true) (hi : i < bs.length) :
    (m.writeN a bs).read (a + i) = bs[i] := by
  induction bs generalizing m a i with
  | nil => simp at hi
  | cons b bs ih =>
    rw [Memory.writeN]
    cases i with
    | zero =>
      rw [read_writeN_other _ _ _ _ (by omega)]
      exact read_write_same m a b 0 h
    | succ i =>
      rw [show a + (i + 1) = a + 1 + i by omega, ih _ _ _ (wf_write m a b h) (by simpa using hi)]
      rfl

/-- Reading a span just written gives the bytes written. -/
theorem readN_writeN (m : Memory) (a : Nat) (bs : List Byte) (h : m.wf = true) :
    (m.writeN a bs).readN a bs.length = bs := by
  rw [readN_eq _ _ _ (wf_writeN m a bs h)]
  refine List.ext_getElem (by simp) fun i h1 h2 => ?_
  simp [read_writeN_same m a i bs h h2]

end Sys2Proof.Laws
end

