-- ==== Sys2Proof/Laws/State.lean ====
section
/-! SUPPORT. Laws/State.lean: for each update of the state, each field it leaves alone. -/

set_option Elab.async false

namespace Sys2Proof.Laws

open Sys2Proof.Machine

/-! `s.setX r v` -/

@[simp] theorem setX_rest (s : State) (r : BitVec 6) (v : W64) : (s.setX r v).rest = s.rest := by
  unfold State.setX Thread.setX; split <;> rfl
@[simp] theorem setX_pairs (s : State) (r : BitVec 6) (v : W64) : (s.setX r v).pairs = s.pairs := by
  unfold State.setX Thread.setX; split <;> rfl
@[simp] theorem setX_comms (s : State) (r : BitVec 6) (v : W64) : (s.setX r v).comms = s.comms := by
  unfold State.setX Thread.setX; split <;> rfl
@[simp] theorem setX_tasks (s : State) (r : BitVec 6) (v : W64) : (s.setX r v).tasks = s.tasks := by
  unfold State.setX Thread.setX; split <;> rfl
@[simp] theorem setX_mem (s : State) (r : BitVec 6) (v : W64) : (s.setX r v).mem = s.mem := by
  unfold State.setX Thread.setX; split <;> rfl
@[simp] theorem setX_poison (s : State) (r : BitVec 6) (v : W64) : (s.setX r v).poison = s.poison := by
  unfold State.setX Thread.setX; split <;> rfl
@[simp] theorem setX_stale (s : State) (r : BitVec 6) (v : W64) : (s.setX r v).stale = s.stale := by
  unfold State.setX Thread.setX; split <;> rfl
@[simp] theorem setX_tlb (s : State) (r : BitVec 6) (v : W64) : (s.setX r v).tlb = s.tlb := by
  unfold State.setX Thread.setX; split <;> rfl
@[simp] theorem setX_regions (s : State) (r : BitVec 6) (v : W64) : (s.setX r v).regions = s.regions := by
  unfold State.setX Thread.setX; split <;> rfl
@[simp] theorem setX_fractions (s : State) (r : BitVec 6) (v : W64) : (s.setX r v).fractions = s.fractions := by
  unfold State.setX Thread.setX; split <;> rfl
@[simp] theorem setX_tokens (s : State) (r : BitVec 6) (v : W64) : (s.setX r v).tokens = s.tokens := by
  unfold State.setX Thread.setX; split <;> rfl
@[simp] theorem setX_channelsOut (s : State) (r : BitVec 6) (v : W64) : (s.setX r v).channelsOut = s.channelsOut := by
  unfold State.setX Thread.setX; split <;> rfl
@[simp] theorem setX_parts (s : State) (r : BitVec 6) (v : W64) : (s.setX r v).parts = s.parts := by
  unfold State.setX Thread.setX; split <;> rfl
@[simp] theorem setX_queues (s : State) (r : BitVec 6) (v : W64) : (s.setX r v).queues = s.queues := by
  unfold State.setX Thread.setX; split <;> rfl
@[simp] theorem setX_nextTask (s : State) (r : BitVec 6) (v : W64) : (s.setX r v).nextTask = s.nextTask := by
  unfold State.setX Thread.setX; split <;> rfl
@[simp] theorem setX_activity (s : State) (r : BitVec 6) (v : W64) : (s.setX r v).activity = s.activity := by
  unfold State.setX Thread.setX; split <;> rfl
@[simp] theorem setX_owed (s : State) (r : BitVec 6) (v : W64) : (s.setX r v).owed = s.owed := by
  unfold State.setX Thread.setX; split <;> rfl
@[simp] theorem setX_owedNext (s : State) (r : BitVec 6) (v : W64) : (s.setX r v).owedNext = s.owedNext := by
  unfold State.setX Thread.setX; split <;> rfl
@[simp] theorem setX_draining (s : State) (r : BitVec 6) (v : W64) : (s.setX r v).draining = s.draining := by
  unfold State.setX Thread.setX; split <;> rfl
@[simp] theorem setX_turn (s : State) (r : BitVec 6) (v : W64) : (s.setX r v).turn = s.turn := by
  unfold State.setX Thread.setX; split <;> rfl
@[simp] theorem setX_starts (s : State) (r : BitVec 6) (v : W64) : (s.setX r v).starts = s.starts := by
  unfold State.setX Thread.setX; split <;> rfl
@[simp] theorem setX_preloaded (s : State) (r : BitVec 6) (v : W64) : (s.setX r v).preloaded = s.preloaded := by
  unfold State.setX Thread.setX; split <;> rfl
@[simp] theorem setX_config (s : State) (r : BitVec 6) (v : W64) : (s.setX r v).config = s.config := by
  unfold State.setX Thread.setX; split <;> rfl
@[simp] theorem setX_wallclock (s : State) (r : BitVec 6) (v : W64) : (s.setX r v).wallclock = s.wallclock := by
  unfold State.setX Thread.setX; split <;> rfl
@[simp] theorem setX_cal (s : State) (r : BitVec 6) (v : W64) : (s.setX r v).cal = s.cal := by
  unfold State.setX Thread.setX; split <;> rfl
@[simp] theorem setX_link (s : State) (r : BitVec 6) (v : W64) : (s.setX r v).link = s.link := by
  unfold State.setX Thread.setX; split <;> rfl
@[simp] theorem setX_boot (s : State) (r : BitVec 6) (v : W64) : (s.setX r v).boot = s.boot := by
  unfold State.setX Thread.setX; split <;> rfl
@[simp] theorem setX_reports (s : State) (r : BitVec 6) (v : W64) : (s.setX r v).reports = s.reports := by
  unfold State.setX Thread.setX; split <;> rfl
@[simp] theorem setX_inputs (s : State) (r : BitVec 6) (v : W64) : (s.setX r v).inputs = s.inputs := by
  unfold State.setX Thread.setX; split <;> rfl
@[simp] theorem setX_choices (s : State) (r : BitVec 6) (v : W64) : (s.setX r v).choices = s.choices := by
  unfold State.setX Thread.setX; split <;> rfl
@[simp] theorem setX_pace (s : State) (r : BitVec 6) (v : W64) : (s.setX r v).pace = s.pace := by
  unfold State.setX Thread.setX; split <;> rfl
@[simp] theorem setX_free (s : State) (r : BitVec 6) (v : W64) : (s.setX r v).free = s.free := by
  unfold State.setX Thread.setX; split <;> rfl
@[simp] theorem setX_th_cluster (s : State) (r : BitVec 6) (v : W64) : (s.setX r v).th.cluster = s.th.cluster := by
  unfold State.setX Thread.setX; split <;> rfl
@[simp] theorem setX_th_pair (s : State) (r : BitVec 6) (v : W64) : (s.setX r v).th.pair = s.th.pair := by
  unfold State.setX Thread.setX; split <;> rfl
@[simp] theorem setX_th_slot (s : State) (r : BitVec 6) (v : W64) : (s.setX r v).th.slot = s.th.slot := by
  unfold State.setX Thread.setX; split <;> rfl
@[simp] theorem setX_th_task (s : State) (r : BitVec 6) (v : W64) : (s.setX r v).th.task = s.th.task := by
  unfold State.setX Thread.setX; split <;> rfl
@[simp] theorem setX_th_run (s : State) (r : BitVec 6) (v : W64) : (s.setX r v).th.run = s.th.run := by
  unfold State.setX Thread.setX; split <;> rfl
@[simp] theorem setX_th_endStatus (s : State) (r : BitVec 6) (v : W64) : (s.setX r v).th.endStatus = s.th.endStatus := by
  unfold State.setX Thread.setX; split <;> rfl
@[simp] theorem setX_th_pc (s : State) (r : BitVec 6) (v : W64) : (s.setX r v).th.pc = s.th.pc := by
  unfold State.setX Thread.setX; split <;> rfl
@[simp] theorem setX_th_smode (s : State) (r : BitVec 6) (v : W64) : (s.setX r v).th.smode = s.th.smode := by
  unfold State.setX Thread.setX; split <;> rfl
@[simp] theorem setX_th_sr (s : State) (r : BitVec 6) (v : W64) : (s.setX r v).th.sr = s.th.sr := by
  unfold State.setX Thread.setX; split <;> rfl
@[simp] theorem setX_th_cc (s : State) (r : BitVec 6) (v : W64) : (s.setX r v).th.cc = s.th.cc := by
  unfold State.setX Thread.setX; split <;> rfl
@[simp] theorem setX_th_tr (s : State) (r : BitVec 6) (v : W64) : (s.setX r v).th.tr = s.th.tr := by
  unfold State.setX Thread.setX; split <;> rfl
@[simp] theorem setX_th_rcp (s : State) (r : BitVec 6) (v : W64) : (s.setX r v).th.rcp = s.th.rcp := by
  unfold State.setX Thread.setX; split <;> rfl
@[simp] theorem setX_th_dsp (s : State) (r : BitVec 6) (v : W64) : (s.setX r v).th.dsp = s.th.dsp := by
  unfold State.setX Thread.setX; split <;> rfl
@[simp] theorem setX_th_fe (s : State) (r : BitVec 6) (v : W64) : (s.setX r v).th.fe = s.th.fe := by
  unfold State.setX Thread.setX; split <;> rfl
@[simp] theorem setX_th_tiles (s : State) (r : BitVec 6) (v : W64) : (s.setX r v).th.tiles = s.th.tiles := by
  unfold State.setX Thread.setX; split <;> rfl
@[simp] theorem setX_th_bst (s : State) (r : BitVec 6) (v : W64) : (s.setX r v).th.bst = s.th.bst := by
  unfold State.setX Thread.setX; split <;> rfl
@[simp] theorem setX_th_ssb (s : State) (r : BitVec 6) (v : W64) : (s.setX r v).th.ssb = s.th.ssb := by
  unfold State.setX Thread.setX; split <;> rfl
@[simp] theorem setX_th_lane (s : State) (r : BitVec 6) (v : W64) : (s.setX r v).th.lane = s.th.lane := by
  unfold State.setX Thread.setX; split <;> rfl

/-! `s.withX r v` -/

@[simp] theorem withX_rest (s : State) (r : BitVec 6) (v : W64) : (s.withX r v).rest = s.rest := rfl
@[simp] theorem withX_pairs (s : State) (r : BitVec 6) (v : W64) : (s.withX r v).pairs = s.pairs := rfl
@[simp] theorem withX_comms (s : State) (r : BitVec 6) (v : W64) : (s.withX r v).comms = s.comms := rfl
@[simp] theorem withX_tasks (s : State) (r : BitVec 6) (v : W64) : (s.withX r v).tasks = s.tasks := rfl
@[simp] theorem withX_mem (s : State) (r : BitVec 6) (v : W64) : (s.withX r v).mem = s.mem := rfl
@[simp] theorem withX_poison (s : State) (r : BitVec 6) (v : W64) : (s.withX r v).poison = s.poison := rfl
@[simp] theorem withX_stale (s : State) (r : BitVec 6) (v : W64) : (s.withX r v).stale = s.stale := rfl
@[simp] theorem withX_tlb (s : State) (r : BitVec 6) (v : W64) : (s.withX r v).tlb = s.tlb := rfl
@[simp] theorem withX_regions (s : State) (r : BitVec 6) (v : W64) : (s.withX r v).regions = s.regions := rfl
@[simp] theorem withX_fractions (s : State) (r : BitVec 6) (v : W64) : (s.withX r v).fractions = s.fractions := rfl
@[simp] theorem withX_tokens (s : State) (r : BitVec 6) (v : W64) : (s.withX r v).tokens = s.tokens := rfl
@[simp] theorem withX_channelsOut (s : State) (r : BitVec 6) (v : W64) : (s.withX r v).channelsOut = s.channelsOut := rfl
@[simp] theorem withX_parts (s : State) (r : BitVec 6) (v : W64) : (s.withX r v).parts = s.parts := rfl
@[simp] theorem withX_queues (s : State) (r : BitVec 6) (v : W64) : (s.withX r v).queues = s.queues := rfl
@[simp] theorem withX_nextTask (s : State) (r : BitVec 6) (v : W64) : (s.withX r v).nextTask = s.nextTask := rfl
@[simp] theorem withX_activity (s : State) (r : BitVec 6) (v : W64) : (s.withX r v).activity = s.activity := rfl
@[simp] theorem withX_owed (s : State) (r : BitVec 6) (v : W64) : (s.withX r v).owed = s.owed := rfl
@[simp] theorem withX_owedNext (s : State) (r : BitVec 6) (v : W64) : (s.withX r v).owedNext = s.owedNext := rfl
@[simp] theorem withX_draining (s : State) (r : BitVec 6) (v : W64) : (s.withX r v).draining = s.draining := rfl
@[simp] theorem withX_turn (s : State) (r : BitVec 6) (v : W64) : (s.withX r v).turn = s.turn := rfl
@[simp] theorem withX_starts (s : State) (r : BitVec 6) (v : W64) : (s.withX r v).starts = s.starts := rfl
@[simp] theorem withX_preloaded (s : State) (r : BitVec 6) (v : W64) : (s.withX r v).preloaded = s.preloaded := rfl
@[simp] theorem withX_config (s : State) (r : BitVec 6) (v : W64) : (s.withX r v).config = s.config := rfl
@[simp] theorem withX_wallclock (s : State) (r : BitVec 6) (v : W64) : (s.withX r v).wallclock = s.wallclock := rfl
@[simp] theorem withX_cal (s : State) (r : BitVec 6) (v : W64) : (s.withX r v).cal = s.cal := rfl
@[simp] theorem withX_link (s : State) (r : BitVec 6) (v : W64) : (s.withX r v).link = s.link := rfl
@[simp] theorem withX_boot (s : State) (r : BitVec 6) (v : W64) : (s.withX r v).boot = s.boot := rfl
@[simp] theorem withX_reports (s : State) (r : BitVec 6) (v : W64) : (s.withX r v).reports = s.reports := rfl
@[simp] theorem withX_inputs (s : State) (r : BitVec 6) (v : W64) : (s.withX r v).inputs = s.inputs := rfl
@[simp] theorem withX_choices (s : State) (r : BitVec 6) (v : W64) : (s.withX r v).choices = s.choices := rfl
@[simp] theorem withX_pace (s : State) (r : BitVec 6) (v : W64) : (s.withX r v).pace = s.pace := rfl
@[simp] theorem withX_free (s : State) (r : BitVec 6) (v : W64) : (s.withX r v).free = s.free := rfl
@[simp] theorem withX_th_cluster (s : State) (r : BitVec 6) (v : W64) : (s.withX r v).th.cluster = s.th.cluster := rfl
@[simp] theorem withX_th_pair (s : State) (r : BitVec 6) (v : W64) : (s.withX r v).th.pair = s.th.pair := rfl
@[simp] theorem withX_th_slot (s : State) (r : BitVec 6) (v : W64) : (s.withX r v).th.slot = s.th.slot := rfl
@[simp] theorem withX_th_task (s : State) (r : BitVec 6) (v : W64) : (s.withX r v).th.task = s.th.task := rfl
@[simp] theorem withX_th_run (s : State) (r : BitVec 6) (v : W64) : (s.withX r v).th.run = s.th.run := rfl
@[simp] theorem withX_th_endStatus (s : State) (r : BitVec 6) (v : W64) : (s.withX r v).th.endStatus = s.th.endStatus := rfl
@[simp] theorem withX_th_pc (s : State) (r : BitVec 6) (v : W64) : (s.withX r v).th.pc = s.th.pc := rfl
@[simp] theorem withX_th_smode (s : State) (r : BitVec 6) (v : W64) : (s.withX r v).th.smode = s.th.smode := rfl
@[simp] theorem withX_th_sr (s : State) (r : BitVec 6) (v : W64) : (s.withX r v).th.sr = s.th.sr := rfl
@[simp] theorem withX_th_cc (s : State) (r : BitVec 6) (v : W64) : (s.withX r v).th.cc = s.th.cc := rfl
@[simp] theorem withX_th_tr (s : State) (r : BitVec 6) (v : W64) : (s.withX r v).th.tr = s.th.tr := rfl
@[simp] theorem withX_th_rcp (s : State) (r : BitVec 6) (v : W64) : (s.withX r v).th.rcp = s.th.rcp := rfl
@[simp] theorem withX_th_dsp (s : State) (r : BitVec 6) (v : W64) : (s.withX r v).th.dsp = s.th.dsp := rfl
@[simp] theorem withX_th_fe (s : State) (r : BitVec 6) (v : W64) : (s.withX r v).th.fe = s.th.fe := rfl
@[simp] theorem withX_th_tiles (s : State) (r : BitVec 6) (v : W64) : (s.withX r v).th.tiles = s.th.tiles := rfl
@[simp] theorem withX_th_bst (s : State) (r : BitVec 6) (v : W64) : (s.withX r v).th.bst = s.th.bst := rfl
@[simp] theorem withX_th_ssb (s : State) (r : BitVec 6) (v : W64) : (s.withX r v).th.ssb = s.th.ssb := rfl
@[simp] theorem withX_th_lane (s : State) (r : BitVec 6) (v : W64) : (s.withX r v).th.lane = s.th.lane := rfl

/-! `s.retire` -/

@[simp] theorem retire_rest (s : State) : (s.retire).rest = s.rest := rfl
@[simp] theorem retire_pairs (s : State) : (s.retire).pairs = s.pairs := rfl
@[simp] theorem retire_comms (s : State) : (s.retire).comms = s.comms := rfl
@[simp] theorem retire_tasks (s : State) : (s.retire).tasks = s.tasks := rfl
@[simp] theorem retire_mem (s : State) : (s.retire).mem = s.mem := rfl
@[simp] theorem retire_poison (s : State) : (s.retire).poison = s.poison := rfl
@[simp] theorem retire_stale (s : State) : (s.retire).stale = s.stale := rfl
@[simp] theorem retire_tlb (s : State) : (s.retire).tlb = s.tlb := rfl
@[simp] theorem retire_regions (s : State) : (s.retire).regions = s.regions := rfl
@[simp] theorem retire_fractions (s : State) : (s.retire).fractions = s.fractions := rfl
@[simp] theorem retire_tokens (s : State) : (s.retire).tokens = s.tokens := rfl
@[simp] theorem retire_channelsOut (s : State) : (s.retire).channelsOut = s.channelsOut := rfl
@[simp] theorem retire_parts (s : State) : (s.retire).parts = s.parts := rfl
@[simp] theorem retire_queues (s : State) : (s.retire).queues = s.queues := rfl
@[simp] theorem retire_nextTask (s : State) : (s.retire).nextTask = s.nextTask := rfl
@[simp] theorem retire_activity (s : State) : (s.retire).activity = s.activity := rfl
@[simp] theorem retire_owed (s : State) : (s.retire).owed = s.owed := rfl
@[simp] theorem retire_owedNext (s : State) : (s.retire).owedNext = s.owedNext := rfl
@[simp] theorem retire_draining (s : State) : (s.retire).draining = s.draining := rfl
@[simp] theorem retire_turn (s : State) : (s.retire).turn = s.turn := rfl
@[simp] theorem retire_starts (s : State) : (s.retire).starts = s.starts := rfl
@[simp] theorem retire_preloaded (s : State) : (s.retire).preloaded = s.preloaded := rfl
@[simp] theorem retire_config (s : State) : (s.retire).config = s.config := rfl
@[simp] theorem retire_wallclock (s : State) : (s.retire).wallclock = s.wallclock := rfl
@[simp] theorem retire_cal (s : State) : (s.retire).cal = s.cal := rfl
@[simp] theorem retire_link (s : State) : (s.retire).link = s.link := rfl
@[simp] theorem retire_boot (s : State) : (s.retire).boot = s.boot := rfl
@[simp] theorem retire_reports (s : State) : (s.retire).reports = s.reports := rfl
@[simp] theorem retire_inputs (s : State) : (s.retire).inputs = s.inputs := rfl
@[simp] theorem retire_choices (s : State) : (s.retire).choices = s.choices := rfl
@[simp] theorem retire_pace (s : State) : (s.retire).pace = s.pace := rfl
@[simp] theorem retire_free (s : State) : (s.retire).free = s.free := rfl
@[simp] theorem retire_th_cluster (s : State) : (s.retire).th.cluster = s.th.cluster := rfl
@[simp] theorem retire_th_pair (s : State) : (s.retire).th.pair = s.th.pair := rfl
@[simp] theorem retire_th_slot (s : State) : (s.retire).th.slot = s.th.slot := rfl
@[simp] theorem retire_th_task (s : State) : (s.retire).th.task = s.th.task := rfl
@[simp] theorem retire_th_run (s : State) : (s.retire).th.run = s.th.run := rfl
@[simp] theorem retire_th_endStatus (s : State) : (s.retire).th.endStatus = s.th.endStatus := rfl
@[simp] theorem retire_th_xs (s : State) : (s.retire).th.xs = s.th.xs := rfl
@[simp] theorem retire_th_smode (s : State) : (s.retire).th.smode = s.th.smode := rfl
@[simp] theorem retire_th_sr (s : State) : (s.retire).th.sr = s.th.sr := rfl
@[simp] theorem retire_th_cc (s : State) : (s.retire).th.cc = s.th.cc := rfl
@[simp] theorem retire_th_tr (s : State) : (s.retire).th.tr = s.th.tr := rfl
@[simp] theorem retire_th_rcp (s : State) : (s.retire).th.rcp = s.th.rcp := rfl
@[simp] theorem retire_th_dsp (s : State) : (s.retire).th.dsp = s.th.dsp := rfl
@[simp] theorem retire_th_tiles (s : State) : (s.retire).th.tiles = s.th.tiles := rfl
@[simp] theorem retire_th_bst (s : State) : (s.retire).th.bst = s.th.bst := rfl
@[simp] theorem retire_th_ssb (s : State) : (s.retire).th.ssb = s.th.ssb := rfl
@[simp] theorem retire_th_lane (s : State) : (s.retire).th.lane = s.th.lane := rfl

/-! `s.passed` -/

@[simp] theorem passed_rest (s : State) : (s.passed).rest = s.rest := rfl
@[simp] theorem passed_pairs (s : State) : (s.passed).pairs = s.pairs := rfl
@[simp] theorem passed_comms (s : State) : (s.passed).comms = s.comms := rfl
@[simp] theorem passed_tasks (s : State) : (s.passed).tasks = s.tasks := rfl
@[simp] theorem passed_mem (s : State) : (s.passed).mem = s.mem := rfl
@[simp] theorem passed_poison (s : State) : (s.passed).poison = s.poison := rfl
@[simp] theorem passed_stale (s : State) : (s.passed).stale = s.stale := rfl
@[simp] theorem passed_tlb (s : State) : (s.passed).tlb = s.tlb := rfl
@[simp] theorem passed_regions (s : State) : (s.passed).regions = s.regions := rfl
@[simp] theorem passed_fractions (s : State) : (s.passed).fractions = s.fractions := rfl
@[simp] theorem passed_tokens (s : State) : (s.passed).tokens = s.tokens := rfl
@[simp] theorem passed_channelsOut (s : State) : (s.passed).channelsOut = s.channelsOut := rfl
@[simp] theorem passed_parts (s : State) : (s.passed).parts = s.parts := rfl
@[simp] theorem passed_queues (s : State) : (s.passed).queues = s.queues := rfl
@[simp] theorem passed_nextTask (s : State) : (s.passed).nextTask = s.nextTask := rfl
@[simp] theorem passed_activity (s : State) : (s.passed).activity = s.activity := rfl
@[simp] theorem passed_owed (s : State) : (s.passed).owed = s.owed := rfl
@[simp] theorem passed_owedNext (s : State) : (s.passed).owedNext = s.owedNext := rfl
@[simp] theorem passed_draining (s : State) : (s.passed).draining = s.draining := rfl
@[simp] theorem passed_turn (s : State) : (s.passed).turn = s.turn := rfl
@[simp] theorem passed_starts (s : State) : (s.passed).starts = s.starts := rfl
@[simp] theorem passed_preloaded (s : State) : (s.passed).preloaded = s.preloaded := rfl
@[simp] theorem passed_config (s : State) : (s.passed).config = s.config := rfl
@[simp] theorem passed_wallclock (s : State) : (s.passed).wallclock = s.wallclock := rfl
@[simp] theorem passed_cal (s : State) : (s.passed).cal = s.cal := rfl
@[simp] theorem passed_link (s : State) : (s.passed).link = s.link := rfl
@[simp] theorem passed_boot (s : State) : (s.passed).boot = s.boot := rfl
@[simp] theorem passed_reports (s : State) : (s.passed).reports = s.reports := rfl
@[simp] theorem passed_inputs (s : State) : (s.passed).inputs = s.inputs := rfl
@[simp] theorem passed_choices (s : State) : (s.passed).choices = s.choices := rfl
@[simp] theorem passed_pace (s : State) : (s.passed).pace = s.pace := rfl
@[simp] theorem passed_free (s : State) : (s.passed).free = s.free := rfl
@[simp] theorem passed_th_cluster (s : State) : (s.passed).th.cluster = s.th.cluster := rfl
@[simp] theorem passed_th_pair (s : State) : (s.passed).th.pair = s.th.pair := rfl
@[simp] theorem passed_th_slot (s : State) : (s.passed).th.slot = s.th.slot := rfl
@[simp] theorem passed_th_task (s : State) : (s.passed).th.task = s.th.task := rfl
@[simp] theorem passed_th_run (s : State) : (s.passed).th.run = s.th.run := rfl
@[simp] theorem passed_th_endStatus (s : State) : (s.passed).th.endStatus = s.th.endStatus := rfl
@[simp] theorem passed_th_xs (s : State) : (s.passed).th.xs = s.th.xs := rfl
@[simp] theorem passed_th_smode (s : State) : (s.passed).th.smode = s.th.smode := rfl
@[simp] theorem passed_th_sr (s : State) : (s.passed).th.sr = s.th.sr := rfl
@[simp] theorem passed_th_cc (s : State) : (s.passed).th.cc = s.th.cc := rfl
@[simp] theorem passed_th_tr (s : State) : (s.passed).th.tr = s.th.tr := rfl
@[simp] theorem passed_th_rcp (s : State) : (s.passed).th.rcp = s.th.rcp := rfl
@[simp] theorem passed_th_dsp (s : State) : (s.passed).th.dsp = s.th.dsp := rfl
@[simp] theorem passed_th_tiles (s : State) : (s.passed).th.tiles = s.th.tiles := rfl
@[simp] theorem passed_th_bst (s : State) : (s.passed).th.bst = s.th.bst := rfl
@[simp] theorem passed_th_ssb (s : State) : (s.passed).th.ssb = s.th.ssb := rfl
@[simp] theorem passed_th_lane (s : State) : (s.passed).th.lane = s.th.lane := rfl

/-! `s.wrote r v` -/

@[simp] theorem wrote_rest (s : State) (r : BitVec 6) (v : W64) : (s.wrote r v).rest = s.rest := rfl
@[simp] theorem wrote_pairs (s : State) (r : BitVec 6) (v : W64) : (s.wrote r v).pairs = s.pairs := rfl
@[simp] theorem wrote_comms (s : State) (r : BitVec 6) (v : W64) : (s.wrote r v).comms = s.comms := rfl
@[simp] theorem wrote_tasks (s : State) (r : BitVec 6) (v : W64) : (s.wrote r v).tasks = s.tasks := rfl
@[simp] theorem wrote_mem (s : State) (r : BitVec 6) (v : W64) : (s.wrote r v).mem = s.mem := rfl
@[simp] theorem wrote_poison (s : State) (r : BitVec 6) (v : W64) : (s.wrote r v).poison = s.poison := rfl
@[simp] theorem wrote_stale (s : State) (r : BitVec 6) (v : W64) : (s.wrote r v).stale = s.stale := rfl
@[simp] theorem wrote_tlb (s : State) (r : BitVec 6) (v : W64) : (s.wrote r v).tlb = s.tlb := rfl
@[simp] theorem wrote_regions (s : State) (r : BitVec 6) (v : W64) : (s.wrote r v).regions = s.regions := rfl
@[simp] theorem wrote_fractions (s : State) (r : BitVec 6) (v : W64) : (s.wrote r v).fractions = s.fractions := rfl
@[simp] theorem wrote_tokens (s : State) (r : BitVec 6) (v : W64) : (s.wrote r v).tokens = s.tokens := rfl
@[simp] theorem wrote_channelsOut (s : State) (r : BitVec 6) (v : W64) : (s.wrote r v).channelsOut = s.channelsOut := rfl
@[simp] theorem wrote_parts (s : State) (r : BitVec 6) (v : W64) : (s.wrote r v).parts = s.parts := rfl
@[simp] theorem wrote_queues (s : State) (r : BitVec 6) (v : W64) : (s.wrote r v).queues = s.queues := rfl
@[simp] theorem wrote_nextTask (s : State) (r : BitVec 6) (v : W64) : (s.wrote r v).nextTask = s.nextTask := rfl
@[simp] theorem wrote_activity (s : State) (r : BitVec 6) (v : W64) : (s.wrote r v).activity = s.activity := rfl
@[simp] theorem wrote_owed (s : State) (r : BitVec 6) (v : W64) : (s.wrote r v).owed = s.owed := rfl
@[simp] theorem wrote_owedNext (s : State) (r : BitVec 6) (v : W64) : (s.wrote r v).owedNext = s.owedNext := rfl
@[simp] theorem wrote_draining (s : State) (r : BitVec 6) (v : W64) : (s.wrote r v).draining = s.draining := rfl
@[simp] theorem wrote_turn (s : State) (r : BitVec 6) (v : W64) : (s.wrote r v).turn = s.turn := rfl
@[simp] theorem wrote_starts (s : State) (r : BitVec 6) (v : W64) : (s.wrote r v).starts = s.starts := rfl
@[simp] theorem wrote_preloaded (s : State) (r : BitVec 6) (v : W64) : (s.wrote r v).preloaded = s.preloaded := rfl
@[simp] theorem wrote_config (s : State) (r : BitVec 6) (v : W64) : (s.wrote r v).config = s.config := rfl
@[simp] theorem wrote_wallclock (s : State) (r : BitVec 6) (v : W64) : (s.wrote r v).wallclock = s.wallclock := rfl
@[simp] theorem wrote_cal (s : State) (r : BitVec 6) (v : W64) : (s.wrote r v).cal = s.cal := rfl
@[simp] theorem wrote_link (s : State) (r : BitVec 6) (v : W64) : (s.wrote r v).link = s.link := rfl
@[simp] theorem wrote_boot (s : State) (r : BitVec 6) (v : W64) : (s.wrote r v).boot = s.boot := rfl
@[simp] theorem wrote_reports (s : State) (r : BitVec 6) (v : W64) : (s.wrote r v).reports = s.reports := rfl
@[simp] theorem wrote_inputs (s : State) (r : BitVec 6) (v : W64) : (s.wrote r v).inputs = s.inputs := rfl
@[simp] theorem wrote_choices (s : State) (r : BitVec 6) (v : W64) : (s.wrote r v).choices = s.choices := rfl
@[simp] theorem wrote_pace (s : State) (r : BitVec 6) (v : W64) : (s.wrote r v).pace = s.pace := rfl
@[simp] theorem wrote_free (s : State) (r : BitVec 6) (v : W64) : (s.wrote r v).free = s.free := rfl
@[simp] theorem wrote_th_cluster (s : State) (r : BitVec 6) (v : W64) : (s.wrote r v).th.cluster = s.th.cluster := rfl
@[simp] theorem wrote_th_pair (s : State) (r : BitVec 6) (v : W64) : (s.wrote r v).th.pair = s.th.pair := rfl
@[simp] theorem wrote_th_slot (s : State) (r : BitVec 6) (v : W64) : (s.wrote r v).th.slot = s.th.slot := rfl
@[simp] theorem wrote_th_task (s : State) (r : BitVec 6) (v : W64) : (s.wrote r v).th.task = s.th.task := rfl
@[simp] theorem wrote_th_run (s : State) (r : BitVec 6) (v : W64) : (s.wrote r v).th.run = s.th.run := rfl
@[simp] theorem wrote_th_endStatus (s : State) (r : BitVec 6) (v : W64) : (s.wrote r v).th.endStatus = s.th.endStatus := rfl
@[simp] theorem wrote_th_smode (s : State) (r : BitVec 6) (v : W64) : (s.wrote r v).th.smode = s.th.smode := rfl
@[simp] theorem wrote_th_sr (s : State) (r : BitVec 6) (v : W64) : (s.wrote r v).th.sr = s.th.sr := rfl
@[simp] theorem wrote_th_cc (s : State) (r : BitVec 6) (v : W64) : (s.wrote r v).th.cc = s.th.cc := rfl
@[simp] theorem wrote_th_tr (s : State) (r : BitVec 6) (v : W64) : (s.wrote r v).th.tr = s.th.tr := rfl
@[simp] theorem wrote_th_rcp (s : State) (r : BitVec 6) (v : W64) : (s.wrote r v).th.rcp = s.th.rcp := rfl
@[simp] theorem wrote_th_dsp (s : State) (r : BitVec 6) (v : W64) : (s.wrote r v).th.dsp = s.th.dsp := rfl
@[simp] theorem wrote_th_tiles (s : State) (r : BitVec 6) (v : W64) : (s.wrote r v).th.tiles = s.th.tiles := rfl
@[simp] theorem wrote_th_bst (s : State) (r : BitVec 6) (v : W64) : (s.wrote r v).th.bst = s.th.bst := rfl
@[simp] theorem wrote_th_ssb (s : State) (r : BitVec 6) (v : W64) : (s.wrote r v).th.ssb = s.th.ssb := rfl
@[simp] theorem wrote_th_lane (s : State) (r : BitVec 6) (v : W64) : (s.wrote r v).th.lane = s.th.lane := rfl

/-! `s.sent t` -/

@[simp] theorem sent_rest (s : State) (t : W64) : (s.sent t).rest = s.rest := rfl
@[simp] theorem sent_pairs (s : State) (t : W64) : (s.sent t).pairs = s.pairs := rfl
@[simp] theorem sent_comms (s : State) (t : W64) : (s.sent t).comms = s.comms := rfl
@[simp] theorem sent_tasks (s : State) (t : W64) : (s.sent t).tasks = s.tasks := rfl
@[simp] theorem sent_mem (s : State) (t : W64) : (s.sent t).mem = s.mem := rfl
@[simp] theorem sent_poison (s : State) (t : W64) : (s.sent t).poison = s.poison := rfl
@[simp] theorem sent_stale (s : State) (t : W64) : (s.sent t).stale = s.stale := rfl
@[simp] theorem sent_tlb (s : State) (t : W64) : (s.sent t).tlb = s.tlb := rfl
@[simp] theorem sent_regions (s : State) (t : W64) : (s.sent t).regions = s.regions := rfl
@[simp] theorem sent_fractions (s : State) (t : W64) : (s.sent t).fractions = s.fractions := rfl
@[simp] theorem sent_tokens (s : State) (t : W64) : (s.sent t).tokens = s.tokens := rfl
@[simp] theorem sent_channelsOut (s : State) (t : W64) : (s.sent t).channelsOut = s.channelsOut := rfl
@[simp] theorem sent_parts (s : State) (t : W64) : (s.sent t).parts = s.parts := rfl
@[simp] theorem sent_queues (s : State) (t : W64) : (s.sent t).queues = s.queues := rfl
@[simp] theorem sent_nextTask (s : State) (t : W64) : (s.sent t).nextTask = s.nextTask := rfl
@[simp] theorem sent_activity (s : State) (t : W64) : (s.sent t).activity = s.activity := rfl
@[simp] theorem sent_owed (s : State) (t : W64) : (s.sent t).owed = s.owed := rfl
@[simp] theorem sent_owedNext (s : State) (t : W64) : (s.sent t).owedNext = s.owedNext := rfl
@[simp] theorem sent_draining (s : State) (t : W64) : (s.sent t).draining = s.draining := rfl
@[simp] theorem sent_turn (s : State) (t : W64) : (s.sent t).turn = s.turn := rfl
@[simp] theorem sent_starts (s : State) (t : W64) : (s.sent t).starts = s.starts := rfl
@[simp] theorem sent_preloaded (s : State) (t : W64) : (s.sent t).preloaded = s.preloaded := rfl
@[simp] theorem sent_config (s : State) (t : W64) : (s.sent t).config = s.config := rfl
@[simp] theorem sent_wallclock (s : State) (t : W64) : (s.sent t).wallclock = s.wallclock := rfl
@[simp] theorem sent_cal (s : State) (t : W64) : (s.sent t).cal = s.cal := rfl
@[simp] theorem sent_link (s : State) (t : W64) : (s.sent t).link = s.link := rfl
@[simp] theorem sent_boot (s : State) (t : W64) : (s.sent t).boot = s.boot := rfl
@[simp] theorem sent_reports (s : State) (t : W64) : (s.sent t).reports = s.reports := rfl
@[simp] theorem sent_inputs (s : State) (t : W64) : (s.sent t).inputs = s.inputs := rfl
@[simp] theorem sent_choices (s : State) (t : W64) : (s.sent t).choices = s.choices := rfl
@[simp] theorem sent_pace (s : State) (t : W64) : (s.sent t).pace = s.pace := rfl
@[simp] theorem sent_free (s : State) (t : W64) : (s.sent t).free = s.free := rfl
@[simp] theorem sent_th_cluster (s : State) (t : W64) : (s.sent t).th.cluster = s.th.cluster := rfl
@[simp] theorem sent_th_pair (s : State) (t : W64) : (s.sent t).th.pair = s.th.pair := rfl
@[simp] theorem sent_th_slot (s : State) (t : W64) : (s.sent t).th.slot = s.th.slot := rfl
@[simp] theorem sent_th_task (s : State) (t : W64) : (s.sent t).th.task = s.th.task := rfl
@[simp] theorem sent_th_run (s : State) (t : W64) : (s.sent t).th.run = s.th.run := rfl
@[simp] theorem sent_th_endStatus (s : State) (t : W64) : (s.sent t).th.endStatus = s.th.endStatus := rfl
@[simp] theorem sent_th_xs (s : State) (t : W64) : (s.sent t).th.xs = s.th.xs := rfl
@[simp] theorem sent_th_smode (s : State) (t : W64) : (s.sent t).th.smode = s.th.smode := rfl
@[simp] theorem sent_th_sr (s : State) (t : W64) : (s.sent t).th.sr = s.th.sr := rfl
@[simp] theorem sent_th_cc (s : State) (t : W64) : (s.sent t).th.cc = s.th.cc := rfl
@[simp] theorem sent_th_tr (s : State) (t : W64) : (s.sent t).th.tr = s.th.tr := rfl
@[simp] theorem sent_th_rcp (s : State) (t : W64) : (s.sent t).th.rcp = s.th.rcp := rfl
@[simp] theorem sent_th_dsp (s : State) (t : W64) : (s.sent t).th.dsp = s.th.dsp := rfl
@[simp] theorem sent_th_tiles (s : State) (t : W64) : (s.sent t).th.tiles = s.th.tiles := rfl
@[simp] theorem sent_th_bst (s : State) (t : W64) : (s.sent t).th.bst = s.th.bst := rfl
@[simp] theorem sent_th_ssb (s : State) (t : W64) : (s.sent t).th.ssb = s.th.ssb := rfl
@[simp] theorem sent_th_lane (s : State) (t : W64) : (s.sent t).th.lane = s.th.lane := rfl

/-! `s.jump t` -/

@[simp] theorem jump_rest (s : State) (t : W64) : (s.jump t).rest = s.rest := rfl
@[simp] theorem jump_pairs (s : State) (t : W64) : (s.jump t).pairs = s.pairs := rfl
@[simp] theorem jump_comms (s : State) (t : W64) : (s.jump t).comms = s.comms := rfl
@[simp] theorem jump_tasks (s : State) (t : W64) : (s.jump t).tasks = s.tasks := rfl
@[simp] theorem jump_mem (s : State) (t : W64) : (s.jump t).mem = s.mem := rfl
@[simp] theorem jump_poison (s : State) (t : W64) : (s.jump t).poison = s.poison := rfl
@[simp] theorem jump_stale (s : State) (t : W64) : (s.jump t).stale = s.stale := rfl
@[simp] theorem jump_tlb (s : State) (t : W64) : (s.jump t).tlb = s.tlb := rfl
@[simp] theorem jump_regions (s : State) (t : W64) : (s.jump t).regions = s.regions := rfl
@[simp] theorem jump_fractions (s : State) (t : W64) : (s.jump t).fractions = s.fractions := rfl
@[simp] theorem jump_tokens (s : State) (t : W64) : (s.jump t).tokens = s.tokens := rfl
@[simp] theorem jump_channelsOut (s : State) (t : W64) : (s.jump t).channelsOut = s.channelsOut := rfl
@[simp] theorem jump_parts (s : State) (t : W64) : (s.jump t).parts = s.parts := rfl
@[simp] theorem jump_queues (s : State) (t : W64) : (s.jump t).queues = s.queues := rfl
@[simp] theorem jump_nextTask (s : State) (t : W64) : (s.jump t).nextTask = s.nextTask := rfl
@[simp] theorem jump_activity (s : State) (t : W64) : (s.jump t).activity = s.activity := rfl
@[simp] theorem jump_owed (s : State) (t : W64) : (s.jump t).owed = s.owed := rfl
@[simp] theorem jump_owedNext (s : State) (t : W64) : (s.jump t).owedNext = s.owedNext := rfl
@[simp] theorem jump_draining (s : State) (t : W64) : (s.jump t).draining = s.draining := rfl
@[simp] theorem jump_turn (s : State) (t : W64) : (s.jump t).turn = s.turn := rfl
@[simp] theorem jump_starts (s : State) (t : W64) : (s.jump t).starts = s.starts := rfl
@[simp] theorem jump_preloaded (s : State) (t : W64) : (s.jump t).preloaded = s.preloaded := rfl
@[simp] theorem jump_config (s : State) (t : W64) : (s.jump t).config = s.config := rfl
@[simp] theorem jump_wallclock (s : State) (t : W64) : (s.jump t).wallclock = s.wallclock := rfl
@[simp] theorem jump_cal (s : State) (t : W64) : (s.jump t).cal = s.cal := rfl
@[simp] theorem jump_link (s : State) (t : W64) : (s.jump t).link = s.link := rfl
@[simp] theorem jump_boot (s : State) (t : W64) : (s.jump t).boot = s.boot := rfl
@[simp] theorem jump_reports (s : State) (t : W64) : (s.jump t).reports = s.reports := rfl
@[simp] theorem jump_inputs (s : State) (t : W64) : (s.jump t).inputs = s.inputs := rfl
@[simp] theorem jump_choices (s : State) (t : W64) : (s.jump t).choices = s.choices := rfl
@[simp] theorem jump_pace (s : State) (t : W64) : (s.jump t).pace = s.pace := rfl
@[simp] theorem jump_free (s : State) (t : W64) : (s.jump t).free = s.free := rfl
@[simp] theorem jump_th_cluster (s : State) (t : W64) : (s.jump t).th.cluster = s.th.cluster := rfl
@[simp] theorem jump_th_pair (s : State) (t : W64) : (s.jump t).th.pair = s.th.pair := rfl
@[simp] theorem jump_th_slot (s : State) (t : W64) : (s.jump t).th.slot = s.th.slot := rfl
@[simp] theorem jump_th_task (s : State) (t : W64) : (s.jump t).th.task = s.th.task := rfl
@[simp] theorem jump_th_run (s : State) (t : W64) : (s.jump t).th.run = s.th.run := rfl
@[simp] theorem jump_th_endStatus (s : State) (t : W64) : (s.jump t).th.endStatus = s.th.endStatus := rfl
@[simp] theorem jump_th_xs (s : State) (t : W64) : (s.jump t).th.xs = s.th.xs := rfl
@[simp] theorem jump_th_smode (s : State) (t : W64) : (s.jump t).th.smode = s.th.smode := rfl
@[simp] theorem jump_th_sr (s : State) (t : W64) : (s.jump t).th.sr = s.th.sr := rfl
@[simp] theorem jump_th_cc (s : State) (t : W64) : (s.jump t).th.cc = s.th.cc := rfl
@[simp] theorem jump_th_tr (s : State) (t : W64) : (s.jump t).th.tr = s.th.tr := rfl
@[simp] theorem jump_th_rcp (s : State) (t : W64) : (s.jump t).th.rcp = s.th.rcp := rfl
@[simp] theorem jump_th_dsp (s : State) (t : W64) : (s.jump t).th.dsp = s.th.dsp := rfl
@[simp] theorem jump_th_tiles (s : State) (t : W64) : (s.jump t).th.tiles = s.th.tiles := rfl
@[simp] theorem jump_th_bst (s : State) (t : W64) : (s.jump t).th.bst = s.th.bst := rfl
@[simp] theorem jump_th_ssb (s : State) (t : W64) : (s.jump t).th.ssb = s.th.ssb := rfl
@[simp] theorem jump_th_lane (s : State) (t : W64) : (s.jump t).th.lane = s.th.lane := rfl

/-! `s.raiseFlags f` -/

@[simp] theorem raiseFlags_rest (s : State) (f : Flags) : (s.raiseFlags f).rest = s.rest := rfl
@[simp] theorem raiseFlags_pairs (s : State) (f : Flags) : (s.raiseFlags f).pairs = s.pairs := rfl
@[simp] theorem raiseFlags_comms (s : State) (f : Flags) : (s.raiseFlags f).comms = s.comms := rfl
@[simp] theorem raiseFlags_tasks (s : State) (f : Flags) : (s.raiseFlags f).tasks = s.tasks := rfl
@[simp] theorem raiseFlags_mem (s : State) (f : Flags) : (s.raiseFlags f).mem = s.mem := rfl
@[simp] theorem raiseFlags_poison (s : State) (f : Flags) : (s.raiseFlags f).poison = s.poison := rfl
@[simp] theorem raiseFlags_stale (s : State) (f : Flags) : (s.raiseFlags f).stale = s.stale := rfl
@[simp] theorem raiseFlags_tlb (s : State) (f : Flags) : (s.raiseFlags f).tlb = s.tlb := rfl
@[simp] theorem raiseFlags_regions (s : State) (f : Flags) : (s.raiseFlags f).regions = s.regions := rfl
@[simp] theorem raiseFlags_fractions (s : State) (f : Flags) : (s.raiseFlags f).fractions = s.fractions := rfl
@[simp] theorem raiseFlags_tokens (s : State) (f : Flags) : (s.raiseFlags f).tokens = s.tokens := rfl
@[simp] theorem raiseFlags_channelsOut (s : State) (f : Flags) : (s.raiseFlags f).channelsOut = s.channelsOut := rfl
@[simp] theorem raiseFlags_parts (s : State) (f : Flags) : (s.raiseFlags f).parts = s.parts := rfl
@[simp] theorem raiseFlags_queues (s : State) (f : Flags) : (s.raiseFlags f).queues = s.queues := rfl
@[simp] theorem raiseFlags_nextTask (s : State) (f : Flags) : (s.raiseFlags f).nextTask = s.nextTask := rfl
@[simp] theorem raiseFlags_activity (s : State) (f : Flags) : (s.raiseFlags f).activity = s.activity := rfl
@[simp] theorem raiseFlags_owed (s : State) (f : Flags) : (s.raiseFlags f).owed = s.owed := rfl
@[simp] theorem raiseFlags_owedNext (s : State) (f : Flags) : (s.raiseFlags f).owedNext = s.owedNext := rfl
@[simp] theorem raiseFlags_draining (s : State) (f : Flags) : (s.raiseFlags f).draining = s.draining := rfl
@[simp] theorem raiseFlags_turn (s : State) (f : Flags) : (s.raiseFlags f).turn = s.turn := rfl
@[simp] theorem raiseFlags_starts (s : State) (f : Flags) : (s.raiseFlags f).starts = s.starts := rfl
@[simp] theorem raiseFlags_preloaded (s : State) (f : Flags) : (s.raiseFlags f).preloaded = s.preloaded := rfl
@[simp] theorem raiseFlags_config (s : State) (f : Flags) : (s.raiseFlags f).config = s.config := rfl
@[simp] theorem raiseFlags_wallclock (s : State) (f : Flags) : (s.raiseFlags f).wallclock = s.wallclock := rfl
@[simp] theorem raiseFlags_cal (s : State) (f : Flags) : (s.raiseFlags f).cal = s.cal := rfl
@[simp] theorem raiseFlags_link (s : State) (f : Flags) : (s.raiseFlags f).link = s.link := rfl
@[simp] theorem raiseFlags_boot (s : State) (f : Flags) : (s.raiseFlags f).boot = s.boot := rfl
@[simp] theorem raiseFlags_reports (s : State) (f : Flags) : (s.raiseFlags f).reports = s.reports := rfl
@[simp] theorem raiseFlags_inputs (s : State) (f : Flags) : (s.raiseFlags f).inputs = s.inputs := rfl
@[simp] theorem raiseFlags_choices (s : State) (f : Flags) : (s.raiseFlags f).choices = s.choices := rfl
@[simp] theorem raiseFlags_pace (s : State) (f : Flags) : (s.raiseFlags f).pace = s.pace := rfl
@[simp] theorem raiseFlags_free (s : State) (f : Flags) : (s.raiseFlags f).free = s.free := rfl
@[simp] theorem raiseFlags_th_cluster (s : State) (f : Flags) : (s.raiseFlags f).th.cluster = s.th.cluster := rfl
@[simp] theorem raiseFlags_th_pair (s : State) (f : Flags) : (s.raiseFlags f).th.pair = s.th.pair := rfl
@[simp] theorem raiseFlags_th_slot (s : State) (f : Flags) : (s.raiseFlags f).th.slot = s.th.slot := rfl
@[simp] theorem raiseFlags_th_task (s : State) (f : Flags) : (s.raiseFlags f).th.task = s.th.task := rfl
@[simp] theorem raiseFlags_th_run (s : State) (f : Flags) : (s.raiseFlags f).th.run = s.th.run := rfl
@[simp] theorem raiseFlags_th_endStatus (s : State) (f : Flags) : (s.raiseFlags f).th.endStatus = s.th.endStatus := rfl
@[simp] theorem raiseFlags_th_xs (s : State) (f : Flags) : (s.raiseFlags f).th.xs = s.th.xs := rfl
@[simp] theorem raiseFlags_th_pc (s : State) (f : Flags) : (s.raiseFlags f).th.pc = s.th.pc := rfl
@[simp] theorem raiseFlags_th_smode (s : State) (f : Flags) : (s.raiseFlags f).th.smode = s.th.smode := rfl
@[simp] theorem raiseFlags_th_cc (s : State) (f : Flags) : (s.raiseFlags f).th.cc = s.th.cc := rfl
@[simp] theorem raiseFlags_th_tr (s : State) (f : Flags) : (s.raiseFlags f).th.tr = s.th.tr := rfl
@[simp] theorem raiseFlags_th_rcp (s : State) (f : Flags) : (s.raiseFlags f).th.rcp = s.th.rcp := rfl
@[simp] theorem raiseFlags_th_dsp (s : State) (f : Flags) : (s.raiseFlags f).th.dsp = s.th.dsp := rfl
@[simp] theorem raiseFlags_th_fe (s : State) (f : Flags) : (s.raiseFlags f).th.fe = s.th.fe := rfl
@[simp] theorem raiseFlags_th_tiles (s : State) (f : Flags) : (s.raiseFlags f).th.tiles = s.th.tiles := rfl
@[simp] theorem raiseFlags_th_bst (s : State) (f : Flags) : (s.raiseFlags f).th.bst = s.th.bst := rfl
@[simp] theorem raiseFlags_th_ssb (s : State) (f : Flags) : (s.raiseFlags f).th.ssb = s.th.ssb := rfl
@[simp] theorem raiseFlags_th_lane (s : State) (f : Flags) : (s.raiseFlags f).th.lane = s.th.lane := rfl

/-! `s.addPosted p` -/

@[simp] theorem addPosted_rest (s : State) (p : Posted) : (s.addPosted p).rest = s.rest := rfl
@[simp] theorem addPosted_pairs (s : State) (p : Posted) : (s.addPosted p).pairs = s.pairs := rfl
@[simp] theorem addPosted_comms (s : State) (p : Posted) : (s.addPosted p).comms = s.comms := rfl
@[simp] theorem addPosted_tasks (s : State) (p : Posted) : (s.addPosted p).tasks = s.tasks := rfl
@[simp] theorem addPosted_mem (s : State) (p : Posted) : (s.addPosted p).mem = s.mem := rfl
@[simp] theorem addPosted_poison (s : State) (p : Posted) : (s.addPosted p).poison = s.poison := rfl
@[simp] theorem addPosted_stale (s : State) (p : Posted) : (s.addPosted p).stale = s.stale := rfl
@[simp] theorem addPosted_tlb (s : State) (p : Posted) : (s.addPosted p).tlb = s.tlb := rfl
@[simp] theorem addPosted_regions (s : State) (p : Posted) : (s.addPosted p).regions = s.regions := rfl
@[simp] theorem addPosted_fractions (s : State) (p : Posted) : (s.addPosted p).fractions = s.fractions := rfl
@[simp] theorem addPosted_tokens (s : State) (p : Posted) : (s.addPosted p).tokens = s.tokens := rfl
@[simp] theorem addPosted_channelsOut (s : State) (p : Posted) : (s.addPosted p).channelsOut = s.channelsOut := rfl
@[simp] theorem addPosted_parts (s : State) (p : Posted) : (s.addPosted p).parts = s.parts := rfl
@[simp] theorem addPosted_queues (s : State) (p : Posted) : (s.addPosted p).queues = s.queues := rfl
@[simp] theorem addPosted_nextTask (s : State) (p : Posted) : (s.addPosted p).nextTask = s.nextTask := rfl
@[simp] theorem addPosted_activity (s : State) (p : Posted) : (s.addPosted p).activity = s.activity := rfl
@[simp] theorem addPosted_owed (s : State) (p : Posted) : (s.addPosted p).owed = s.owed := rfl
@[simp] theorem addPosted_owedNext (s : State) (p : Posted) : (s.addPosted p).owedNext = s.owedNext := rfl
@[simp] theorem addPosted_draining (s : State) (p : Posted) : (s.addPosted p).draining = s.draining := rfl
@[simp] theorem addPosted_turn (s : State) (p : Posted) : (s.addPosted p).turn = s.turn := rfl
@[simp] theorem addPosted_starts (s : State) (p : Posted) : (s.addPosted p).starts = s.starts := rfl
@[simp] theorem addPosted_preloaded (s : State) (p : Posted) : (s.addPosted p).preloaded = s.preloaded := rfl
@[simp] theorem addPosted_config (s : State) (p : Posted) : (s.addPosted p).config = s.config := rfl
@[simp] theorem addPosted_wallclock (s : State) (p : Posted) : (s.addPosted p).wallclock = s.wallclock := rfl
@[simp] theorem addPosted_cal (s : State) (p : Posted) : (s.addPosted p).cal = s.cal := rfl
@[simp] theorem addPosted_link (s : State) (p : Posted) : (s.addPosted p).link = s.link := rfl
@[simp] theorem addPosted_boot (s : State) (p : Posted) : (s.addPosted p).boot = s.boot := rfl
@[simp] theorem addPosted_reports (s : State) (p : Posted) : (s.addPosted p).reports = s.reports := rfl
@[simp] theorem addPosted_inputs (s : State) (p : Posted) : (s.addPosted p).inputs = s.inputs := rfl
@[simp] theorem addPosted_choices (s : State) (p : Posted) : (s.addPosted p).choices = s.choices := rfl
@[simp] theorem addPosted_pace (s : State) (p : Posted) : (s.addPosted p).pace = s.pace := rfl
@[simp] theorem addPosted_free (s : State) (p : Posted) : (s.addPosted p).free = s.free := rfl
@[simp] theorem addPosted_th_cluster (s : State) (p : Posted) : (s.addPosted p).th.cluster = s.th.cluster := rfl
@[simp] theorem addPosted_th_pair (s : State) (p : Posted) : (s.addPosted p).th.pair = s.th.pair := rfl
@[simp] theorem addPosted_th_slot (s : State) (p : Posted) : (s.addPosted p).th.slot = s.th.slot := rfl
@[simp] theorem addPosted_th_task (s : State) (p : Posted) : (s.addPosted p).th.task = s.th.task := rfl
@[simp] theorem addPosted_th_run (s : State) (p : Posted) : (s.addPosted p).th.run = s.th.run := rfl
@[simp] theorem addPosted_th_endStatus (s : State) (p : Posted) : (s.addPosted p).th.endStatus = s.th.endStatus := rfl
@[simp] theorem addPosted_th_xs (s : State) (p : Posted) : (s.addPosted p).th.xs = s.th.xs := rfl
@[simp] theorem addPosted_th_pc (s : State) (p : Posted) : (s.addPosted p).th.pc = s.th.pc := rfl
@[simp] theorem addPosted_th_smode (s : State) (p : Posted) : (s.addPosted p).th.smode = s.th.smode := rfl
@[simp] theorem addPosted_th_sr (s : State) (p : Posted) : (s.addPosted p).th.sr = s.th.sr := rfl
@[simp] theorem addPosted_th_cc (s : State) (p : Posted) : (s.addPosted p).th.cc = s.th.cc := rfl
@[simp] theorem addPosted_th_tr (s : State) (p : Posted) : (s.addPosted p).th.tr = s.th.tr := rfl
@[simp] theorem addPosted_th_rcp (s : State) (p : Posted) : (s.addPosted p).th.rcp = s.th.rcp := rfl
@[simp] theorem addPosted_th_dsp (s : State) (p : Posted) : (s.addPosted p).th.dsp = s.th.dsp := rfl
@[simp] theorem addPosted_th_tiles (s : State) (p : Posted) : (s.addPosted p).th.tiles = s.th.tiles := rfl
@[simp] theorem addPosted_th_bst (s : State) (p : Posted) : (s.addPosted p).th.bst = s.th.bst := rfl
@[simp] theorem addPosted_th_ssb (s : State) (p : Posted) : (s.addPosted p).th.ssb = s.th.ssb := rfl
@[simp] theorem addPosted_th_lane (s : State) (p : Posted) : (s.addPosted p).th.lane = s.th.lane := rfl

/-! `s.takeTrap pc i a b c d` -/

@[simp] theorem takeTrap_rest (s : State) (pc : W64) (i : TrapInfo) (a b c d : Bool) : (s.takeTrap pc i a b c d).rest = s.rest := rfl
@[simp] theorem takeTrap_pairs (s : State) (pc : W64) (i : TrapInfo) (a b c d : Bool) : (s.takeTrap pc i a b c d).pairs = s.pairs := rfl
@[simp] theorem takeTrap_tasks (s : State) (pc : W64) (i : TrapInfo) (a b c d : Bool) : (s.takeTrap pc i a b c d).tasks = s.tasks := rfl
@[simp] theorem takeTrap_mem (s : State) (pc : W64) (i : TrapInfo) (a b c d : Bool) : (s.takeTrap pc i a b c d).mem = s.mem := rfl
@[simp] theorem takeTrap_poison (s : State) (pc : W64) (i : TrapInfo) (a b c d : Bool) : (s.takeTrap pc i a b c d).poison = s.poison := rfl
@[simp] theorem takeTrap_stale (s : State) (pc : W64) (i : TrapInfo) (a b c d : Bool) : (s.takeTrap pc i a b c d).stale = s.stale := rfl
@[simp] theorem takeTrap_tlb (s : State) (pc : W64) (i : TrapInfo) (a b c d : Bool) : (s.takeTrap pc i a b c d).tlb = s.tlb := rfl
@[simp] theorem takeTrap_regions (s : State) (pc : W64) (i : TrapInfo) (a b c d : Bool) : (s.takeTrap pc i a b c d).regions = s.regions := rfl
@[simp] theorem takeTrap_fractions (s : State) (pc : W64) (i : TrapInfo) (a b c d : Bool) : (s.takeTrap pc i a b c d).fractions = s.fractions := rfl
@[simp] theorem takeTrap_tokens (s : State) (pc : W64) (i : TrapInfo) (a b c d : Bool) : (s.takeTrap pc i a b c d).tokens = s.tokens := rfl
@[simp] theorem takeTrap_channelsOut (s : State) (pc : W64) (i : TrapInfo) (a b c d : Bool) : (s.takeTrap pc i a b c d).channelsOut = s.channelsOut := rfl
@[simp] theorem takeTrap_parts (s : State) (pc : W64) (i : TrapInfo) (a b c d : Bool) : (s.takeTrap pc i a b c d).parts = s.parts := rfl
@[simp] theorem takeTrap_queues (s : State) (pc : W64) (i : TrapInfo) (a b c d : Bool) : (s.takeTrap pc i a b c d).queues = s.queues := rfl
@[simp] theorem takeTrap_nextTask (s : State) (pc : W64) (i : TrapInfo) (a b c d : Bool) : (s.takeTrap pc i a b c d).nextTask = s.nextTask := rfl
@[simp] theorem takeTrap_activity (s : State) (pc : W64) (i : TrapInfo) (a b c d : Bool) : (s.takeTrap pc i a b c d).activity = s.activity := rfl
@[simp] theorem takeTrap_owed (s : State) (pc : W64) (i : TrapInfo) (a b c d : Bool) : (s.takeTrap pc i a b c d).owed = s.owed := rfl
@[simp] theorem takeTrap_owedNext (s : State) (pc : W64) (i : TrapInfo) (a b c d : Bool) : (s.takeTrap pc i a b c d).owedNext = s.owedNext := rfl
@[simp] theorem takeTrap_draining (s : State) (pc : W64) (i : TrapInfo) (a b c d : Bool) : (s.takeTrap pc i a b c d).draining = s.draining := rfl
@[simp] theorem takeTrap_turn (s : State) (pc : W64) (i : TrapInfo) (a b c d : Bool) : (s.takeTrap pc i a b c d).turn = s.turn := rfl
@[simp] theorem takeTrap_starts (s : State) (pc : W64) (i : TrapInfo) (a b c d : Bool) : (s.takeTrap pc i a b c d).starts = s.starts := rfl
@[simp] theorem takeTrap_preloaded (s : State) (pc : W64) (i : TrapInfo) (a b c d : Bool) : (s.takeTrap pc i a b c d).preloaded = s.preloaded := rfl
@[simp] theorem takeTrap_config (s : State) (pc : W64) (i : TrapInfo) (a b c d : Bool) : (s.takeTrap pc i a b c d).config = s.config := rfl
@[simp] theorem takeTrap_wallclock (s : State) (pc : W64) (i : TrapInfo) (a b c d : Bool) : (s.takeTrap pc i a b c d).wallclock = s.wallclock := rfl
@[simp] theorem takeTrap_cal (s : State) (pc : W64) (i : TrapInfo) (a b c d : Bool) : (s.takeTrap pc i a b c d).cal = s.cal := rfl
@[simp] theorem takeTrap_link (s : State) (pc : W64) (i : TrapInfo) (a b c d : Bool) : (s.takeTrap pc i a b c d).link = s.link := rfl
@[simp] theorem takeTrap_boot (s : State) (pc : W64) (i : TrapInfo) (a b c d : Bool) : (s.takeTrap pc i a b c d).boot = s.boot := rfl
@[simp] theorem takeTrap_reports (s : State) (pc : W64) (i : TrapInfo) (a b c d : Bool) : (s.takeTrap pc i a b c d).reports = s.reports := rfl
@[simp] theorem takeTrap_inputs (s : State) (pc : W64) (i : TrapInfo) (a b c d : Bool) : (s.takeTrap pc i a b c d).inputs = s.inputs := rfl
@[simp] theorem takeTrap_choices (s : State) (pc : W64) (i : TrapInfo) (a b c d : Bool) : (s.takeTrap pc i a b c d).choices = s.choices := rfl
@[simp] theorem takeTrap_pace (s : State) (pc : W64) (i : TrapInfo) (a b c d : Bool) : (s.takeTrap pc i a b c d).pace = s.pace := rfl
@[simp] theorem takeTrap_free (s : State) (pc : W64) (i : TrapInfo) (a b c d : Bool) : (s.takeTrap pc i a b c d).free = s.free := rfl
@[simp] theorem takeTrap_th_cluster (s : State) (pc : W64) (i : TrapInfo) (a b c d : Bool) : (s.takeTrap pc i a b c d).th.cluster = s.th.cluster := rfl
@[simp] theorem takeTrap_th_pair (s : State) (pc : W64) (i : TrapInfo) (a b c d : Bool) : (s.takeTrap pc i a b c d).th.pair = s.th.pair := rfl
@[simp] theorem takeTrap_th_slot (s : State) (pc : W64) (i : TrapInfo) (a b c d : Bool) : (s.takeTrap pc i a b c d).th.slot = s.th.slot := rfl
@[simp] theorem takeTrap_th_task (s : State) (pc : W64) (i : TrapInfo) (a b c d : Bool) : (s.takeTrap pc i a b c d).th.task = s.th.task := rfl
@[simp] theorem takeTrap_th_run (s : State) (pc : W64) (i : TrapInfo) (a b c d : Bool) : (s.takeTrap pc i a b c d).th.run = s.th.run := rfl
@[simp] theorem takeTrap_th_endStatus (s : State) (pc : W64) (i : TrapInfo) (a b c d : Bool) : (s.takeTrap pc i a b c d).th.endStatus = s.th.endStatus := rfl
@[simp] theorem takeTrap_th_xs (s : State) (pc : W64) (i : TrapInfo) (a b c d : Bool) : (s.takeTrap pc i a b c d).th.xs = s.th.xs := rfl
@[simp] theorem takeTrap_th_sr (s : State) (pc : W64) (i : TrapInfo) (a b c d : Bool) : (s.takeTrap pc i a b c d).th.sr = s.th.sr := rfl
@[simp] theorem takeTrap_th_cc (s : State) (pc : W64) (i : TrapInfo) (a b c d : Bool) : (s.takeTrap pc i a b c d).th.cc = s.th.cc := rfl
@[simp] theorem takeTrap_th_rcp (s : State) (pc : W64) (i : TrapInfo) (a b c d : Bool) : (s.takeTrap pc i a b c d).th.rcp = s.th.rcp := rfl
@[simp] theorem takeTrap_th_dsp (s : State) (pc : W64) (i : TrapInfo) (a b c d : Bool) : (s.takeTrap pc i a b c d).th.dsp = s.th.dsp := rfl
@[simp] theorem takeTrap_th_bst (s : State) (pc : W64) (i : TrapInfo) (a b c d : Bool) : (s.takeTrap pc i a b c d).th.bst = s.th.bst := rfl
@[simp] theorem takeTrap_th_lane (s : State) (pc : W64) (i : TrapInfo) (a b c d : Bool) : (s.takeTrap pc i a b c d).th.lane = s.th.lane := rfl

/-! `s.trap i` -/

@[simp] theorem trap_rest (s : State) (i : TrapInfo) : (s.trap i).rest = s.rest := rfl
@[simp] theorem trap_pairs (s : State) (i : TrapInfo) : (s.trap i).pairs = s.pairs := rfl
@[simp] theorem trap_tasks (s : State) (i : TrapInfo) : (s.trap i).tasks = s.tasks := rfl
@[simp] theorem trap_mem (s : State) (i : TrapInfo) : (s.trap i).mem = s.mem := rfl
@[simp] theorem trap_poison (s : State) (i : TrapInfo) : (s.trap i).poison = s.poison := rfl
@[simp] theorem trap_stale (s : State) (i : TrapInfo) : (s.trap i).stale = s.stale := rfl
@[simp] theorem trap_tlb (s : State) (i : TrapInfo) : (s.trap i).tlb = s.tlb := rfl
@[simp] theorem trap_regions (s : State) (i : TrapInfo) : (s.trap i).regions = s.regions := rfl
@[simp] theorem trap_fractions (s : State) (i : TrapInfo) : (s.trap i).fractions = s.fractions := rfl
@[simp] theorem trap_tokens (s : State) (i : TrapInfo) : (s.trap i).tokens = s.tokens := rfl
@[simp] theorem trap_channelsOut (s : State) (i : TrapInfo) : (s.trap i).channelsOut = s.channelsOut := rfl
@[simp] theorem trap_parts (s : State) (i : TrapInfo) : (s.trap i).parts = s.parts := rfl
@[simp] theorem trap_queues (s : State) (i : TrapInfo) : (s.trap i).queues = s.queues := rfl
@[simp] theorem trap_nextTask (s : State) (i : TrapInfo) : (s.trap i).nextTask = s.nextTask := rfl
@[simp] theorem trap_activity (s : State) (i : TrapInfo) : (s.trap i).activity = s.activity := rfl
@[simp] theorem trap_owed (s : State) (i : TrapInfo) : (s.trap i).owed = s.owed := rfl
@[simp] theorem trap_owedNext (s : State) (i : TrapInfo) : (s.trap i).owedNext = s.owedNext := rfl
@[simp] theorem trap_draining (s : State) (i : TrapInfo) : (s.trap i).draining = s.draining := rfl
@[simp] theorem trap_turn (s : State) (i : TrapInfo) : (s.trap i).turn = s.turn := rfl
@[simp] theorem trap_starts (s : State) (i : TrapInfo) : (s.trap i).starts = s.starts := rfl
@[simp] theorem trap_preloaded (s : State) (i : TrapInfo) : (s.trap i).preloaded = s.preloaded := rfl
@[simp] theorem trap_config (s : State) (i : TrapInfo) : (s.trap i).config = s.config := rfl
@[simp] theorem trap_wallclock (s : State) (i : TrapInfo) : (s.trap i).wallclock = s.wallclock := rfl
@[simp] theorem trap_cal (s : State) (i : TrapInfo) : (s.trap i).cal = s.cal := rfl
@[simp] theorem trap_link (s : State) (i : TrapInfo) : (s.trap i).link = s.link := rfl
@[simp] theorem trap_boot (s : State) (i : TrapInfo) : (s.trap i).boot = s.boot := rfl
@[simp] theorem trap_reports (s : State) (i : TrapInfo) : (s.trap i).reports = s.reports := rfl
@[simp] theorem trap_inputs (s : State) (i : TrapInfo) : (s.trap i).inputs = s.inputs := rfl
@[simp] theorem trap_choices (s : State) (i : TrapInfo) : (s.trap i).choices = s.choices := rfl
@[simp] theorem trap_pace (s : State) (i : TrapInfo) : (s.trap i).pace = s.pace := rfl
@[simp] theorem trap_free (s : State) (i : TrapInfo) : (s.trap i).free = s.free := rfl
@[simp] theorem trap_th_cluster (s : State) (i : TrapInfo) : (s.trap i).th.cluster = s.th.cluster := rfl
@[simp] theorem trap_th_pair (s : State) (i : TrapInfo) : (s.trap i).th.pair = s.th.pair := rfl
@[simp] theorem trap_th_slot (s : State) (i : TrapInfo) : (s.trap i).th.slot = s.th.slot := rfl
@[simp] theorem trap_th_task (s : State) (i : TrapInfo) : (s.trap i).th.task = s.th.task := rfl
@[simp] theorem trap_th_run (s : State) (i : TrapInfo) : (s.trap i).th.run = s.th.run := rfl
@[simp] theorem trap_th_endStatus (s : State) (i : TrapInfo) : (s.trap i).th.endStatus = s.th.endStatus := rfl
@[simp] theorem trap_th_xs (s : State) (i : TrapInfo) : (s.trap i).th.xs = s.th.xs := rfl
@[simp] theorem trap_th_sr (s : State) (i : TrapInfo) : (s.trap i).th.sr = s.th.sr := rfl
@[simp] theorem trap_th_cc (s : State) (i : TrapInfo) : (s.trap i).th.cc = s.th.cc := rfl
@[simp] theorem trap_th_rcp (s : State) (i : TrapInfo) : (s.trap i).th.rcp = s.th.rcp := rfl
@[simp] theorem trap_th_dsp (s : State) (i : TrapInfo) : (s.trap i).th.dsp = s.th.dsp := rfl
@[simp] theorem trap_th_bst (s : State) (i : TrapInfo) : (s.trap i).th.bst = s.th.bst := rfl
@[simp] theorem trap_th_lane (s : State) (i : TrapInfo) : (s.trap i).th.lane = s.th.lane := rfl

/-! `s.leaveComm h` -/

@[simp] theorem leaveComm_th (s : State) (h : HwId) : (s.leaveComm h).th = s.th := rfl
@[simp] theorem leaveComm_rest (s : State) (h : HwId) : (s.leaveComm h).rest = s.rest := rfl
@[simp] theorem leaveComm_pairs (s : State) (h : HwId) : (s.leaveComm h).pairs = s.pairs := rfl
@[simp] theorem leaveComm_tasks (s : State) (h : HwId) : (s.leaveComm h).tasks = s.tasks := rfl
@[simp] theorem leaveComm_mem (s : State) (h : HwId) : (s.leaveComm h).mem = s.mem := rfl
@[simp] theorem leaveComm_poison (s : State) (h : HwId) : (s.leaveComm h).poison = s.poison := rfl
@[simp] theorem leaveComm_stale (s : State) (h : HwId) : (s.leaveComm h).stale = s.stale := rfl
@[simp] theorem leaveComm_tlb (s : State) (h : HwId) : (s.leaveComm h).tlb = s.tlb := rfl
@[simp] theorem leaveComm_regions (s : State) (h : HwId) : (s.leaveComm h).regions = s.regions := rfl
@[simp] theorem leaveComm_fractions (s : State) (h : HwId) : (s.leaveComm h).fractions = s.fractions := rfl
@[simp] theorem leaveComm_tokens (s : State) (h : HwId) : (s.leaveComm h).tokens = s.tokens := rfl
@[simp] theorem leaveComm_channelsOut (s : State) (h : HwId) : (s.leaveComm h).channelsOut = s.channelsOut := rfl
@[simp] theorem leaveComm_parts (s : State) (h : HwId) : (s.leaveComm h).parts = s.parts := rfl
@[simp] theorem leaveComm_queues (s : State) (h : HwId) : (s.leaveComm h).queues = s.queues := rfl
@[simp] theorem leaveComm_nextTask (s : State) (h : HwId) : (s.leaveComm h).nextTask = s.nextTask := rfl
@[simp] theorem leaveComm_activity (s : State) (h : HwId) : (s.leaveComm h).activity = s.activity := rfl
@[simp] theorem leaveComm_owed (s : State) (h : HwId) : (s.leaveComm h).owed = s.owed := rfl
@[simp] theorem leaveComm_owedNext (s : State) (h : HwId) : (s.leaveComm h).owedNext = s.owedNext := rfl
@[simp] theorem leaveComm_draining (s : State) (h : HwId) : (s.leaveComm h).draining = s.draining := rfl
@[simp] theorem leaveComm_turn (s : State) (h : HwId) : (s.leaveComm h).turn = s.turn := rfl
@[simp] theorem leaveComm_starts (s : State) (h : HwId) : (s.leaveComm h).starts = s.starts := rfl
@[simp] theorem leaveComm_preloaded (s : State) (h : HwId) : (s.leaveComm h).preloaded = s.preloaded := rfl
@[simp] theorem leaveComm_config (s : State) (h : HwId) : (s.leaveComm h).config = s.config := rfl
@[simp] theorem leaveComm_wallclock (s : State) (h : HwId) : (s.leaveComm h).wallclock = s.wallclock := rfl
@[simp] theorem leaveComm_cal (s : State) (h : HwId) : (s.leaveComm h).cal = s.cal := rfl
@[simp] theorem leaveComm_link (s : State) (h : HwId) : (s.leaveComm h).link = s.link := rfl
@[simp] theorem leaveComm_boot (s : State) (h : HwId) : (s.leaveComm h).boot = s.boot := rfl
@[simp] theorem leaveComm_reports (s : State) (h : HwId) : (s.leaveComm h).reports = s.reports := rfl
@[simp] theorem leaveComm_inputs (s : State) (h : HwId) : (s.leaveComm h).inputs = s.inputs := rfl
@[simp] theorem leaveComm_choices (s : State) (h : HwId) : (s.leaveComm h).choices = s.choices := rfl
@[simp] theorem leaveComm_pace (s : State) (h : HwId) : (s.leaveComm h).pace = s.pace := rfl
@[simp] theorem leaveComm_free (s : State) (h : HwId) : (s.leaveComm h).free = s.free := rfl

/-! `s.setComm c` -/

@[simp] theorem setComm_th (s : State) (c : Comm) : (s.setComm c).th = s.th := rfl
@[simp] theorem setComm_rest (s : State) (c : Comm) : (s.setComm c).rest = s.rest := rfl
@[simp] theorem setComm_pairs (s : State) (c : Comm) : (s.setComm c).pairs = s.pairs := rfl
@[simp] theorem setComm_tasks (s : State) (c : Comm) : (s.setComm c).tasks = s.tasks := rfl
@[simp] theorem setComm_mem (s : State) (c : Comm) : (s.setComm c).mem = s.mem := rfl
@[simp] theorem setComm_poison (s : State) (c : Comm) : (s.setComm c).poison = s.poison := rfl
@[simp] theorem setComm_stale (s : State) (c : Comm) : (s.setComm c).stale = s.stale := rfl
@[simp] theorem setComm_tlb (s : State) (c : Comm) : (s.setComm c).tlb = s.tlb := rfl
@[simp] theorem setComm_regions (s : State) (c : Comm) : (s.setComm c).regions = s.regions := rfl
@[simp] theorem setComm_fractions (s : State) (c : Comm) : (s.setComm c).fractions = s.fractions := rfl
@[simp] theorem setComm_tokens (s : State) (c : Comm) : (s.setComm c).tokens = s.tokens := rfl
@[simp] theorem setComm_channelsOut (s : State) (c : Comm) : (s.setComm c).channelsOut = s.channelsOut := rfl
@[simp] theorem setComm_parts (s : State) (c : Comm) : (s.setComm c).parts = s.parts := rfl
@[simp] theorem setComm_queues (s : State) (c : Comm) : (s.setComm c).queues = s.queues := rfl
@[simp] theorem setComm_nextTask (s : State) (c : Comm) : (s.setComm c).nextTask = s.nextTask := rfl
@[simp] theorem setComm_activity (s : State) (c : Comm) : (s.setComm c).activity = s.activity := rfl
@[simp] theorem setComm_owed (s : State) (c : Comm) : (s.setComm c).owed = s.owed := rfl
@[simp] theorem setComm_owedNext (s : State) (c : Comm) : (s.setComm c).owedNext = s.owedNext := rfl
@[simp] theorem setComm_draining (s : State) (c : Comm) : (s.setComm c).draining = s.draining := rfl
@[simp] theorem setComm_turn (s : State) (c : Comm) : (s.setComm c).turn = s.turn := rfl
@[simp] theorem setComm_starts (s : State) (c : Comm) : (s.setComm c).starts = s.starts := rfl
@[simp] theorem setComm_preloaded (s : State) (c : Comm) : (s.setComm c).preloaded = s.preloaded := rfl
@[simp] theorem setComm_config (s : State) (c : Comm) : (s.setComm c).config = s.config := rfl
@[simp] theorem setComm_wallclock (s : State) (c : Comm) : (s.setComm c).wallclock = s.wallclock := rfl
@[simp] theorem setComm_cal (s : State) (c : Comm) : (s.setComm c).cal = s.cal := rfl
@[simp] theorem setComm_link (s : State) (c : Comm) : (s.setComm c).link = s.link := rfl
@[simp] theorem setComm_boot (s : State) (c : Comm) : (s.setComm c).boot = s.boot := rfl
@[simp] theorem setComm_reports (s : State) (c : Comm) : (s.setComm c).reports = s.reports := rfl
@[simp] theorem setComm_inputs (s : State) (c : Comm) : (s.setComm c).inputs = s.inputs := rfl
@[simp] theorem setComm_choices (s : State) (c : Comm) : (s.setComm c).choices = s.choices := rfl
@[simp] theorem setComm_pace (s : State) (c : Comm) : (s.setComm c).pace = s.pace := rfl
@[simp] theorem setComm_free (s : State) (c : Comm) : (s.setComm c).free = s.free := rfl

/-! `s.report r` -/

@[simp] theorem report_th (s : State) (r : Report) : (s.report r).th = s.th := rfl
@[simp] theorem report_rest (s : State) (r : Report) : (s.report r).rest = s.rest := rfl
@[simp] theorem report_pairs (s : State) (r : Report) : (s.report r).pairs = s.pairs := rfl
@[simp] theorem report_comms (s : State) (r : Report) : (s.report r).comms = s.comms := rfl
@[simp] theorem report_tasks (s : State) (r : Report) : (s.report r).tasks = s.tasks := rfl
@[simp] theorem report_mem (s : State) (r : Report) : (s.report r).mem = s.mem := rfl
@[simp] theorem report_poison (s : State) (r : Report) : (s.report r).poison = s.poison := rfl
@[simp] theorem report_stale (s : State) (r : Report) : (s.report r).stale = s.stale := rfl
@[simp] theorem report_tlb (s : State) (r : Report) : (s.report r).tlb = s.tlb := rfl
@[simp] theorem report_regions (s : State) (r : Report) : (s.report r).regions = s.regions := rfl
@[simp] theorem report_fractions (s : State) (r : Report) : (s.report r).fractions = s.fractions := rfl
@[simp] theorem report_tokens (s : State) (r : Report) : (s.report r).tokens = s.tokens := rfl
@[simp] theorem report_channelsOut (s : State) (r : Report) : (s.report r).channelsOut = s.channelsOut := rfl
@[simp] theorem report_parts (s : State) (r : Report) : (s.report r).parts = s.parts := rfl
@[simp] theorem report_queues (s : State) (r : Report) : (s.report r).queues = s.queues := rfl
@[simp] theorem report_nextTask (s : State) (r : Report) : (s.report r).nextTask = s.nextTask := rfl
@[simp] theorem report_activity (s : State) (r : Report) : (s.report r).activity = s.activity := rfl
@[simp] theorem report_owed (s : State) (r : Report) : (s.report r).owed = s.owed := rfl
@[simp] theorem report_owedNext (s : State) (r : Report) : (s.report r).owedNext = s.owedNext := rfl
@[simp] theorem report_draining (s : State) (r : Report) : (s.report r).draining = s.draining := rfl
@[simp] theorem report_turn (s : State) (r : Report) : (s.report r).turn = s.turn := rfl
@[simp] theorem report_starts (s : State) (r : Report) : (s.report r).starts = s.starts := rfl
@[simp] theorem report_preloaded (s : State) (r : Report) : (s.report r).preloaded = s.preloaded := rfl
@[simp] theorem report_config (s : State) (r : Report) : (s.report r).config = s.config := rfl
@[simp] theorem report_wallclock (s : State) (r : Report) : (s.report r).wallclock = s.wallclock := rfl
@[simp] theorem report_cal (s : State) (r : Report) : (s.report r).cal = s.cal := rfl
@[simp] theorem report_link (s : State) (r : Report) : (s.report r).link = s.link := rfl
@[simp] theorem report_boot (s : State) (r : Report) : (s.report r).boot = s.boot := rfl
@[simp] theorem report_inputs (s : State) (r : Report) : (s.report r).inputs = s.inputs := rfl
@[simp] theorem report_choices (s : State) (r : Report) : (s.report r).choices = s.choices := rfl
@[simp] theorem report_pace (s : State) (r : Report) : (s.report r).pace = s.pace := rfl
@[simp] theorem report_free (s : State) (r : Report) : (s.report r).free = s.free := rfl

/-! `s.mapTask k f` -/

@[simp] theorem mapTask_th (s : State) (k : Nat) (f : Task → Task) : (s.mapTask k f).th = s.th := rfl
@[simp] theorem mapTask_rest (s : State) (k : Nat) (f : Task → Task) : (s.mapTask k f).rest = s.rest := rfl
@[simp] theorem mapTask_pairs (s : State) (k : Nat) (f : Task → Task) : (s.mapTask k f).pairs = s.pairs := rfl
@[simp] theorem mapTask_comms (s : State) (k : Nat) (f : Task → Task) : (s.mapTask k f).comms = s.comms := rfl
@[simp] theorem mapTask_mem (s : State) (k : Nat) (f : Task → Task) : (s.mapTask k f).mem = s.mem := rfl
@[simp] theorem mapTask_poison (s : State) (k : Nat) (f : Task → Task) : (s.mapTask k f).poison = s.poison := rfl
@[simp] theorem mapTask_stale (s : State) (k : Nat) (f : Task → Task) : (s.mapTask k f).stale = s.stale := rfl
@[simp] theorem mapTask_tlb (s : State) (k : Nat) (f : Task → Task) : (s.mapTask k f).tlb = s.tlb := rfl
@[simp] theorem mapTask_regions (s : State) (k : Nat) (f : Task → Task) : (s.mapTask k f).regions = s.regions := rfl
@[simp] theorem mapTask_fractions (s : State) (k : Nat) (f : Task → Task) : (s.mapTask k f).fractions = s.fractions := rfl
@[simp] theorem mapTask_tokens (s : State) (k : Nat) (f : Task → Task) : (s.mapTask k f).tokens = s.tokens := rfl
@[simp] theorem mapTask_channelsOut (s : State) (k : Nat) (f : Task → Task) : (s.mapTask k f).channelsOut = s.channelsOut := rfl
@[simp] theorem mapTask_parts (s : State) (k : Nat) (f : Task → Task) : (s.mapTask k f).parts = s.parts := rfl
@[simp] theorem mapTask_queues (s : State) (k : Nat) (f : Task → Task) : (s.mapTask k f).queues = s.queues := rfl
@[simp] theorem mapTask_nextTask (s : State) (k : Nat) (f : Task → Task) : (s.mapTask k f).nextTask = s.nextTask := rfl
@[simp] theorem mapTask_activity (s : State) (k : Nat) (f : Task → Task) : (s.mapTask k f).activity = s.activity := rfl
@[simp] theorem mapTask_owed (s : State) (k : Nat) (f : Task → Task) : (s.mapTask k f).owed = s.owed := rfl
@[simp] theorem mapTask_owedNext (s : State) (k : Nat) (f : Task → Task) : (s.mapTask k f).owedNext = s.owedNext := rfl
@[simp] theorem mapTask_draining (s : State) (k : Nat) (f : Task → Task) : (s.mapTask k f).draining = s.draining := rfl
@[simp] theorem mapTask_turn (s : State) (k : Nat) (f : Task → Task) : (s.mapTask k f).turn = s.turn := rfl
@[simp] theorem mapTask_starts (s : State) (k : Nat) (f : Task → Task) : (s.mapTask k f).starts = s.starts := rfl
@[simp] theorem mapTask_preloaded (s : State) (k : Nat) (f : Task → Task) : (s.mapTask k f).preloaded = s.preloaded := rfl
@[simp] theorem mapTask_config (s : State) (k : Nat) (f : Task → Task) : (s.mapTask k f).config = s.config := rfl
@[simp] theorem mapTask_wallclock (s : State) (k : Nat) (f : Task → Task) : (s.mapTask k f).wallclock = s.wallclock := rfl
@[simp] theorem mapTask_cal (s : State) (k : Nat) (f : Task → Task) : (s.mapTask k f).cal = s.cal := rfl
@[simp] theorem mapTask_link (s : State) (k : Nat) (f : Task → Task) : (s.mapTask k f).link = s.link := rfl
@[simp] theorem mapTask_boot (s : State) (k : Nat) (f : Task → Task) : (s.mapTask k f).boot = s.boot := rfl
@[simp] theorem mapTask_reports (s : State) (k : Nat) (f : Task → Task) : (s.mapTask k f).reports = s.reports := rfl
@[simp] theorem mapTask_inputs (s : State) (k : Nat) (f : Task → Task) : (s.mapTask k f).inputs = s.inputs := rfl
@[simp] theorem mapTask_choices (s : State) (k : Nat) (f : Task → Task) : (s.mapTask k f).choices = s.choices := rfl
@[simp] theorem mapTask_pace (s : State) (k : Nat) (f : Task → Task) : (s.mapTask k f).pace = s.pace := rfl
@[simp] theorem mapTask_free (s : State) (k : Nat) (f : Task → Task) : (s.mapTask k f).free = s.free := rfl

/-! `s.updTask f` -/

@[simp] theorem updTask_th (s : State) (f : Task → Task) : (s.updTask f).th = s.th := rfl
@[simp] theorem updTask_rest (s : State) (f : Task → Task) : (s.updTask f).rest = s.rest := rfl
@[simp] theorem updTask_pairs (s : State) (f : Task → Task) : (s.updTask f).pairs = s.pairs := rfl
@[simp] theorem updTask_comms (s : State) (f : Task → Task) : (s.updTask f).comms = s.comms := rfl
@[simp] theorem updTask_mem (s : State) (f : Task → Task) : (s.updTask f).mem = s.mem := rfl
@[simp] theorem updTask_poison (s : State) (f : Task → Task) : (s.updTask f).poison = s.poison := rfl
@[simp] theorem updTask_stale (s : State) (f : Task → Task) : (s.updTask f).stale = s.stale := rfl
@[simp] theorem updTask_tlb (s : State) (f : Task → Task) : (s.updTask f).tlb = s.tlb := rfl
@[simp] theorem updTask_regions (s : State) (f : Task → Task) : (s.updTask f).regions = s.regions := rfl
@[simp] theorem updTask_fractions (s : State) (f : Task → Task) : (s.updTask f).fractions = s.fractions := rfl
@[simp] theorem updTask_tokens (s : State) (f : Task → Task) : (s.updTask f).tokens = s.tokens := rfl
@[simp] theorem updTask_channelsOut (s : State) (f : Task → Task) : (s.updTask f).channelsOut = s.channelsOut := rfl
@[simp] theorem updTask_parts (s : State) (f : Task → Task) : (s.updTask f).parts = s.parts := rfl
@[simp] theorem updTask_queues (s : State) (f : Task → Task) : (s.updTask f).queues = s.queues := rfl
@[simp] theorem updTask_nextTask (s : State) (f : Task → Task) : (s.updTask f).nextTask = s.nextTask := rfl
@[simp] theorem updTask_activity (s : State) (f : Task → Task) : (s.updTask f).activity = s.activity := rfl
@[simp] theorem updTask_owed (s : State) (f : Task → Task) : (s.updTask f).owed = s.owed := rfl
@[simp] theorem updTask_owedNext (s : State) (f : Task → Task) : (s.updTask f).owedNext = s.owedNext := rfl
@[simp] theorem updTask_draining (s : State) (f : Task → Task) : (s.updTask f).draining = s.draining := rfl
@[simp] theorem updTask_turn (s : State) (f : Task → Task) : (s.updTask f).turn = s.turn := rfl
@[simp] theorem updTask_starts (s : State) (f : Task → Task) : (s.updTask f).starts = s.starts := rfl
@[simp] theorem updTask_preloaded (s : State) (f : Task → Task) : (s.updTask f).preloaded = s.preloaded := rfl
@[simp] theorem updTask_config (s : State) (f : Task → Task) : (s.updTask f).config = s.config := rfl
@[simp] theorem updTask_wallclock (s : State) (f : Task → Task) : (s.updTask f).wallclock = s.wallclock := rfl
@[simp] theorem updTask_cal (s : State) (f : Task → Task) : (s.updTask f).cal = s.cal := rfl
@[simp] theorem updTask_link (s : State) (f : Task → Task) : (s.updTask f).link = s.link := rfl
@[simp] theorem updTask_boot (s : State) (f : Task → Task) : (s.updTask f).boot = s.boot := rfl
@[simp] theorem updTask_reports (s : State) (f : Task → Task) : (s.updTask f).reports = s.reports := rfl
@[simp] theorem updTask_inputs (s : State) (f : Task → Task) : (s.updTask f).inputs = s.inputs := rfl
@[simp] theorem updTask_choices (s : State) (f : Task → Task) : (s.updTask f).choices = s.choices := rfl
@[simp] theorem updTask_pace (s : State) (f : Task → Task) : (s.updTask f).pace = s.pace := rfl
@[simp] theorem updTask_free (s : State) (f : Task → Task) : (s.updTask f).free = s.free := rfl

/-! `s.mapQueue n q f` -/

@[simp] theorem mapQueue_th (s : State) (n q : Nat) (f : Queue → Queue) : (s.mapQueue n q f).th = s.th := rfl
@[simp] theorem mapQueue_rest (s : State) (n q : Nat) (f : Queue → Queue) : (s.mapQueue n q f).rest = s.rest := rfl
@[simp] theorem mapQueue_pairs (s : State) (n q : Nat) (f : Queue → Queue) : (s.mapQueue n q f).pairs = s.pairs := rfl
@[simp] theorem mapQueue_comms (s : State) (n q : Nat) (f : Queue → Queue) : (s.mapQueue n q f).comms = s.comms := rfl
@[simp] theorem mapQueue_tasks (s : State) (n q : Nat) (f : Queue → Queue) : (s.mapQueue n q f).tasks = s.tasks := rfl
@[simp] theorem mapQueue_mem (s : State) (n q : Nat) (f : Queue → Queue) : (s.mapQueue n q f).mem = s.mem := rfl
@[simp] theorem mapQueue_poison (s : State) (n q : Nat) (f : Queue → Queue) : (s.mapQueue n q f).poison = s.poison := rfl
@[simp] theorem mapQueue_stale (s : State) (n q : Nat) (f : Queue → Queue) : (s.mapQueue n q f).stale = s.stale := rfl
@[simp] theorem mapQueue_tlb (s : State) (n q : Nat) (f : Queue → Queue) : (s.mapQueue n q f).tlb = s.tlb := rfl
@[simp] theorem mapQueue_regions (s : State) (n q : Nat) (f : Queue → Queue) : (s.mapQueue n q f).regions = s.regions := rfl
@[simp] theorem mapQueue_fractions (s : State) (n q : Nat) (f : Queue → Queue) : (s.mapQueue n q f).fractions = s.fractions := rfl
@[simp] theorem mapQueue_tokens (s : State) (n q : Nat) (f : Queue → Queue) : (s.mapQueue n q f).tokens = s.tokens := rfl
@[simp] theorem mapQueue_channelsOut (s : State) (n q : Nat) (f : Queue → Queue) : (s.mapQueue n q f).channelsOut = s.channelsOut := rfl
@[simp] theorem mapQueue_parts (s : State) (n q : Nat) (f : Queue → Queue) : (s.mapQueue n q f).parts = s.parts := rfl
@[simp] theorem mapQueue_nextTask (s : State) (n q : Nat) (f : Queue → Queue) : (s.mapQueue n q f).nextTask = s.nextTask := rfl
@[simp] theorem mapQueue_activity (s : State) (n q : Nat) (f : Queue → Queue) : (s.mapQueue n q f).activity = s.activity := rfl
@[simp] theorem mapQueue_owed (s : State) (n q : Nat) (f : Queue → Queue) : (s.mapQueue n q f).owed = s.owed := rfl
@[simp] theorem mapQueue_owedNext (s : State) (n q : Nat) (f : Queue → Queue) : (s.mapQueue n q f).owedNext = s.owedNext := rfl
@[simp] theorem mapQueue_draining (s : State) (n q : Nat) (f : Queue → Queue) : (s.mapQueue n q f).draining = s.draining := rfl
@[simp] theorem mapQueue_turn (s : State) (n q : Nat) (f : Queue → Queue) : (s.mapQueue n q f).turn = s.turn := rfl
@[simp] theorem mapQueue_starts (s : State) (n q : Nat) (f : Queue → Queue) : (s.mapQueue n q f).starts = s.starts := rfl
@[simp] theorem mapQueue_preloaded (s : State) (n q : Nat) (f : Queue → Queue) : (s.mapQueue n q f).preloaded = s.preloaded := rfl
@[simp] theorem mapQueue_config (s : State) (n q : Nat) (f : Queue → Queue) : (s.mapQueue n q f).config = s.config := rfl
@[simp] theorem mapQueue_wallclock (s : State) (n q : Nat) (f : Queue → Queue) : (s.mapQueue n q f).wallclock = s.wallclock := rfl
@[simp] theorem mapQueue_cal (s : State) (n q : Nat) (f : Queue → Queue) : (s.mapQueue n q f).cal = s.cal := rfl
@[simp] theorem mapQueue_link (s : State) (n q : Nat) (f : Queue → Queue) : (s.mapQueue n q f).link = s.link := rfl
@[simp] theorem mapQueue_boot (s : State) (n q : Nat) (f : Queue → Queue) : (s.mapQueue n q f).boot = s.boot := rfl
@[simp] theorem mapQueue_reports (s : State) (n q : Nat) (f : Queue → Queue) : (s.mapQueue n q f).reports = s.reports := rfl
@[simp] theorem mapQueue_inputs (s : State) (n q : Nat) (f : Queue → Queue) : (s.mapQueue n q f).inputs = s.inputs := rfl
@[simp] theorem mapQueue_choices (s : State) (n q : Nat) (f : Queue → Queue) : (s.mapQueue n q f).choices = s.choices := rfl
@[simp] theorem mapQueue_pace (s : State) (n q : Nat) (f : Queue → Queue) : (s.mapQueue n q f).pace = s.pace := rfl
@[simp] theorem mapQueue_free (s : State) (n q : Nat) (f : Queue → Queue) : (s.mapQueue n q f).free = s.free := rfl

/-! `s.storeBytes a b` -/

@[simp] theorem storeBytes_th (s : State) (a : Nat) (b : List Byte) : (s.storeBytes a b).th = s.th := rfl
@[simp] theorem storeBytes_rest (s : State) (a : Nat) (b : List Byte) : (s.storeBytes a b).rest = s.rest := rfl
@[simp] theorem storeBytes_pairs (s : State) (a : Nat) (b : List Byte) : (s.storeBytes a b).pairs = s.pairs := rfl
@[simp] theorem storeBytes_comms (s : State) (a : Nat) (b : List Byte) : (s.storeBytes a b).comms = s.comms := rfl
@[simp] theorem storeBytes_tasks (s : State) (a : Nat) (b : List Byte) : (s.storeBytes a b).tasks = s.tasks := rfl
@[simp] theorem storeBytes_tlb (s : State) (a : Nat) (b : List Byte) : (s.storeBytes a b).tlb = s.tlb := rfl
@[simp] theorem storeBytes_regions (s : State) (a : Nat) (b : List Byte) : (s.storeBytes a b).regions = s.regions := rfl
@[simp] theorem storeBytes_fractions (s : State) (a : Nat) (b : List Byte) : (s.storeBytes a b).fractions = s.fractions := rfl
@[simp] theorem storeBytes_tokens (s : State) (a : Nat) (b : List Byte) : (s.storeBytes a b).tokens = s.tokens := rfl
@[simp] theorem storeBytes_channelsOut (s : State) (a : Nat) (b : List Byte) : (s.storeBytes a b).channelsOut = s.channelsOut := rfl
@[simp] theorem storeBytes_parts (s : State) (a : Nat) (b : List Byte) : (s.storeBytes a b).parts = s.parts := rfl
@[simp] theorem storeBytes_queues (s : State) (a : Nat) (b : List Byte) : (s.storeBytes a b).queues = s.queues := rfl
@[simp] theorem storeBytes_nextTask (s : State) (a : Nat) (b : List Byte) : (s.storeBytes a b).nextTask = s.nextTask := rfl
@[simp] theorem storeBytes_activity (s : State) (a : Nat) (b : List Byte) : (s.storeBytes a b).activity = s.activity := rfl
@[simp] theorem storeBytes_owed (s : State) (a : Nat) (b : List Byte) : (s.storeBytes a b).owed = s.owed := rfl
@[simp] theorem storeBytes_owedNext (s : State) (a : Nat) (b : List Byte) : (s.storeBytes a b).owedNext = s.owedNext := rfl
@[simp] theorem storeBytes_draining (s : State) (a : Nat) (b : List Byte) : (s.storeBytes a b).draining = s.draining := rfl
@[simp] theorem storeBytes_turn (s : State) (a : Nat) (b : List Byte) : (s.storeBytes a b).turn = s.turn := rfl
@[simp] theorem storeBytes_starts (s : State) (a : Nat) (b : List Byte) : (s.storeBytes a b).starts = s.starts := rfl
@[simp] theorem storeBytes_preloaded (s : State) (a : Nat) (b : List Byte) : (s.storeBytes a b).preloaded = s.preloaded := rfl
@[simp] theorem storeBytes_config (s : State) (a : Nat) (b : List Byte) : (s.storeBytes a b).config = s.config := rfl
@[simp] theorem storeBytes_wallclock (s : State) (a : Nat) (b : List Byte) : (s.storeBytes a b).wallclock = s.wallclock := rfl
@[simp] theorem storeBytes_cal (s : State) (a : Nat) (b : List Byte) : (s.storeBytes a b).cal = s.cal := rfl
@[simp] theorem storeBytes_link (s : State) (a : Nat) (b : List Byte) : (s.storeBytes a b).link = s.link := rfl
@[simp] theorem storeBytes_boot (s : State) (a : Nat) (b : List Byte) : (s.storeBytes a b).boot = s.boot := rfl
@[simp] theorem storeBytes_reports (s : State) (a : Nat) (b : List Byte) : (s.storeBytes a b).reports = s.reports := rfl
@[simp] theorem storeBytes_inputs (s : State) (a : Nat) (b : List Byte) : (s.storeBytes a b).inputs = s.inputs := rfl
@[simp] theorem storeBytes_choices (s : State) (a : Nat) (b : List Byte) : (s.storeBytes a b).choices = s.choices := rfl
@[simp] theorem storeBytes_pace (s : State) (a : Nat) (b : List Byte) : (s.storeBytes a b).pace = s.pace := rfl
@[simp] theorem storeBytes_free (s : State) (a : Nat) (b : List Byte) : (s.storeBytes a b).free = s.free := rfl

/-! `s.cacheXlat c w u va` -/

@[simp] theorem cacheXlat_th (s : State) (c : Ctx) (w : Walked) (u : Bool) (va : W64) : (s.cacheXlat c w u va).th = s.th := rfl
@[simp] theorem cacheXlat_rest (s : State) (c : Ctx) (w : Walked) (u : Bool) (va : W64) : (s.cacheXlat c w u va).rest = s.rest := rfl
@[simp] theorem cacheXlat_pairs (s : State) (c : Ctx) (w : Walked) (u : Bool) (va : W64) : (s.cacheXlat c w u va).pairs = s.pairs := rfl
@[simp] theorem cacheXlat_comms (s : State) (c : Ctx) (w : Walked) (u : Bool) (va : W64) : (s.cacheXlat c w u va).comms = s.comms := rfl
@[simp] theorem cacheXlat_tasks (s : State) (c : Ctx) (w : Walked) (u : Bool) (va : W64) : (s.cacheXlat c w u va).tasks = s.tasks := rfl
@[simp] theorem cacheXlat_mem (s : State) (c : Ctx) (w : Walked) (u : Bool) (va : W64) : (s.cacheXlat c w u va).mem = s.mem := rfl
@[simp] theorem cacheXlat_poison (s : State) (c : Ctx) (w : Walked) (u : Bool) (va : W64) : (s.cacheXlat c w u va).poison = s.poison := rfl
@[simp] theorem cacheXlat_stale (s : State) (c : Ctx) (w : Walked) (u : Bool) (va : W64) : (s.cacheXlat c w u va).stale = s.stale := rfl
@[simp] theorem cacheXlat_regions (s : State) (c : Ctx) (w : Walked) (u : Bool) (va : W64) : (s.cacheXlat c w u va).regions = s.regions := rfl
@[simp] theorem cacheXlat_fractions (s : State) (c : Ctx) (w : Walked) (u : Bool) (va : W64) : (s.cacheXlat c w u va).fractions = s.fractions := rfl
@[simp] theorem cacheXlat_tokens (s : State) (c : Ctx) (w : Walked) (u : Bool) (va : W64) : (s.cacheXlat c w u va).tokens = s.tokens := rfl
@[simp] theorem cacheXlat_channelsOut (s : State) (c : Ctx) (w : Walked) (u : Bool) (va : W64) : (s.cacheXlat c w u va).channelsOut = s.channelsOut := rfl
@[simp] theorem cacheXlat_parts (s : State) (c : Ctx) (w : Walked) (u : Bool) (va : W64) : (s.cacheXlat c w u va).parts = s.parts := rfl
@[simp] theorem cacheXlat_queues (s : State) (c : Ctx) (w : Walked) (u : Bool) (va : W64) : (s.cacheXlat c w u va).queues = s.queues := rfl
@[simp] theorem cacheXlat_nextTask (s : State) (c : Ctx) (w : Walked) (u : Bool) (va : W64) : (s.cacheXlat c w u va).nextTask = s.nextTask := rfl
@[simp] theorem cacheXlat_activity (s : State) (c : Ctx) (w : Walked) (u : Bool) (va : W64) : (s.cacheXlat c w u va).activity = s.activity := rfl
@[simp] theorem cacheXlat_owed (s : State) (c : Ctx) (w : Walked) (u : Bool) (va : W64) : (s.cacheXlat c w u va).owed = s.owed := rfl
@[simp] theorem cacheXlat_owedNext (s : State) (c : Ctx) (w : Walked) (u : Bool) (va : W64) : (s.cacheXlat c w u va).owedNext = s.owedNext := rfl
@[simp] theorem cacheXlat_draining (s : State) (c : Ctx) (w : Walked) (u : Bool) (va : W64) : (s.cacheXlat c w u va).draining = s.draining := rfl
@[simp] theorem cacheXlat_turn (s : State) (c : Ctx) (w : Walked) (u : Bool) (va : W64) : (s.cacheXlat c w u va).turn = s.turn := rfl
@[simp] theorem cacheXlat_starts (s : State) (c : Ctx) (w : Walked) (u : Bool) (va : W64) : (s.cacheXlat c w u va).starts = s.starts := rfl
@[simp] theorem cacheXlat_preloaded (s : State) (c : Ctx) (w : Walked) (u : Bool) (va : W64) : (s.cacheXlat c w u va).preloaded = s.preloaded := rfl
@[simp] theorem cacheXlat_config (s : State) (c : Ctx) (w : Walked) (u : Bool) (va : W64) : (s.cacheXlat c w u va).config = s.config := rfl
@[simp] theorem cacheXlat_wallclock (s : State) (c : Ctx) (w : Walked) (u : Bool) (va : W64) : (s.cacheXlat c w u va).wallclock = s.wallclock := rfl
@[simp] theorem cacheXlat_cal (s : State) (c : Ctx) (w : Walked) (u : Bool) (va : W64) : (s.cacheXlat c w u va).cal = s.cal := rfl
@[simp] theorem cacheXlat_link (s : State) (c : Ctx) (w : Walked) (u : Bool) (va : W64) : (s.cacheXlat c w u va).link = s.link := rfl
@[simp] theorem cacheXlat_boot (s : State) (c : Ctx) (w : Walked) (u : Bool) (va : W64) : (s.cacheXlat c w u va).boot = s.boot := rfl
@[simp] theorem cacheXlat_reports (s : State) (c : Ctx) (w : Walked) (u : Bool) (va : W64) : (s.cacheXlat c w u va).reports = s.reports := rfl
@[simp] theorem cacheXlat_inputs (s : State) (c : Ctx) (w : Walked) (u : Bool) (va : W64) : (s.cacheXlat c w u va).inputs = s.inputs := rfl
@[simp] theorem cacheXlat_choices (s : State) (c : Ctx) (w : Walked) (u : Bool) (va : W64) : (s.cacheXlat c w u va).choices = s.choices := rfl
@[simp] theorem cacheXlat_pace (s : State) (c : Ctx) (w : Walked) (u : Bool) (va : W64) : (s.cacheXlat c w u va).pace = s.pace := rfl
@[simp] theorem cacheXlat_free (s : State) (c : Ctx) (w : Walked) (u : Bool) (va : W64) : (s.cacheXlat c w u va).free = s.free := rfl

/-! `s.dropXlat a` -/

@[simp] theorem dropXlat_th (s : State) (a : Nat) : (s.dropXlat a).th = s.th := rfl
@[simp] theorem dropXlat_rest (s : State) (a : Nat) : (s.dropXlat a).rest = s.rest := rfl
@[simp] theorem dropXlat_pairs (s : State) (a : Nat) : (s.dropXlat a).pairs = s.pairs := rfl
@[simp] theorem dropXlat_comms (s : State) (a : Nat) : (s.dropXlat a).comms = s.comms := rfl
@[simp] theorem dropXlat_tasks (s : State) (a : Nat) : (s.dropXlat a).tasks = s.tasks := rfl
@[simp] theorem dropXlat_mem (s : State) (a : Nat) : (s.dropXlat a).mem = s.mem := rfl
@[simp] theorem dropXlat_poison (s : State) (a : Nat) : (s.dropXlat a).poison = s.poison := rfl
@[simp] theorem dropXlat_stale (s : State) (a : Nat) : (s.dropXlat a).stale = s.stale := rfl
@[simp] theorem dropXlat_regions (s : State) (a : Nat) : (s.dropXlat a).regions = s.regions := rfl
@[simp] theorem dropXlat_fractions (s : State) (a : Nat) : (s.dropXlat a).fractions = s.fractions := rfl
@[simp] theorem dropXlat_tokens (s : State) (a : Nat) : (s.dropXlat a).tokens = s.tokens := rfl
@[simp] theorem dropXlat_channelsOut (s : State) (a : Nat) : (s.dropXlat a).channelsOut = s.channelsOut := rfl
@[simp] theorem dropXlat_parts (s : State) (a : Nat) : (s.dropXlat a).parts = s.parts := rfl
@[simp] theorem dropXlat_queues (s : State) (a : Nat) : (s.dropXlat a).queues = s.queues := rfl
@[simp] theorem dropXlat_nextTask (s : State) (a : Nat) : (s.dropXlat a).nextTask = s.nextTask := rfl
@[simp] theorem dropXlat_activity (s : State) (a : Nat) : (s.dropXlat a).activity = s.activity := rfl
@[simp] theorem dropXlat_owed (s : State) (a : Nat) : (s.dropXlat a).owed = s.owed := rfl
@[simp] theorem dropXlat_owedNext (s : State) (a : Nat) : (s.dropXlat a).owedNext = s.owedNext := rfl
@[simp] theorem dropXlat_draining (s : State) (a : Nat) : (s.dropXlat a).draining = s.draining := rfl
@[simp] theorem dropXlat_turn (s : State) (a : Nat) : (s.dropXlat a).turn = s.turn := rfl
@[simp] theorem dropXlat_starts (s : State) (a : Nat) : (s.dropXlat a).starts = s.starts := rfl
@[simp] theorem dropXlat_preloaded (s : State) (a : Nat) : (s.dropXlat a).preloaded = s.preloaded := rfl
@[simp] theorem dropXlat_config (s : State) (a : Nat) : (s.dropXlat a).config = s.config := rfl
@[simp] theorem dropXlat_wallclock (s : State) (a : Nat) : (s.dropXlat a).wallclock = s.wallclock := rfl
@[simp] theorem dropXlat_cal (s : State) (a : Nat) : (s.dropXlat a).cal = s.cal := rfl
@[simp] theorem dropXlat_link (s : State) (a : Nat) : (s.dropXlat a).link = s.link := rfl
@[simp] theorem dropXlat_boot (s : State) (a : Nat) : (s.dropXlat a).boot = s.boot := rfl
@[simp] theorem dropXlat_reports (s : State) (a : Nat) : (s.dropXlat a).reports = s.reports := rfl
@[simp] theorem dropXlat_inputs (s : State) (a : Nat) : (s.dropXlat a).inputs = s.inputs := rfl
@[simp] theorem dropXlat_choices (s : State) (a : Nat) : (s.dropXlat a).choices = s.choices := rfl
@[simp] theorem dropXlat_pace (s : State) (a : Nat) : (s.dropXlat a).pace = s.pace := rfl
@[simp] theorem dropXlat_free (s : State) (a : Nat) : (s.dropXlat a).free = s.free := rfl

/-! `s.crossLink n` -/

@[simp] theorem crossLink_th (s : State) (n : Nat) : (s.crossLink n).th = s.th := by
  unfold State.crossLink State.spend; dsimp only; repeat' split
  all_goals rfl
@[simp] theorem crossLink_rest (s : State) (n : Nat) : (s.crossLink n).rest = s.rest := by
  unfold State.crossLink State.spend; dsimp only; repeat' split
  all_goals rfl
@[simp] theorem crossLink_pairs (s : State) (n : Nat) : (s.crossLink n).pairs = s.pairs := by
  unfold State.crossLink State.spend; dsimp only; repeat' split
  all_goals rfl
@[simp] theorem crossLink_comms (s : State) (n : Nat) : (s.crossLink n).comms = s.comms := by
  unfold State.crossLink State.spend; dsimp only; repeat' split
  all_goals rfl
@[simp] theorem crossLink_mem (s : State) (n : Nat) : (s.crossLink n).mem = s.mem := by
  unfold State.crossLink State.spend; dsimp only; repeat' split
  all_goals rfl
@[simp] theorem crossLink_poison (s : State) (n : Nat) : (s.crossLink n).poison = s.poison := by
  unfold State.crossLink State.spend; dsimp only; repeat' split
  all_goals rfl
@[simp] theorem crossLink_stale (s : State) (n : Nat) : (s.crossLink n).stale = s.stale := by
  unfold State.crossLink State.spend; dsimp only; repeat' split
  all_goals rfl
@[simp] theorem crossLink_tlb (s : State) (n : Nat) : (s.crossLink n).tlb = s.tlb := by
  unfold State.crossLink State.spend; dsimp only; repeat' split
  all_goals rfl
@[simp] theorem crossLink_regions (s : State) (n : Nat) : (s.crossLink n).regions = s.regions := by
  unfold State.crossLink State.spend; dsimp only; repeat' split
  all_goals rfl
@[simp] theorem crossLink_fractions (s : State) (n : Nat) : (s.crossLink n).fractions = s.fractions := by
  unfold State.crossLink State.spend; dsimp only; repeat' split
  all_goals rfl
@[simp] theorem crossLink_tokens (s : State) (n : Nat) : (s.crossLink n).tokens = s.tokens := by
  unfold State.crossLink State.spend; dsimp only; repeat' split
  all_goals rfl
@[simp] theorem crossLink_channelsOut (s : State) (n : Nat) : (s.crossLink n).channelsOut = s.channelsOut := by
  unfold State.crossLink State.spend; dsimp only; repeat' split
  all_goals rfl
@[simp] theorem crossLink_parts (s : State) (n : Nat) : (s.crossLink n).parts = s.parts := by
  unfold State.crossLink State.spend; dsimp only; repeat' split
  all_goals rfl
@[simp] theorem crossLink_queues (s : State) (n : Nat) : (s.crossLink n).queues = s.queues := by
  unfold State.crossLink State.spend; dsimp only; repeat' split
  all_goals rfl
@[simp] theorem crossLink_nextTask (s : State) (n : Nat) : (s.crossLink n).nextTask = s.nextTask := by
  unfold State.crossLink State.spend; dsimp only; repeat' split
  all_goals rfl
@[simp] theorem crossLink_owed (s : State) (n : Nat) : (s.crossLink n).owed = s.owed := by
  unfold State.crossLink State.spend; dsimp only; repeat' split
  all_goals rfl
@[simp] theorem crossLink_owedNext (s : State) (n : Nat) : (s.crossLink n).owedNext = s.owedNext := by
  unfold State.crossLink State.spend; dsimp only; repeat' split
  all_goals rfl
@[simp] theorem crossLink_draining (s : State) (n : Nat) : (s.crossLink n).draining = s.draining := by
  unfold State.crossLink State.spend; dsimp only; repeat' split
  all_goals rfl
@[simp] theorem crossLink_turn (s : State) (n : Nat) : (s.crossLink n).turn = s.turn := by
  unfold State.crossLink State.spend; dsimp only; repeat' split
  all_goals rfl
@[simp] theorem crossLink_starts (s : State) (n : Nat) : (s.crossLink n).starts = s.starts := by
  unfold State.crossLink State.spend; dsimp only; repeat' split
  all_goals rfl
@[simp] theorem crossLink_preloaded (s : State) (n : Nat) : (s.crossLink n).preloaded = s.preloaded := by
  unfold State.crossLink State.spend; dsimp only; repeat' split
  all_goals rfl
@[simp] theorem crossLink_config (s : State) (n : Nat) : (s.crossLink n).config = s.config := by
  unfold State.crossLink State.spend; dsimp only; repeat' split
  all_goals rfl
@[simp] theorem crossLink_wallclock (s : State) (n : Nat) : (s.crossLink n).wallclock = s.wallclock := by
  unfold State.crossLink State.spend; dsimp only; repeat' split
  all_goals rfl
@[simp] theorem crossLink_cal (s : State) (n : Nat) : (s.crossLink n).cal = s.cal := by
  unfold State.crossLink State.spend; dsimp only; repeat' split
  all_goals rfl
@[simp] theorem crossLink_boot (s : State) (n : Nat) : (s.crossLink n).boot = s.boot := by
  unfold State.crossLink State.spend; dsimp only; repeat' split
  all_goals rfl
@[simp] theorem crossLink_reports (s : State) (n : Nat) : (s.crossLink n).reports = s.reports := by
  unfold State.crossLink State.spend; dsimp only; repeat' split
  all_goals rfl
@[simp] theorem crossLink_inputs (s : State) (n : Nat) : (s.crossLink n).inputs = s.inputs := by
  unfold State.crossLink State.spend; dsimp only; repeat' split
  all_goals rfl
@[simp] theorem crossLink_choices (s : State) (n : Nat) : (s.crossLink n).choices = s.choices := by
  unfold State.crossLink State.spend; dsimp only; repeat' split
  all_goals rfl
@[simp] theorem crossLink_pace (s : State) (n : Nat) : (s.crossLink n).pace = s.pace := by
  unfold State.crossLink State.spend; dsimp only; repeat' split
  all_goals rfl
@[simp] theorem crossLink_free (s : State) (n : Nat) : (s.crossLink n).free = s.free := by
  unfold State.crossLink State.spend; dsimp only; repeat' split
  all_goals rfl

/-! `s.fresh.2` -/

@[simp] theorem fresh_th (s : State) : (s.fresh.2).th = s.th := rfl
@[simp] theorem fresh_rest (s : State) : (s.fresh.2).rest = s.rest := rfl
@[simp] theorem fresh_pairs (s : State) : (s.fresh.2).pairs = s.pairs := rfl
@[simp] theorem fresh_comms (s : State) : (s.fresh.2).comms = s.comms := rfl
@[simp] theorem fresh_tasks (s : State) : (s.fresh.2).tasks = s.tasks := rfl
@[simp] theorem fresh_mem (s : State) : (s.fresh.2).mem = s.mem := rfl
@[simp] theorem fresh_poison (s : State) : (s.fresh.2).poison = s.poison := rfl
@[simp] theorem fresh_stale (s : State) : (s.fresh.2).stale = s.stale := rfl
@[simp] theorem fresh_tlb (s : State) : (s.fresh.2).tlb = s.tlb := rfl
@[simp] theorem fresh_regions (s : State) : (s.fresh.2).regions = s.regions := rfl
@[simp] theorem fresh_fractions (s : State) : (s.fresh.2).fractions = s.fractions := rfl
@[simp] theorem fresh_tokens (s : State) : (s.fresh.2).tokens = s.tokens := rfl
@[simp] theorem fresh_channelsOut (s : State) : (s.fresh.2).channelsOut = s.channelsOut := rfl
@[simp] theorem fresh_parts (s : State) : (s.fresh.2).parts = s.parts := rfl
@[simp] theorem fresh_queues (s : State) : (s.fresh.2).queues = s.queues := rfl
@[simp] theorem fresh_nextTask (s : State) : (s.fresh.2).nextTask = s.nextTask := rfl
@[simp] theorem fresh_activity (s : State) : (s.fresh.2).activity = s.activity := rfl
@[simp] theorem fresh_owed (s : State) : (s.fresh.2).owed = s.owed := rfl
@[simp] theorem fresh_owedNext (s : State) : (s.fresh.2).owedNext = s.owedNext := rfl
@[simp] theorem fresh_draining (s : State) : (s.fresh.2).draining = s.draining := rfl
@[simp] theorem fresh_turn (s : State) : (s.fresh.2).turn = s.turn := rfl
@[simp] theorem fresh_starts (s : State) : (s.fresh.2).starts = s.starts := rfl
@[simp] theorem fresh_preloaded (s : State) : (s.fresh.2).preloaded = s.preloaded := rfl
@[simp] theorem fresh_config (s : State) : (s.fresh.2).config = s.config := rfl
@[simp] theorem fresh_wallclock (s : State) : (s.fresh.2).wallclock = s.wallclock := rfl
@[simp] theorem fresh_cal (s : State) : (s.fresh.2).cal = s.cal := rfl
@[simp] theorem fresh_link (s : State) : (s.fresh.2).link = s.link := rfl
@[simp] theorem fresh_boot (s : State) : (s.fresh.2).boot = s.boot := rfl
@[simp] theorem fresh_reports (s : State) : (s.fresh.2).reports = s.reports := rfl
@[simp] theorem fresh_inputs (s : State) : (s.fresh.2).inputs = s.inputs := rfl
@[simp] theorem fresh_choices (s : State) : (s.fresh.2).choices = s.choices := rfl
@[simp] theorem fresh_pace (s : State) : (s.fresh.2).pace = s.pace := rfl

/-! `s.mapThreads p f` -/

@[simp] theorem mapThreads_pairs (s : State) (p : Thread → Bool) (f : Thread → Thread) : (s.mapThreads p f).pairs = s.pairs := rfl
@[simp] theorem mapThreads_comms (s : State) (p : Thread → Bool) (f : Thread → Thread) : (s.mapThreads p f).comms = s.comms := rfl
@[simp] theorem mapThreads_tasks (s : State) (p : Thread → Bool) (f : Thread → Thread) : (s.mapThreads p f).tasks = s.tasks := rfl
@[simp] theorem mapThreads_mem (s : State) (p : Thread → Bool) (f : Thread → Thread) : (s.mapThreads p f).mem = s.mem := rfl
@[simp] theorem mapThreads_poison (s : State) (p : Thread → Bool) (f : Thread → Thread) : (s.mapThreads p f).poison = s.poison := rfl
@[simp] theorem mapThreads_stale (s : State) (p : Thread → Bool) (f : Thread → Thread) : (s.mapThreads p f).stale = s.stale := rfl
@[simp] theorem mapThreads_tlb (s : State) (p : Thread → Bool) (f : Thread → Thread) : (s.mapThreads p f).tlb = s.tlb := rfl
@[simp] theorem mapThreads_regions (s : State) (p : Thread → Bool) (f : Thread → Thread) : (s.mapThreads p f).regions = s.regions := rfl
@[simp] theorem mapThreads_fractions (s : State) (p : Thread → Bool) (f : Thread → Thread) : (s.mapThreads p f).fractions = s.fractions := rfl
@[simp] theorem mapThreads_tokens (s : State) (p : Thread → Bool) (f : Thread → Thread) : (s.mapThreads p f).tokens = s.tokens := rfl
@[simp] theorem mapThreads_channelsOut (s : State) (p : Thread → Bool) (f : Thread → Thread) : (s.mapThreads p f).channelsOut = s.channelsOut := rfl
@[simp] theorem mapThreads_parts (s : State) (p : Thread → Bool) (f : Thread → Thread) : (s.mapThreads p f).parts = s.parts := rfl
@[simp] theorem mapThreads_queues (s : State) (p : Thread → Bool) (f : Thread → Thread) : (s.mapThreads p f).queues = s.queues := rfl
@[simp] theorem mapThreads_nextTask (s : State) (p : Thread → Bool) (f : Thread → Thread) : (s.mapThreads p f).nextTask = s.nextTask := rfl
@[simp] theorem mapThreads_activity (s : State) (p : Thread → Bool) (f : Thread → Thread) : (s.mapThreads p f).activity = s.activity := rfl
@[simp] theorem mapThreads_owed (s : State) (p : Thread → Bool) (f : Thread → Thread) : (s.mapThreads p f).owed = s.owed := rfl
@[simp] theorem mapThreads_owedNext (s : State) (p : Thread → Bool) (f : Thread → Thread) : (s.mapThreads p f).owedNext = s.owedNext := rfl
@[simp] theorem mapThreads_draining (s : State) (p : Thread → Bool) (f : Thread → Thread) : (s.mapThreads p f).draining = s.draining := rfl
@[simp] theorem mapThreads_turn (s : State) (p : Thread → Bool) (f : Thread → Thread) : (s.mapThreads p f).turn = s.turn := rfl
@[simp] theorem mapThreads_starts (s : State) (p : Thread → Bool) (f : Thread → Thread) : (s.mapThreads p f).starts = s.starts := rfl
@[simp] theorem mapThreads_preloaded (s : State) (p : Thread → Bool) (f : Thread → Thread) : (s.mapThreads p f).preloaded = s.preloaded := rfl
@[simp] theorem mapThreads_config (s : State) (p : Thread → Bool) (f : Thread → Thread) : (s.mapThreads p f).config = s.config := rfl
@[simp] theorem mapThreads_wallclock (s : State) (p : Thread → Bool) (f : Thread → Thread) : (s.mapThreads p f).wallclock = s.wallclock := rfl
@[simp] theorem mapThreads_cal (s : State) (p : Thread → Bool) (f : Thread → Thread) : (s.mapThreads p f).cal = s.cal := rfl
@[simp] theorem mapThreads_link (s : State) (p : Thread → Bool) (f : Thread → Thread) : (s.mapThreads p f).link = s.link := rfl
@[simp] theorem mapThreads_boot (s : State) (p : Thread → Bool) (f : Thread → Thread) : (s.mapThreads p f).boot = s.boot := rfl
@[simp] theorem mapThreads_reports (s : State) (p : Thread → Bool) (f : Thread → Thread) : (s.mapThreads p f).reports = s.reports := rfl
@[simp] theorem mapThreads_inputs (s : State) (p : Thread → Bool) (f : Thread → Thread) : (s.mapThreads p f).inputs = s.inputs := rfl
@[simp] theorem mapThreads_choices (s : State) (p : Thread → Bool) (f : Thread → Thread) : (s.mapThreads p f).choices = s.choices := rfl
@[simp] theorem mapThreads_pace (s : State) (p : Thread → Bool) (f : Thread → Thread) : (s.mapThreads p f).pace = s.pace := rfl
@[simp] theorem mapThreads_free (s : State) (p : Thread → Bool) (f : Thread → Thread) : (s.mapThreads p f).free = s.free := rfl

/-! `s.choose.2` -/

@[simp] theorem choose_th (s : State) : (s.choose.2).th = s.th := by
  unfold State.choose; split <;> rfl
@[simp] theorem choose_rest (s : State) : (s.choose.2).rest = s.rest := by
  unfold State.choose; split <;> rfl
@[simp] theorem choose_pairs (s : State) : (s.choose.2).pairs = s.pairs := by
  unfold State.choose; split <;> rfl
@[simp] theorem choose_comms (s : State) : (s.choose.2).comms = s.comms := by
  unfold State.choose; split <;> rfl
@[simp] theorem choose_tasks (s : State) : (s.choose.2).tasks = s.tasks := by
  unfold State.choose; split <;> rfl
@[simp] theorem choose_mem (s : State) : (s.choose.2).mem = s.mem := by
  unfold State.choose; split <;> rfl
@[simp] theorem choose_poison (s : State) : (s.choose.2).poison = s.poison := by
  unfold State.choose; split <;> rfl
@[simp] theorem choose_stale (s : State) : (s.choose.2).stale = s.stale := by
  unfold State.choose; split <;> rfl
@[simp] theorem choose_tlb (s : State) : (s.choose.2).tlb = s.tlb := by
  unfold State.choose; split <;> rfl
@[simp] theorem choose_regions (s : State) : (s.choose.2).regions = s.regions := by
  unfold State.choose; split <;> rfl
@[simp] theorem choose_fractions (s : State) : (s.choose.2).fractions = s.fractions := by
  unfold State.choose; split <;> rfl
@[simp] theorem choose_tokens (s : State) : (s.choose.2).tokens = s.tokens := by
  unfold State.choose; split <;> rfl
@[simp] theorem choose_channelsOut (s : State) : (s.choose.2).channelsOut = s.channelsOut := by
  unfold State.choose; split <;> rfl
@[simp] theorem choose_parts (s : State) : (s.choose.2).parts = s.parts := by
  unfold State.choose; split <;> rfl
@[simp] theorem choose_queues (s : State) : (s.choose.2).queues = s.queues := by
  unfold State.choose; split <;> rfl
@[simp] theorem choose_nextTask (s : State) : (s.choose.2).nextTask = s.nextTask := by
  unfold State.choose; split <;> rfl
@[simp] theorem choose_activity (s : State) : (s.choose.2).activity = s.activity := by
  unfold State.choose; split <;> rfl
@[simp] theorem choose_owed (s : State) : (s.choose.2).owed = s.owed := by
  unfold State.choose; split <;> rfl
@[simp] theorem choose_owedNext (s : State) : (s.choose.2).owedNext = s.owedNext := by
  unfold State.choose; split <;> rfl
@[simp] theorem choose_draining (s : State) : (s.choose.2).draining = s.draining := by
  unfold State.choose; split <;> rfl
@[simp] theorem choose_turn (s : State) : (s.choose.2).turn = s.turn := by
  unfold State.choose; split <;> rfl
@[simp] theorem choose_starts (s : State) : (s.choose.2).starts = s.starts := by
  unfold State.choose; split <;> rfl
@[simp] theorem choose_preloaded (s : State) : (s.choose.2).preloaded = s.preloaded := by
  unfold State.choose; split <;> rfl
@[simp] theorem choose_config (s : State) : (s.choose.2).config = s.config := by
  unfold State.choose; split <;> rfl
@[simp] theorem choose_wallclock (s : State) : (s.choose.2).wallclock = s.wallclock := by
  unfold State.choose; split <;> rfl
@[simp] theorem choose_cal (s : State) : (s.choose.2).cal = s.cal := by
  unfold State.choose; split <;> rfl
@[simp] theorem choose_link (s : State) : (s.choose.2).link = s.link := by
  unfold State.choose; split <;> rfl
@[simp] theorem choose_boot (s : State) : (s.choose.2).boot = s.boot := by
  unfold State.choose; split <;> rfl
@[simp] theorem choose_reports (s : State) : (s.choose.2).reports = s.reports := by
  unfold State.choose; split <;> rfl
@[simp] theorem choose_inputs (s : State) : (s.choose.2).inputs = s.inputs := by
  unfold State.choose; split <;> rfl
@[simp] theorem choose_pace (s : State) : (s.choose.2).pace = s.pace := by
  unfold State.choose; split <;> rfl
@[simp] theorem choose_free (s : State) : (s.choose.2).free = s.free := by
  unfold State.choose; split <;> rfl

/-! `s.setPair p` -/

@[simp] theorem setPair_th (s : State) (p : Pair) : (s.setPair p).th = s.th := by
  unfold State.setPair; split <;> rfl
@[simp] theorem setPair_rest (s : State) (p : Pair) : (s.setPair p).rest = s.rest := by
  unfold State.setPair; split <;> rfl
@[simp] theorem setPair_comms (s : State) (p : Pair) : (s.setPair p).comms = s.comms := by
  unfold State.setPair; split <;> rfl
@[simp] theorem setPair_tasks (s : State) (p : Pair) : (s.setPair p).tasks = s.tasks := by
  unfold State.setPair; split <;> rfl
@[simp] theorem setPair_mem (s : State) (p : Pair) : (s.setPair p).mem = s.mem := by
  unfold State.setPair; split <;> rfl
@[simp] theorem setPair_poison (s : State) (p : Pair) : (s.setPair p).poison = s.poison := by
  unfold State.setPair; split <;> rfl
@[simp] theorem setPair_stale (s : State) (p : Pair) : (s.setPair p).stale = s.stale := by
  unfold State.setPair; split <;> rfl
@[simp] theorem setPair_tlb (s : State) (p : Pair) : (s.setPair p).tlb = s.tlb := by
  unfold State.setPair; split <;> rfl
@[simp] theorem setPair_regions (s : State) (p : Pair) : (s.setPair p).regions = s.regions := by
  unfold State.setPair; split <;> rfl
@[simp] theorem setPair_fractions (s : State) (p : Pair) : (s.setPair p).fractions = s.fractions := by
  unfold State.setPair; split <;> rfl
@[simp] theorem setPair_tokens (s : State) (p : Pair) : (s.setPair p).tokens = s.tokens := by
  unfold State.setPair; split <;> rfl
@[simp] theorem setPair_channelsOut (s : State) (p : Pair) : (s.setPair p).channelsOut = s.channelsOut := by
  unfold State.setPair; split <;> rfl
@[simp] theorem setPair_parts (s : State) (p : Pair) : (s.setPair p).parts = s.parts := by
  unfold State.setPair; split <;> rfl
@[simp] theorem setPair_queues (s : State) (p : Pair) : (s.setPair p).queues = s.queues := by
  unfold State.setPair; split <;> rfl
@[simp] theorem setPair_nextTask (s : State) (p : Pair) : (s.setPair p).nextTask = s.nextTask := by
  unfold State.setPair; split <;> rfl
@[simp] theorem setPair_activity (s : State) (p : Pair) : (s.setPair p).activity = s.activity := by
  unfold State.setPair; split <;> rfl
@[simp] theorem setPair_owed (s : State) (p : Pair) : (s.setPair p).owed = s.owed := by
  unfold State.setPair; split <;> rfl
@[simp] theorem setPair_owedNext (s : State) (p : Pair) : (s.setPair p).owedNext = s.owedNext := by
  unfold State.setPair; split <;> rfl
@[simp] theorem setPair_draining (s : State) (p : Pair) : (s.setPair p).draining = s.draining := by
  unfold State.setPair; split <;> rfl
@[simp] theorem setPair_turn (s : State) (p : Pair) : (s.setPair p).turn = s.turn := by
  unfold State.setPair; split <;> rfl
@[simp] theorem setPair_starts (s : State) (p : Pair) : (s.setPair p).starts = s.starts := by
  unfold State.setPair; split <;> rfl
@[simp] theorem setPair_preloaded (s : State) (p : Pair) : (s.setPair p).preloaded = s.preloaded := by
  unfold State.setPair; split <;> rfl
@[simp] theorem setPair_config (s : State) (p : Pair) : (s.setPair p).config = s.config := by
  unfold State.setPair; split <;> rfl
@[simp] theorem setPair_wallclock (s : State) (p : Pair) : (s.setPair p).wallclock = s.wallclock := by
  unfold State.setPair; split <;> rfl
@[simp] theorem setPair_cal (s : State) (p : Pair) : (s.setPair p).cal = s.cal := by
  unfold State.setPair; split <;> rfl
@[simp] theorem setPair_link (s : State) (p : Pair) : (s.setPair p).link = s.link := by
  unfold State.setPair; split <;> rfl
@[simp] theorem setPair_boot (s : State) (p : Pair) : (s.setPair p).boot = s.boot := by
  unfold State.setPair; split <;> rfl
@[simp] theorem setPair_reports (s : State) (p : Pair) : (s.setPair p).reports = s.reports := by
  unfold State.setPair; split <;> rfl
@[simp] theorem setPair_inputs (s : State) (p : Pair) : (s.setPair p).inputs = s.inputs := by
  unfold State.setPair; split <;> rfl
@[simp] theorem setPair_choices (s : State) (p : Pair) : (s.setPair p).choices = s.choices := by
  unfold State.setPair; split <;> rfl
@[simp] theorem setPair_pace (s : State) (p : Pair) : (s.setPair p).pace = s.pace := by
  unfold State.setPair; split <;> rfl
@[simp] theorem setPair_free (s : State) (p : Pair) : (s.setPair p).free = s.free := by
  unfold State.setPair; split <;> rfl

end Sys2Proof.Laws
end

