-- ==== Sys2Proof/Laws/Access.lean ====
section
/-! SUPPORT. Laws/Access.lean: what an operation over memory can change, once for each: memory, kept in its canonical form,
what is known of its blocks, the caches, the traffic made but not yet performed, activity, and the link's and the model's
counters; never a thread, a queue, or a task but for its activity. -/

set_option Elab.async false

namespace Sys2Proof.Laws

open Sys2Proof.Machine

/-- `t` comes from `s` by accesses to memory alone. -/
structure Accessed (s t : State) : Prop where
  th : t.th = s.th
  rest : t.rest = s.rest
  comms : t.comms = s.comms
  tasks : t.tasks.map Task.still = s.tasks.map Task.still
  regions : t.regions = s.regions
  fractions : t.fractions = s.fractions
  channelsOut : t.channelsOut = s.channelsOut
  parts : t.parts = s.parts
  queues : t.queues = s.queues
  nextTask : t.nextTask = s.nextTask
  starts : t.starts = s.starts
  preloaded : t.preloaded = s.preloaded
  config : t.config = s.config
  wallclock : t.wallclock = s.wallclock
  cal : t.cal = s.cal
  boot : t.boot = s.boot
  reports : t.reports = s.reports
  inputs : t.inputs = s.inputs
  turn : t.turn = s.turn
  pace : t.pace = s.pace
  wf : s.mem.wf = true → t.mem.wf = true

theorem Accessed.refl (s : State) : Accessed s s := by constructor <;> first | rfl | exact id

theorem Accessed.trans {s t u : State} (a : Accessed s t) (b : Accessed t u) : Accessed s u :=
  ⟨b.th.trans a.th, b.rest.trans a.rest, b.comms.trans a.comms, b.tasks.trans a.tasks, b.regions.trans a.regions,
   b.fractions.trans a.fractions, b.channelsOut.trans a.channelsOut, b.parts.trans a.parts,
   b.queues.trans a.queues, b.nextTask.trans a.nextTask, b.starts.trans a.starts, b.preloaded.trans a.preloaded,
   b.config.trans a.config, b.wallclock.trans a.wallclock, b.cal.trans a.cal, b.boot.trans a.boot,
   b.reports.trans a.reports, b.inputs.trans a.inputs, b.turn.trans a.turn, b.pace.trans a.pace, fun h => b.wf (a.wf h)⟩

theorem find?_still (l : List Task) (k : Nat) :
    (l.find? (fun t => t.id == k)).map Task.still = (l.map Task.still).find? (fun t => t.id == k) := by
  rw [List.find?_map]; rfl

/-- The task an access belongs to keeps everything but its activity. -/
theorem Accessed.task {s t : State} (a : Accessed s t) : t.task.still = s.task.still := by
  have h (u : State) : u.task.still = (((u.tasks.map Task.still).find? fun v => v.id == u.th.task).getD Task.empty) := by
    rw [← find?_still]
    unfold State.task State.taskOf
    cases u.tasks.find? fun v => v.id == u.th.task <;> rfl
  rw [h t, h s, a.tasks, a.th]

theorem Accessed.ctx {s t : State} (a : Accessed s t) : t.ctx = s.ctx := by
  have h (u : State) : u.ctx = ⟨u.task.still.part, some u.task.still.ctxid, u.task.still.ptbase⟩ := rfl
  rw [h t, h s, a.task]

/-! ### Writes -/

theorem storeBytes_accessed (s : State) (pa : Nat) (b : List Byte) : Accessed s (s.storeBytes pa b) := by
  constructor <;> first | rfl | exact wf_writeN s.mem pa b

theorem physWrite_accessed (s : State) (pa : Nat) (b : List Byte) : Accessed s (s.physWrite pa b) := by
  unfold State.physWrite
  by_cases h : s.channelsOut.isEmpty = true
  · rw [if_pos h]; exact storeBytes_accessed s pa b
  · rw [if_neg h]
    generalize granules pa b = l
    clear h
    induction l generalizing s with
    | nil => exact .refl s
    | cons g l ih =>
      rw [List.foldl_cons]
      by_cases h : s.channelLost g.1 = true
      · rw [if_pos h]; exact ih s
      · rw [if_neg h]; exact (storeBytes_accessed s g.1 g.2).trans (ih _)

theorem physWriteWord_accessed (s : State) (pa : Nat) (v : W64) : Accessed s (s.physWriteWord pa v) :=
  physWrite_accessed s pa _

/-- R15, R109: the homes of stash lines follow. -/
theorem spread_accessed (s : State) (own : Nat × Nat) (pa : Nat) (b : List Byte) : Accessed s (s.spread own pa b) := by
  unfold State.spread
  split <;> constructor <;> first | rfl | exact id

theorem deviceWrite_accessed (s : State) (pa : Nat) (b : List Byte) : Accessed s (s.deviceWrite pa b) :=
  (physWrite_accessed s pa b).trans (spread_accessed _ _ _ _)

/-! ### The device's own traffic -/

theorem owe_accessed (s : State) (k : OwedKind) : Accessed s (s.owe k) := by constructor <;> first | rfl | exact id

/-- R179: a notification is made, and performed later. -/
theorem post_accessed (s : State) (nq : Nat) (lo hi : W64) : Accessed s (s.post nq lo hi) := owe_accessed s _

/-- R179. -/
theorem postNow_accessed (s : State) (nq : Nat) (lo hi : W64) : Accessed s (s.postNow nq lo hi) := by
  unfold State.postNow
  extract_lets size prod cons drop
  have d : Accessed s drop := deviceWrite_accessed s _ _
  by_cases h : (decide (size < 4) || decide (16 < size)) = true
  · rw [if_pos h]; exact d
  · rw [if_neg h]
    by_cases h2 : (prod + 2 ^ 32 - cons) % 2 ^ 32 < 2 ^ size
    · rw [if_pos h2]; exact (deviceWrite_accessed s _ _).trans (deviceWrite_accessed _ _ _)
    · rw [if_neg h2]; exact d

/-- R113, R114. -/
theorem countUp_accessed (s : State) (a th nq : Nat) (lo hi : W64) : Accessed s (s.countUp a th nq lo hi) := by
  unfold State.countUp
  extract_lets old new s1
  split
  · exact (deviceWrite_accessed s _ _).trans (post_accessed _ _ _ _)
  · exact deviceWrite_accessed s _ _

/-! ### Counters and choices -/

theorem choose_accessed (s : State) : Accessed s s.choose.2 := by
  unfold State.choose
  cases s.choices <;> constructor <;> first | rfl | exact id

/-- A choice that is taken only in some cases. -/
theorem pick_accessed (s : State) (b : Bool) : Accessed s (if b then ((0 : Nat), s) else s.choose).2 := by
  cases b
  · exact choose_accessed s
  · exact .refl s

theorem mapActivity_still (l : List Task) (k : Nat) (f : Task → Activity) :
    (l.map fun t => if t.id == k then { t with activity := f t } else t).map Task.still = l.map Task.still := by
  rw [List.map_map]
  apply List.map_congr_left
  intro t _
  show Task.still (if t.id == k then _ else t) = _
  split <;> rfl

/-- R357: activity is counted and nothing else changes. -/
theorem spend_accessed (s : State) (a : Activity) : Accessed s (s.spend a) := by
  unfold State.spend
  extract_lets s1
  have h : Accessed s s1 := by
    constructor <;> first | rfl | exact id | exact mapActivity_still s.tasks s.th.task fun t => t.activity.add a
  split
  · exact h
  · exact h.trans (by constructor <;> first | rfl | exact id)

theorem crossLink_accessed (s : State) (n : Nat) : Accessed s (s.crossLink n) := by
  unfold State.crossLink
  dsimp only
  split
  · constructor <;> first | rfl | exact id
  · exact Accessed.trans (by constructor <;> first | rfl | exact id) (spend_accessed _ _)

theorem crossPort_accessed (s : State) (n : Nat) : Accessed s (s.crossPort n) := spend_accessed s _

theorem barred_accessed (s : State) (dev : Bool) (pa : Nat) : Accessed s (s.barred dev pa).2 := by
  unfold State.barred
  split
  · exact .refl s
  · split
    · exact .refl s
    · exact choose_accessed s

theorem spendTokens_accessed (s : State) (n : Nat) : Accessed s (s.spendTokens n) := by
  unfold State.spendTokens
  split <;> constructor <;> first | rfl | exact id

theorem takeTokens_accessed (s : State) (dev : Bool) (n : Nat) : Accessed s (s.takeTokens dev n).2 := by
  unfold State.takeTokens
  cases s.quota with
  | none => exact .refl s
  | some f =>
    have hc := pick_accessed s dev
    dsimp only
    generalize (if dev then ((0 : Nat), s) else s.choose) = c at hc ⊢
    repeat' split
    · exact hc
    · exact hc
    · exact hc.trans (spendTokens_accessed _ n)

theorem held_accessed (s : State) (dev : Bool) (pa n : Nat) : Accessed s (s.held dev pa n).2 := by
  unfold State.held
  extract_lets b
  have hb : Accessed s b.2 := barred_accessed s dev pa
  repeat' split
  · exact hb
  · exact hb.trans (takeTokens_accessed _ dev n)
  · exact hb

theorem recall_accessed (s : State) (pa n : Nat) : Accessed s (s.recall pa n) := by
  unfold State.recall
  dsimp only
  split <;> constructor <;> first | rfl | exact id

/-! ### Translation (R97 to R104) -/

theorem cacheXlat_accessed (s : State) (c : Ctx) (w : Walked) (u : Bool) (va : W64) :
    Accessed s (s.cacheXlat c w u va) := by
  constructor <;> first | rfl | exact id

theorem setPair_accessed (s : State) (p : Pair) : Accessed s (s.setPair p) := by
  unfold State.setPair
  split <;> constructor <;> first | rfl | exact id

/-- R103. -/
theorem setAd_accessed (s s1 : State) (w : Walked) (write : Bool) (h : s.setAd w write = some s1) : Accessed s s1 := by
  unfold State.setAd at h
  dsimp only at h
  have hb := barred_accessed s false w.leafPa
  repeat' split at h
  all_goals first
    | (cases h; exact .refl _)
    | (cases h; exact hb.trans ((crossLink_accessed _ _).trans (deviceWrite_accessed _ _ _)))
    | (cases h; exact hb.trans (deviceWrite_accessed _ _ _))
    | cases h

theorem walkReads_accessed (ps : List Nat) (s s1 : State) (h : State.walkReads ps s = some s1) : Accessed s s1 := by
  induction ps generalizing s with
  | nil => cases h; exact .refl _
  | cons p ps ih =>
    unfold State.walkReads at h
    dsimp only at h
    have hb := barred_accessed s false p
    split at h
    · cases h
    · have h2 := ih _ h
      split at h2
      · exact hb.trans ((crossLink_accessed _ _).trans h2)
      · exact hb.trans h2

theorem walked_accessed (pub : Bool) (s s1 : State) (c : Ctx) (w : Except Stop Walked) (m : Bool) (k : Nat) (va : W64)
    (x : Xl) (h : s.walked pub c w m k va = .ok (x, s1)) : Accessed s s1 := by
  unfold State.walked at h
  split at h
  · cases h
  · next s2 e =>
    have h2 : Accessed s s2 := by
      split at e
      · split at e
        · cases e; exact .refl s
        · exact walkReads_accessed _ s s2 e
      · exact walkReads_accessed _ s s2 e
    dsimp only at h
    split at h
    · cases h
    · split at h
      · cases h
      · split at h
        · cases h
        · next h3 => cases h; exact h2.trans ((setAd_accessed _ _ _ _ h3).trans (cacheXlat_accessed _ _ _ _ _))

/-- R102 to R104. -/
theorem translateAs_accessed (pub : Bool) (s s1 : State) (c : Ctx) (m : Bool) (k : Nat) (va : W64) (x : Xl)
    (h : s.translateAs pub c m k va = .ok (x, s1)) : Accessed s s1 := by
  unfold State.translateAs at h
  split at h
  · cases h
  · dsimp only at h
    generalize s.stales _ _ _ va = olds at h
    have hc := pick_accessed s olds.isEmpty
    generalize (if olds.isEmpty then ((0 : Nat), s) else s.choose) = p at h hc
    split at h
    · exact hc.trans (walked_accessed _ _ _ _ _ _ _ _ _ h)
    · split at h
      · cases h
      · cases h; exact hc

theorem translate_accessed (s s1 : State) (c : Ctx) (m : Bool) (k : Nat) (va : W64) (x : Xl)
    (h : s.translate c m k va = .ok (x, s1)) : Accessed s s1 := translateAs_accessed false s s1 c m k va x h

/-- R149. -/
theorem checkAs_accessed (pub : Bool) (s s1 : State) (m : Bool) (k : Nat) (va : W64) (n : Nat) (x : Xl)
    (h : s.checkAs pub m k va n = .ok (x, s1)) : Accessed s s1 := by
  unfold State.checkAs at h
  repeat' split at h
  · cases h
  · cases h
  · exact translateAs_accessed pub s s1 _ m k va x h

theorem check_accessed (s s1 : State) (m : Bool) (k : Nat) (va : W64) (n : Nat) (x : Xl)
    (h : s.check m k va n = .ok (x, s1)) : Accessed s s1 := checkAs_accessed false s s1 m k va n x h

/-! ### Counts, the stash and versioned pages -/

/-- R113, R114: a counted request is made, and its counter follows later. -/
theorem countPage_accessed (s : State) (x : Xl) : Accessed s (s.countPage x) := by
  unfold State.countPage
  split
  · exact .refl s
  · exact owe_accessed s _

theorem requests_accessed (x : Xl) (cross : Bool) (ns : List Nat) (s : State) :
    Accessed s (State.requests x cross ns s) := by
  induction ns generalizing s with
  | nil => exact .refl s
  | cons n ns ih =>
    cases cross
    · exact (countPage_accessed s x).trans (ih _)
    · exact (crossLink_accessed s n).trans ((countPage_accessed _ x).trans (ih _))

/-- R382: lines are only marked as still to be written back. -/
theorem dirtyLines_accessed (s : State) (x : Xl) (n : Nat) : Accessed s (s.dirtyLines x n) := by
  unfold State.dirtyLines
  generalize List.map _ (List.range _) = l
  induction l generalizing s with
  | nil => exact .refl s
  | cons a l ih =>
    rw [List.foldl_cons]
    split
    · exact ih s
    · exact (owe_accessed s _).trans (ih _)

theorem servedHere_accessed (s : State) (x : Xl) : Accessed s (s.servedHere x).2 := by
  unfold State.servedHere
  repeat' split
  · exact .refl s
  · exact .refl s
  · exact choose_accessed s

theorem countAccess_accessed (s : State) (write : Bool) (x : Xl) (n : Nat) : Accessed s (s.countAccess write x n) := by
  unfold State.countAccess
  dsimp only
  have hc := servedHere_accessed s x
  repeat' split
  · exact .refl s
  · exact hc.trans (requests_accessed x true _ _)
  · exact hc.trans (dirtyLines_accessed _ x n)
  · exact hc

theorem countStream_accessed (s : State) (x : Xl) (n : Nat) : Accessed s (s.countStream x n) := by
  unfold State.countStream
  dsimp only
  split
  · exact .refl s
  · exact (servedHere_accessed s x).trans (requests_accessed x _ _ _)

/-- R109. -/
theorem stashTouch_accessed (s : State) (x : Xl) (va : W64) (pa : Nat) : Accessed s (s.stashTouch x va pa) := by
  unfold State.stashTouch
  dsimp only
  repeat' split
  · exact .refl s
  · exact .refl s
  · exact setPair_accessed s _

theorem touch_accessed (s : State) (stream write : Bool) (x : Xl) (va : W64) (pa n : Nat) :
    Accessed s (s.touch stream write x va pa n) := by
  unfold State.touch
  cases stream
  · exact (countAccess_accessed s write x n).trans ((recall_accessed _ pa n).trans (stashTouch_accessed _ x va pa))
  · exact (countStream_accessed s x n).trans (recall_accessed _ pa n)

/-- R358, R367, R368. -/
theorem heldWrite_accessed (s : State) (dev : Bool) (x : Xl) (n : Nat) : Accessed s (s.heldWrite dev x n).2 := by
  unfold State.heldWrite
  split
  · exact .refl s
  · exact held_accessed s dev x.pa n

/-- R117. -/
theorem copyFrame_accessed (s : State) (src dst : Nat) : Accessed s (s.copyFrame src dst) := by
  unfold State.copyFrame
  extract_lets bad s1
  have h1 : Accessed s s1 := by
    show Accessed s (if s.channelsOut.isEmpty then _ else s.physWrite dst (s.physRead src 0x10000))
    split
    · constructor <;> first | rfl | exact wf_copyFrame s.mem src dst
    · exact physWrite_accessed s _ _
  exact h1.trans (by constructor <;> first | rfl | exact id)

theorem normalise_accessed (s : State) (leafPa : Nat) : Accessed s (s.normalise leafPa) := by
  unfold State.normalise
  dsimp only
  split
  · exact .refl s
  · exact (copyFrame_accessed s _ _).trans (physWriteWord_accessed _ _ _)

theorem writePa_accessed (s s1 : State) (x : Xl) (sw : W64) (pa : Nat) (h : s.writePa x sw = some (pa, s1)) :
    Accessed s s1 := by
  unfold State.writePa at h
  dsimp only at h
  repeat' split at h
  · cases h; exact .refl _
  · cases h
  · cases h; exact normalise_accessed s _

/-! ### Reading and writing -/

theorem devRead_accessed (s : State) (pa n : Nat) : Accessed s (s.devRead pa n).2 := by
  unfold State.devRead
  dsimp only
  split
  · exact Accessed.trans (t := s.fresh.2) (by constructor <;> first | rfl | exact id) (crossPort_accessed _ n)
  · exact .refl s

theorem hostRefuses_accessed (s : State) (x : Xl) : Accessed s (s.hostRefuses x).2 := by
  unfold State.hostRefuses
  split
  · exact choose_accessed s
  · exact .refl s

/-- R122, R105: a read changes only what an access does. -/
theorem loadNow_accessed (stream : Bool) (s s1 : State) (k : Nat) (x : Xl) (va : W64) (n : Nat) (b : List Byte)
    (h : s.loadNow stream k x va n = .ok (b, s1)) : Accessed s s1 := by
  unfold State.loadNow at h
  dsimp only at h
  split at h
  · have e : (s.devRead (s.readPa x) n).2 = s1 := congrArg Prod.snd (Except.ok.inj h)
    rw [← e]; exact devRead_accessed s _ _
  · split at h
    · cases h
    · cases h; exact touch_accessed s _ _ _ _ _ _

theorem loadAs_accessed (stream : Bool) (s s1 : State) (k : Nat) (x : Xl) (va : W64) (n : Nat) (b : List Byte)
    (h : s.loadAs stream k x va n = .ok (b, s1)) : Accessed s s1 := by
  unfold State.loadAs at h
  dsimp only at h
  split at h
  · cases h
  · exact (hostRefuses_accessed s x).trans (loadNow_accessed stream _ s1 k x va n b h)

theorem load_accessed (s s1 : State) (k : Nat) (x : Xl) (va : W64) (n : Nat) (b : List Byte)
    (h : s.load k x va n = .ok (b, s1)) : Accessed s s1 := loadAs_accessed false s s1 k x va n b h

/-- What a write outside the register space does once its place is known. -/
theorem put_accessed (s : State) (x : Xl) (va : W64) (pa : Nat) (b : List Byte) :
    Accessed s (((s.touch false true x va pa b.length).physWrite pa b).spread (s.th.cluster, s.th.pair) pa b) :=
  (touch_accessed s _ _ _ _ _ _).trans ((physWrite_accessed _ _ _).trans (spread_accessed _ _ _ _))

/-- A write outside the register space. -/
theorem store_accessed (s s1 : State) (x : Xl) (va sw : W64) (b : List Byte) (h : s.store x va sw b = .ok s1)
    (hr : ∀ pa t, (s.hostRefuses x).2.writePa x sw = some (pa, t) → isRegSpace pa = false) : Accessed s s1 := by
  unfold State.store at h
  dsimp only at h
  split at h
  · cases h
  · refine (hostRefuses_accessed s x).trans ?_
    generalize (s.hostRefuses x).2 = u at h hr ⊢
    unfold State.storeNow at h
    cases hw : u.writePa x sw with
    | none => rw [hw] at h; cases h
    | some r =>
      obtain ⟨pa, t⟩ := r
      rw [hw] at h
      simp only [hr pa t hw] at h
      cases h
      exact (writePa_accessed u t x sw pa hw).trans (put_accessed t x va pa b)

theorem devWrite_wf (s : State) (pa : Nat) (b : List Byte) (hm : s.mem.wf = true) : (s.devWrite pa b).mem.wf = true := by
  unfold State.devWrite
  split
  · exact hm
  · split
    · exact (crossPort_accessed s b.length).wf hm
    · exact hm

/-- Every write keeps memory's form. -/
theorem store_wf (s s1 : State) (x : Xl) (va sw : W64) (b : List Byte) (h : s.store x va sw b = .ok s1)
    (hm : s.mem.wf = true) : s1.mem.wf = true := by
  unfold State.store at h
  dsimp only at h
  split at h
  · cases h
  · have hu := (hostRefuses_accessed s x).wf hm
    generalize (s.hostRefuses x).2 = u at h hu
    unfold State.storeNow at h
    cases hw : u.writePa x sw with
    | none => rw [hw] at h; cases h
    | some r =>
      obtain ⟨pa, t⟩ := r
      rw [hw] at h
      have ht := (writePa_accessed u t x sw pa hw).wf hu
      by_cases hr : isRegSpace pa = true
      · simp only [hr, if_true] at h
        cases h
        exact devWrite_wf t pa b ht
      · simp only [hr] at h
        cases h
        exact (put_accessed t x va pa b).wf ht

/-! ### The device's own traffic performed (R367, R368) -/

theorem performOwed_wf (s : State) (k : OwedKind) (h : s.mem.wf = true) : (s.performOwed k).mem.wf = true := by
  unfold State.performOwed
  dsimp only
  have h1 : (if k.crosses && (s.owedAt k).any isHost then s.crossLink 0 else s).mem.wf = true := by
    split
    · exact (crossLink_accessed s 0).wf h
    · exact h
  generalize (if k.crosses && (s.owedAt k).any isHost then s.crossLink 0 else s) = s1 at h1 ⊢
  cases k with
  | count a th nq lo hi => exact (countUp_accessed s1 a th nq lo hi).wf h1
  | post nq lo hi => exact (postNow_accessed s1 nq lo hi).wf h1
  | write a b => exact (deviceWrite_accessed s1 a b).wf h1
  | arrive a n t => exact (deviceWrite_accessed s1 a _).wf h1
  | done p q i as => exact h1
  | writeBack a c => cases c <;> exact h1

theorem keepsLine_accessed (s : State) (k : OwedKind) : Accessed s (s.keepsLine k).2 := by
  cases k <;> first | exact .refl s | exact choose_accessed s

theorem payFrom_wf (age : Option Nat) (os : List Owed) (kept : List SlotRes) (s : State) (h : s.mem.wf = true) :
    (State.payFrom age os kept s).mem.wf = true := by
  induction os generalizing kept s with
  | nil => exact h
  | cons o os ih =>
    unfold State.payFrom
    dsimp only
    repeat' split
    · exact ih _ _ h
    · exact ih _ _ h
    · exact ih _ _ ((keepsLine_accessed s o.kind).wf h)
    · exact ih _ _ (performOwed_wf _ o.kind ((keepsLine_accessed s o.kind).wf h))

/-- Memory keeps its form while the device's traffic goes on. -/
theorem payOwed_wf (s : State) (age : Option Nat) (h : s.mem.wf = true) : (s.payOwed age).mem.wf = true := by
  unfold State.payOwed
  split
  · exact h
  · exact payFrom_wf age _ _ _ h

end Sys2Proof.Laws
end

