-- ==== Sys2Proof/Laws/Packing.lean ====
section
/-! SUPPORT. Laws/Packing.lean: taking a packed word apart gives its fields back (R61, R65 to R70). -/

namespace Sys2Proof.Laws

theorem extract_high {m n : Nat} (x : BitVec m) (y : BitVec n) (lo len : Nat) (h : n ≤ lo) :
    BitVec.extractLsb' lo len (x ++ y) = BitVec.extractLsb' (lo - n) len x := by
  rw [BitVec.extractLsb'_append_eq_of_le h]

theorem extract_low {m n : Nat} (x : BitVec m) (y : BitVec n) (lo : Nat) (h : lo = 0) :
    BitVec.extractLsb' lo n (x ++ y) = y := by
  subst h; ext i hi; simp [BitVec.getLsbD_append, hi]

theorem bit_high {m n : Nat} (x : BitVec m) (y : BitVec n) (i : Nat) (h : n ≤ i) :
    (x ++ y).getLsbD i = x.getLsbD (i - n) := by
  rw [BitVec.getLsbD_append]; simp; omega

/-- The fields of a format X word, and its opcode. -/
theorem fieldsX (o : BitVec 8) (d_ : BitVec 6) (a_ : BitVec 6) (b_ : BitVec 6) (c_ : BitVec 6) (ty_ : BitVec 4) (k_ : BitVec 3) (ls_ : BitVec 3) (hint_ : BitVec 6) (fn_ : BitVec 15) :
    BitVec.extractLsb' 49 6 (0#1 ++ o ++ d_ ++ a_ ++ b_ ++ c_ ++ ty_ ++ k_ ++ ls_ ++ hint_ ++ fn_) = d_ ∧
    BitVec.extractLsb' 43 6 (0#1 ++ o ++ d_ ++ a_ ++ b_ ++ c_ ++ ty_ ++ k_ ++ ls_ ++ hint_ ++ fn_) = a_ ∧
    BitVec.extractLsb' 37 6 (0#1 ++ o ++ d_ ++ a_ ++ b_ ++ c_ ++ ty_ ++ k_ ++ ls_ ++ hint_ ++ fn_) = b_ ∧
    BitVec.extractLsb' 31 6 (0#1 ++ o ++ d_ ++ a_ ++ b_ ++ c_ ++ ty_ ++ k_ ++ ls_ ++ hint_ ++ fn_) = c_ ∧
    BitVec.extractLsb' 27 4 (0#1 ++ o ++ d_ ++ a_ ++ b_ ++ c_ ++ ty_ ++ k_ ++ ls_ ++ hint_ ++ fn_) = ty_ ∧
    BitVec.extractLsb' 24 3 (0#1 ++ o ++ d_ ++ a_ ++ b_ ++ c_ ++ ty_ ++ k_ ++ ls_ ++ hint_ ++ fn_) = k_ ∧
    BitVec.extractLsb' 21 3 (0#1 ++ o ++ d_ ++ a_ ++ b_ ++ c_ ++ ty_ ++ k_ ++ ls_ ++ hint_ ++ fn_) = ls_ ∧
    BitVec.extractLsb' 15 6 (0#1 ++ o ++ d_ ++ a_ ++ b_ ++ c_ ++ ty_ ++ k_ ++ ls_ ++ hint_ ++ fn_) = hint_ ∧
    BitVec.extractLsb' 0 15 (0#1 ++ o ++ d_ ++ a_ ++ b_ ++ c_ ++ ty_ ++ k_ ++ ls_ ++ hint_ ++ fn_) = fn_ ∧
    BitVec.extractLsb' 55 8 (0#1 ++ o ++ d_ ++ a_ ++ b_ ++ c_ ++ ty_ ++ k_ ++ ls_ ++ hint_ ++ fn_) = o ∧
    (0#1 ++ o ++ d_ ++ a_ ++ b_ ++ c_ ++ ty_ ++ k_ ++ ls_ ++ hint_ ++ fn_).getLsbD 63 = false :=
  ⟨by rw [extract_high, extract_high, extract_high, extract_high, extract_high, extract_high, extract_high, extract_high, extract_low] <;> decide,
    by rw [extract_high, extract_high, extract_high, extract_high, extract_high, extract_high, extract_high, extract_low] <;> decide,
    by rw [extract_high, extract_high, extract_high, extract_high, extract_high, extract_high, extract_low] <;> decide,
    by rw [extract_high, extract_high, extract_high, extract_high, extract_high, extract_low] <;> decide,
    by rw [extract_high, extract_high, extract_high, extract_high, extract_low] <;> decide,
    by rw [extract_high, extract_high, extract_high, extract_low] <;> decide,
    by rw [extract_high, extract_high, extract_low] <;> decide,
    by rw [extract_high, extract_low] <;> decide,
    by rw [extract_low] <;> decide,
    by rw [extract_high, extract_high, extract_high, extract_high, extract_high, extract_high, extract_high, extract_high, extract_high, extract_low] <;> decide,
    by rw [bit_high, bit_high, bit_high, bit_high, bit_high, bit_high, bit_high, bit_high, bit_high, bit_high] <;> decide⟩

theorem unpackX_packX (o : BitVec 8) (f : FX) : unpackX (packX o f) = f := by
  obtain ⟨d_, a_, b_, c_, ty_, k_, ls_, hint_, fn_⟩ := f
  obtain ⟨h0, h1, h2, h3, h4, h5, h6, h7, h8, -, -⟩ := fieldsX o d_ a_ b_ c_ ty_ k_ ls_ hint_ fn_
  unfold unpackX packX
  congr 1

theorem opcode_packX (o : BitVec 8) (f : FX) : slice (packX o f) 55 8 = o :=
  (fieldsX o f.d f.a f.b f.c f.ty f.k f.ls f.hint f.fn).2.2.2.2.2.2.2.2.2.1

theorem single_packX (o : BitVec 8) (f : FX) : bitAt (packX o f) 63 = false :=
  (fieldsX o f.d f.a f.b f.c f.ty f.k f.ls f.hint f.fn).2.2.2.2.2.2.2.2.2.2

/-- The fields of a format J word, and its opcode. -/
theorem fieldsJ (o : BitVec 8) (d_ : BitVec 6) (a_ : BitVec 6) (ty_ : BitVec 4) (k_ : BitVec 3) (ls_ : BitVec 3) (h_ : BitVec 1) (imm_ : BitVec 32) :
    BitVec.extractLsb' 49 6 (0#1 ++ o ++ d_ ++ a_ ++ ty_ ++ k_ ++ ls_ ++ h_ ++ imm_) = d_ ∧
    BitVec.extractLsb' 43 6 (0#1 ++ o ++ d_ ++ a_ ++ ty_ ++ k_ ++ ls_ ++ h_ ++ imm_) = a_ ∧
    BitVec.extractLsb' 39 4 (0#1 ++ o ++ d_ ++ a_ ++ ty_ ++ k_ ++ ls_ ++ h_ ++ imm_) = ty_ ∧
    BitVec.extractLsb' 36 3 (0#1 ++ o ++ d_ ++ a_ ++ ty_ ++ k_ ++ ls_ ++ h_ ++ imm_) = k_ ∧
    BitVec.extractLsb' 33 3 (0#1 ++ o ++ d_ ++ a_ ++ ty_ ++ k_ ++ ls_ ++ h_ ++ imm_) = ls_ ∧
    BitVec.extractLsb' 32 1 (0#1 ++ o ++ d_ ++ a_ ++ ty_ ++ k_ ++ ls_ ++ h_ ++ imm_) = h_ ∧
    BitVec.extractLsb' 0 32 (0#1 ++ o ++ d_ ++ a_ ++ ty_ ++ k_ ++ ls_ ++ h_ ++ imm_) = imm_ ∧
    BitVec.extractLsb' 55 8 (0#1 ++ o ++ d_ ++ a_ ++ ty_ ++ k_ ++ ls_ ++ h_ ++ imm_) = o ∧
    (0#1 ++ o ++ d_ ++ a_ ++ ty_ ++ k_ ++ ls_ ++ h_ ++ imm_).getLsbD 63 = false :=
  ⟨by rw [extract_high, extract_high, extract_high, extract_high, extract_high, extract_high, extract_low] <;> decide,
    by rw [extract_high, extract_high, extract_high, extract_high, extract_high, extract_low] <;> decide,
    by rw [extract_high, extract_high, extract_high, extract_high, extract_low] <;> decide,
    by rw [extract_high, extract_high, extract_high, extract_low] <;> decide,
    by rw [extract_high, extract_high, extract_low] <;> decide,
    by rw [extract_high, extract_low] <;> decide,
    by rw [extract_low] <;> decide,
    by rw [extract_high, extract_high, extract_high, extract_high, extract_high, extract_high, extract_high, extract_low] <;> decide,
    by rw [bit_high, bit_high, bit_high, bit_high, bit_high, bit_high, bit_high, bit_high] <;> decide⟩

theorem unpackJ_packJ (o : BitVec 8) (f : FJ) : unpackJ (packJ o f) = f := by
  obtain ⟨d_, a_, ty_, k_, ls_, h_, imm_⟩ := f
  obtain ⟨h0, h1, h2, h3, h4, h5, h6, -, -⟩ := fieldsJ o d_ a_ ty_ k_ ls_ h_ imm_
  unfold unpackJ packJ
  congr 1

theorem opcode_packJ (o : BitVec 8) (f : FJ) : slice (packJ o f) 55 8 = o :=
  (fieldsJ o f.d f.a f.ty f.k f.ls f.h f.imm).2.2.2.2.2.2.2.1

theorem single_packJ (o : BitVec 8) (f : FJ) : bitAt (packJ o f) 63 = false :=
  (fieldsJ o f.d f.a f.ty f.k f.ls f.h f.imm).2.2.2.2.2.2.2.2

/-- The fields of a format M word, and its opcode. -/
theorem fieldsM (o : BitVec 8) (d_ : BitVec 6) (a_ : BitVec 5) (b_ : BitVec 6) (ty_ : BitVec 4) (k_ : BitVec 3) (ls_ : BitVec 3) (cce_ : BitVec 1) (cc_ : BitVec 3) (hint_ : BitVec 4) (fn_ : BitVec 8) (ofs_ : BitVec 12) :
    BitVec.extractLsb' 49 6 (0#1 ++ o ++ d_ ++ a_ ++ b_ ++ ty_ ++ k_ ++ ls_ ++ cce_ ++ cc_ ++ hint_ ++ fn_ ++ ofs_) = d_ ∧
    BitVec.extractLsb' 44 5 (0#1 ++ o ++ d_ ++ a_ ++ b_ ++ ty_ ++ k_ ++ ls_ ++ cce_ ++ cc_ ++ hint_ ++ fn_ ++ ofs_) = a_ ∧
    BitVec.extractLsb' 38 6 (0#1 ++ o ++ d_ ++ a_ ++ b_ ++ ty_ ++ k_ ++ ls_ ++ cce_ ++ cc_ ++ hint_ ++ fn_ ++ ofs_) = b_ ∧
    BitVec.extractLsb' 34 4 (0#1 ++ o ++ d_ ++ a_ ++ b_ ++ ty_ ++ k_ ++ ls_ ++ cce_ ++ cc_ ++ hint_ ++ fn_ ++ ofs_) = ty_ ∧
    BitVec.extractLsb' 31 3 (0#1 ++ o ++ d_ ++ a_ ++ b_ ++ ty_ ++ k_ ++ ls_ ++ cce_ ++ cc_ ++ hint_ ++ fn_ ++ ofs_) = k_ ∧
    BitVec.extractLsb' 28 3 (0#1 ++ o ++ d_ ++ a_ ++ b_ ++ ty_ ++ k_ ++ ls_ ++ cce_ ++ cc_ ++ hint_ ++ fn_ ++ ofs_) = ls_ ∧
    BitVec.extractLsb' 27 1 (0#1 ++ o ++ d_ ++ a_ ++ b_ ++ ty_ ++ k_ ++ ls_ ++ cce_ ++ cc_ ++ hint_ ++ fn_ ++ ofs_) = cce_ ∧
    BitVec.extractLsb' 24 3 (0#1 ++ o ++ d_ ++ a_ ++ b_ ++ ty_ ++ k_ ++ ls_ ++ cce_ ++ cc_ ++ hint_ ++ fn_ ++ ofs_) = cc_ ∧
    BitVec.extractLsb' 20 4 (0#1 ++ o ++ d_ ++ a_ ++ b_ ++ ty_ ++ k_ ++ ls_ ++ cce_ ++ cc_ ++ hint_ ++ fn_ ++ ofs_) = hint_ ∧
    BitVec.extractLsb' 12 8 (0#1 ++ o ++ d_ ++ a_ ++ b_ ++ ty_ ++ k_ ++ ls_ ++ cce_ ++ cc_ ++ hint_ ++ fn_ ++ ofs_) = fn_ ∧
    BitVec.extractLsb' 0 12 (0#1 ++ o ++ d_ ++ a_ ++ b_ ++ ty_ ++ k_ ++ ls_ ++ cce_ ++ cc_ ++ hint_ ++ fn_ ++ ofs_) = ofs_ ∧
    BitVec.extractLsb' 55 8 (0#1 ++ o ++ d_ ++ a_ ++ b_ ++ ty_ ++ k_ ++ ls_ ++ cce_ ++ cc_ ++ hint_ ++ fn_ ++ ofs_) = o ∧
    (0#1 ++ o ++ d_ ++ a_ ++ b_ ++ ty_ ++ k_ ++ ls_ ++ cce_ ++ cc_ ++ hint_ ++ fn_ ++ ofs_).getLsbD 63 = false :=
  ⟨by rw [extract_high, extract_high, extract_high, extract_high, extract_high, extract_high, extract_high, extract_high, extract_high, extract_high, extract_low] <;> decide,
    by rw [extract_high, extract_high, extract_high, extract_high, extract_high, extract_high, extract_high, extract_high, extract_high, extract_low] <;> decide,
    by rw [extract_high, extract_high, extract_high, extract_high, extract_high, extract_high, extract_high, extract_high, extract_low] <;> decide,
    by rw [extract_high, extract_high, extract_high, extract_high, extract_high, extract_high, extract_high, extract_low] <;> decide,
    by rw [extract_high, extract_high, extract_high, extract_high, extract_high, extract_high, extract_low] <;> decide,
    by rw [extract_high, extract_high, extract_high, extract_high, extract_high, extract_low] <;> decide,
    by rw [extract_high, extract_high, extract_high, extract_high, extract_low] <;> decide,
    by rw [extract_high, extract_high, extract_high, extract_low] <;> decide,
    by rw [extract_high, extract_high, extract_low] <;> decide,
    by rw [extract_high, extract_low] <;> decide,
    by rw [extract_low] <;> decide,
    by rw [extract_high, extract_high, extract_high, extract_high, extract_high, extract_high, extract_high, extract_high, extract_high, extract_high, extract_high, extract_low] <;> decide,
    by rw [bit_high, bit_high, bit_high, bit_high, bit_high, bit_high, bit_high, bit_high, bit_high, bit_high, bit_high, bit_high] <;> decide⟩

theorem unpackM_packM (o : BitVec 8) (f : FM) : unpackM (packM o f) = f := by
  obtain ⟨d_, a_, b_, ty_, k_, ls_, cce_, cc_, hint_, fn_, ofs_⟩ := f
  obtain ⟨h0, h1, h2, h3, h4, h5, h6, h7, h8, h9, h10, -, -⟩ := fieldsM o d_ a_ b_ ty_ k_ ls_ cce_ cc_ hint_ fn_ ofs_
  unfold unpackM packM
  congr 1

theorem opcode_packM (o : BitVec 8) (f : FM) : slice (packM o f) 55 8 = o :=
  (fieldsM o f.d f.a f.b f.ty f.k f.ls f.cce f.cc f.hint f.fn f.ofs).2.2.2.2.2.2.2.2.2.2.2.1

theorem single_packM (o : BitVec 8) (f : FM) : bitAt (packM o f) 63 = false :=
  (fieldsM o f.d f.a f.b f.ty f.k f.ls f.cce f.cc f.hint f.fn f.ofs).2.2.2.2.2.2.2.2.2.2.2.2

/-- The fields of a format B word, and its opcode. -/
theorem fieldsB (o : BitVec 8) (a_ : BitVec 5) (b_ : BitVec 5) (cnd_ : BitVec 4) (fn_ : BitVec 9) (ofs_ : BitVec 32) :
    BitVec.extractLsb' 50 5 (0#1 ++ o ++ a_ ++ b_ ++ cnd_ ++ fn_ ++ ofs_) = a_ ∧
    BitVec.extractLsb' 45 5 (0#1 ++ o ++ a_ ++ b_ ++ cnd_ ++ fn_ ++ ofs_) = b_ ∧
    BitVec.extractLsb' 41 4 (0#1 ++ o ++ a_ ++ b_ ++ cnd_ ++ fn_ ++ ofs_) = cnd_ ∧
    BitVec.extractLsb' 32 9 (0#1 ++ o ++ a_ ++ b_ ++ cnd_ ++ fn_ ++ ofs_) = fn_ ∧
    BitVec.extractLsb' 0 32 (0#1 ++ o ++ a_ ++ b_ ++ cnd_ ++ fn_ ++ ofs_) = ofs_ ∧
    BitVec.extractLsb' 55 8 (0#1 ++ o ++ a_ ++ b_ ++ cnd_ ++ fn_ ++ ofs_) = o ∧
    (0#1 ++ o ++ a_ ++ b_ ++ cnd_ ++ fn_ ++ ofs_).getLsbD 63 = false :=
  ⟨by rw [extract_high, extract_high, extract_high, extract_high, extract_low] <;> decide,
    by rw [extract_high, extract_high, extract_high, extract_low] <;> decide,
    by rw [extract_high, extract_high, extract_low] <;> decide,
    by rw [extract_high, extract_low] <;> decide,
    by rw [extract_low] <;> decide,
    by rw [extract_high, extract_high, extract_high, extract_high, extract_high, extract_low] <;> decide,
    by rw [bit_high, bit_high, bit_high, bit_high, bit_high, bit_high] <;> decide⟩

theorem unpackB_packB (o : BitVec 8) (f : FB) : unpackB (packB o f) = f := by
  obtain ⟨a_, b_, cnd_, fn_, ofs_⟩ := f
  obtain ⟨h0, h1, h2, h3, h4, -, -⟩ := fieldsB o a_ b_ cnd_ fn_ ofs_
  unfold unpackB packB
  congr 1

theorem opcode_packB (o : BitVec 8) (f : FB) : slice (packB o f) 55 8 = o :=
  (fieldsB o f.a f.b f.cnd f.fn f.ofs).2.2.2.2.2.1

theorem single_packB (o : BitVec 8) (f : FB) : bitAt (packB o f) 63 = false :=
  (fieldsB o f.a f.b f.cnd f.fn f.ofs).2.2.2.2.2.2

/-- The fields of a format S word, and its opcode. -/
theorem fieldsS (o : BitVec 8) (d_ : BitVec 6) (a_ : BitVec 6) (sn_ : BitVec 12) (imm_ : BitVec 16) (fn_ : BitVec 15) :
    BitVec.extractLsb' 49 6 (0#1 ++ o ++ d_ ++ a_ ++ sn_ ++ imm_ ++ fn_) = d_ ∧
    BitVec.extractLsb' 43 6 (0#1 ++ o ++ d_ ++ a_ ++ sn_ ++ imm_ ++ fn_) = a_ ∧
    BitVec.extractLsb' 31 12 (0#1 ++ o ++ d_ ++ a_ ++ sn_ ++ imm_ ++ fn_) = sn_ ∧
    BitVec.extractLsb' 15 16 (0#1 ++ o ++ d_ ++ a_ ++ sn_ ++ imm_ ++ fn_) = imm_ ∧
    BitVec.extractLsb' 0 15 (0#1 ++ o ++ d_ ++ a_ ++ sn_ ++ imm_ ++ fn_) = fn_ ∧
    BitVec.extractLsb' 55 8 (0#1 ++ o ++ d_ ++ a_ ++ sn_ ++ imm_ ++ fn_) = o ∧
    (0#1 ++ o ++ d_ ++ a_ ++ sn_ ++ imm_ ++ fn_).getLsbD 63 = false :=
  ⟨by rw [extract_high, extract_high, extract_high, extract_high, extract_low] <;> decide,
    by rw [extract_high, extract_high, extract_high, extract_low] <;> decide,
    by rw [extract_high, extract_high, extract_low] <;> decide,
    by rw [extract_high, extract_low] <;> decide,
    by rw [extract_low] <;> decide,
    by rw [extract_high, extract_high, extract_high, extract_high, extract_high, extract_low] <;> decide,
    by rw [bit_high, bit_high, bit_high, bit_high, bit_high, bit_high] <;> decide⟩

theorem unpackS_packS (o : BitVec 8) (f : FS) : unpackS (packS o f) = f := by
  obtain ⟨d_, a_, sn_, imm_, fn_⟩ := f
  obtain ⟨h0, h1, h2, h3, h4, -, -⟩ := fieldsS o d_ a_ sn_ imm_ fn_
  unfold unpackS packS
  congr 1

theorem opcode_packS (o : BitVec 8) (f : FS) : slice (packS o f) 55 8 = o :=
  (fieldsS o f.d f.a f.sn f.imm f.fn).2.2.2.2.2.1

theorem single_packS (o : BitVec 8) (f : FS) : bitAt (packS o f) 63 = false :=
  (fieldsS o f.d f.a f.sn f.imm f.fn).2.2.2.2.2.2

/-- The fields of a format T word, and its opcode. -/
theorem fieldsT (o : BitVec 8) (mt_ : BitVec 3) (ms_ : BitVec 3) (a_ : BitVec 6) (b_ : BitVec 6) (ty_ : BitVec 4) (tyb_ : BitVec 4) (k_ : BitVec 3) (ls_ : BitVec 3) (cce_ : BitVec 1) (cc_ : BitVec 3) (hint_ : BitVec 4) (fn_ : BitVec 15) :
    BitVec.extractLsb' 52 3 (0#1 ++ o ++ mt_ ++ ms_ ++ a_ ++ b_ ++ ty_ ++ tyb_ ++ k_ ++ ls_ ++ cce_ ++ cc_ ++ hint_ ++ fn_) = mt_ ∧
    BitVec.extractLsb' 49 3 (0#1 ++ o ++ mt_ ++ ms_ ++ a_ ++ b_ ++ ty_ ++ tyb_ ++ k_ ++ ls_ ++ cce_ ++ cc_ ++ hint_ ++ fn_) = ms_ ∧
    BitVec.extractLsb' 43 6 (0#1 ++ o ++ mt_ ++ ms_ ++ a_ ++ b_ ++ ty_ ++ tyb_ ++ k_ ++ ls_ ++ cce_ ++ cc_ ++ hint_ ++ fn_) = a_ ∧
    BitVec.extractLsb' 37 6 (0#1 ++ o ++ mt_ ++ ms_ ++ a_ ++ b_ ++ ty_ ++ tyb_ ++ k_ ++ ls_ ++ cce_ ++ cc_ ++ hint_ ++ fn_) = b_ ∧
    BitVec.extractLsb' 33 4 (0#1 ++ o ++ mt_ ++ ms_ ++ a_ ++ b_ ++ ty_ ++ tyb_ ++ k_ ++ ls_ ++ cce_ ++ cc_ ++ hint_ ++ fn_) = ty_ ∧
    BitVec.extractLsb' 29 4 (0#1 ++ o ++ mt_ ++ ms_ ++ a_ ++ b_ ++ ty_ ++ tyb_ ++ k_ ++ ls_ ++ cce_ ++ cc_ ++ hint_ ++ fn_) = tyb_ ∧
    BitVec.extractLsb' 26 3 (0#1 ++ o ++ mt_ ++ ms_ ++ a_ ++ b_ ++ ty_ ++ tyb_ ++ k_ ++ ls_ ++ cce_ ++ cc_ ++ hint_ ++ fn_) = k_ ∧
    BitVec.extractLsb' 23 3 (0#1 ++ o ++ mt_ ++ ms_ ++ a_ ++ b_ ++ ty_ ++ tyb_ ++ k_ ++ ls_ ++ cce_ ++ cc_ ++ hint_ ++ fn_) = ls_ ∧
    BitVec.extractLsb' 22 1 (0#1 ++ o ++ mt_ ++ ms_ ++ a_ ++ b_ ++ ty_ ++ tyb_ ++ k_ ++ ls_ ++ cce_ ++ cc_ ++ hint_ ++ fn_) = cce_ ∧
    BitVec.extractLsb' 19 3 (0#1 ++ o ++ mt_ ++ ms_ ++ a_ ++ b_ ++ ty_ ++ tyb_ ++ k_ ++ ls_ ++ cce_ ++ cc_ ++ hint_ ++ fn_) = cc_ ∧
    BitVec.extractLsb' 15 4 (0#1 ++ o ++ mt_ ++ ms_ ++ a_ ++ b_ ++ ty_ ++ tyb_ ++ k_ ++ ls_ ++ cce_ ++ cc_ ++ hint_ ++ fn_) = hint_ ∧
    BitVec.extractLsb' 0 15 (0#1 ++ o ++ mt_ ++ ms_ ++ a_ ++ b_ ++ ty_ ++ tyb_ ++ k_ ++ ls_ ++ cce_ ++ cc_ ++ hint_ ++ fn_) = fn_ ∧
    BitVec.extractLsb' 55 8 (0#1 ++ o ++ mt_ ++ ms_ ++ a_ ++ b_ ++ ty_ ++ tyb_ ++ k_ ++ ls_ ++ cce_ ++ cc_ ++ hint_ ++ fn_) = o ∧
    (0#1 ++ o ++ mt_ ++ ms_ ++ a_ ++ b_ ++ ty_ ++ tyb_ ++ k_ ++ ls_ ++ cce_ ++ cc_ ++ hint_ ++ fn_).getLsbD 63 = false :=
  ⟨by rw [extract_high, extract_high, extract_high, extract_high, extract_high, extract_high, extract_high, extract_high, extract_high, extract_high, extract_high, extract_low] <;> decide,
    by rw [extract_high, extract_high, extract_high, extract_high, extract_high, extract_high, extract_high, extract_high, extract_high, extract_high, extract_low] <;> decide,
    by rw [extract_high, extract_high, extract_high, extract_high, extract_high, extract_high, extract_high, extract_high, extract_high, extract_low] <;> decide,
    by rw [extract_high, extract_high, extract_high, extract_high, extract_high, extract_high, extract_high, extract_high, extract_low] <;> decide,
    by rw [extract_high, extract_high, extract_high, extract_high, extract_high, extract_high, extract_high, extract_low] <;> decide,
    by rw [extract_high, extract_high, extract_high, extract_high, extract_high, extract_high, extract_low] <;> decide,
    by rw [extract_high, extract_high, extract_high, extract_high, extract_high, extract_low] <;> decide,
    by rw [extract_high, extract_high, extract_high, extract_high, extract_low] <;> decide,
    by rw [extract_high, extract_high, extract_high, extract_low] <;> decide,
    by rw [extract_high, extract_high, extract_low] <;> decide,
    by rw [extract_high, extract_low] <;> decide,
    by rw [extract_low] <;> decide,
    by rw [extract_high, extract_high, extract_high, extract_high, extract_high, extract_high, extract_high, extract_high, extract_high, extract_high, extract_high, extract_high, extract_low] <;> decide,
    by rw [bit_high, bit_high, bit_high, bit_high, bit_high, bit_high, bit_high, bit_high, bit_high, bit_high, bit_high, bit_high, bit_high] <;> decide⟩

theorem unpackT_packT (o : BitVec 8) (f : FT) : unpackT (packT o f) = f := by
  obtain ⟨mt_, ms_, a_, b_, ty_, tyb_, k_, ls_, cce_, cc_, hint_, fn_⟩ := f
  obtain ⟨h0, h1, h2, h3, h4, h5, h6, h7, h8, h9, h10, h11, -, -⟩ := fieldsT o mt_ ms_ a_ b_ ty_ tyb_ k_ ls_ cce_ cc_ hint_ fn_
  unfold unpackT packT
  congr 1

theorem opcode_packT (o : BitVec 8) (f : FT) : slice (packT o f) 55 8 = o :=
  (fieldsT o f.mt f.ms f.a f.b f.ty f.tyb f.k f.ls f.cce f.cc f.hint f.fn).2.2.2.2.2.2.2.2.2.2.2.2.1

theorem single_packT (o : BitVec 8) (f : FT) : bitAt (packT o f) 63 = false :=
  (fieldsT o f.mt f.ms f.a f.b f.ty f.tyb f.k f.ls f.cce f.cc f.hint f.fn).2.2.2.2.2.2.2.2.2.2.2.2.2

/-- The fields of a slot. -/
theorem fieldsSlot (cop : BitVec 5) (d_ a_ : BitVec 6) (ty_ : BitVec 4) (k_ : BitVec 3) (imm_ : BitVec 6) :
    BitVec.extractLsb' 25 5 (0#1 ++ cop ++ d_ ++ a_ ++ ty_ ++ k_ ++ imm_) = cop ∧
    BitVec.extractLsb' 19 6 (0#1 ++ cop ++ d_ ++ a_ ++ ty_ ++ k_ ++ imm_) = d_ ∧
    BitVec.extractLsb' 13 6 (0#1 ++ cop ++ d_ ++ a_ ++ ty_ ++ k_ ++ imm_) = a_ ∧
    BitVec.extractLsb' 9 4 (0#1 ++ cop ++ d_ ++ a_ ++ ty_ ++ k_ ++ imm_) = ty_ ∧
    BitVec.extractLsb' 6 3 (0#1 ++ cop ++ d_ ++ a_ ++ ty_ ++ k_ ++ imm_) = k_ ∧
    BitVec.extractLsb' 0 6 (0#1 ++ cop ++ d_ ++ a_ ++ ty_ ++ k_ ++ imm_) = imm_ ∧
    (0#1 ++ cop ++ d_ ++ a_ ++ ty_ ++ k_ ++ imm_).getLsbD 30 = false :=
  ⟨by rw [extract_high, extract_high, extract_high, extract_high, extract_high, extract_low] <;> decide,
    by rw [extract_high, extract_high, extract_high, extract_high, extract_low] <;> decide,
    by rw [extract_high, extract_high, extract_high, extract_low] <;> decide,
    by rw [extract_high, extract_high, extract_low] <;> decide,
    by rw [extract_high, extract_low] <;> decide,
    by rw [extract_low]; decide,
    by rw [bit_high, bit_high, bit_high, bit_high, bit_high, bit_high] <;> decide⟩

/-- The parts of a pair word. -/
theorem partsPair (p q : BitVec 31) :
    BitVec.extractLsb' 32 31 (1#1 ++ p ++ q ++ 0#1) = p ∧
    BitVec.extractLsb' 1 31 (1#1 ++ p ++ q ++ 0#1) = q ∧
    (1#1 ++ p ++ q ++ 0#1).getLsbD 63 = true ∧ (1#1 ++ p ++ q ++ 0#1).getLsbD 0 = false :=
  ⟨by rw [extract_high, extract_high, extract_low] <;> decide,
    by rw [extract_high, extract_low] <;> decide,
    by rw [bit_high, bit_high, bit_high] <;> decide,
    by rw [BitVec.getLsbD_append]; rfl⟩

theorem extract_extract {n : Nat} (w : BitVec n) (a b lo len : Nat) (h : lo + len ≤ b) :
    BitVec.extractLsb' lo len (BitVec.extractLsb' a b w) = BitVec.extractLsb' (a + lo) len w := by
  ext i hi
  simp only [BitVec.getElem_extractLsb', BitVec.getLsbD_extractLsb']
  rw [Nat.add_assoc]
  simp
  omega

theorem unpackSlot_of (w : W64) (lo : Nat) (s : Slot) (h : BitVec.extractLsb' lo 31 w = packSlot s) :
    unpackSlot w lo = s := by
  obtain ⟨cop, d_, a_, ty_, k_, imm_⟩ := s
  obtain ⟨h1, h2, h3, h4, h5, h6, -⟩ := fieldsSlot cop d_ a_ ty_ k_ imm_
  have e (i n : Nat) (hn : i + n ≤ 31) :
      BitVec.extractLsb' (lo + i) n w = BitVec.extractLsb' i n (packSlot ⟨cop, d_, a_, ty_, k_, imm_⟩) := by
    rw [← h, extract_extract w lo 31 i n hn]
  unfold unpackSlot slice
  rw [e 25 5 (by decide), e 19 6 (by decide), e 13 6 (by decide), e 9 4 (by decide), e 6 3 (by decide)]
  have z := e 0 6 (by decide)
  rw [Nat.add_zero] at z
  rw [z]
  unfold packSlot
  congr 1
  congr 1

theorem unpackSlot_packPair0 (s0 s1 : Slot) : unpackSlot (packPair s0 s1) 32 = s0 :=
  unpackSlot_of _ _ _ (partsPair _ _).1

theorem unpackSlot_packPair1 (s0 s1 : Slot) : unpackSlot (packPair s0 s1) 1 = s1 :=
  unpackSlot_of _ _ _ (partsPair _ _).2.1

theorem bit_of_extract {n : Nat} (w : BitVec n) (a b i : Nat) (h : i < b) :
    w.getLsbD (a + i) = (BitVec.extractLsb' a b w).getLsbD i := by
  simp [BitVec.getLsbD_extractLsb', h]

/-- R61: a pair word's top bit is 1, and bits 62, 31 and 0 are 0. -/
theorem bits_packPair (s0 s1 : Slot) :
    bitAt (packPair s0 s1) 63 = true ∧ bitAt (packPair s0 s1) 62 = false ∧ bitAt (packPair s0 s1) 31 = false ∧
      bitAt (packPair s0 s1) 0 = false := by
  obtain ⟨h1, h2, h3, h4⟩ := partsPair (packSlot s0) (packSlot s1)
  refine ⟨h3, ?_, ?_, h4⟩
  · exact (bit_of_extract (packPair s0 s1) 32 31 30 (by decide)).trans
      ((congrArg (fun v => BitVec.getLsbD v 30) h1).trans (fieldsSlot s0.cop s0.args.d s0.args.a s0.args.ty s0.args.k s0.args.imm).2.2.2.2.2.2)
  · exact (bit_of_extract (packPair s0 s1) 1 31 30 (by decide)).trans
      ((congrArg (fun v => BitVec.getLsbD v 30) h2).trans (fieldsSlot s1.cop s1.args.d s1.args.a s1.args.ty s1.args.k s1.args.imm).2.2.2.2.2.2)

end Sys2Proof.Laws
end

