-- ==== Sys2Proof/Laws/PerInstr.lean ====
section
/-! SUPPORT. Laws/PerInstr.lean: for every instruction that has a word, decoding its encoding gives it back. -/

set_option Elab.async false

namespace Sys2Proof.Laws

/-- A single word whose opcode's row is a legal instruction decodes to it. -/
theorem decode_single (w : W64) (i : Instr) (top : bitAt w 63 = false) (row : decodeOpc w = some i)
    (wf : i.wf = true) : decode w = .ok i := by
  obtain ⟨h1, h2⟩ := Bool.and_eq_true_iff.mp wf
  simp only [decode, top, row, Bool.false_eq_true, if_false]
  simp [h1, h2]

theorem row_packX (o : BitVec 8) (f : FX) (g : FX → Instr)
    (h : ∀ w, decodeRow o.toNat w = some (g (unpackX w))) : decodeOpc (packX o f) = some (g f) := by
  unfold decodeOpc
  rw [opcode_packX, h, unpackX_packX]

theorem row_packJ (o : BitVec 8) (f : FJ) (g : FJ → Instr)
    (h : ∀ w, decodeRow o.toNat w = some (g (unpackJ w))) : decodeOpc (packJ o f) = some (g f) := by
  unfold decodeOpc
  rw [opcode_packJ, h, unpackJ_packJ]

theorem row_packM (o : BitVec 8) (f : FM) (g : FM → Instr)
    (h : ∀ w, decodeRow o.toNat w = some (g (unpackM w))) : decodeOpc (packM o f) = some (g f) := by
  unfold decodeOpc
  rw [opcode_packM, h, unpackM_packM]

theorem row_packB (o : BitVec 8) (f : FB) (g : FB → Instr)
    (h : ∀ w, decodeRow o.toNat w = some (g (unpackB w))) : decodeOpc (packB o f) = some (g f) := by
  unfold decodeOpc
  rw [opcode_packB, h, unpackB_packB]

theorem row_packS (o : BitVec 8) (f : FS) (g : FS → Instr)
    (h : ∀ w, decodeRow o.toNat w = some (g (unpackS w))) : decodeOpc (packS o f) = some (g f) := by
  unfold decodeOpc
  rw [opcode_packS, h, unpackS_packS]

theorem row_packT (o : BitVec 8) (f : FT) (g : FT → Instr)
    (h : ∀ w, decodeRow o.toNat w = some (g (unpackT w))) : decodeOpc (packT o f) = some (g f) := by
  unfold decodeOpc
  rw [opcode_packT, h, unpackT_packT]

/-- A pair word whose slots are legal decodes to its instruction. -/
theorem decode_pair (s0 s1 : Slot) (i : Instr) (row : pairInstr s0 s1 = i) (wf : i.wf = true) :
    decode (packPair s0 s1) = .ok i := by
  obtain ⟨h1, h2⟩ := Bool.and_eq_true_iff.mp wf
  obtain ⟨t, a, b, c⟩ := bits_packPair s0 s1
  simp only [decode, t, if_true]
  rw [decodePair, a, b, c, unpackSlot_packPair0, unpackSlot_packPair1, row]
  simp [h1, h2]

/-- Decoding an instruction's word gives the instruction, whatever its operands. -/
def RoundTrip.Statement (i : Instr) : Prop := ∀ w, i.wf = true → encode i = some w → decode w = .ok i

theorem RoundTrip.add (f : FX) : RoundTrip.Statement (.add f) := by
  intro w h e
  cases e
  refine decode_single _ _ (single_packX _ _) ?_ h
  exact row_packX _ _ Instr.add fun _ => rfl

theorem RoundTrip.sub (f : FX) : RoundTrip.Statement (.sub f) := by
  intro w h e
  cases e
  refine decode_single _ _ (single_packX _ _) ?_ h
  exact row_packX _ _ Instr.sub fun _ => rfl

theorem RoundTrip.and (f : FX) : RoundTrip.Statement (.and f) := by
  intro w h e
  cases e
  refine decode_single _ _ (single_packX _ _) ?_ h
  exact row_packX _ _ Instr.and fun _ => rfl

theorem RoundTrip.or (f : FX) : RoundTrip.Statement (.or f) := by
  intro w h e
  cases e
  refine decode_single _ _ (single_packX _ _) ?_ h
  exact row_packX _ _ Instr.or fun _ => rfl

theorem RoundTrip.xor (f : FX) : RoundTrip.Statement (.xor f) := by
  intro w h e
  cases e
  refine decode_single _ _ (single_packX _ _) ?_ h
  exact row_packX _ _ Instr.xor fun _ => rfl

theorem RoundTrip.shl (f : FX) : RoundTrip.Statement (.shl f) := by
  intro w h e
  cases e
  refine decode_single _ _ (single_packX _ _) ?_ h
  exact row_packX _ _ Instr.shl fun _ => rfl

theorem RoundTrip.shr (f : FX) : RoundTrip.Statement (.shr f) := by
  intro w h e
  cases e
  refine decode_single _ _ (single_packX _ _) ?_ h
  exact row_packX _ _ Instr.shr fun _ => rfl

theorem RoundTrip.sra (f : FX) : RoundTrip.Statement (.sra f) := by
  intro w h e
  cases e
  refine decode_single _ _ (single_packX _ _) ?_ h
  exact row_packX _ _ Instr.sra fun _ => rfl

theorem RoundTrip.mul (f : FX) : RoundTrip.Statement (.mul f) := by
  intro w h e
  cases e
  refine decode_single _ _ (single_packX _ _) ?_ h
  exact row_packX _ _ Instr.mul fun _ => rfl

theorem RoundTrip.mulh (f : FX) : RoundTrip.Statement (.mulh f) := by
  intro w h e
  cases e
  refine decode_single _ _ (single_packX _ _) ?_ h
  exact row_packX _ _ Instr.mulh fun _ => rfl

theorem RoundTrip.div (f : FX) : RoundTrip.Statement (.div f) := by
  intro w h e
  cases e
  refine decode_single _ _ (single_packX _ _) ?_ h
  exact row_packX _ _ Instr.div fun _ => rfl

theorem RoundTrip.rem (f : FX) : RoundTrip.Statement (.rem f) := by
  intro w h e
  cases e
  refine decode_single _ _ (single_packX _ _) ?_ h
  exact row_packX _ _ Instr.rem fun _ => rfl

theorem RoundTrip.slt (f : FX) : RoundTrip.Statement (.slt f) := by
  intro w h e
  cases e
  refine decode_single _ _ (single_packX _ _) ?_ h
  exact row_packX _ _ Instr.slt fun _ => rfl

theorem RoundTrip.minmax (f : FX) : RoundTrip.Statement (.minmax f) := by
  intro w h e
  cases e
  refine decode_single _ _ (single_packX _ _) ?_ h
  exact row_packX _ _ Instr.minmax fun _ => rfl

theorem RoundTrip.bitcnt (f : FX) : RoundTrip.Statement (.bitcnt f) := by
  intro w h e
  cases e
  refine decode_single _ _ (single_packX _ _) ?_ h
  exact row_packX _ _ Instr.bitcnt fun _ => rfl

theorem RoundTrip.addi (f : FJ) : RoundTrip.Statement (.addi f) := by
  intro w h e
  cases e
  refine decode_single _ _ (single_packJ _ _) ?_ h
  exact row_packJ _ _ Instr.addi fun _ => rfl

theorem RoundTrip.andi (f : FJ) : RoundTrip.Statement (.andi f) := by
  intro w h e
  cases e
  refine decode_single _ _ (single_packJ _ _) ?_ h
  exact row_packJ _ _ Instr.andi fun _ => rfl

theorem RoundTrip.ori (f : FJ) : RoundTrip.Statement (.ori f) := by
  intro w h e
  cases e
  refine decode_single _ _ (single_packJ _ _) ?_ h
  exact row_packJ _ _ Instr.ori fun _ => rfl

theorem RoundTrip.xori (f : FJ) : RoundTrip.Statement (.xori f) := by
  intro w h e
  cases e
  refine decode_single _ _ (single_packJ _ _) ?_ h
  exact row_packJ _ _ Instr.xori fun _ => rfl

theorem RoundTrip.shli (f : FJ) : RoundTrip.Statement (.shli f) := by
  intro w h e
  cases e
  refine decode_single _ _ (single_packJ _ _) ?_ h
  exact row_packJ _ _ Instr.shli fun _ => rfl

theorem RoundTrip.shri (f : FJ) : RoundTrip.Statement (.shri f) := by
  intro w h e
  cases e
  refine decode_single _ _ (single_packJ _ _) ?_ h
  exact row_packJ _ _ Instr.shri fun _ => rfl

theorem RoundTrip.srai (f : FJ) : RoundTrip.Statement (.srai f) := by
  intro w h e
  cases e
  refine decode_single _ _ (single_packJ _ _) ?_ h
  exact row_packJ _ _ Instr.srai fun _ => rfl

theorem RoundTrip.lui (f : FJ) : RoundTrip.Statement (.lui f) := by
  intro w h e
  cases e
  refine decode_single _ _ (single_packJ _ _) ?_ h
  exact row_packJ _ _ Instr.lui fun _ => rfl

theorem RoundTrip.slti (f : FJ) : RoundTrip.Statement (.slti f) := by
  intro w h e
  cases e
  refine decode_single _ _ (single_packJ _ _) ?_ h
  exact row_packJ _ _ Instr.slti fun _ => rfl

theorem RoundTrip.auipc (f : FJ) : RoundTrip.Statement (.auipc f) := by
  intro w h e
  cases e
  refine decode_single _ _ (single_packJ _ _) ?_ h
  exact row_packJ _ _ Instr.auipc fun _ => rfl

theorem RoundTrip.csel (f : FX) : RoundTrip.Statement (.csel f) := by
  intro w h e
  cases e
  refine decode_single _ _ (single_packX _ _) ?_ h
  exact row_packX _ _ Instr.csel fun _ => rfl

theorem RoundTrip.ext (f : FX) : RoundTrip.Statement (.ext f) := by
  intro w h e
  cases e
  refine decode_single _ _ (single_packX _ _) ?_ h
  exact row_packX _ _ Instr.ext fun _ => rfl

theorem RoundTrip.ins (f : FX) : RoundTrip.Statement (.ins f) := by
  intro w h e
  cases e
  refine decode_single _ _ (single_packX _ _) ?_ h
  exact row_packX _ _ Instr.ins fun _ => rfl

theorem RoundTrip.fadd (f : FX) : RoundTrip.Statement (.fadd f) := by
  intro w h e
  cases e
  refine decode_single _ _ (single_packX _ _) ?_ h
  exact row_packX _ _ Instr.fadd fun _ => rfl

theorem RoundTrip.fmul (f : FX) : RoundTrip.Statement (.fmul f) := by
  intro w h e
  cases e
  refine decode_single _ _ (single_packX _ _) ?_ h
  exact row_packX _ _ Instr.fmul fun _ => rfl

theorem RoundTrip.ffma (f : FX) : RoundTrip.Statement (.ffma f) := by
  intro w h e
  cases e
  refine decode_single _ _ (single_packX _ _) ?_ h
  exact row_packX _ _ Instr.ffma fun _ => rfl

theorem RoundTrip.fdiv (f : FX) : RoundTrip.Statement (.fdiv f) := by
  intro w h e
  cases e
  refine decode_single _ _ (single_packX _ _) ?_ h
  exact row_packX _ _ Instr.fdiv fun _ => rfl

theorem RoundTrip.fcmp (f : FX) : RoundTrip.Statement (.fcmp f) := by
  intro w h e
  cases e
  refine decode_single _ _ (single_packX _ _) ?_ h
  exact row_packX _ _ Instr.fcmp fun _ => rfl

theorem RoundTrip.fcvt (f : FX) : RoundTrip.Statement (.fcvt f) := by
  intro w h e
  cases e
  refine decode_single _ _ (single_packX _ _) ?_ h
  exact row_packX _ _ Instr.fcvt fun _ => rfl

theorem RoundTrip.fminmax (f : FX) : RoundTrip.Statement (.fminmax f) := by
  intro w h e
  cases e
  refine decode_single _ _ (single_packX _ _) ?_ h
  exact row_packX _ _ Instr.fminmax fun _ => rfl

theorem RoundTrip.fclass (f : FX) : RoundTrip.Statement (.fclass f) := by
  intro w h e
  cases e
  refine decode_single _ _ (single_packX _ _) ?_ h
  exact row_packX _ _ Instr.fclass fun _ => rfl

theorem RoundTrip.ld (f : FM) : RoundTrip.Statement (.ld f) := by
  intro w h e
  cases e
  refine decode_single _ _ (single_packM _ _) ?_ h
  exact row_packM _ _ Instr.ld fun _ => rfl

theorem RoundTrip.st (f : FM) : RoundTrip.Statement (.st f) := by
  intro w h e
  cases e
  refine decode_single _ _ (single_packM _ _) ?_ h
  exact row_packM _ _ Instr.st fun _ => rfl

theorem RoundTrip.ldpair (f : FM) : RoundTrip.Statement (.ldpair f) := by
  intro w h e
  cases e
  refine decode_single _ _ (single_packM _ _) ?_ h
  exact row_packM _ _ Instr.ldpair fun _ => rfl

theorem RoundTrip.stpair (f : FM) : RoundTrip.Statement (.stpair f) := by
  intro w h e
  cases e
  refine decode_single _ _ (single_packM _ _) ?_ h
  exact row_packM _ _ Instr.stpair fun _ => rfl

theorem RoundTrip.br (f : FB) : RoundTrip.Statement (.br f) := by
  intro w h e
  cases e
  refine decode_single _ _ (single_packB _ _) ?_ h
  exact row_packB _ _ Instr.br fun _ => rfl

theorem RoundTrip.jal (f : FJ) : RoundTrip.Statement (.jal f) := by
  intro w h e
  cases e
  refine decode_single _ _ (single_packJ _ _) ?_ h
  exact row_packJ _ _ Instr.jal fun _ => rfl

theorem RoundTrip.jalr (f : FJ) : RoundTrip.Statement (.jalr f) := by
  intro w h e
  cases e
  refine decode_single _ _ (single_packJ _ _) ?_ h
  exact row_packJ _ _ Instr.jalr fun _ => rfl

theorem RoundTrip.loop (f : FB) : RoundTrip.Statement (.loop f) := by
  intro w h e
  cases e
  refine decode_single _ _ (single_packB _ _) ?_ h
  exact row_packB _ _ Instr.loop fun _ => rfl

theorem RoundTrip.fsqrt (f : FX) : RoundTrip.Statement (.fsqrt f) := by
  intro w h e
  cases e
  refine decode_single _ _ (single_packX _ _) ?_ h
  exact row_packX _ _ Instr.fsqrt fun _ => rfl

theorem RoundTrip.frnd (f : FX) : RoundTrip.Statement (.frnd f) := by
  intro w h e
  cases e
  refine decode_single _ _ (single_packX _ _) ?_ h
  exact row_packX _ _ Instr.frnd fun _ => rfl

theorem RoundTrip.mfs (f : FS) : RoundTrip.Statement (.mfs f) := by
  intro w h e
  cases e
  have n : f.sn ≠ 7 := by simp [Instr.wf, Instr.legal] at h; exact h.1.2
  refine decode_single _ _ (single_packS _ _) ?_ h
  unfold decodeOpc
  rw [opcode_packS]
  change some (decodeMfs (unpackS (packS 0x30 f))) = _
  rw [unpackS_packS, decodeMfs]
  rw [if_neg (by simpa using n)]

theorem RoundTrip.mts (f : FS) : RoundTrip.Statement (.mts f) := by
  intro w h e
  cases e
  have n : f.sn.toNat ≠ 1 ∧ f.sn.toNat ≠ 7 ∧ f.sn.toNat ≠ 11 ∧ f.sn.toNat ≠ 12 := by
    simp [Instr.wf, Instr.legal] at h; exact h.1.2
  obtain ⟨n1, n7, nb, nc⟩ := n
  refine decode_single _ _ (single_packS _ _) ?_ h
  unfold decodeOpc
  rw [opcode_packS]
  change some (decodeMts (unpackS (packS 0x31 f))) = _
  rw [unpackS_packS, decodeMts]
  have d (k : BitVec 12) (hk : f.sn.toNat ≠ k.toNat) : (f.sn == k) = false := by
    rw [beq_eq_false_iff_ne]; rintro rfl; exact hk rfl
  rw [d 7 n7, d 1 n1, d 11 nb, d 12 nc]
  rfl

theorem RoundTrip.trap (f : FJ) : RoundTrip.Statement (.trap f) := by
  intro w h e
  cases e
  refine decode_single _ _ (single_packJ _ _) ?_ h
  exact row_packJ _ _ Instr.trap fun _ => rfl

theorem RoundTrip.break (f : FJ) : RoundTrip.Statement (.break f) := by
  intro w h e
  cases e
  refine decode_single _ _ (single_packJ _ _) ?_ h
  exact row_packJ _ _ Instr.break fun _ => rfl

theorem RoundTrip.rdcyc (f : FX) : RoundTrip.Statement (.rdcyc f) := by
  intro w h e
  cases e
  refine decode_single _ _ (single_packX _ _) ?_ h
  exact row_packX _ _ Instr.rdcyc fun _ => rfl

theorem RoundTrip.setvl (f : FJ) : RoundTrip.Statement (.setvl f) := by
  intro w h e
  cases e
  refine decode_single _ _ (single_packJ _ _) ?_ h
  exact row_packJ _ _ Instr.setvl fun _ => rfl

theorem RoundTrip.waitlt (f : FJ) : RoundTrip.Statement (.waitlt f) := by
  intro w h e
  cases e
  refine decode_single _ _ (single_packJ _ _) ?_ h
  exact row_packJ _ _ Instr.waitlt fun _ => rfl

theorem RoundTrip.nop (f : FJ) : RoundTrip.Statement (.nop f) := by
  intro w h e
  cases e
  refine decode_single _ _ (single_packJ _ _) ?_ h
  exact row_packJ _ _ Instr.nop fun _ => rfl

theorem RoundTrip.fence (f : FX) : RoundTrip.Statement (.fence f) := by
  intro w h e
  cases e
  refine decode_single _ _ (single_packX _ _) ?_ h
  exact row_packX _ _ Instr.fence fun _ => rfl

theorem RoundTrip.slotq (f : FX) : RoundTrip.Statement (.slotq f) := by
  intro w h e
  cases e
  refine decode_single _ _ (single_packX _ _) ?_ h
  exact row_packX _ _ Instr.slotq fun _ => rfl

theorem RoundTrip.slotgate (f : FJ) : RoundTrip.Statement (.slotgate f) := by
  intro w h e
  cases e
  refine decode_single _ _ (single_packJ _ _) ?_ h
  exact row_packJ _ _ Instr.slotgate fun _ => rfl

theorem RoundTrip.cacheop (f : FM) : RoundTrip.Statement (.cacheop f) := by
  intro w h e
  cases e
  refine decode_single _ _ (single_packM _ _) ?_ h
  exact row_packM _ _ Instr.cacheop fun _ => rfl

theorem RoundTrip.vadd (f : FX) : RoundTrip.Statement (.vadd f) := by
  intro w h e
  cases e
  refine decode_single _ _ (single_packX _ _) ?_ h
  exact row_packX _ _ Instr.vadd fun _ => rfl

theorem RoundTrip.vsub (f : FX) : RoundTrip.Statement (.vsub f) := by
  intro w h e
  cases e
  refine decode_single _ _ (single_packX _ _) ?_ h
  exact row_packX _ _ Instr.vsub fun _ => rfl

theorem RoundTrip.vmul (f : FX) : RoundTrip.Statement (.vmul f) := by
  intro w h e
  cases e
  refine decode_single _ _ (single_packX _ _) ?_ h
  exact row_packX _ _ Instr.vmul fun _ => rfl

theorem RoundTrip.vfma (f : FX) : RoundTrip.Statement (.vfma f) := by
  intro w h e
  cases e
  refine decode_single _ _ (single_packX _ _) ?_ h
  exact row_packX _ _ Instr.vfma fun _ => rfl

theorem RoundTrip.vdiv (f : FX) : RoundTrip.Statement (.vdiv f) := by
  intro w h e
  cases e
  refine decode_single _ _ (single_packX _ _) ?_ h
  exact row_packX _ _ Instr.vdiv fun _ => rfl

theorem RoundTrip.vmin (f : FX) : RoundTrip.Statement (.vmin f) := by
  intro w h e
  cases e
  refine decode_single _ _ (single_packX _ _) ?_ h
  exact row_packX _ _ Instr.vmin fun _ => rfl

theorem RoundTrip.vmax (f : FX) : RoundTrip.Statement (.vmax f) := by
  intro w h e
  cases e
  refine decode_single _ _ (single_packX _ _) ?_ h
  exact row_packX _ _ Instr.vmax fun _ => rfl

theorem RoundTrip.vunary (f : FX) : RoundTrip.Statement (.vunary f) := by
  intro w h e
  cases e
  refine decode_single _ _ (single_packX _ _) ?_ h
  exact row_packX _ _ Instr.vunary fun _ => rfl

theorem RoundTrip.vand (f : FX) : RoundTrip.Statement (.vand f) := by
  intro w h e
  cases e
  refine decode_single _ _ (single_packX _ _) ?_ h
  exact row_packX _ _ Instr.vand fun _ => rfl

theorem RoundTrip.vor (f : FX) : RoundTrip.Statement (.vor f) := by
  intro w h e
  cases e
  refine decode_single _ _ (single_packX _ _) ?_ h
  exact row_packX _ _ Instr.vor fun _ => rfl

theorem RoundTrip.vxor (f : FX) : RoundTrip.Statement (.vxor f) := by
  intro w h e
  cases e
  refine decode_single _ _ (single_packX _ _) ?_ h
  exact row_packX _ _ Instr.vxor fun _ => rfl

theorem RoundTrip.vshl (f : FX) : RoundTrip.Statement (.vshl f) := by
  intro w h e
  cases e
  refine decode_single _ _ (single_packX _ _) ?_ h
  exact row_packX _ _ Instr.vshl fun _ => rfl

theorem RoundTrip.vshr (f : FX) : RoundTrip.Statement (.vshr f) := by
  intro w h e
  cases e
  refine decode_single _ _ (single_packX _ _) ?_ h
  exact row_packX _ _ Instr.vshr fun _ => rfl

theorem RoundTrip.vcvt (f : FX) : RoundTrip.Statement (.vcvt f) := by
  intro w h e
  cases e
  refine decode_single _ _ (single_packX _ _) ?_ h
  exact row_packX _ _ Instr.vcvt fun _ => rfl

theorem RoundTrip.vcmp (f : FX) : RoundTrip.Statement (.vcmp f) := by
  intro w h e
  cases e
  refine decode_single _ _ (single_packX _ _) ?_ h
  exact row_packX _ _ Instr.vcmp fun _ => rfl

theorem RoundTrip.vsel (f : FX) : RoundTrip.Statement (.vsel f) := by
  intro w h e
  cases e
  refine decode_single _ _ (single_packX _ _) ?_ h
  exact row_packX _ _ Instr.vsel fun _ => rfl

theorem RoundTrip.vsfu (f : FX) : RoundTrip.Statement (.vsfu f) := by
  intro w h e
  cases e
  refine decode_single _ _ (single_packX _ _) ?_ h
  exact row_packX _ _ Instr.vsfu fun _ => rfl

theorem RoundTrip.vclass (f : FX) : RoundTrip.Statement (.vclass f) := by
  intro w h e
  cases e
  refine decode_single _ _ (single_packX _ _) ?_ h
  exact row_packX _ _ Instr.vclass fun _ => rfl

theorem RoundTrip.vrnd (f : FX) : RoundTrip.Statement (.vrnd f) := by
  intro w h e
  cases e
  refine decode_single _ _ (single_packX _ _) ?_ h
  exact row_packX _ _ Instr.vrnd fun _ => rfl

theorem RoundTrip.vadds (f : FX) : RoundTrip.Statement (.vadds f) := by
  intro w h e
  cases e
  refine decode_single _ _ (single_packX _ _) ?_ h
  exact row_packX _ _ Instr.vadds fun _ => rfl

theorem RoundTrip.vmuls (f : FX) : RoundTrip.Statement (.vmuls f) := by
  intro w h e
  cases e
  refine decode_single _ _ (single_packX _ _) ?_ h
  exact row_packX _ _ Instr.vmuls fun _ => rfl

theorem RoundTrip.vfmas (f : FX) : RoundTrip.Statement (.vfmas f) := by
  intro w h e
  cases e
  refine decode_single _ _ (single_packX _ _) ?_ h
  exact row_packX _ _ Instr.vfmas fun _ => rfl

theorem RoundTrip.vmins (f : FX) : RoundTrip.Statement (.vmins f) := by
  intro w h e
  cases e
  refine decode_single _ _ (single_packX _ _) ?_ h
  exact row_packX _ _ Instr.vmins fun _ => rfl

theorem RoundTrip.vmaxs (f : FX) : RoundTrip.Statement (.vmaxs f) := by
  intro w h e
  cases e
  refine decode_single _ _ (single_packX _ _) ?_ h
  exact row_packX _ _ Instr.vmaxs fun _ => rfl

theorem RoundTrip.vshli (f : FJ) : RoundTrip.Statement (.vshli f) := by
  intro w h e
  cases e
  refine decode_single _ _ (single_packJ _ _) ?_ h
  exact row_packJ _ _ Instr.vshli fun _ => rfl

theorem RoundTrip.vshri (f : FJ) : RoundTrip.Statement (.vshri f) := by
  intro w h e
  cases e
  refine decode_single _ _ (single_packJ _ _) ?_ h
  exact row_packJ _ _ Instr.vshri fun _ => rfl

theorem RoundTrip.vcmps (f : FX) : RoundTrip.Statement (.vcmps f) := by
  intro w h e
  cases e
  refine decode_single _ _ (single_packX _ _) ?_ h
  exact row_packX _ _ Instr.vcmps fun _ => rfl

theorem RoundTrip.vsplat (f : FJ) : RoundTrip.Statement (.vsplat f) := by
  intro w h e
  cases e
  refine decode_single _ _ (single_packJ _ _) ?_ h
  exact row_packJ _ _ Instr.vsplat fun _ => rfl

theorem RoundTrip.viota (f : FJ) : RoundTrip.Statement (.viota f) := by
  intro w h e
  cases e
  refine decode_single _ _ (single_packJ _ _) ?_ h
  exact row_packJ _ _ Instr.viota fun _ => rfl

theorem RoundTrip.vbcast (f : FX) : RoundTrip.Statement (.vbcast f) := by
  intro w h e
  cases e
  refine decode_single _ _ (single_packX _ _) ?_ h
  exact row_packX _ _ Instr.vbcast fun _ => rfl

theorem RoundTrip.vslide (f : FJ) : RoundTrip.Statement (.vslide f) := by
  intro w h e
  cases e
  refine decode_single _ _ (single_packJ _ _) ?_ h
  exact row_packJ _ _ Instr.vslide fun _ => rfl

theorem RoundTrip.vmov (f : FX) : RoundTrip.Statement (.vmov f) := by
  intro w h e
  cases e
  refine decode_single _ _ (single_packX _ _) ?_ h
  exact row_packX _ _ Instr.vmov fun _ => rfl

theorem RoundTrip.vld (f : FM) : RoundTrip.Statement (.vld f) := by
  intro w h e
  cases e
  refine decode_single _ _ (single_packM _ _) ?_ h
  exact row_packM _ _ Instr.vld fun _ => rfl

theorem RoundTrip.vldx (f : FM) : RoundTrip.Statement (.vldx f) := by
  intro w h e
  cases e
  refine decode_single _ _ (single_packM _ _) ?_ h
  exact row_packM _ _ Instr.vldx fun _ => rfl

theorem RoundTrip.vtread (f : FT) : RoundTrip.Statement (.vtread f) := by
  intro w h e
  cases e
  refine decode_single _ _ (single_packT _ _) ?_ h
  exact row_packT _ _ Instr.vtread fun _ => rfl

theorem RoundTrip.vkld (f : FM) : RoundTrip.Statement (.vkld f) := by
  intro w h e
  cases e
  refine decode_single _ _ (single_packM _ _) ?_ h
  exact row_packM _ _ Instr.vkld fun _ => rfl

theorem RoundTrip.vst (f : FM) : RoundTrip.Statement (.vst f) := by
  intro w h e
  cases e
  refine decode_single _ _ (single_packM _ _) ?_ h
  exact row_packM _ _ Instr.vst fun _ => rfl

theorem RoundTrip.vstx (f : FM) : RoundTrip.Statement (.vstx f) := by
  intro w h e
  cases e
  refine decode_single _ _ (single_packM _ _) ?_ h
  exact row_packM _ _ Instr.vstx fun _ => rfl

theorem RoundTrip.vcst (f : FM) : RoundTrip.Statement (.vcst f) := by
  intro w h e
  cases e
  refine decode_single _ _ (single_packM _ _) ?_ h
  exact row_packM _ _ Instr.vcst fun _ => rfl

theorem RoundTrip.vkst (f : FM) : RoundTrip.Statement (.vkst f) := by
  intro w h e
  cases e
  refine decode_single _ _ (single_packM _ _) ?_ h
  exact row_packM _ _ Instr.vkst fun _ => rfl

theorem RoundTrip.vred (f : FM) : RoundTrip.Statement (.vred f) := by
  intro w h e
  cases e
  refine decode_single _ _ (single_packM _ _) ?_ h
  exact row_packM _ _ Instr.vred fun _ => rfl

theorem RoundTrip.vsegred (f : FX) : RoundTrip.Statement (.vsegred f) := by
  intro w h e
  cases e
  refine decode_single _ _ (single_packX _ _) ?_ h
  exact row_packX _ _ Instr.vsegred fun _ => rfl

theorem RoundTrip.vscan (f : FX) : RoundTrip.Statement (.vscan f) := by
  intro w h e
  cases e
  refine decode_single _ _ (single_packX _ _) ?_ h
  exact row_packX _ _ Instr.vscan fun _ => rfl

theorem RoundTrip.vforce (f : FX) : RoundTrip.Statement (.vforce f) := by
  intro w h e
  cases e
  refine decode_single _ _ (single_packX _ _) ?_ h
  exact row_packX _ _ Instr.vforce fun _ => rfl

theorem RoundTrip.vpass (f : FX) : RoundTrip.Statement (.vpass f) := by
  intro w h e
  cases e
  refine decode_single _ _ (single_packX _ _) ?_ h
  exact row_packX _ _ Instr.vpass fun _ => rfl

theorem RoundTrip.kop (f : FX) : RoundTrip.Statement (.kop f) := by
  intro w h e
  cases e
  refine decode_single _ _ (single_packX _ _) ?_ h
  exact row_packX _ _ Instr.kop fun _ => rfl

theorem RoundTrip.kpop (f : FX) : RoundTrip.Statement (.kpop f) := by
  intro w h e
  cases e
  refine decode_single _ _ (single_packX _ _) ?_ h
  exact row_packX _ _ Instr.kpop fun _ => rfl

theorem RoundTrip.vflags (f : FX) : RoundTrip.Statement (.vflags f) := by
  intro w h e
  cases e
  refine decode_single _ _ (single_packX _ _) ?_ h
  exact row_packX _ _ Instr.vflags fun _ => rfl

theorem RoundTrip.lqopPush (f : FX) : RoundTrip.Statement (.lqopPush f) := by
  intro w h e
  cases e
  have n : f.fnAt 0 3 = 0 := by simp [Instr.wf, Instr.legal] at h; exact h.1.2
  refine decode_single _ _ (single_packX _ _) ?_ h
  unfold decodeOpc
  rw [opcode_packX]
  change decodeLqop (unpackX (packX 0x70 f)) = _
  rw [unpackX_packX, decodeLqop, n]
  rfl

theorem RoundTrip.lqopPop (f : FX) : RoundTrip.Statement (.lqopPop f) := by
  intro w h e
  cases e
  have n : f.fnAt 0 3 = 1 := by simp [Instr.wf, Instr.legal] at h; exact h.1.2
  refine decode_single _ _ (single_packX _ _) ?_ h
  unfold decodeOpc
  rw [opcode_packX]
  change decodeLqop (unpackX (packX 0x70 f)) = _
  rw [unpackX_packX, decodeLqop, n]
  rfl

theorem RoundTrip.lqopDrop (f : FX) : RoundTrip.Statement (.lqopDrop f) := by
  intro w h e
  cases e
  have n : f.fnAt 0 3 = 2 := by simp [Instr.wf, Instr.legal] at h; exact h.1.2
  refine decode_single _ _ (single_packX _ _) ?_ h
  unfold decodeOpc
  rw [opcode_packX]
  change decodeLqop (unpackX (packX 0x70 f)) = _
  rw [unpackX_packX, decodeLqop, n]
  rfl

theorem RoundTrip.vmulh (f : FX) : RoundTrip.Statement (.vmulh f) := by
  intro w h e
  cases e
  refine decode_single _ _ (single_packX _ _) ?_ h
  exact row_packX _ _ Instr.vmulh fun _ => rfl

theorem RoundTrip.vpopc (f : FX) : RoundTrip.Statement (.vpopc f) := by
  intro w h e
  cases e
  refine decode_single _ _ (single_packX _ _) ?_ h
  exact row_packX _ _ Instr.vpopc fun _ => rfl

theorem RoundTrip.mopa (f : FT) : RoundTrip.Statement (.mopa f) := by
  intro w h e
  cases e
  refine decode_single _ _ (single_packT _ _) ?_ h
  exact row_packT _ _ Instr.mopa fun _ => rfl

theorem RoundTrip.mops (f : FT) : RoundTrip.Statement (.mops f) := by
  intro w h e
  cases e
  refine decode_single _ _ (single_packT _ _) ?_ h
  exact row_packT _ _ Instr.mops fun _ => rfl

theorem RoundTrip.mzero (f : FT) : RoundTrip.Statement (.mzero f) := by
  intro w h e
  cases e
  refine decode_single _ _ (single_packT _ _) ?_ h
  exact row_packT _ _ Instr.mzero fun _ => rfl

theorem RoundTrip.mscale (f : FT) : RoundTrip.Statement (.mscale f) := by
  intro w h e
  cases e
  refine decode_single _ _ (single_packT _ _) ?_ h
  exact row_packT _ _ Instr.mscale fun _ => rfl

theorem RoundTrip.maddt (f : FT) : RoundTrip.Statement (.maddt f) := by
  intro w h e
  cases e
  refine decode_single _ _ (single_packT _ _) ?_ h
  exact row_packT _ _ Instr.maddt fun _ => rfl

theorem RoundTrip.mtrn (f : FT) : RoundTrip.Statement (.mtrn f) := by
  intro w h e
  cases e
  refine decode_single _ _ (single_packT _ _) ?_ h
  exact row_packT _ _ Instr.mtrn fun _ => rfl

theorem RoundTrip.mtld (f : FT) : RoundTrip.Statement (.mtld f) := by
  intro w h e
  cases e
  refine decode_single _ _ (single_packT _ _) ?_ h
  exact row_packT _ _ Instr.mtld fun _ => rfl

theorem RoundTrip.mtst (f : FT) : RoundTrip.Statement (.mtst f) := by
  intro w h e
  cases e
  refine decode_single _ _ (single_packT _ _) ?_ h
  exact row_packT _ _ Instr.mtst fun _ => rfl

theorem RoundTrip.mpack (f : FT) : RoundTrip.Statement (.mpack f) := by
  intro w h e
  cases e
  refine decode_single _ _ (single_packT _ _) ?_ h
  exact row_packT _ _ Instr.mpack fun _ => rfl

theorem RoundTrip.mtwr (f : FT) : RoundTrip.Statement (.mtwr f) := by
  intro w h e
  cases e
  refine decode_single _ _ (single_packT _ _) ?_ h
  exact row_packT _ _ Instr.mtwr fun _ => rfl

theorem RoundTrip.mrred (f : FT) : RoundTrip.Statement (.mrred f) := by
  intro w h e
  cases e
  refine decode_single _ _ (single_packT _ _) ?_ h
  exact row_packT _ _ Instr.mrred fun _ => rfl

theorem RoundTrip.bload (f : FT) : RoundTrip.Statement (.bload f) := by
  intro w h e
  cases e
  refine decode_single _ _ (single_packT _ _) ?_ h
  exact row_packT _ _ Instr.bload fun _ => rfl

theorem RoundTrip.bfromt (f : FT) : RoundTrip.Statement (.bfromt f) := by
  intro w h e
  cases e
  refine decode_single _ _ (single_packT _ _) ?_ h
  exact row_packT _ _ Instr.bfromt fun _ => rfl

theorem RoundTrip.msave (f : FT) : RoundTrip.Statement (.msave f) := by
  intro w h e
  cases e
  refine decode_single _ _ (single_packT _ _) ?_ h
  exact row_packT _ _ Instr.msave fun _ => rfl

theorem RoundTrip.mrest (f : FT) : RoundTrip.Statement (.mrest f) := by
  intro w h e
  cases e
  refine decode_single _ _ (single_packT _ _) ?_ h
  exact row_packT _ _ Instr.mrest fun _ => rfl

theorem RoundTrip.mopt (f : FT) : RoundTrip.Statement (.mopt f) := by
  intro w h e
  cases e
  refine decode_single _ _ (single_packT _ _) ?_ h
  exact row_packT _ _ Instr.mopt fun _ => rfl

theorem RoundTrip.sscfg (f : FJ) : RoundTrip.Statement (.sscfg f) := by
  intro w h e
  cases e
  refine decode_single _ _ (single_packJ _ _) ?_ h
  exact row_packJ _ _ Instr.sscfg fun _ => rfl

theorem RoundTrip.sscan (f : FX) : RoundTrip.Statement (.sscan f) := by
  intro w h e
  cases e
  refine decode_single _ _ (single_packX _ _) ?_ h
  exact row_packX _ _ Instr.sscan fun _ => rfl

theorem RoundTrip.ssstep (f : FX) : RoundTrip.Statement (.ssstep f) := by
  intro w h e
  cases e
  refine decode_single _ _ (single_packX _ _) ?_ h
  exact row_packX _ _ Instr.ssstep fun _ => rfl

theorem RoundTrip.ssld (f : FM) : RoundTrip.Statement (.ssld f) := by
  intro w h e
  cases e
  refine decode_single _ _ (single_packM _ _) ?_ h
  exact row_packM _ _ Instr.ssld fun _ => rfl

theorem RoundTrip.ssst (f : FM) : RoundTrip.Statement (.ssst f) := by
  intro w h e
  cases e
  refine decode_single _ _ (single_packM _ _) ?_ h
  exact row_packM _ _ Instr.ssst fun _ => rfl

theorem RoundTrip.ssrst (f : FX) : RoundTrip.Statement (.ssrst f) := by
  intro w h e
  cases e
  refine decode_single _ _ (single_packX _ _) ?_ h
  exact row_packX _ _ Instr.ssrst fun _ => rfl

theorem RoundTrip.cpy (f : FM) : RoundTrip.Statement (.cpy f) := by
  intro w h e
  cases e
  refine decode_single _ _ (single_packM _ _) ?_ h
  exact row_packM _ _ Instr.cpy fun _ => rfl

theorem RoundTrip.cpy2d (f : FM) : RoundTrip.Statement (.cpy2d f) := by
  intro w h e
  cases e
  refine decode_single _ _ (single_packM _ _) ?_ h
  exact row_packM _ _ Instr.cpy2d fun _ => rfl

theorem RoundTrip.cpyt (f : FM) : RoundTrip.Statement (.cpyt f) := by
  intro w h e
  cases e
  refine decode_single _ _ (single_packM _ _) ?_ h
  exact row_packM _ _ Instr.cpyt fun _ => rfl

theorem RoundTrip.cpyx (f : FM) : RoundTrip.Statement (.cpyx f) := by
  intro w h e
  cases e
  refine decode_single _ _ (single_packM _ _) ?_ h
  exact row_packM _ _ Instr.cpyx fun _ => rfl

theorem RoundTrip.cpyf (f : FM) : RoundTrip.Statement (.cpyf f) := by
  intro w h e
  cases e
  refine decode_single _ _ (single_packM _ _) ?_ h
  exact row_packM _ _ Instr.cpyf fun _ => rfl

theorem RoundTrip.cpyr (f : FM) : RoundTrip.Statement (.cpyr f) := by
  intro w h e
  cases e
  refine decode_single _ _ (single_packM _ _) ?_ h
  exact row_packM _ _ Instr.cpyr fun _ => rfl

theorem RoundTrip.cpypub (f : FM) : RoundTrip.Statement (.cpypub f) := by
  intro w h e
  cases e
  refine decode_single _ _ (single_packM _ _) ?_ h
  exact row_packM _ _ Instr.cpypub fun _ => rfl

theorem RoundTrip.stcfg (f : FX) : RoundTrip.Statement (.stcfg f) := by
  intro w h e
  cases e
  refine decode_single _ _ (single_packX _ _) ?_ h
  exact row_packX _ _ Instr.stcfg fun _ => rfl

theorem RoundTrip.stmap (f : FM) : RoundTrip.Statement (.stmap f) := by
  intro w h e
  cases e
  refine decode_single _ _ (single_packM _ _) ?_ h
  exact row_packM _ _ Instr.stmap fun _ => rfl

theorem RoundTrip.stfl (f : FM) : RoundTrip.Statement (.stfl f) := by
  intro w h e
  cases e
  refine decode_single _ _ (single_packM _ _) ?_ h
  exact row_packM _ _ Instr.stfl fun _ => rfl

theorem RoundTrip.arm (f : FM) : RoundTrip.Statement (.arm f) := by
  intro w h e
  cases e
  refine decode_single _ _ (single_packM _ _) ?_ h
  exact row_packM _ _ Instr.arm fun _ => rfl

theorem RoundTrip.arwait (f : FM) : RoundTrip.Statement (.arwait f) := by
  intro w h e
  cases e
  refine decode_single _ _ (single_packM _ _) ?_ h
  exact row_packM _ _ Instr.arwait fun _ => rfl

theorem RoundTrip.cinv (f : FM) : RoundTrip.Statement (.cinv f) := by
  intro w h e
  cases e
  refine decode_single _ _ (single_packM _ _) ?_ h
  exact row_packM _ _ Instr.cinv fun _ => rfl

theorem RoundTrip.stinv (f : FM) : RoundTrip.Statement (.stinv f) := by
  intro w h e
  cases e
  refine decode_single _ _ (single_packM _ _) ?_ h
  exact row_packM _ _ Instr.stinv fun _ => rfl

theorem RoundTrip.amo (f : FM) : RoundTrip.Statement (.amo f) := by
  intro w h e
  cases e
  refine decode_single _ _ (single_packM _ _) ?_ h
  exact row_packM _ _ Instr.amo fun _ => rfl

theorem RoundTrip.amow (f : FM) : RoundTrip.Statement (.amow f) := by
  intro w h e
  cases e
  refine decode_single _ _ (single_packM _ _) ?_ h
  exact row_packM _ _ Instr.amow fun _ => rfl

theorem RoundTrip.cas (f : FM) : RoundTrip.Statement (.cas f) := by
  intro w h e
  cases e
  refine decode_single _ _ (single_packM _ _) ?_ h
  exact row_packM _ _ Instr.cas fun _ => rfl

theorem RoundTrip.vamo (f : FM) : RoundTrip.Statement (.vamo f) := by
  intro w h e
  cases e
  refine decode_single _ _ (single_packM _ _) ?_ h
  exact row_packM _ _ Instr.vamo fun _ => rfl

theorem RoundTrip.ldaq (f : FM) : RoundTrip.Statement (.ldaq f) := by
  intro w h e
  cases e
  refine decode_single _ _ (single_packM _ _) ?_ h
  exact row_packM _ _ Instr.ldaq fun _ => rfl

theorem RoundTrip.strl (f : FM) : RoundTrip.Statement (.strl f) := by
  intro w h e
  cases e
  refine decode_single _ _ (single_packM _ _) ?_ h
  exact row_packM _ _ Instr.strl fun _ => rfl

theorem RoundTrip.semtas (f : FJ) : RoundTrip.Statement (.semtas f) := by
  intro w h e
  cases e
  refine decode_single _ _ (single_packJ _ _) ?_ h
  exact row_packJ _ _ Instr.semtas fun _ => rfl

theorem RoundTrip.semclr (f : FJ) : RoundTrip.Statement (.semclr f) := by
  intro w h e
  cases e
  refine decode_single _ _ (single_packJ _ _) ?_ h
  exact row_packJ _ _ Instr.semclr fun _ => rfl

theorem RoundTrip.cdrd (f : FJ) : RoundTrip.Statement (.cdrd f) := by
  intro w h e
  cases e
  refine decode_single _ _ (single_packJ _ _) ?_ h
  exact row_packJ _ _ Instr.cdrd fun _ => rfl

theorem RoundTrip.cdwr (f : FJ) : RoundTrip.Statement (.cdwr f) := by
  intro w h e
  cases e
  refine decode_single _ _ (single_packJ _ _) ?_ h
  exact row_packJ _ _ Instr.cdwr fun _ => rfl

theorem RoundTrip.cdamo (f : FJ) : RoundTrip.Statement (.cdamo f) := by
  intro w h e
  cases e
  refine decode_single _ _ (single_packJ _ _) ?_ h
  exact row_packJ _ _ Instr.cdamo fun _ => rfl

theorem RoundTrip.cbar (f : FJ) : RoundTrip.Statement (.cbar f) := by
  intro w h e
  cases e
  refine decode_single _ _ (single_packJ _ _) ?_ h
  exact row_packJ _ _ Instr.cbar fun _ => rfl

theorem RoundTrip.vtb (f : FM) : RoundTrip.Statement (.vtb f) := by
  intro w h e
  cases e
  refine decode_single _ _ (single_packM _ _) ?_ h
  exact row_packM _ _ Instr.vtb fun _ => rfl

theorem RoundTrip.lfetch (f : FJ) : RoundTrip.Statement (.lfetch f) := by
  intro w h e
  cases e
  refine decode_single _ _ (single_packJ _ _) ?_ h
  exact row_packJ _ _ Instr.lfetch fun _ => rfl

theorem RoundTrip.lstop (f : FJ) : RoundTrip.Statement (.lstop f) := by
  intro w h e
  cases e
  refine decode_single _ _ (single_packJ _ _) ?_ h
  exact row_packJ _ _ Instr.lstop fun _ => rfl

theorem RoundTrip.lbr (f : FB) : RoundTrip.Statement (.lbr f) := by
  intro w h e
  cases e
  refine decode_single _ _ (single_packB _ _) ?_ h
  exact row_packB _ _ Instr.lbr fun _ => rfl

theorem RoundTrip.launch (f : FM) : RoundTrip.Statement (.launch f) := by
  intro w h e
  cases e
  refine decode_single _ _ (single_packM _ _) ?_ h
  exact row_packM _ _ Instr.launch fun _ => rfl

theorem RoundTrip.yield (f : FJ) : RoundTrip.Statement (.yield f) := by
  intro w h e
  cases e
  refine decode_single _ _ (single_packJ _ _) ?_ h
  exact row_packJ _ _ Instr.yield fun _ => rfl

theorem RoundTrip.taskend (f : FJ) : RoundTrip.Statement (.taskend f) := by
  intro w h e
  cases e
  refine decode_single _ _ (single_packJ _ _) ?_ h
  exact row_packJ _ _ Instr.taskend fun _ => rfl

theorem RoundTrip.leaseq (f : FX) : RoundTrip.Statement (.leaseq f) := by
  intro w h e
  cases e
  refine decode_single _ _ (single_packX _ _) ?_ h
  exact row_packX _ _ Instr.leaseq fun _ => rfl

theorem RoundTrip.tret (f : FJ) : RoundTrip.Statement (.tret f) := by
  intro w h e
  cases e
  refine decode_single _ _ (single_packJ _ _) ?_ h
  exact row_packJ _ _ Instr.tret fun _ => rfl

theorem RoundTrip.ctxsv (f : FM) : RoundTrip.Statement (.ctxsv f) := by
  intro w h e
  cases e
  refine decode_single _ _ (single_packM _ _) ?_ h
  exact row_packM _ _ Instr.ctxsv fun _ => rfl

theorem RoundTrip.ctxrs (f : FM) : RoundTrip.Statement (.ctxrs f) := by
  intro w h e
  cases e
  refine decode_single _ _ (single_packM _ _) ?_ h
  exact row_packM _ _ Instr.ctxrs fun _ => rfl

theorem RoundTrip.tlbinv (f : FX) : RoundTrip.Statement (.tlbinv f) := by
  intro w h e
  cases e
  refine decode_single _ _ (single_packX _ _) ?_ h
  exact row_packX _ _ Instr.tlbinv fun _ => rfl

theorem RoundTrip.pgsetSet (f : FX) : RoundTrip.Statement (.pgsetSet f) := by
  intro w h e
  cases e
  have n : f.fnAt 0 2 = 0 := by simp [Instr.wf, Instr.legal] at h; exact h.1.2
  refine decode_single _ _ (single_packX _ _) ?_ h
  unfold decodeOpc
  rw [opcode_packX]
  change decodePgset (unpackX (packX 0xE4 f)) = _
  rw [unpackX_packX, decodePgset, n]
  rfl

theorem RoundTrip.pgsetNorm (f : FX) : RoundTrip.Statement (.pgsetNorm f) := by
  intro w h e
  cases e
  have n : f.fnAt 0 2 = 1 := by simp [Instr.wf, Instr.legal] at h; exact h.1.2
  refine decode_single _ _ (single_packX _ _) ?_ h
  unfold decodeOpc
  rw [opcode_packX]
  change decodePgset (unpackX (packX 0xE4 f)) = _
  rw [unpackX_packX, decodePgset, n]
  rfl

theorem RoundTrip.pgsetWbset (f : FX) : RoundTrip.Statement (.pgsetWbset f) := by
  intro w h e
  cases e
  have n : f.fnAt 0 2 = 2 := by simp [Instr.wf, Instr.legal] at h; exact h.1.2
  refine decode_single _ _ (single_packX _ _) ?_ h
  unfold decodeOpc
  rw [opcode_packX]
  change decodePgset (unpackX (packX 0xE4 f)) = _
  rw [unpackX_packX, decodePgset, n]
  rfl

theorem RoundTrip.pgcnt (f : FX) : RoundTrip.Statement (.pgcnt f) := by
  intro w h e
  cases e
  refine decode_single _ _ (single_packX _ _) ?_ h
  exact row_packX _ _ Instr.pgcnt fun _ => rfl

theorem RoundTrip.nqpost (f : FM) : RoundTrip.Statement (.nqpost f) := by
  intro w h e
  cases e
  refine decode_single _ _ (single_packM _ _) ?_ h
  exact row_packM _ _ Instr.nqpost fun _ => rfl

theorem RoundTrip.waiti (f : FJ) : RoundTrip.Statement (.waiti f) := by
  intro w h e
  cases e
  refine decode_single _ _ (single_packJ _ _) ?_ h
  exact row_packJ _ _ Instr.waiti fun _ => rfl

theorem RoundTrip.stepcmt (f : FJ) : RoundTrip.Statement (.stepcmt f) := by
  intro w h e
  cases e
  refine decode_single _ _ (single_packJ _ _) ?_ h
  exact row_packJ _ _ Instr.stepcmt fun _ => rfl

theorem RoundTrip.stepabt (f : FJ) : RoundTrip.Statement (.stepabt f) := by
  intro w h e
  cases e
  refine decode_single _ _ (single_packJ _ _) ?_ h
  exact row_packJ _ _ Instr.stepabt fun _ => rfl

theorem RoundTrip.qctlRd (f : FX) : RoundTrip.Statement (.qctlRd f) := by
  intro w h e
  cases e
  have n : f.fnAt 0 3 = 0 := by simp [Instr.wf, Instr.legal] at h; exact h.1.2
  refine decode_single _ _ (single_packX _ _) ?_ h
  unfold decodeOpc
  rw [opcode_packX]
  change decodeQctl (unpackX (packX 0xEA f)) = _
  rw [unpackX_packX, decodeQctl, n]
  rfl

theorem RoundTrip.qctlStop (f : FX) : RoundTrip.Statement (.qctlStop f) := by
  intro w h e
  cases e
  have n : f.fnAt 0 3 = 1 := by simp [Instr.wf, Instr.legal] at h; exact h.1.2
  refine decode_single _ _ (single_packX _ _) ?_ h
  unfold decodeOpc
  rw [opcode_packX]
  change decodeQctl (unpackX (packX 0xEA f)) = _
  rw [unpackX_packX, decodeQctl, n]
  rfl

theorem RoundTrip.qctlStart (f : FX) : RoundTrip.Statement (.qctlStart f) := by
  intro w h e
  cases e
  have n : f.fnAt 0 3 = 2 := by simp [Instr.wf, Instr.legal] at h; exact h.1.2
  refine decode_single _ _ (single_packX _ _) ?_ h
  unfold decodeOpc
  rw [opcode_packX]
  change decodeQctl (unpackX (packX 0xEA f)) = _
  rw [unpackX_packX, decodeQctl, n]
  rfl

theorem RoundTrip.qctlSetw (f : FX) : RoundTrip.Statement (.qctlSetw f) := by
  intro w h e
  cases e
  have n : f.fnAt 0 3 = 3 := by simp [Instr.wf, Instr.legal] at h; exact h.1.2
  refine decode_single _ _ (single_packX _ _) ?_ h
  unfold decodeOpc
  rw [opcode_packX]
  change decodeQctl (unpackX (packX 0xEA f)) = _
  rw [unpackX_packX, decodeQctl, n]
  rfl

theorem RoundTrip.qctlSetp (f : FX) : RoundTrip.Statement (.qctlSetp f) := by
  intro w h e
  cases e
  have n : f.fnAt 0 3 = 4 := by simp [Instr.wf, Instr.legal] at h; exact h.1.2
  refine decode_single _ _ (single_packX _ _) ?_ h
  unfold decodeOpc
  rw [opcode_packX]
  change decodeQctl (unpackX (packX 0xEA f)) = _
  rw [unpackX_packX, decodeQctl, n]
  rfl

theorem RoundTrip.addSlot (a0 : SlotArgs) (s1 : Slot) : RoundTrip.Statement (.addSlot a0 s1) := by
  intro w h e
  cases e
  exact decode_pair ⟨0x00, a0⟩ s1 _ rfl h

theorem RoundTrip.subSlot (a0 : SlotArgs) (s1 : Slot) : RoundTrip.Statement (.subSlot a0 s1) := by
  intro w h e
  cases e
  exact decode_pair ⟨0x01, a0⟩ s1 _ rfl h

theorem RoundTrip.andSlot (a0 : SlotArgs) (s1 : Slot) : RoundTrip.Statement (.andSlot a0 s1) := by
  intro w h e
  cases e
  exact decode_pair ⟨0x02, a0⟩ s1 _ rfl h

theorem RoundTrip.orSlot (a0 : SlotArgs) (s1 : Slot) : RoundTrip.Statement (.orSlot a0 s1) := by
  intro w h e
  cases e
  exact decode_pair ⟨0x03, a0⟩ s1 _ rfl h

theorem RoundTrip.xorSlot (a0 : SlotArgs) (s1 : Slot) : RoundTrip.Statement (.xorSlot a0 s1) := by
  intro w h e
  cases e
  exact decode_pair ⟨0x04, a0⟩ s1 _ rfl h

theorem RoundTrip.shlSlot (a0 : SlotArgs) (s1 : Slot) : RoundTrip.Statement (.shlSlot a0 s1) := by
  intro w h e
  cases e
  exact decode_pair ⟨0x05, a0⟩ s1 _ rfl h

theorem RoundTrip.shrSlot (a0 : SlotArgs) (s1 : Slot) : RoundTrip.Statement (.shrSlot a0 s1) := by
  intro w h e
  cases e
  exact decode_pair ⟨0x06, a0⟩ s1 _ rfl h

theorem RoundTrip.sraSlot (a0 : SlotArgs) (s1 : Slot) : RoundTrip.Statement (.sraSlot a0 s1) := by
  intro w h e
  cases e
  exact decode_pair ⟨0x07, a0⟩ s1 _ rfl h

theorem RoundTrip.addiSlot (a0 : SlotArgs) (s1 : Slot) : RoundTrip.Statement (.addiSlot a0 s1) := by
  intro w h e
  cases e
  exact decode_pair ⟨0x08, a0⟩ s1 _ rfl h

theorem RoundTrip.shliSlot (a0 : SlotArgs) (s1 : Slot) : RoundTrip.Statement (.shliSlot a0 s1) := by
  intro w h e
  cases e
  exact decode_pair ⟨0x09, a0⟩ s1 _ rfl h

theorem RoundTrip.shriSlot (a0 : SlotArgs) (s1 : Slot) : RoundTrip.Statement (.shriSlot a0 s1) := by
  intro w h e
  cases e
  exact decode_pair ⟨0x0A, a0⟩ s1 _ rfl h

theorem RoundTrip.sltSlot (a0 : SlotArgs) (s1 : Slot) : RoundTrip.Statement (.sltSlot a0 s1) := by
  intro w h e
  cases e
  exact decode_pair ⟨0x0B, a0⟩ s1 _ rfl h

theorem RoundTrip.minmaxSlot (a0 : SlotArgs) (s1 : Slot) : RoundTrip.Statement (.minmaxSlot a0 s1) := by
  intro w h e
  cases e
  exact decode_pair ⟨0x0C, a0⟩ s1 _ rfl h

theorem RoundTrip.mulSlot (a0 : SlotArgs) (s1 : Slot) : RoundTrip.Statement (.mulSlot a0 s1) := by
  intro w h e
  cases e
  exact decode_pair ⟨0x0D, a0⟩ s1 _ rfl h

theorem RoundTrip.faddSlot (a0 : SlotArgs) (s1 : Slot) : RoundTrip.Statement (.faddSlot a0 s1) := by
  intro w h e
  cases e
  exact decode_pair ⟨0x0E, a0⟩ s1 _ rfl h

theorem RoundTrip.fmulSlot (a0 : SlotArgs) (s1 : Slot) : RoundTrip.Statement (.fmulSlot a0 s1) := by
  intro w h e
  cases e
  exact decode_pair ⟨0x0F, a0⟩ s1 _ rfl h

theorem RoundTrip.fminmaxSlot (a0 : SlotArgs) (s1 : Slot) : RoundTrip.Statement (.fminmaxSlot a0 s1) := by
  intro w h e
  cases e
  exact decode_pair ⟨0x10, a0⟩ s1 _ rfl h

theorem RoundTrip.nopSlot (a0 : SlotArgs) (s1 : Slot) : RoundTrip.Statement (.nopSlot a0 s1) := by
  intro w h e
  cases e
  exact decode_pair ⟨0x11, a0⟩ s1 _ rfl h

theorem RoundTrip.vaddSlot (a0 : SlotArgs) (s1 : Slot) : RoundTrip.Statement (.vaddSlot a0 s1) := by
  intro w h e
  cases e
  exact decode_pair ⟨0x12, a0⟩ s1 _ rfl h

theorem RoundTrip.vsubSlot (a0 : SlotArgs) (s1 : Slot) : RoundTrip.Statement (.vsubSlot a0 s1) := by
  intro w h e
  cases e
  exact decode_pair ⟨0x13, a0⟩ s1 _ rfl h

theorem RoundTrip.vmulSlot (a0 : SlotArgs) (s1 : Slot) : RoundTrip.Statement (.vmulSlot a0 s1) := by
  intro w h e
  cases e
  exact decode_pair ⟨0x14, a0⟩ s1 _ rfl h

theorem RoundTrip.vminSlot (a0 : SlotArgs) (s1 : Slot) : RoundTrip.Statement (.vminSlot a0 s1) := by
  intro w h e
  cases e
  exact decode_pair ⟨0x15, a0⟩ s1 _ rfl h

theorem RoundTrip.vmaxSlot (a0 : SlotArgs) (s1 : Slot) : RoundTrip.Statement (.vmaxSlot a0 s1) := by
  intro w h e
  cases e
  exact decode_pair ⟨0x16, a0⟩ s1 _ rfl h

theorem RoundTrip.vandSlot (a0 : SlotArgs) (s1 : Slot) : RoundTrip.Statement (.vandSlot a0 s1) := by
  intro w h e
  cases e
  exact decode_pair ⟨0x17, a0⟩ s1 _ rfl h

theorem RoundTrip.vorSlot (a0 : SlotArgs) (s1 : Slot) : RoundTrip.Statement (.vorSlot a0 s1) := by
  intro w h e
  cases e
  exact decode_pair ⟨0x18, a0⟩ s1 _ rfl h

theorem RoundTrip.vxorSlot (a0 : SlotArgs) (s1 : Slot) : RoundTrip.Statement (.vxorSlot a0 s1) := by
  intro w h e
  cases e
  exact decode_pair ⟨0x19, a0⟩ s1 _ rfl h

theorem RoundTrip.vshliSlot (a0 : SlotArgs) (s1 : Slot) : RoundTrip.Statement (.vshliSlot a0 s1) := by
  intro w h e
  cases e
  exact decode_pair ⟨0x1A, a0⟩ s1 _ rfl h

theorem RoundTrip.vshriSlot (a0 : SlotArgs) (s1 : Slot) : RoundTrip.Statement (.vshriSlot a0 s1) := by
  intro w h e
  cases e
  exact decode_pair ⟨0x1B, a0⟩ s1 _ rfl h

theorem RoundTrip.vaddsSlot (a0 : SlotArgs) (s1 : Slot) : RoundTrip.Statement (.vaddsSlot a0 s1) := by
  intro w h e
  cases e
  exact decode_pair ⟨0x1C, a0⟩ s1 _ rfl h

theorem RoundTrip.vmulsSlot (a0 : SlotArgs) (s1 : Slot) : RoundTrip.Statement (.vmulsSlot a0 s1) := by
  intro w h e
  cases e
  exact decode_pair ⟨0x1D, a0⟩ s1 _ rfl h

theorem RoundTrip.vmovSlot (a0 : SlotArgs) (s1 : Slot) : RoundTrip.Statement (.vmovSlot a0 s1) := by
  intro w h e
  cases e
  exact decode_pair ⟨0x1E, a0⟩ s1 _ rfl h

theorem RoundTrip.vunarySlot (a0 : SlotArgs) (s1 : Slot) : RoundTrip.Statement (.vunarySlot a0 s1) := by
  intro w h e
  cases e
  exact decode_pair ⟨0x1F, a0⟩ s1 _ rfl h

theorem RoundTrip.vstartWrite (f : FS) : RoundTrip.Statement (.vstartWrite f) := by
  intro w h e
  cases e
  have n : f.sn = 1 := by simp [Instr.wf, Instr.legal] at h; exact h.1.2
  refine decode_single _ _ (single_packS _ _) ?_ h
  unfold decodeOpc
  rw [opcode_packS]
  change some (decodeMts (unpackS (packS 0x31 f))) = _
  rw [unpackS_packS, decodeMts, n]
  rfl

theorem RoundTrip.fstatusAccess (write : Bool) (f : FS) : RoundTrip.Statement (.fstatusAccess write f) := by
  intro w h e
  have n : f.sn = 7 := by simp [Instr.wf, Instr.legal] at h; exact h.1.2
  cases write <;> cases e
  · refine decode_single _ _ (single_packS _ _) ?_ h
    unfold decodeOpc
    rw [opcode_packS]
    change some (decodeMfs (unpackS (packS 0x30 f))) = _
    rw [unpackS_packS, decodeMfs, n]
    rfl
  · refine decode_single _ _ (single_packS _ _) ?_ h
    unfold decodeOpc
    rw [opcode_packS]
    change some (decodeMts (unpackS (packS 0x31 f))) = _
    rw [unpackS_packS, decodeMts, n]
    rfl

theorem RoundTrip.browbaseWrite (f : FS) : RoundTrip.Statement (.browbaseWrite f) := by
  intro w h e
  cases e
  have n : f.sn = 11 ∨ f.sn = 12 := by simp [Instr.wf, Instr.legal] at h; exact h.1.2
  refine decode_single _ _ (single_packS _ _) ?_ h
  unfold decodeOpc
  rw [opcode_packS]
  change some (decodeMts (unpackS (packS 0x31 f))) = _
  rw [unpackS_packS, decodeMts]
  rcases n with n | n <;> rw [n] <;> rfl

theorem RoundTrip.postedStorePerformed (i : Nat) : RoundTrip.Statement (.postedStorePerformed i) := by
  intro w _ e; simp [encode] at e

theorem RoundTrip.elementGroupCommit (slot : PassSlot) : RoundTrip.Statement (.elementGroupCommit slot) := by
  intro w _ e; simp [encode] at e

theorem RoundTrip.passComplete (slot : PassSlot) : RoundTrip.Statement (.passComplete slot) := by
  intro w _ e; simp [encode] at e

theorem RoundTrip.operationComplete (u : EngineUnit) : RoundTrip.Statement (.operationComplete u) := by
  intro w _ e; simp [encode] at e

theorem RoundTrip.versionedCopy (i : Nat) : RoundTrip.Statement (.versionedCopy i) := by
  intro w _ e; simp [encode] at e

theorem RoundTrip.recordFetch (part q : Nat) : RoundTrip.Statement (.recordFetch part q) := by
  intro w _ e; simp [encode] at e

theorem RoundTrip.waitConditionHold (part q i : Nat) : RoundTrip.Statement (.waitConditionHold part q i) := by
  intro w _ e; simp [encode] at e

theorem RoundTrip.taskStart (part q : Nat) : RoundTrip.Statement (.taskStart part q) := by
  intro w _ e; simp [encode] at e

theorem RoundTrip.preload (part q : Nat) : RoundTrip.Statement (.preload part q) := by
  intro w _ e; simp [encode] at e

theorem RoundTrip.taskComplete (task : Nat) : RoundTrip.Statement (.taskComplete task) := by
  intro w _ e; simp [encode] at e

theorem RoundTrip.preempt (task : Nat) : RoundTrip.Statement (.preempt task) := by
  intro w _ e; simp [encode] at e

theorem RoundTrip.resume (task : Nat) : RoundTrip.Statement (.resume task) := by
  intro w _ e; simp [encode] at e

theorem RoundTrip.drainHorizon (r : SlotRes) : RoundTrip.Statement (.drainHorizon r) := by
  intro w _ e; simp [encode] at e

theorem RoundTrip.slotStart (r : SlotRes) : RoundTrip.Statement (.slotStart r) := by
  intro w _ e; simp [encode] at e

theorem RoundTrip.overrun (r : SlotRes) : RoundTrip.Statement (.overrun r) := by
  intro w _ e; simp [encode] at e

theorem RoundTrip.slotEnd (r : SlotRes) : RoundTrip.Statement (.slotEnd r) := by
  intro w _ e; simp [encode] at e

theorem RoundTrip.slotExtensionEnd (r : SlotRes) : RoundTrip.Statement (.slotExtensionEnd r) := by
  intro w _ e; simp [encode] at e

theorem RoundTrip.matrixRowUnit (u : RowUnit) : RoundTrip.Statement (.matrixRowUnit u) := by
  intro w _ e; simp [encode] at e

theorem RoundTrip.uncorrectableError (place : ErrorPlace) : RoundTrip.Statement (.uncorrectableError place) := by
  intro w _ e; simp [encode] at e

theorem RoundTrip.channelOutOfService (ch : Nat) : RoundTrip.Statement (.channelOutOfService ch) := by
  intro w _ e; simp [encode] at e

theorem RoundTrip.repairReload (ch : Nat) (image : BootImage) : RoundTrip.Statement (.repairReload ch image) := by
  intro w _ e; simp [encode] at e

theorem RoundTrip.doorbell (part q : Nat) (value : W64) : RoundTrip.Statement (.doorbell part q value) := by
  intro w _ e; simp [encode] at e

theorem RoundTrip.configWrite (c : ConfigItem) : RoundTrip.Statement (.configWrite c) := by
  intro w _ e; simp [encode] at e

theorem RoundTrip.quiesce (part : Nat) : RoundTrip.Statement (.quiesce part) := by
  intro w _ e; simp [encode] at e

theorem RoundTrip.resumePartition (part : Nat) : RoundTrip.Statement (.resumePartition part) := by
  intro w _ e; simp [encode] at e

theorem RoundTrip.leapSlot (leap : Leap) : RoundTrip.Statement (.leapSlot leap) := by
  intro w _ e; simp [encode] at e

theorem RoundTrip.hotRefreshAnnounce (hot : Bool) : RoundTrip.Statement (.hotRefreshAnnounce hot) := by
  intro w _ e; simp [encode] at e

theorem RoundTrip.linkTransaction (seq : Nat) (body : LinkBody) : RoundTrip.Statement (.linkTransaction seq body) := by
  intro w _ e; simp [encode] at e

theorem RoundTrip.linkReset (side : LinkSide) : RoundTrip.Statement (.linkReset side) := by
  intro w _ e; simp [encode] at e

theorem RoundTrip.lrxdoneExchange (peerDone : Nat) : RoundTrip.Statement (.lrxdoneExchange peerDone) := by
  intro w _ e; simp [encode] at e

theorem RoundTrip.imageVerify (image : BootImage) : RoundTrip.Statement (.imageVerify image) := by
  intro w _ e; simp [encode] at e

theorem RoundTrip.cellReady (cell : Nat) : RoundTrip.Statement (.cellReady cell) := by
  intro w _ e; simp [encode] at e

theorem RoundTrip.attestationRequest (part : Nat) (nonce : List Byte) : RoundTrip.Statement (.attestationRequest part nonce) := by
  intro w _ e; simp [encode] at e

theorem RoundTrip.instructionFetch : RoundTrip.Statement .instructionFetch := by
  intro w _ e; simp [encode] at e

theorem RoundTrip.loadDataReturn : RoundTrip.Statement .loadDataReturn := by
  intro w _ e; simp [encode] at e

theorem RoundTrip.pollBackoffEnd : RoundTrip.Statement .pollBackoffEnd := by
  intro w _ e; simp [encode] at e

theorem RoundTrip.entryStart : RoundTrip.Statement .entryStart := by
  intro w _ e; simp [encode] at e

theorem RoundTrip.passLaunch : RoundTrip.Statement .passLaunch := by
  intro w _ e; simp [encode] at e

theorem RoundTrip.matrixUnit : RoundTrip.Statement .matrixUnit := by
  intro w _ e; simp [encode] at e

theorem RoundTrip.ssbUnit : RoundTrip.Statement .ssbUnit := by
  intro w _ e; simp [encode] at e

theorem RoundTrip.copyUnit : RoundTrip.Statement .copyUnit := by
  intro w _ e; simp [encode] at e

theorem RoundTrip.indirectStream : RoundTrip.Statement .indirectStream := by
  intro w _ e; simp [encode] at e

theorem RoundTrip.deferredFaultDelivery : RoundTrip.Statement .deferredFaultDelivery := by
  intro w _ e; simp [encode] at e

theorem RoundTrip.droppedStoreDelivery : RoundTrip.Statement .droppedStoreDelivery := by
  intro w _ e; simp [encode] at e

theorem RoundTrip.waitTimeout : RoundTrip.Statement .waitTimeout := by
  intro w _ e; simp [encode] at e

theorem RoundTrip.waitiExpiry : RoundTrip.Statement .waitiExpiry := by
  intro w _ e; simp [encode] at e

theorem RoundTrip.slotgateRelease : RoundTrip.Statement .slotgateRelease := by
  intro w _ e; simp [encode] at e

theorem RoundTrip.machineCheck : RoundTrip.Statement .machineCheck := by
  intro w _ e; simp [encode] at e

theorem RoundTrip.periodBoundary : RoundTrip.Statement .periodBoundary := by
  intro w _ e; simp [encode] at e

theorem RoundTrip.hotRefreshSwitch : RoundTrip.Statement .hotRefreshSwitch := by
  intro w _ e; simp [encode] at e

theorem RoundTrip.criticalTemperature : RoundTrip.Statement .criticalTemperature := by
  intro w _ e; simp [encode] at e

theorem RoundTrip.flitReplay : RoundTrip.Statement .flitReplay := by
  intro w _ e; simp [encode] at e

theorem RoundTrip.powerLoss : RoundTrip.Statement .powerLoss := by
  intro w _ e; simp [encode] at e

theorem RoundTrip.boot : RoundTrip.Statement .boot := by
  intro w _ e; simp [encode] at e

theorem RoundTrip.correctableError : RoundTrip.Statement .correctableError := by
  intro w _ e; simp [encode] at e

theorem RoundTrip.peerrstClear : RoundTrip.Statement .peerrstClear := by
  intro w _ e; simp [encode] at e

end Sys2Proof.Laws
end

