-- ==== Sys2Proof/Laws/Words.lean ====
section
/-! SUPPORT. Laws/Words.lean: how a word ends, once for all words: a result, a completed word, a wait, a trap. -/

set_option Elab.async false

namespace Sys2Proof.Laws

open Sys2Proof.Machine

/-! ### Results -/

theorem toNat_beq_zero {n : Nat} (d : BitVec n) : (d.toNat == 0) = decide (d = 0) := by
  rw [Bool.eq_iff_iff]; simp [← BitVec.toNat_inj]

/-- R129: writing x register `r`, as the statements say it. -/
theorem setX_eq (s : State) (r : BitVec 6) (v : W64) : s.setX r v = s.withX r v := by
  by_cases h : r = 0
  · subst h; rfl
  · have h0 : ¬ r = 0#6 := h
    simp [State.setX, Thread.setX, State.withX, toNat_beq_zero, h0]

theorem retire_eq (s : State) : s.retire = s.passed := rfl

theorem take_eq (s : State) (t : W64) : s.take t = s.sent t := by
  simp [State.take, State.endPoll, State.jump, State.sent]

/-- What x register `r` reads once `d` holds `v`. -/
theorem x_withX (s : State) (d r : BitVec 6) (v : W64) (hd : d.toNat < 32) :
    (s.withX d v).x r = if r = d ∧ d ≠ 0 then v else s.x r := by
  by_cases h0 : d = 0
  · simp [State.x, State.withX, h0]
  · by_cases hr : r = d
    · have : ¬ d = 0#6 := h0
      simp [State.x, Thread.x, State.withX, hr, toNat_beq_zero, hd, this]
    · have h1 : ¬ d = 0#6 := h0
      have h2 : d.toNat ≠ r.toNat := fun h => hr (BitVec.eq_of_toNat_eq h.symm)
      simp [State.x, Thread.x, State.withX, h1, hr, h2]

@[simp] theorem x_passed (s : State) (r : BitVec 6) : s.passed.x r = s.x r := rfl
@[simp] theorem x_sent (s : State) (t : W64) (r : BitVec 6) : (s.sent t).x r = s.x r := rfl
@[simp] theorem x_trap (s : State) (i : TrapInfo) (r : BitVec 6) : (s.trap i).x r = s.x r := rfl
@[simp] theorem pc_passed (s : State) : s.passed.th.pc = s.th.pc + 8 := rfl
@[simp] theorem pc_wrote (s : State) (r : BitVec 6) (v : W64) : (s.wrote r v).th.pc = s.th.pc + 8 := rfl
@[simp] theorem pc_sent (s : State) (t : W64) : (s.sent t).th.pc = t := rfl

/-! ### How issuing a word ends -/

@[simp] theorem settle_done (s t : State) : s.settle (.done t) = .next t := rfl
@[simp] theorem settle_wait (s : State) (k : WaitKind) (b : Bool) (a : Nat) :
    s.settle (.wait k b a) = .next (s.beginWait k b a) := rfl
@[simp] theorem settle_trap (s : State) (i : TrapInfo) : s.settle (.trap i) = .next (s.trap i) := rfl
@[simp] theorem settle_fault (s : State) (c : Nat) : s.settle (Issue.fault c) = .next (s.trapCode c) := rfl
@[simp] theorem settle_lease (s : State) : s.settle .lease = .next s.leaseViolation := rfl

/-- Every word answers a next state, however its issue ends. -/
theorem settle_next (s : State) (i : Issue) : ∃ t, s.settle i = .next t := by cases i <;> exact ⟨_, rfl⟩

/-- A word with one result in an x register. -/
theorem settle_finish (s : State) (r : BitVec 6) (v : W64) : s.settle (s.finish r v) = .next (s.wrote r v) := by
  unfold State.finish State.wrote
  rw [setX_eq, settle_done, retire_eq]

/-- A wait without a bound begins. -/
theorem beginWait_start (s : State) (k : WaitKind) (a : Nat) (h : s.th.fe.wait = none) :
    s.beginWait k false a =
      { s with th := { s.th with fe := { s.th.fe with wait := some ⟨s.th.pc, k, s.cal.tick, none, a⟩ } } } := by
  simp [State.beginWait, h, State.now]

/-- A wait that the word at the PC has begun goes on unchanged. -/
theorem beginWait_again (s : State) (k : WaitKind) (b : Bool) (a : Nat) (w : Wait) (h : s.th.fe.wait = some w)
    (hp : w.pc = s.th.pc) (hk : w.kind = k) : s.beginWait k b a = s := by
  simp [State.beginWait, h, hp, hk]

/-- A word in S mode goes on; in U mode it faults with PRIVILEGED (R75). -/
theorem privileged_smode (s : State) (k : Host.Outcome State Fault Refusal) (h : s.th.smode = true) :
    s.privileged k = k := by simp [State.privileged, h]

theorem privileged_user (s : State) (k : Host.Outcome State Fault Refusal) (h : s.th.smode = false) :
    s.privileged k = .next (s.trapCode causePrivileged) := by simp [State.privileged, h]

/-- R44, R45: a scalar floating-point word that raises no enabled flag. -/
theorem settle_finishFp (s : State) (r : BitVec 6) (v : FpRes) (h : enabledFlags s.fctrl v.flags = 0) :
    s.settle (s.finishFp r v) = .next ((s.raiseFlags v.flags).wrote r v.val) := by
  simp [State.finishFp, h, setX_eq, retire_eq, State.wrote]

/-- R45: one that raises an enabled flag. -/
theorem settle_finishFp_trap (s : State) (r : BitVec 6) (v : FpRes) (h : enabledFlags s.fctrl v.flags ≠ 0) :
    s.settle (s.finishFp r v) = .next (s.trapCode causeFp) := by
  have h1 : ¬ enabledFlags s.fctrl v.flags = 0#5 := h
  simp [State.finishFp, h1]

/-! ### What a trap leaves (R160) -/

@[simp] theorem takeTrap_pc (s : State) (pc : W64) (i : TrapInfo) (a b c d : Bool) :
    (s.takeTrap pc i a b c d).th.pc = s.th.tr.trapvec := rfl
@[simp] theorem takeTrap_smode (s : State) (pc : W64) (i : TrapInfo) (a b c d : Bool) :
    (s.takeTrap pc i a b c d).th.smode = true := rfl
@[simp] theorem takeTrap_trappc (s : State) (pc : W64) (i : TrapInfo) (a b c d : Bool) :
    (s.takeTrap pc i a b c d).th.tr.trappc = pc := rfl
@[simp] theorem takeTrap_trapcause (s : State) (pc : W64) (i : TrapInfo) (a b c d : Bool) :
    (s.takeTrap pc i a b c d).th.tr.trapcause = BitVec.ofNat 64 (i.acc * 0x100 + i.code) := rfl
@[simp] theorem takeTrap_traproot (s : State) (pc : W64) (i : TrapInfo) (a b c d : Bool) :
    (s.takeTrap pc i a b c d).th.tr.traproot = i.root := rfl
@[simp] theorem takeTrap_trapaddr (s : State) (pc : W64) (i : TrapInfo) (a b c d : Bool) :
    (s.takeTrap pc i a b c d).th.tr.trapaddr = i.addr := rfl
@[simp] theorem takeTrap_trapelem (s : State) (pc : W64) (i : TrapInfo) (a b c d : Bool) :
    (s.takeTrap pc i a b c d).th.tr.trapelem = i.elem := rfl
@[simp] theorem takeTrap_trapvec (s : State) (pc : W64) (i : TrapInfo) (a b c d : Bool) :
    (s.takeTrap pc i a b c d).th.tr.trapvec = s.th.tr.trapvec := rfl
@[simp] theorem takeTrap_ctxarea (s : State) (pc : W64) (i : TrapInfo) (a b c d : Bool) :
    (s.takeTrap pc i a b c d).th.tr.ctxarea = s.th.tr.ctxarea := rfl
@[simp] theorem trap_pc (s : State) (i : TrapInfo) : (s.trap i).th.pc = s.th.tr.trapvec := rfl
@[simp] theorem trap_smode (s : State) (i : TrapInfo) : (s.trap i).th.smode = true := rfl
@[simp] theorem trap_trappc (s : State) (i : TrapInfo) : (s.trap i).th.tr.trappc = s.th.pc := rfl
@[simp] theorem trap_traproot (s : State) (i : TrapInfo) : (s.trap i).th.tr.traproot = s.th.pc := rfl
@[simp] theorem trap_trapcause (s : State) (i : TrapInfo) :
    (s.trap i).th.tr.trapcause = BitVec.ofNat 64 (i.acc * 0x100 + i.code) := rfl
@[simp] theorem trap_trapaddr (s : State) (i : TrapInfo) : (s.trap i).th.tr.trapaddr = i.addr := rfl
@[simp] theorem trapCode_eq (s : State) (c : Nat) : s.trapCode c = s.trap (TrapInfo.plain c 0) := rfl

/-! ### Recording -/

/-- A recording that is accepted. -/
theorem settle_record (s t : State) (ls : Nat) (q : Rec) (h : s.recordHere ls q = .done t) :
    s.settle (s.record ls q) = .next t.passed := by
  simp [State.record, h, retire_eq]

/-- R12: with room in the dispatch queue a word that records goes on. -/
theorem whenRoom_room (s : State) (n : Nat) (k : Host.Outcome State Fault Refusal) (h : s.th.dsp.room n = true) :
    s.whenRoom n k = k := by simp [State.whenRoom, h]

/-- R12, R134: with no room it is not ready. -/
theorem whenRoom_full (s : State) (n : Nat) (k : Host.Outcome State Fault Refusal) (h : s.th.dsp.room n = false) :
    s.whenRoom n k = .next (s.beginWait .drain false 0) := by simp [State.whenRoom, h]

theorem recordE_ok (s t : State) (ls : Nat) (q : Rec) (hr : s.th.dsp.room 1 = true) (h : s.recordHere ls q = .done t) :
    s.recordE ls (.ok q) = .next t.passed := by
  rw [State.recordE, whenRoom_room s 1 _ hr]; exact settle_record s t ls q h

theorem recordE_error (s : State) (ls c : Nat) (hr : s.th.dsp.room 1 = true) :
    s.recordE ls (.error c) = .next (s.trapCode c) := by
  rw [State.recordE, whenRoom_room s 1 _ hr]; rfl

theorem recordE_full (s : State) (ls : Nat) (q : Except Nat Rec) (hr : s.th.dsp.room 1 = false) :
    s.recordE ls q = .next (s.beginWait .drain false 0) := whenRoom_full s 1 _ hr

end Sys2Proof.Laws
end

