-- ==== Sys2Proof/Tests/Slice0.lean ====
section
/-! SUPPORT. Tests/Slice0.lean: decoding, well-formedness, witnesses of the statements' hypotheses, single steps. -/

set_option Elab.async false

namespace Sys2Proof.Tests

open Sys2Proof Sys2Proof.Machine

/-! ### States the tests run on -/

/-- Tables at 0x100000 that map the pages of 0x40000 (COH, code), 0x50000 (COH), 0x60000 (COH, versioned), 0x70000 (DEV, the
register space), 0x80000 (COH, a host page), 0x90000 (COH, executable, S mode only) and 0xA0000 (PRIV), and the 512 MiB at
0x20000000 (COH), with data in the first frame. -/
def testMem : Memory :=
  [(0x100000, 0x01), (0x100002, 0x11), (0x100007, 0x80), (0x110000, 0x01), (0x110002, 0x12), (0x110007, 0x80), (0x110008, 0x2B), (0x110009, 0xC0), (0x11000B, 0x20),
   (0x120020, 0x2D), (0x120022, 0x28), (0x120028, 0x2B), (0x12002A, 0x20), (0x120030, 0x2B), (0x120031, 0x02), (0x120032, 0x22),
   (0x120038, 0x3B), (0x12003E, 0x04), (0x120040, 0x2B), (0x120041, 0x20), (0x120042, 0x01), (0x120046, 0x08),
   (0x120048, 0x27), (0x12004A, 0x24), (0x120050, 0x0B), (0x120052, 0x26), (0x200100, 0x78), (0x200101, 0x56), (0x200107, 0x80), (0x220000, 0x11)]

/-- A task whose code lies at 0x40000, with a lease over the pages of `testMem`. -/
def testTask : Task :=
  { Task.empty with
    id := 1, part := 1, queue := 3, ptbase := 0x100000, nqbase := 0x200200
    kernel := { Kernel.empty with entry := 0x40000, codelen := 0x1000 }
    ranges := [(0, ⟨0x50000, 0x60000, true⟩)]
    pairs := [(0, 0)] }

/-- x registers: x1 = 1, x2 = -2, x3 = 0x50100, x4 = 7, x5 = 0x60000, x6 = 0x70018. -/
def testXs : Vector W64 32 :=
  ((((((Vector.replicate 32 (0 : W64)).setIfInBounds 1 1).setIfInBounds 2 0xFFFFFFFFFFFFFFFE).setIfInBounds 3
    0x50100).setIfInBounds 4 7).setIfInBounds 5 0x60000).setIfInBounds 6 0x70018

/-- A thread of that task in U mode. -/
def testThread : Thread :=
  { Thread.reset with
    task := 1, run := .running, xs := testXs, pc := 0x40008
    tr := { TrapRegs.reset with trapvec := 0x7000 }
    sr := { SRegs.reset with weight := 1, divided := 1, groups := 0xFFFF, target := 16, vl := 100 } }

/-- One thread in U mode. -/
def testU : State :=
  { State.reset with
    th := testThread, tasks := [testTask], mem := testMem, nextTask := 1
    boot := { Boot.reset with stage := 2 } }

/-- The same thread in S mode. -/
def testS : State := { testU with th := { testThread with smode := true } }

/-- A result that is not an error satisfies a test. -/
def okAnd {ε α : Type} (r : Except ε α) (p : α → Bool) : Bool :=
  match r with
  | .ok a => p a
  | .error _ => false

/-- An outcome that is a next state satisfies a test. -/
def nextAnd (r : Host.Outcome State Fault Refusal) (p : State → Bool) : Bool :=
  match r with
  | .next t => p t
  | _ => false

/-- What a test with `okAnd` shows: the result exists and satisfies the test. -/
theorem okAnd_exists {ε α : Type} {r : Except ε α} {p : α → Bool} (h : okAnd r p = true) : ∃ a, r = .ok a ∧ p a = true := by
  cases r with
  | ok a => exact ⟨a, rfl, h⟩
  | error _ => cases h

theorem test_memory_is_canonical : testU.mem.wf = true := by decide
/-! ### Decoding: words written out field by field from R61 and R65 to R70 -/

theorem test_decode_scalar_integer_1 :
    decode 0b0_00000001_000101_000110_010001_000000_0000_000_000_000000_000000000000001 = .ok (.add ⟨5, 6, 17, 0, 0, 0, 0, 0, 1⟩) ∧
    decode 0b0_00000010_000101_000110_010001_000000_0000_000_000_000000_000000000000001 = .ok (.sub ⟨5, 6, 17, 0, 0, 0, 0, 0, 1⟩) ∧
    decode 0b0_00000011_000101_000110_010001_000000_0000_000_000_000000_000000000000000 = .ok (.and ⟨5, 6, 17, 0, 0, 0, 0, 0, 0⟩) ∧
    decode 0b0_00000100_000101_000110_010001_000000_0000_000_000_000000_000000000000000 = .ok (.or ⟨5, 6, 17, 0, 0, 0, 0, 0, 0⟩) ∧
    decode 0b0_00000101_000101_000110_010001_000000_0000_000_000_000000_000000000000000 = .ok (.xor ⟨5, 6, 17, 0, 0, 0, 0, 0, 0⟩) ∧
    decode 0b0_00000110_000101_000110_010001_000000_0000_000_000_000000_000000000000000 = .ok (.shl ⟨5, 6, 17, 0, 0, 0, 0, 0, 0⟩) := by decide

theorem test_decode_scalar_integer_2 :
    decode 0b0_00000111_000101_000110_010001_000000_0000_000_000_000000_000000000000000 = .ok (.shr ⟨5, 6, 17, 0, 0, 0, 0, 0, 0⟩) ∧
    decode 0b0_00001000_000101_000110_010001_000000_0000_000_000_000000_000000000000000 = .ok (.sra ⟨5, 6, 17, 0, 0, 0, 0, 0, 0⟩) ∧
    decode 0b0_00001001_000101_000110_010001_000000_0000_000_000_000000_000000000000000 = .ok (.mul ⟨5, 6, 17, 0, 0, 0, 0, 0, 0⟩) ∧
    decode 0b0_00001010_000101_000110_010001_000000_0000_000_000_000000_000000000000001 = .ok (.mulh ⟨5, 6, 17, 0, 0, 0, 0, 0, 1⟩) ∧
    decode 0b0_00001011_000101_000110_010001_000000_0000_000_000_000000_000000000000001 = .ok (.div ⟨5, 6, 17, 0, 0, 0, 0, 0, 1⟩) ∧
    decode 0b0_00001100_000101_000110_010001_000000_0000_000_000_000000_000000000000001 = .ok (.rem ⟨5, 6, 17, 0, 0, 0, 0, 0, 1⟩) := by decide

theorem test_decode_scalar_integer_3 :
    decode 0b0_00001101_000101_000110_010001_000000_0000_000_000_000000_000000000000001 = .ok (.slt ⟨5, 6, 17, 0, 0, 0, 0, 0, 1⟩) ∧
    decode 0b0_00001110_000101_000110_010001_000000_0000_000_000_000000_000000000000001 = .ok (.minmax ⟨5, 6, 17, 0, 0, 0, 0, 0, 1⟩) ∧
    decode 0b0_00001111_000101_000110_000000_000000_0000_000_000_000000_000000000000001 = .ok (.bitcnt ⟨5, 6, 0, 0, 0, 0, 0, 0, 1⟩) ∧
    decode 0b0_00011010_000101_000110_010001_001001_0000_000_000_000000_000000000000000 = .ok (.csel ⟨5, 6, 17, 9, 0, 0, 0, 0, 0⟩) ∧
    decode 0b0_00011011_000101_000110_000000_000000_0000_000_000_000000_000000000000001 = .ok (.ext ⟨5, 6, 0, 0, 0, 0, 0, 0, 1⟩) ∧
    decode 0b0_00011100_000101_000110_000000_000000_0000_000_000_000000_000000000000001 = .ok (.ins ⟨5, 6, 0, 0, 0, 0, 0, 0, 1⟩) := by decide

theorem test_decode_scalar_integer_4 :
    decode 0b0_00010000_000101_000110_0000_000_000_0_00000000000000000000000000010010 = .ok (.addi ⟨5, 6, 0, 0, 0, 0, 18⟩) ∧
    decode 0b0_00010001_000101_000110_0000_000_000_0_00000000000000000000000000010010 = .ok (.andi ⟨5, 6, 0, 0, 0, 0, 18⟩) ∧
    decode 0b0_00010010_000101_000110_0000_000_000_0_00000000000000000000000000010010 = .ok (.ori ⟨5, 6, 0, 0, 0, 0, 18⟩) ∧
    decode 0b0_00010011_000101_000110_0000_000_000_0_00000000000000000000000000010010 = .ok (.xori ⟨5, 6, 0, 0, 0, 0, 18⟩) ∧
    decode 0b0_00010100_000101_000110_0000_000_000_0_00000000000000000000000000010010 = .ok (.shli ⟨5, 6, 0, 0, 0, 0, 18⟩) ∧
    decode 0b0_00010101_000101_000110_0000_000_000_0_00000000000000000000000000010010 = .ok (.shri ⟨5, 6, 0, 0, 0, 0, 18⟩) := by decide

theorem test_decode_scalar_integer_5 :
    decode 0b0_00010110_000101_000110_0000_000_000_0_00000000000000000000000000010010 = .ok (.srai ⟨5, 6, 0, 0, 0, 0, 18⟩) ∧
    decode 0b0_00010111_000101_000000_0000_000_000_0_00000000000000000000000000010010 = .ok (.lui ⟨5, 0, 0, 0, 0, 0, 18⟩) ∧
    decode 0b0_00011000_000101_000110_0000_000_000_0_00000000000000000000000000010010 = .ok (.slti ⟨5, 6, 0, 0, 0, 0, 18⟩) ∧
    decode 0b0_00011001_000101_000000_0000_000_000_0_00000000000000000000000000010010 = .ok (.auipc ⟨5, 0, 0, 0, 0, 0, 18⟩) := by decide

theorem test_decode_scalar_float_1 :
    decode 0b0_00011101_000101_000110_010001_000000_1010_000_000_000000_000000000000001 = .ok (.fadd ⟨5, 6, 17, 0, 10, 0, 0, 0, 1⟩) ∧
    decode 0b0_00011110_000101_000110_010001_000000_1010_000_000_000000_000000000000000 = .ok (.fmul ⟨5, 6, 17, 0, 10, 0, 0, 0, 0⟩) ∧
    decode 0b0_00011111_000101_000110_010001_001001_1010_000_000_000000_000000000000001 = .ok (.ffma ⟨5, 6, 17, 9, 10, 0, 0, 0, 1⟩) ∧
    decode 0b0_00100000_000101_000110_010001_000000_1010_000_000_000000_000000000000000 = .ok (.fdiv ⟨5, 6, 17, 0, 10, 0, 0, 0, 0⟩) ∧
    decode 0b0_00100001_000101_000110_010001_000000_1010_000_000_000000_000000000000001 = .ok (.fcmp ⟨5, 6, 17, 0, 10, 0, 0, 0, 1⟩) ∧
    decode 0b0_00100010_000101_000110_010001_000000_1010_000_000_000000_000000000000001 = .ok (.fcvt ⟨5, 6, 17, 0, 10, 0, 0, 0, 1⟩) := by decide

theorem test_decode_scalar_float_2 :
    decode 0b0_00100011_000101_000110_010001_000000_1010_000_000_000000_000000000000001 = .ok (.fminmax ⟨5, 6, 17, 0, 10, 0, 0, 0, 1⟩) ∧
    decode 0b0_00100100_000101_000110_000000_000000_1010_000_000_000000_000000000000000 = .ok (.fclass ⟨5, 6, 0, 0, 10, 0, 0, 0, 0⟩) := by decide

theorem test_decode_load_store_branch_1 :
    decode 0b0_00101010_000101_000000_0000_000_000_0_00000000000000000000000000010010 = .ok (.jal ⟨5, 0, 0, 0, 0, 0, 18⟩) ∧
    decode 0b0_00101011_000101_000110_0000_000_000_0_00000000000000000000000000010010 = .ok (.jalr ⟨5, 6, 0, 0, 0, 0, 18⟩) ∧
    decode 0b0_00100101_000100_00110_000000_1010_000_000_0_000_0000_00000000_000001000000 = .ok (.ld ⟨4, 6, 0, 10, 0, 0, 0, 0, 0, 0, 64⟩) ∧
    decode 0b0_00100110_000100_00110_000000_1010_000_000_0_000_0000_00000001_000001000000 = .ok (.st ⟨4, 6, 0, 10, 0, 0, 0, 0, 0, 1, 64⟩) ∧
    decode 0b0_00100111_000100_00110_000111_0000_000_000_0_000_0000_00000000_000001000000 = .ok (.ldpair ⟨4, 6, 7, 0, 0, 0, 0, 0, 0, 0, 64⟩) ∧
    decode 0b0_00101000_000100_00110_000111_0000_000_000_0_000_0000_00000001_000001000000 = .ok (.stpair ⟨4, 6, 7, 0, 0, 0, 0, 0, 0, 1, 64⟩) := by decide

theorem test_decode_load_store_branch_2 :
    decode 0b0_00101001_00110_00111_0010_000000000_11111111111111111111111111111110 = .ok (.br ⟨6, 7, 2, 0, 4294967294⟩) ∧
    decode 0b0_00101100_00110_00111_0010_000000000_11111111111111111111111111111110 = .ok (.loop ⟨6, 7, 2, 0, 4294967294⟩) := by decide

theorem test_decode_scalar_system_1 :
    decode 0b0_00101101_000101_000110_000000_000000_1010_000_000_000000_000000000000000 = .ok (.fsqrt ⟨5, 6, 0, 0, 10, 0, 0, 0, 0⟩) ∧
    decode 0b0_00101110_000101_000110_000000_000000_1010_000_000_000000_000000000000001 = .ok (.frnd ⟨5, 6, 0, 0, 10, 0, 0, 0, 1⟩) ∧
    decode 0b0_00110100_000101_000000_000000_000000_0000_000_000_000000_000000000000000 = .ok (.rdcyc ⟨5, 0, 0, 0, 0, 0, 0, 0, 0⟩) ∧
    decode 0b0_00111000_000000_000000_000000_000000_0000_000_000_000000_000000000000001 = .ok (.fence ⟨0, 0, 0, 0, 0, 0, 0, 0, 1⟩) ∧
    decode 0b0_00111001_000101_000000_000000_000000_0000_000_000_000000_000000000000000 = .ok (.slotq ⟨5, 0, 0, 0, 0, 0, 0, 0, 0⟩) ∧
    decode 0b0_00110010_000000_000000_0000_000_000_0_00000000000000000000000000010010 = .ok (.trap ⟨0, 0, 0, 0, 0, 0, 18⟩) := by decide

theorem test_decode_scalar_system_2 :
    decode 0b0_00110011_000000_000000_0000_000_000_0_00000000000000000000000000010010 = .ok (.break ⟨0, 0, 0, 0, 0, 0, 18⟩) ∧
    decode 0b0_00110101_000101_000000_0000_000_000_0_00000000000000000000000000010010 = .ok (.setvl ⟨5, 0, 0, 0, 0, 0, 18⟩) ∧
    decode 0b0_00110110_000101_000000_0000_000_000_0_00000000000000000000000000010010 = .ok (.waitlt ⟨5, 0, 0, 0, 0, 0, 18⟩) ∧
    decode 0b0_00110111_000000_000000_0000_000_000_0_00000000000000000000000000000000 = .ok (.nop ⟨0, 0, 0, 0, 0, 0, 0⟩) ∧
    decode 0b0_00111010_000101_000000_0000_000_000_0_00000000000000000000000000010010 = .ok (.slotgate ⟨5, 0, 0, 0, 0, 0, 18⟩) ∧
    decode 0b0_00111011_000000_00000_000000_0000_000_000_0_000_0000_00000001_000000000000 = .ok (.cacheop ⟨0, 0, 0, 0, 0, 0, 0, 0, 0, 1, 0⟩) := by decide

theorem test_decode_scalar_system_3 :
    decode 0b0_00110000_000101_000000_000000000010_0000000000000000_000000000000000 = .ok (.mfs ⟨5, 0, 2, 0, 0⟩) ∧
    decode 0b0_00110001_000000_000110_000000000010_0000000000000000_000000000000000 = .ok (.mts ⟨0, 6, 2, 0, 0⟩) ∧
    decode 0b0_00110001_000000_000110_000000000001_0000000000000000_000000000000000 = .ok (.vstartWrite ⟨0, 6, 1, 0, 0⟩) ∧
    decode 0b0_00110001_000000_000110_000000001011_0000000000000000_000000000000000 = .ok (.browbaseWrite ⟨0, 6, 11, 0, 0⟩) ∧
    decode 0b0_00110000_000101_000000_000000000111_0000000000000000_000000000000000 = .ok (.fstatusAccess false ⟨5, 0, 7, 0, 0⟩) ∧
    decode 0b0_00110001_000000_000110_000000000111_0000000000000000_000000000000000 = .ok (.fstatusAccess true ⟨0, 6, 7, 0, 0⟩) := by decide

theorem test_decode_vector_arith_1 :
    decode 0b0_01000000_000101_000110_010001_000000_0110_001_000_000000_000000000000001 = .ok (.vadd ⟨5, 6, 17, 0, 6, 1, 0, 0, 1⟩) ∧
    decode 0b0_01000001_000101_000110_010001_000000_0110_001_000_000000_000000000000001 = .ok (.vsub ⟨5, 6, 17, 0, 6, 1, 0, 0, 1⟩) ∧
    decode 0b0_01000010_000101_000110_010001_000000_0110_001_000_000000_000000000000001 = .ok (.vmul ⟨5, 6, 17, 0, 6, 1, 0, 0, 1⟩) ∧
    decode 0b0_01000011_000101_000110_010001_001001_1010_001_000_000000_000000000000001 = .ok (.vfma ⟨5, 6, 17, 9, 10, 1, 0, 0, 1⟩) ∧
    decode 0b0_01000100_000101_000110_010001_000000_1010_001_000_000000_000000000000000 = .ok (.vdiv ⟨5, 6, 17, 0, 10, 1, 0, 0, 0⟩) ∧
    decode 0b0_01000101_000101_000110_010001_000000_1010_001_000_000000_000000000000000 = .ok (.vmin ⟨5, 6, 17, 0, 10, 1, 0, 0, 0⟩) := by decide

theorem test_decode_vector_arith_2 :
    decode 0b0_01000110_000101_000110_010001_000000_1010_001_000_000000_000000000000000 = .ok (.vmax ⟨5, 6, 17, 0, 10, 1, 0, 0, 0⟩) ∧
    decode 0b0_01000111_000101_000110_000000_000000_1010_001_000_000000_000000000000001 = .ok (.vunary ⟨5, 6, 0, 0, 10, 1, 0, 0, 1⟩) ∧
    decode 0b0_01001000_000101_000110_010001_000000_0110_001_000_000000_000000000000000 = .ok (.vand ⟨5, 6, 17, 0, 6, 1, 0, 0, 0⟩) ∧
    decode 0b0_01001001_000101_000110_010001_000000_0110_001_000_000000_000000000000000 = .ok (.vor ⟨5, 6, 17, 0, 6, 1, 0, 0, 0⟩) ∧
    decode 0b0_01001010_000101_000110_010001_000000_0110_001_000_000000_000000000000000 = .ok (.vxor ⟨5, 6, 17, 0, 6, 1, 0, 0, 0⟩) ∧
    decode 0b0_01001011_000101_000110_010001_000000_0110_001_000_000000_000000000000000 = .ok (.vshl ⟨5, 6, 17, 0, 6, 1, 0, 0, 0⟩) := by decide

theorem test_decode_vector_arith_3 :
    decode 0b0_01001100_000101_000110_010001_000000_0110_001_000_000000_000000000000000 = .ok (.vshr ⟨5, 6, 17, 0, 6, 1, 0, 0, 0⟩) ∧
    decode 0b0_01001101_000101_000110_000000_000000_1010_000_000_000000_000000000000001 = .ok (.vcvt ⟨5, 6, 0, 0, 10, 0, 0, 0, 1⟩) ∧
    decode 0b0_01001110_000101_000110_010001_000000_1010_000_000_000000_000000000000001 = .ok (.vcmp ⟨5, 6, 17, 0, 10, 0, 0, 0, 1⟩) ∧
    decode 0b0_01001111_000101_000110_010001_000000_1010_001_000_000000_000000000000000 = .ok (.vsel ⟨5, 6, 17, 0, 10, 1, 0, 0, 0⟩) := by decide

theorem test_decode_vector_scalar_1 :
    decode 0b0_01010000_000101_000110_000000_000000_1010_001_000_000000_000000000000001 = .ok (.vsfu ⟨5, 6, 0, 0, 10, 1, 0, 0, 1⟩) ∧
    decode 0b0_01010001_000101_000110_000000_000000_1010_000_000_000000_000000000000001 = .ok (.vclass ⟨5, 6, 0, 0, 10, 0, 0, 0, 1⟩) ∧
    decode 0b0_01010010_000101_000110_000000_000000_1010_001_000_000000_000000000000001 = .ok (.vrnd ⟨5, 6, 0, 0, 10, 1, 0, 0, 1⟩) ∧
    decode 0b0_01010011_000101_000110_010001_000000_0110_001_000_000000_000000000000001 = .ok (.vadds ⟨5, 6, 17, 0, 6, 1, 0, 0, 1⟩) ∧
    decode 0b0_01010100_000101_000110_010001_000000_0110_001_000_000000_000000000000001 = .ok (.vmuls ⟨5, 6, 17, 0, 6, 1, 0, 0, 1⟩) ∧
    decode 0b0_01010101_000101_000110_010001_001001_1010_001_000_000000_000000000000001 = .ok (.vfmas ⟨5, 6, 17, 9, 10, 1, 0, 0, 1⟩) := by decide

theorem test_decode_vector_scalar_2 :
    decode 0b0_01010110_000101_000110_010001_000000_1010_001_000_000000_000000000000000 = .ok (.vmins ⟨5, 6, 17, 0, 10, 1, 0, 0, 0⟩) ∧
    decode 0b0_01010111_000101_000110_010001_000000_1010_001_000_000000_000000000000000 = .ok (.vmaxs ⟨5, 6, 17, 0, 10, 1, 0, 0, 0⟩) ∧
    decode 0b0_01011010_000101_000110_010001_000000_1010_000_000_000000_000000000000001 = .ok (.vcmps ⟨5, 6, 17, 0, 10, 0, 0, 0, 1⟩) ∧
    decode 0b0_01011101_000101_000110_010001_000000_1010_000_000_000000_000000000000001 = .ok (.vbcast ⟨5, 6, 17, 0, 10, 0, 0, 0, 1⟩) ∧
    decode 0b0_01011111_000101_000110_000000_000000_0000_000_000_000000_000000000000001 = .ok (.vmov ⟨5, 6, 0, 0, 0, 0, 0, 0, 1⟩) ∧
    decode 0b0_01011000_000101_000110_0110_001_000_0_00000000000000000000000000010010 = .ok (.vshli ⟨5, 6, 6, 1, 0, 0, 18⟩) := by decide

theorem test_decode_vector_scalar_3 :
    decode 0b0_01011001_000101_000110_0110_001_000_0_00000000000000000000000000010010 = .ok (.vshri ⟨5, 6, 6, 1, 0, 0, 18⟩) ∧
    decode 0b0_01011011_000101_000000_0000_001_000_0_00000000000000000000000000010010 = .ok (.vsplat ⟨5, 0, 0, 1, 0, 0, 18⟩) ∧
    decode 0b0_01011100_000101_000110_0000_001_000_0_00000000000000000000000000010010 = .ok (.viota ⟨5, 6, 0, 1, 0, 0, 18⟩) ∧
    decode 0b0_01011110_000101_000110_0000_001_000_0_00000000000000000000000000010010 = .ok (.vslide ⟨5, 6, 0, 1, 0, 0, 18⟩) := by decide

theorem test_decode_vector_memory_1 :
    decode 0b0_01100000_000100_00110_000111_1010_001_000_0_000_0000_00000001_000001000000 = .ok (.vld ⟨4, 6, 7, 10, 1, 0, 0, 0, 0, 1, 64⟩) ∧
    decode 0b0_01100001_000100_00110_000000_1010_001_000_0_000_0000_00000000_000001000000 = .ok (.vldx ⟨4, 6, 0, 10, 1, 0, 0, 0, 0, 0, 64⟩) ∧
    decode 0b0_01100011_000100_00110_000000_0000_001_000_0_000_0000_00000000_000001000000 = .ok (.vkld ⟨4, 6, 0, 0, 1, 0, 0, 0, 0, 0, 64⟩) ∧
    decode 0b0_01100100_000100_00110_000000_1010_001_000_1_011_0000_00000001_000001000000 = .ok (.vst ⟨4, 6, 0, 10, 1, 0, 1, 3, 0, 1, 64⟩) ∧
    decode 0b0_01100101_000100_00110_000111_1010_001_000_1_011_0000_00000001_000001000000 = .ok (.vstx ⟨4, 6, 7, 10, 1, 0, 1, 3, 0, 1, 64⟩) ∧
    decode 0b0_01100110_000100_00110_000000_1010_001_000_1_011_0000_00000001_000001000000 = .ok (.vcst ⟨4, 6, 0, 10, 1, 0, 1, 3, 0, 1, 64⟩) := by decide

theorem test_decode_vector_memory_2 :
    decode 0b0_01100111_000100_00110_000000_0000_001_000_1_011_0000_00000001_000001000000 = .ok (.vkst ⟨4, 6, 0, 0, 1, 0, 1, 3, 0, 1, 64⟩) ∧
    decode 0b0_01100010_010_000_000110_000111_1010_0000_001_000_0_000_0000_000000000000001 = .ok (.vtread ⟨2, 0, 6, 7, 10, 0, 1, 0, 0, 0, 0, 1⟩) := by decide

theorem test_decode_vector_more_1 :
    decode 0b0_01101001_000101_000110_010001_000000_1010_000_000_000000_000000000000001 = .ok (.vsegred ⟨5, 6, 17, 0, 10, 0, 0, 0, 1⟩) ∧
    decode 0b0_01101010_000101_000110_000000_000000_1010_001_000_000000_000000000000001 = .ok (.vscan ⟨5, 6, 0, 0, 10, 1, 0, 0, 1⟩) ∧
    decode 0b0_01101011_000101_000110_010001_000000_1010_000_000_000000_000000000000001 = .ok (.vforce ⟨5, 6, 17, 0, 10, 0, 0, 0, 1⟩) ∧
    decode 0b0_01101100_000000_000000_000000_000000_0000_000_000_000000_000000000000001 = .ok (.vpass ⟨0, 0, 0, 0, 0, 0, 0, 0, 1⟩) ∧
    decode 0b0_01101101_000101_000110_000000_000000_0000_001_000_000000_000000000000001 = .ok (.kop ⟨5, 6, 0, 0, 0, 1, 0, 0, 1⟩) ∧
    decode 0b0_01101110_000000_000110_000000_000000_0000_001_000_000000_000000000000001 = .ok (.kpop ⟨0, 6, 0, 0, 0, 1, 0, 0, 1⟩) := by decide

theorem test_decode_vector_more_2 :
    decode 0b0_01101111_000101_000110_000000_000000_0000_000_000_000000_000000000000001 = .ok (.vflags ⟨5, 6, 0, 0, 0, 0, 0, 0, 1⟩) ∧
    decode 0b0_01110000_000000_000110_000000_000000_0000_000_000_000000_000000000000000 = .ok (.lqopPush ⟨0, 6, 0, 0, 0, 0, 0, 0, 0⟩) ∧
    decode 0b0_01110000_000101_000000_000000_000000_0000_000_000_000000_000000000000001 = .ok (.lqopPop ⟨5, 0, 0, 0, 0, 0, 0, 0, 1⟩) ∧
    decode 0b0_01110000_000000_000000_000000_000000_0000_000_000_000000_000000000000010 = .ok (.lqopDrop ⟨0, 0, 0, 0, 0, 0, 0, 0, 2⟩) ∧
    decode 0b0_01110001_000101_000110_010001_000000_0110_001_000_000000_000000000000000 = .ok (.vmulh ⟨5, 6, 17, 0, 6, 1, 0, 0, 0⟩) ∧
    decode 0b0_01110010_000101_000110_000000_000000_0110_001_000_000000_000000000000001 = .ok (.vpopc ⟨5, 6, 0, 0, 6, 1, 0, 0, 1⟩) := by decide

theorem test_decode_vector_more_3 :
    decode 0b0_01101000_000100_00000_000111_1010_001_000_1_011_0000_00000001_000000000000 = .ok (.vred ⟨4, 0, 7, 10, 1, 0, 1, 3, 0, 1, 0⟩) := by decide

theorem test_decode_matrix_1 :
    decode 0b0_10000000_010_000_000110_000111_1010_1010_000_000_1_011_0000_000000000000000 = .ok (.mopa ⟨2, 0, 6, 7, 10, 10, 0, 0, 1, 3, 0, 0⟩) ∧
    decode 0b0_10000001_010_000_000110_000111_1010_1010_000_000_1_011_0000_000000000000000 = .ok (.mops ⟨2, 0, 6, 7, 10, 10, 0, 0, 1, 3, 0, 0⟩) ∧
    decode 0b0_10000010_010_000_000000_000000_0000_0000_000_000_1_011_0000_000000000000000 = .ok (.mzero ⟨2, 0, 0, 0, 0, 0, 0, 0, 1, 3, 0, 0⟩) ∧
    decode 0b0_10000011_010_000_000110_000000_1010_0000_000_000_1_011_0000_000000000000001 = .ok (.mscale ⟨2, 0, 6, 0, 10, 0, 0, 0, 1, 3, 0, 1⟩) ∧
    decode 0b0_10000100_010_011_000000_000000_0000_0000_000_000_1_011_0000_000000000000001 = .ok (.maddt ⟨2, 3, 0, 0, 0, 0, 0, 0, 1, 3, 0, 1⟩) ∧
    decode 0b0_10000101_010_011_000000_000000_0000_0000_000_000_1_011_0000_000000000000000 = .ok (.mtrn ⟨2, 3, 0, 0, 0, 0, 0, 0, 1, 3, 0, 0⟩) := by decide

theorem test_decode_matrix_2 :
    decode 0b0_10000110_010_000_000110_000111_1010_0000_000_000_1_011_0000_000000000000001 = .ok (.mtld ⟨2, 0, 6, 7, 10, 0, 0, 0, 1, 3, 0, 1⟩) ∧
    decode 0b0_10000111_010_000_000110_000111_1010_0000_001_000_1_011_0000_000000000000001 = .ok (.mtst ⟨2, 0, 6, 7, 10, 0, 1, 0, 1, 3, 0, 1⟩) ∧
    decode 0b0_10001001_010_000_000110_000111_1010_0000_000_000_1_011_0000_000000000000001 = .ok (.mtwr ⟨2, 0, 6, 7, 10, 0, 0, 0, 1, 3, 0, 1⟩) ∧
    decode 0b0_10001010_010_000_000110_000000_1010_0000_000_000_0_000_0000_000000000000001 = .ok (.mrred ⟨2, 0, 6, 0, 10, 0, 0, 0, 0, 0, 0, 1⟩) ∧
    decode 0b0_10001011_000_000_000110_000111_1010_0000_000_000_1_011_0000_000000000000001 = .ok (.bload ⟨0, 0, 6, 7, 10, 0, 0, 0, 1, 3, 0, 1⟩) ∧
    decode 0b0_10001100_010_000_000000_000111_0000_1001_000_000_1_011_0000_000000000000001 = .ok (.bfromt ⟨2, 0, 0, 7, 0, 9, 0, 0, 1, 3, 0, 1⟩) := by decide

theorem test_decode_matrix_3 :
    decode 0b0_10001101_010_000_000110_000000_0000_0000_000_000_1_011_0000_000000000000000 = .ok (.msave ⟨2, 0, 6, 0, 0, 0, 0, 0, 1, 3, 0, 0⟩) ∧
    decode 0b0_10001110_010_000_000110_000000_0000_0000_000_000_1_011_0000_000000000000000 = .ok (.mrest ⟨2, 0, 6, 0, 0, 0, 0, 0, 1, 3, 0, 0⟩) ∧
    decode 0b0_10001111_010_000_000110_000111_1010_1010_000_000_1_011_0000_000000000000001 = .ok (.mopt ⟨2, 0, 6, 7, 10, 10, 0, 0, 1, 3, 0, 1⟩) ∧
    decode 0b0_10001000_010_000_000110_000111_1111_0000_001_001_1_011_0000_000000000000001 = .ok (.mpack ⟨2, 0, 6, 7, 15, 0, 1, 1, 1, 3, 0, 1⟩) := by decide

theorem test_decode_scan_1 :
    decode 0b0_10100001_000000_000110_010001_001001_1010_000_000_000000_000000000000000 = .ok (.sscan ⟨0, 6, 17, 9, 10, 0, 0, 0, 0⟩) ∧
    decode 0b0_10100010_000000_000110_010001_001001_1010_000_000_000000_000000000000000 = .ok (.ssstep ⟨0, 6, 17, 9, 10, 0, 0, 0, 0⟩) ∧
    decode 0b0_10100101_000000_000000_000000_000000_0000_000_000_000000_000000000000000 = .ok (.ssrst ⟨0, 0, 0, 0, 0, 0, 0, 0, 0⟩) ∧
    decode 0b0_10100000_000000_000000_1010_000_000_0_00000000000000000000000000010010 = .ok (.sscfg ⟨0, 0, 10, 0, 0, 0, 18⟩) ∧
    decode 0b0_10100011_000000_00110_000000_0000_000_000_1_011_0000_00000000_000001000000 = .ok (.ssld ⟨0, 6, 0, 0, 0, 0, 1, 3, 0, 0, 64⟩) ∧
    decode 0b0_10100100_000000_00110_000000_0000_000_000_1_011_0000_00000000_000001000000 = .ok (.ssst ⟨0, 6, 0, 0, 0, 0, 1, 3, 0, 0, 64⟩) := by decide

theorem test_decode_copy_and_stash_1 :
    decode 0b0_10110111_000101_000110_000000_000000_0000_000_000_000000_000000000000000 = .ok (.stcfg ⟨5, 6, 0, 0, 0, 0, 0, 0, 0⟩) ∧
    decode 0b0_10110000_000100_00110_000000_0000_000_000_1_011_0000_00000000_000001000000 = .ok (.cpy ⟨4, 6, 0, 0, 0, 0, 1, 3, 0, 0, 64⟩) ∧
    decode 0b0_10110001_000100_00110_000111_0000_000_000_1_011_0000_00000000_000001000000 = .ok (.cpy2d ⟨4, 6, 7, 0, 0, 0, 1, 3, 0, 0, 64⟩) ∧
    decode 0b0_10110010_000100_00110_000111_1010_000_000_1_011_0000_00000000_000001000000 = .ok (.cpyt ⟨4, 6, 7, 10, 0, 0, 1, 3, 0, 0, 64⟩) ∧
    decode 0b0_10110011_000100_00110_000111_0000_000_000_1_011_0000_00000001_000001000000 = .ok (.cpyx ⟨4, 6, 7, 0, 0, 0, 1, 3, 0, 1, 64⟩) ∧
    decode 0b0_10110100_000100_00000_000111_1010_000_000_1_011_0000_00000000_000000000000 = .ok (.cpyf ⟨4, 0, 7, 10, 0, 0, 1, 3, 0, 0, 0⟩) := by decide

theorem test_decode_copy_and_stash_2 :
    decode 0b0_10110101_000100_00110_000000_0110_000_000_1_011_0000_00000001_000001000000 = .ok (.cpyr ⟨4, 6, 0, 6, 0, 0, 1, 3, 0, 1, 64⟩) ∧
    decode 0b0_10110110_000100_00110_000000_0000_000_000_1_011_0000_00000000_000001000000 = .ok (.cpypub ⟨4, 6, 0, 0, 0, 0, 1, 3, 0, 0, 64⟩) ∧
    decode 0b0_10111000_000100_00110_000111_0000_000_000_1_011_0000_00000000_000001000000 = .ok (.stmap ⟨4, 6, 7, 0, 0, 0, 1, 3, 0, 0, 64⟩) ∧
    decode 0b0_10111001_000000_00110_000111_0000_000_000_1_011_0000_00000000_000001000000 = .ok (.stfl ⟨0, 6, 7, 0, 0, 0, 1, 3, 0, 0, 64⟩) ∧
    decode 0b0_10111010_000000_00110_000111_0000_000_000_0_000_0000_00000000_000001000000 = .ok (.arm ⟨0, 6, 7, 0, 0, 0, 0, 0, 0, 0, 64⟩) ∧
    decode 0b0_10111011_000100_00110_000111_0000_000_000_0_000_0000_00000000_000001000000 = .ok (.arwait ⟨4, 6, 7, 0, 0, 0, 0, 0, 0, 0, 64⟩) := by decide

theorem test_decode_copy_and_stash_3 :
    decode 0b0_10111100_000000_00110_000111_0000_000_000_0_000_0000_00000001_000001000000 = .ok (.cinv ⟨0, 6, 7, 0, 0, 0, 0, 0, 0, 1, 64⟩) ∧
    decode 0b0_10111101_000000_00110_000111_0000_000_000_1_011_0000_00000000_000001000000 = .ok (.stinv ⟨0, 6, 7, 0, 0, 0, 1, 3, 0, 0, 64⟩) := by decide

theorem test_decode_atomics_1 :
    decode 0b0_11000110_000000_000000_0000_000_000_0_00000000000000000000000000010010 = .ok (.semtas ⟨0, 0, 0, 0, 0, 0, 18⟩) ∧
    decode 0b0_11000111_000000_000000_0000_000_000_0_00000000000000000000000000010010 = .ok (.semclr ⟨0, 0, 0, 0, 0, 0, 18⟩) ∧
    decode 0b0_11001000_000101_000000_0000_000_000_0_00000000000000000000000000010010 = .ok (.cdrd ⟨5, 0, 0, 0, 0, 0, 18⟩) ∧
    decode 0b0_11001001_000000_000110_0000_000_000_0_00000000000000000000000000010010 = .ok (.cdwr ⟨0, 6, 0, 0, 0, 0, 18⟩) ∧
    decode 0b0_11001010_000101_000110_0000_000_000_0_00000000000000000000000000010010 = .ok (.cdamo ⟨5, 6, 0, 0, 0, 0, 18⟩) ∧
    decode 0b0_11001011_000000_000000_0000_000_000_0_00000000000000000000000000000000 = .ok (.cbar ⟨0, 0, 0, 0, 0, 0, 0⟩) := by decide

theorem test_decode_atomics_2 :
    decode 0b0_11000000_000100_00110_000111_1010_000_000_0_000_0000_00000001_000001000000 = .ok (.amo ⟨4, 6, 7, 10, 0, 0, 0, 0, 0, 1, 64⟩) ∧
    decode 0b0_11000001_000000_00110_000111_1010_000_000_0_000_0000_00000001_000001000000 = .ok (.amow ⟨0, 6, 7, 10, 0, 0, 0, 0, 0, 1, 64⟩) ∧
    decode 0b0_11000010_000100_00110_000111_0110_000_000_0_000_0000_00000001_000001000000 = .ok (.cas ⟨4, 6, 7, 6, 0, 0, 0, 0, 0, 1, 64⟩) ∧
    decode 0b0_11000011_000100_00110_000111_1010_001_000_1_011_0000_00000001_000001000000 = .ok (.vamo ⟨4, 6, 7, 10, 1, 0, 1, 3, 0, 1, 64⟩) ∧
    decode 0b0_11000100_000100_00110_000000_1010_000_000_0_000_0000_00000001_000001000000 = .ok (.ldaq ⟨4, 6, 0, 10, 0, 0, 0, 0, 0, 1, 64⟩) ∧
    decode 0b0_11000101_000100_00110_000000_1010_000_000_0_000_0000_00000001_000001000000 = .ok (.strl ⟨4, 6, 0, 10, 0, 0, 0, 0, 0, 1, 64⟩) := by decide

theorem test_decode_lanes_and_tasks_1 :
    decode 0b0_11011011_000101_000110_010001_000000_0000_000_000_000000_000000000000000 = .ok (.leaseq ⟨5, 6, 17, 0, 0, 0, 0, 0, 0⟩) ∧
    decode 0b0_11010001_000101_000000_0000_000_000_0_00000000000000000000000000010010 = .ok (.lfetch ⟨5, 0, 0, 0, 0, 0, 18⟩) ∧
    decode 0b0_11010010_000000_000000_0000_000_000_0_00000000000000000000000000000000 = .ok (.lstop ⟨0, 0, 0, 0, 0, 0, 0⟩) ∧
    decode 0b0_11011001_000101_000000_0000_000_000_0_00000000000000000000000000000000 = .ok (.yield ⟨5, 0, 0, 0, 0, 0, 0⟩) ∧
    decode 0b0_11011010_000000_000000_0000_000_000_0_00000000000000000000000000010010 = .ok (.taskend ⟨0, 0, 0, 0, 0, 0, 18⟩) ∧
    decode 0b0_11010000_000100_00110_000111_1010_001_000_0_000_0000_00000001_000001000000 = .ok (.vtb ⟨4, 6, 7, 10, 1, 0, 0, 0, 0, 1, 64⟩) := by decide

theorem test_decode_lanes_and_tasks_2 :
    decode 0b0_11011000_000100_00110_000111_0000_000_000_0_000_0000_00000000_000001000000 = .ok (.launch ⟨4, 6, 7, 0, 0, 0, 0, 0, 0, 0, 64⟩) ∧
    decode 0b0_11010011_00110_00111_0010_000000001_11111111111111111111111111111110 = .ok (.lbr ⟨6, 7, 2, 1, 4294967294⟩) := by decide

theorem test_decode_system_1 :
    decode 0b0_11100011_000000_000000_000000_000000_0000_000_000_000000_000000000000001 = .ok (.tlbinv ⟨0, 0, 0, 0, 0, 0, 0, 0, 1⟩) ∧
    decode 0b0_11100100_000101_000110_010001_000000_0000_000_000_000000_000000000000000 = .ok (.pgsetSet ⟨5, 6, 17, 0, 0, 0, 0, 0, 0⟩) ∧
    decode 0b0_11100100_000101_000110_000000_000000_0000_000_000_000000_000000000000001 = .ok (.pgsetNorm ⟨5, 6, 0, 0, 0, 0, 0, 0, 1⟩) ∧
    decode 0b0_11100100_000101_000110_000000_000000_0000_000_000_000000_000000000000010 = .ok (.pgsetWbset ⟨5, 6, 0, 0, 0, 0, 0, 0, 2⟩) ∧
    decode 0b0_11100101_000101_000110_000000_000000_0000_000_000_000000_000000000000001 = .ok (.pgcnt ⟨5, 6, 0, 0, 0, 0, 0, 0, 1⟩) ∧
    decode 0b0_11101010_000101_000110_000000_000000_0000_000_000_000000_000000000000000 = .ok (.qctlRd ⟨5, 6, 0, 0, 0, 0, 0, 0, 0⟩) := by decide

theorem test_decode_system_2 :
    decode 0b0_11101010_000101_000110_000000_000000_0000_000_000_000000_000000000000001 = .ok (.qctlStop ⟨5, 6, 0, 0, 0, 0, 0, 0, 1⟩) ∧
    decode 0b0_11101010_000101_000110_000000_000000_0000_000_000_000000_000000000000010 = .ok (.qctlStart ⟨5, 6, 0, 0, 0, 0, 0, 0, 2⟩) ∧
    decode 0b0_11101010_000101_000110_010001_000000_0000_000_000_000000_000000000000011 = .ok (.qctlSetw ⟨5, 6, 17, 0, 0, 0, 0, 0, 3⟩) ∧
    decode 0b0_11101010_000101_000110_010001_000000_0000_000_000_000000_000000000000100 = .ok (.qctlSetp ⟨5, 6, 17, 0, 0, 0, 0, 0, 4⟩) ∧
    decode 0b0_11100000_000000_000000_0000_000_000_0_00000000000000000000000000000001 = .ok (.tret ⟨0, 0, 0, 0, 0, 0, 1⟩) ∧
    decode 0b0_11100111_000101_000000_0000_000_000_0_00000000000000000000000000010010 = .ok (.waiti ⟨5, 0, 0, 0, 0, 0, 18⟩) := by decide

theorem test_decode_system_3 :
    decode 0b0_11101000_000101_000000_0000_000_000_0_00000000000000000000000000000000 = .ok (.stepcmt ⟨5, 0, 0, 0, 0, 0, 0⟩) ∧
    decode 0b0_11101001_000101_000000_0000_000_000_0_00000000000000000000000000000000 = .ok (.stepabt ⟨5, 0, 0, 0, 0, 0, 0⟩) ∧
    decode 0b0_11100001_000000_00110_000000_0000_000_000_0_000_0000_00000000_000001000000 = .ok (.ctxsv ⟨0, 6, 0, 0, 0, 0, 0, 0, 0, 0, 64⟩) ∧
    decode 0b0_11100010_000000_00110_000000_0000_000_000_0_000_0000_00000000_000001000000 = .ok (.ctxrs ⟨0, 6, 0, 0, 0, 0, 0, 0, 0, 0, 64⟩) ∧
    decode 0b0_11100110_000100_00110_000111_0000_000_000_0_000_0000_00000000_000001000000 = .ok (.nqpost ⟨4, 6, 7, 0, 0, 0, 0, 0, 0, 0, 64⟩) := by decide

theorem test_decode_pair_1 :
    decode 0b1_000000_000101_000110_0000_000_000000_000000_010101_000111_0000_000_000000_0 = .ok (.addSlot ⟨5, 6, 0, 0, 0⟩ ⟨0, 21, 7, 0, 0, 0⟩) ∧
    decode 0b1_000001_000101_000110_0000_000_000000_000000_010101_000111_0000_000_000000_0 = .ok (.subSlot ⟨5, 6, 0, 0, 0⟩ ⟨0, 21, 7, 0, 0, 0⟩) ∧
    decode 0b1_000010_000101_000110_0000_000_000000_000000_010101_000111_0000_000_000000_0 = .ok (.andSlot ⟨5, 6, 0, 0, 0⟩ ⟨0, 21, 7, 0, 0, 0⟩) ∧
    decode 0b1_000011_000101_000110_0000_000_000000_000000_010101_000111_0000_000_000000_0 = .ok (.orSlot ⟨5, 6, 0, 0, 0⟩ ⟨0, 21, 7, 0, 0, 0⟩) ∧
    decode 0b1_000100_000101_000110_0000_000_000000_000000_010101_000111_0000_000_000000_0 = .ok (.xorSlot ⟨5, 6, 0, 0, 0⟩ ⟨0, 21, 7, 0, 0, 0⟩) ∧
    decode 0b1_000101_000101_000110_0000_000_000000_000000_010101_000111_0000_000_000000_0 = .ok (.shlSlot ⟨5, 6, 0, 0, 0⟩ ⟨0, 21, 7, 0, 0, 0⟩) := by decide

theorem test_decode_pair_2 :
    decode 0b1_000110_000101_000110_0000_000_000000_000000_010101_000111_0000_000_000000_0 = .ok (.shrSlot ⟨5, 6, 0, 0, 0⟩ ⟨0, 21, 7, 0, 0, 0⟩) ∧
    decode 0b1_000111_000101_000110_0000_000_000000_000000_010101_000111_0000_000_000000_0 = .ok (.sraSlot ⟨5, 6, 0, 0, 0⟩ ⟨0, 21, 7, 0, 0, 0⟩) ∧
    decode 0b1_001000_000101_000000_0000_000_001001_000000_010101_000111_0000_000_000000_0 = .ok (.addiSlot ⟨5, 0, 0, 0, 9⟩ ⟨0, 21, 7, 0, 0, 0⟩) ∧
    decode 0b1_001001_000101_000000_0000_000_001001_000000_010101_000111_0000_000_000000_0 = .ok (.shliSlot ⟨5, 0, 0, 0, 9⟩ ⟨0, 21, 7, 0, 0, 0⟩) ∧
    decode 0b1_001010_000101_000000_0000_000_001001_000000_010101_000111_0000_000_000000_0 = .ok (.shriSlot ⟨5, 0, 0, 0, 9⟩ ⟨0, 21, 7, 0, 0, 0⟩) ∧
    decode 0b1_001011_000101_000110_0000_000_000000_000000_010101_000111_0000_000_000000_0 = .ok (.sltSlot ⟨5, 6, 0, 0, 0⟩ ⟨0, 21, 7, 0, 0, 0⟩) := by decide

theorem test_decode_pair_3 :
    decode 0b1_001100_000101_000110_0000_000_000011_000000_010101_000111_0000_000_000000_0 = .ok (.minmaxSlot ⟨5, 6, 0, 0, 3⟩ ⟨0, 21, 7, 0, 0, 0⟩) ∧
    decode 0b1_001101_000101_000110_0000_000_000000_000000_010101_000111_0000_000_000000_0 = .ok (.mulSlot ⟨5, 6, 0, 0, 0⟩ ⟨0, 21, 7, 0, 0, 0⟩) ∧
    decode 0b1_001110_000101_000110_1010_000_000000_000000_010101_000111_0000_000_000000_0 = .ok (.faddSlot ⟨5, 6, 10, 0, 0⟩ ⟨0, 21, 7, 0, 0, 0⟩) ∧
    decode 0b1_001111_000101_000110_1010_000_000000_000000_010101_000111_0000_000_000000_0 = .ok (.fmulSlot ⟨5, 6, 10, 0, 0⟩ ⟨0, 21, 7, 0, 0, 0⟩) ∧
    decode 0b1_010000_000101_000110_1010_000_000001_000000_010101_000111_0000_000_000000_0 = .ok (.fminmaxSlot ⟨5, 6, 10, 0, 1⟩ ⟨0, 21, 7, 0, 0, 0⟩) ∧
    decode 0b1_010001_000000_000000_0000_000_000000_000000_010101_000111_0000_000_000000_0 = .ok (.nopSlot ⟨0, 0, 0, 0, 0⟩ ⟨0, 21, 7, 0, 0, 0⟩) := by decide

theorem test_decode_pair_4 :
    decode 0b1_010010_101000_101001_1010_010_000000_010010_000011_000100_1010_010_000000_0 = .ok (.vaddSlot ⟨40, 41, 10, 2, 0⟩ ⟨18, 3, 4, 10, 2, 0⟩) ∧
    decode 0b1_010011_101000_101001_1010_010_000000_010010_000011_000100_1010_010_000000_0 = .ok (.vsubSlot ⟨40, 41, 10, 2, 0⟩ ⟨18, 3, 4, 10, 2, 0⟩) ∧
    decode 0b1_010100_101000_101001_1010_010_000000_010010_000011_000100_1010_010_000000_0 = .ok (.vmulSlot ⟨40, 41, 10, 2, 0⟩ ⟨18, 3, 4, 10, 2, 0⟩) ∧
    decode 0b1_010101_101000_101001_1010_010_000000_010010_000011_000100_1010_010_000000_0 = .ok (.vminSlot ⟨40, 41, 10, 2, 0⟩ ⟨18, 3, 4, 10, 2, 0⟩) ∧
    decode 0b1_010110_101000_101001_1010_010_000000_010010_000011_000100_1010_010_000000_0 = .ok (.vmaxSlot ⟨40, 41, 10, 2, 0⟩ ⟨18, 3, 4, 10, 2, 0⟩) ∧
    decode 0b1_010111_101000_101001_0110_010_000000_010010_000011_000100_1010_010_000000_0 = .ok (.vandSlot ⟨40, 41, 6, 2, 0⟩ ⟨18, 3, 4, 10, 2, 0⟩) := by decide

theorem test_decode_pair_5 :
    decode 0b1_011000_101000_101001_0110_010_000000_010010_000011_000100_1010_010_000000_0 = .ok (.vorSlot ⟨40, 41, 6, 2, 0⟩ ⟨18, 3, 4, 10, 2, 0⟩) ∧
    decode 0b1_011001_101000_101001_0110_010_000000_010010_000011_000100_1010_010_000000_0 = .ok (.vxorSlot ⟨40, 41, 6, 2, 0⟩ ⟨18, 3, 4, 10, 2, 0⟩) ∧
    decode 0b1_011010_101000_000000_0110_010_001001_010010_000011_000100_1010_010_000000_0 = .ok (.vshliSlot ⟨40, 0, 6, 2, 9⟩ ⟨18, 3, 4, 10, 2, 0⟩) ∧
    decode 0b1_011011_101000_000000_0110_010_001001_010010_000011_000100_1010_010_000000_0 = .ok (.vshriSlot ⟨40, 0, 6, 2, 9⟩ ⟨18, 3, 4, 10, 2, 0⟩) ∧
    decode 0b1_011100_101000_000110_1010_010_000000_010010_000011_000100_1010_010_000000_0 = .ok (.vaddsSlot ⟨40, 6, 10, 2, 0⟩ ⟨18, 3, 4, 10, 2, 0⟩) ∧
    decode 0b1_011101_101000_000110_1010_010_000000_010010_000011_000100_1010_010_000000_0 = .ok (.vmulsSlot ⟨40, 6, 10, 2, 0⟩ ⟨18, 3, 4, 10, 2, 0⟩) := by decide

theorem test_decode_pair_6 :
    decode 0b1_011110_101000_101001_0000_000_000000_010010_000011_000100_1010_010_000000_0 = .ok (.vmovSlot ⟨40, 41, 0, 0, 0⟩ ⟨18, 3, 4, 10, 2, 0⟩) ∧
    decode 0b1_011111_101000_101001_0110_010_000010_010010_000011_000100_1010_010_000000_0 = .ok (.vunarySlot ⟨40, 41, 6, 2, 2⟩ ⟨18, 3, 4, 10, 2, 0⟩) := by decide

/-! ### Ill-formed terms -/

theorem test_wf_register_fields_1 :
    (Instr.add ⟨32, 6, 17, 0, 0, 0, 0, 0, 1⟩).wf = false ∧
    (Instr.add ⟨5, 32, 17, 0, 0, 0, 0, 0, 1⟩).wf = false ∧
    (Instr.add ⟨5, 6, 32, 0, 0, 0, 0, 0, 1⟩).wf = false ∧
    (Instr.add ⟨5, 6, 17, 1, 0, 0, 0, 0, 1⟩).wf = false ∧
    (Instr.addi ⟨5, 32, 0, 0, 0, 0, 18⟩).wf = false ∧
    (Instr.lui ⟨5, 1, 0, 0, 0, 0, 18⟩).wf = false ∧
    (Instr.vsel ⟨5, 6, 17, 8, 10, 1, 0, 0, 0⟩).wf = false ∧
    (Instr.vcmp ⟨0, 6, 17, 0, 10, 0, 0, 0, 1⟩).wf = false ∧
    (Instr.vcmp ⟨8, 6, 17, 0, 10, 0, 0, 0, 1⟩).wf = false ∧
    (Instr.kpop ⟨4, 6, 0, 0, 0, 1, 0, 0, 1⟩).wf = false ∧
    (Instr.waitlt ⟨8, 0, 0, 0, 0, 0, 18⟩).wf = false ∧
    (Instr.lfetch ⟨8, 0, 0, 0, 0, 0, 18⟩).wf = false := by decide

theorem test_wf_register_fields_2 :
    (Instr.stmap ⟨16, 6, 7, 0, 0, 0, 1, 3, 0, 0, 64⟩).wf = false ∧
    (Instr.cpy2d ⟨4, 6, 0, 0, 0, 0, 1, 3, 0, 0, 64⟩).wf = false ∧
    (Instr.cpy2d ⟨4, 6, 31, 0, 0, 0, 1, 3, 0, 0, 64⟩).wf = false ∧
    (Instr.ctxsv ⟨1, 6, 0, 0, 0, 0, 0, 0, 0, 0, 64⟩).wf = false ∧
    (Instr.mfs ⟨5, 1, 2, 0, 0⟩).wf = false ∧
    (Instr.mfs ⟨32, 0, 2, 0, 0⟩).wf = false ∧
    (Instr.mts ⟨1, 6, 2, 0, 0⟩).wf = false ∧
    (Instr.mts ⟨0, 32, 2, 0, 0⟩).wf = false ∧
    (Instr.mopa ⟨2, 1, 6, 7, 10, 10, 0, 0, 1, 3, 0, 0⟩).wf = false ∧
    (Instr.bload ⟨1, 0, 6, 7, 10, 0, 0, 0, 1, 3, 0, 1⟩).wf = false ∧
    (Instr.cpyf ⟨4, 1, 7, 10, 0, 0, 1, 3, 0, 0, 0⟩).wf = false ∧
    (Instr.kop ⟨5, 8, 0, 0, 0, 1, 0, 0, 1⟩).wf = false := by decide

theorem test_wf_type_fields_1 :
    (Instr.add ⟨5, 6, 17, 0, 1, 0, 0, 0, 1⟩).wf = false ∧
    (Instr.addi ⟨5, 6, 1, 0, 0, 0, 18⟩).wf = false ∧
    (Instr.fadd ⟨5, 6, 17, 0, 6, 0, 0, 0, 1⟩).wf = false ∧
    (Instr.fclass ⟨5, 6, 0, 0, 6, 0, 0, 0, 0⟩).wf = false ∧
    (Instr.vand ⟨5, 6, 17, 0, 10, 1, 0, 0, 0⟩).wf = false ∧
    (Instr.vadd ⟨5, 6, 17, 0, 14, 1, 0, 0, 1⟩).wf = false ∧
    (Instr.vsfu ⟨5, 6, 0, 0, 9, 1, 0, 0, 1⟩).wf = false ∧
    (Instr.ld ⟨4, 6, 0, 14, 0, 0, 0, 0, 0, 0, 64⟩).wf = false ∧
    (Instr.vtread ⟨2, 0, 6, 7, 9, 0, 1, 0, 0, 0, 0, 1⟩).wf = false ∧
    (Instr.sscfg ⟨0, 0, 6, 0, 0, 0, 18⟩).wf = false ∧
    (Instr.amo ⟨4, 6, 7, 11, 0, 0, 0, 0, 0, 1, 64⟩).wf = false ∧
    (Instr.cas ⟨4, 6, 7, 10, 0, 0, 0, 0, 0, 1, 64⟩).wf = false := by decide

theorem test_wf_type_fields_2 :
    (Instr.cpyt ⟨4, 6, 7, 14, 0, 0, 1, 3, 0, 0, 64⟩).wf = false ∧
    (Instr.mopa ⟨2, 0, 6, 7, 6, 10, 0, 0, 1, 3, 0, 0⟩).wf = false ∧
    (Instr.mopa ⟨2, 0, 6, 7, 10, 9, 0, 0, 1, 3, 0, 0⟩).wf = false ∧
    (Instr.mpack ⟨2, 0, 6, 7, 10, 0, 1, 1, 1, 3, 0, 1⟩).wf = false ∧
    (Instr.bfromt ⟨2, 0, 0, 7, 0, 6, 0, 0, 1, 3, 0, 1⟩).wf = false ∧
    (Instr.jal ⟨5, 0, 1, 0, 0, 0, 18⟩).wf = false ∧
    (Instr.vmov ⟨5, 6, 0, 0, 1, 0, 0, 0, 1⟩).wf = false := by decide

theorem test_wf_group_fields_1 :
    (Instr.add ⟨5, 6, 17, 0, 0, 1, 0, 0, 1⟩).wf = false ∧
    (Instr.add ⟨5, 6, 17, 0, 0, 0, 1, 0, 1⟩).wf = false ∧
    (Instr.addi ⟨5, 6, 0, 1, 0, 0, 18⟩).wf = false ∧
    (Instr.addi ⟨5, 6, 0, 0, 1, 0, 18⟩).wf = false ∧
    (Instr.vadd ⟨5, 6, 17, 0, 6, 1, 5, 0, 1⟩).wf = false ∧
    (Instr.vsplat ⟨5, 0, 0, 1, 5, 0, 18⟩).wf = false ∧
    (Instr.vld ⟨4, 6, 7, 10, 1, 5, 0, 0, 0, 1, 64⟩).wf = false ∧
    (Instr.mopa ⟨2, 0, 6, 7, 10, 10, 0, 5, 1, 3, 0, 0⟩).wf = false ∧
    (Instr.vcvt ⟨5, 6, 0, 0, 10, 1, 0, 0, 1⟩).wf = false ∧
    (Instr.ld ⟨4, 6, 0, 10, 1, 0, 0, 0, 0, 0, 64⟩).wf = false ∧
    (Instr.ld ⟨4, 6, 0, 10, 0, 0, 1, 0, 0, 0, 64⟩).wf = false ∧
    (Instr.vst ⟨4, 6, 0, 10, 1, 0, 0, 3, 0, 1, 64⟩).wf = false := by decide

theorem test_wf_group_fields_2 :
    (Instr.mopa ⟨2, 0, 6, 7, 10, 10, 0, 0, 0, 3, 0, 0⟩).wf = false ∧
    (Instr.vtread ⟨2, 0, 6, 7, 10, 0, 1, 0, 1, 0, 0, 1⟩).wf = false := by decide

theorem test_wf_function_fields_1 :
    (Instr.add ⟨5, 6, 17, 0, 0, 0, 0, 0, 3⟩).wf = false ∧
    (Instr.add ⟨5, 6, 17, 0, 0, 0, 0, 0, 4⟩).wf = false ∧
    (Instr.sub ⟨5, 6, 17, 0, 0, 0, 0, 0, 3⟩).wf = false ∧
    (Instr.mulh ⟨5, 6, 17, 0, 0, 0, 0, 0, 3⟩).wf = false ∧
    (Instr.bitcnt ⟨5, 6, 0, 0, 0, 0, 0, 0, 3⟩).wf = false ∧
    (Instr.and ⟨5, 6, 17, 0, 0, 0, 0, 0, 1⟩).wf = false ∧
    (Instr.div ⟨5, 6, 17, 0, 0, 0, 0, 0, 2⟩).wf = false ∧
    (Instr.minmax ⟨5, 6, 17, 0, 0, 0, 0, 0, 4⟩).wf = false ∧
    (Instr.ext ⟨5, 6, 0, 0, 0, 0, 0, 0, 4095⟩).wf = false ∧
    (Instr.ins ⟨5, 6, 0, 0, 0, 0, 0, 0, 4033⟩).wf = false ∧
    (Instr.ins ⟨5, 6, 0, 0, 0, 0, 0, 0, 4096⟩).wf = false ∧
    (Instr.fcmp ⟨5, 6, 17, 0, 10, 0, 0, 0, 5⟩).wf = false := by decide

theorem test_wf_function_fields_2 :
    (Instr.fcvt ⟨5, 6, 17, 0, 10, 0, 0, 0, 14⟩).wf = false ∧
    (Instr.fcvt ⟨5, 6, 17, 0, 1, 0, 0, 0, 1⟩).wf = false ∧
    (Instr.frnd ⟨5, 6, 0, 0, 10, 0, 0, 0, 5⟩).wf = false ∧
    (Instr.ffma ⟨5, 6, 17, 9, 10, 0, 0, 0, 4⟩).wf = false ∧
    (Instr.vunary ⟨5, 6, 0, 0, 10, 1, 0, 0, 3⟩).wf = false ∧
    (Instr.vunary ⟨5, 6, 0, 0, 10, 1, 0, 0, 2⟩).wf = false ∧
    (Instr.vcmp ⟨5, 6, 17, 0, 10, 0, 0, 0, 7⟩).wf = false ∧
    (Instr.vcmp ⟨5, 6, 17, 0, 6, 0, 0, 0, 6⟩).wf = false ∧
    (Instr.vcmps ⟨5, 6, 17, 0, 10, 0, 0, 0, 7⟩).wf = false ∧
    (Instr.vsfu ⟨5, 6, 0, 0, 10, 1, 0, 0, 6⟩).wf = false ∧
    (Instr.vrnd ⟨5, 6, 0, 0, 10, 1, 0, 0, 5⟩).wf = false ∧
    (Instr.vcvt ⟨5, 6, 0, 0, 10, 0, 0, 0, 15⟩).wf = false := by decide

theorem test_wf_function_fields_3 :
    (Instr.vcvt ⟨5, 6, 0, 0, 6, 0, 0, 0, 6⟩).wf = false ∧
    (Instr.vpopc ⟨5, 6, 0, 0, 6, 1, 0, 0, 3⟩).wf = false ∧
    (Instr.kop ⟨5, 6, 0, 0, 0, 1, 0, 0, 5⟩).wf = false ∧
    (Instr.kop ⟨5, 6, 1, 0, 0, 1, 0, 0, 4⟩).wf = false ∧
    (Instr.tlbinv ⟨0, 0, 0, 0, 0, 0, 0, 0, 3⟩).wf = false ∧
    (Instr.tlbinv ⟨0, 1, 0, 0, 0, 0, 0, 0, 1⟩).wf = false ∧
    (Instr.fence ⟨0, 0, 0, 0, 0, 0, 0, 0, 24⟩).wf = false ∧
    (Instr.fence ⟨0, 0, 0, 0, 0, 0, 0, 0, 32⟩).wf = false := by decide

theorem test_wf_saturation_and_scan_1 :
    (Instr.vadd ⟨5, 6, 17, 0, 10, 1, 0, 0, 1⟩).wf = false ∧
    (Instr.vsub ⟨5, 6, 17, 0, 10, 1, 0, 0, 1⟩).wf = false ∧
    (Instr.vmul ⟨5, 6, 17, 0, 10, 1, 0, 0, 1⟩).wf = false ∧
    (Instr.vadds ⟨5, 6, 17, 0, 10, 1, 0, 0, 1⟩).wf = false ∧
    (Instr.vscan ⟨5, 6, 0, 0, 10, 1, 0, 0, 3⟩).wf = false ∧
    (Instr.vscan ⟨5, 6, 0, 0, 10, 1, 0, 0, 8⟩).wf = false ∧
    (Instr.vsegred ⟨5, 6, 17, 0, 6, 0, 0, 0, 9⟩).wf = false ∧
    (Instr.sscan ⟨0, 6, 17, 9, 10, 0, 0, 0, 1⟩).wf = false ∧
    (Instr.sscan ⟨0, 61, 17, 9, 10, 0, 0, 0, 0⟩).wf = false ∧
    (Instr.ssrst ⟨0, 0, 0, 0, 0, 0, 0, 0, 1⟩).wf = false ∧
    (Instr.ssstep ⟨0, 61, 17, 9, 10, 0, 0, 0, 0⟩).wf = false ∧
    (Instr.vred ⟨4, 0, 7, 10, 1, 0, 1, 3, 0, 12, 0⟩).wf = false := by decide

theorem test_wf_saturation_and_scan_2 :
    (Instr.vred ⟨4, 0, 7, 10, 1, 0, 1, 3, 0, 2, 0⟩).wf = false ∧
    (Instr.mrred ⟨2, 0, 6, 0, 10, 0, 0, 0, 0, 0, 0, 3⟩).wf = false ∧
    (Instr.vmov ⟨0, 6, 0, 0, 0, 0, 0, 0, 1⟩).wf = false ∧
    (Instr.vmov ⟨8, 6, 0, 0, 0, 0, 0, 0, 1⟩).wf = false ∧
    (Instr.vmov ⟨5, 6, 0, 0, 0, 0, 0, 0, 2⟩).wf = false ∧
    (Instr.vmov ⟨5, 6, 1, 0, 0, 0, 0, 0, 1⟩).wf = false := by decide

theorem test_wf_memory_fields_1 :
    (Instr.vld ⟨4, 6, 7, 15, 1, 0, 0, 0, 0, 1, 64⟩).wf = false ∧
    (Instr.vld ⟨4, 6, 7, 14, 1, 0, 0, 0, 0, 1, 64⟩).wf = false ∧
    (Instr.vld ⟨4, 6, 7, 10, 1, 0, 0, 0, 0, 2, 64⟩).wf = false ∧
    (Instr.vld ⟨4, 6, 7, 10, 1, 0, 0, 0, 0, 0, 64⟩).wf = false ∧
    (Instr.vst ⟨4, 6, 0, 10, 1, 0, 1, 3, 0, 48, 64⟩).wf = false ∧
    (Instr.vst ⟨4, 6, 0, 10, 1, 0, 1, 3, 0, 8, 64⟩).wf = false ∧
    (Instr.vst ⟨4, 6, 0, 14, 1, 0, 1, 3, 0, 2, 64⟩).wf = false ∧
    (Instr.vst ⟨4, 6, 7, 10, 1, 0, 1, 3, 0, 0, 64⟩).wf = false ∧
    (Instr.vstx ⟨4, 6, 7, 10, 1, 0, 1, 3, 0, 8, 64⟩).wf = false ∧
    (Instr.vcst ⟨4, 6, 0, 10, 1, 0, 1, 3, 0, 4, 64⟩).wf = false ∧
    (Instr.ldpair ⟨5, 6, 5, 0, 0, 0, 0, 0, 0, 0, 64⟩).wf = false ∧
    (Instr.amo ⟨4, 6, 7, 10, 0, 0, 0, 0, 0, 7, 64⟩).wf = false := by decide

theorem test_wf_memory_fields_2 :
    (Instr.amo ⟨4, 6, 7, 10, 0, 0, 0, 0, 0, 32, 64⟩).wf = false ∧
    (Instr.amo ⟨4, 6, 7, 10, 0, 0, 0, 0, 0, 200, 64⟩).wf = false ∧
    (Instr.amow ⟨0, 6, 7, 10, 0, 0, 0, 0, 0, 8, 64⟩).wf = false ∧
    (Instr.cas ⟨4, 6, 7, 6, 0, 0, 0, 0, 0, 32, 64⟩).wf = false ∧
    (Instr.vamo ⟨4, 6, 7, 10, 1, 0, 1, 3, 0, 14, 64⟩).wf = false ∧
    (Instr.ldaq ⟨4, 6, 0, 10, 0, 0, 0, 0, 0, 6, 64⟩).wf = false ∧
    (Instr.strl ⟨4, 6, 0, 10, 0, 0, 0, 0, 0, 7, 64⟩).wf = false ∧
    (Instr.cpyx ⟨4, 6, 5, 0, 0, 0, 1, 3, 0, 0, 64⟩).wf = false ∧
    (Instr.cpyr ⟨4, 6, 0, 6, 0, 0, 1, 3, 0, 3, 64⟩).wf = false ∧
    (Instr.cpyr ⟨4, 6, 0, 10, 0, 0, 1, 3, 0, 1, 64⟩).wf = false ∧
    (Instr.cacheop ⟨0, 0, 0, 0, 0, 0, 0, 0, 0, 1, 1⟩).wf = false ∧
    (Instr.cpyf ⟨4, 0, 7, 10, 0, 0, 1, 3, 0, 0, 1⟩).wf = false := by decide

theorem test_wf_memory_fields_3 :
    (Instr.mtst ⟨2, 0, 6, 7, 15, 0, 1, 0, 1, 3, 0, 0⟩).wf = false ∧
    (Instr.mtst ⟨2, 0, 6, 7, 10, 0, 1, 0, 1, 3, 0, 2⟩).wf = false ∧
    (Instr.mtld ⟨2, 0, 6, 7, 14, 0, 0, 0, 1, 3, 0, 1⟩).wf = false ∧
    (Instr.bload ⟨0, 0, 6, 7, 14, 0, 0, 0, 1, 3, 0, 1⟩).wf = false ∧
    (Instr.mpack ⟨2, 0, 6, 7, 15, 0, 1, 1, 1, 3, 0, 0⟩).wf = false ∧
    (Instr.vtb ⟨4, 6, 62, 10, 1, 0, 0, 0, 0, 3, 64⟩).wf = false ∧
    (Instr.cinv ⟨0, 6, 7, 0, 0, 0, 0, 0, 0, 2, 64⟩).wf = false := by decide

theorem test_wf_immediates_1 :
    (Instr.shli ⟨5, 6, 0, 0, 0, 0, 64⟩).wf = false ∧
    (Instr.shri ⟨5, 6, 0, 0, 0, 0, 64⟩).wf = false ∧
    (Instr.srai ⟨5, 6, 0, 0, 0, 0, 64⟩).wf = false ∧
    (Instr.vshli ⟨5, 6, 0, 1, 0, 0, 8⟩).wf = false ∧
    (Instr.vshri ⟨5, 6, 6, 1, 0, 0, 64⟩).wf = false ∧
    (Instr.vslide ⟨5, 6, 0, 1, 0, 0, 65⟩).wf = false ∧
    (Instr.vslide ⟨5, 6, 0, 1, 0, 0, 4294967231⟩).wf = false ∧
    (Instr.vsplat ⟨5, 0, 9, 1, 0, 0, 65536⟩).wf = false ∧
    (Instr.vsplat ⟨5, 0, 12, 1, 0, 0, 256⟩).wf = false ∧
    (Instr.vsplat ⟨5, 0, 14, 1, 0, 0, 64⟩).wf = false ∧
    (Instr.vsplat ⟨5, 6, 0, 1, 0, 0, 1⟩).wf = false ∧
    (Instr.setvl ⟨5, 6, 0, 0, 0, 0, 1⟩).wf = false := by decide

theorem test_wf_immediates_2 :
    (Instr.slotgate ⟨5, 6, 0, 0, 0, 0, 1⟩).wf = false ∧
    (Instr.nop ⟨0, 0, 0, 0, 0, 0, 1⟩).wf = false ∧
    (Instr.semtas ⟨0, 0, 0, 0, 0, 0, 64⟩).wf = false ∧
    (Instr.semclr ⟨0, 0, 0, 0, 0, 0, 64⟩).wf = false ∧
    (Instr.cdrd ⟨5, 0, 0, 0, 0, 0, 64⟩).wf = false ∧
    (Instr.cdwr ⟨0, 6, 0, 0, 0, 0, 64⟩).wf = false ∧
    (Instr.cdamo ⟨5, 6, 0, 0, 0, 0, 64⟩).wf = false ∧
    (Instr.cdamo ⟨5, 6, 0, 0, 0, 0, 2304⟩).wf = false ∧
    (Instr.cbar ⟨0, 0, 0, 0, 0, 0, 1⟩).wf = false ∧
    (Instr.lstop ⟨0, 0, 0, 0, 0, 0, 1⟩).wf = false ∧
    (Instr.yield ⟨5, 0, 0, 0, 0, 0, 1⟩).wf = false ∧
    (Instr.taskend ⟨0, 0, 0, 0, 0, 0, 65536⟩).wf = false := by decide

theorem test_wf_immediates_3 :
    (Instr.tret ⟨0, 0, 0, 0, 0, 0, 2⟩).wf = false ∧
    (Instr.stepcmt ⟨5, 0, 0, 0, 0, 0, 1⟩).wf = false ∧
    (Instr.stepabt ⟨5, 0, 0, 0, 0, 0, 1⟩).wf = false ∧
    (Instr.sscfg ⟨0, 0, 10, 0, 0, 0, 128⟩).wf = false ∧
    (Instr.sscfg ⟨0, 0, 10, 0, 0, 0, 327680⟩).wf = false ∧
    (Instr.sscfg ⟨0, 6, 10, 0, 0, 0, 1⟩).wf = false := by decide

theorem test_wf_branches_and_state_1 :
    (Instr.br ⟨6, 7, 7, 0, 4294967294⟩).wf = false ∧
    (Instr.br ⟨1, 7, 6, 0, 4294967294⟩).wf = false ∧
    (Instr.br ⟨6, 7, 2, 1, 4294967294⟩).wf = false ∧
    (Instr.loop ⟨6, 7, 4, 0, 4294967294⟩).wf = false ∧
    (Instr.loop ⟨6, 7, 2, 0, 1⟩).wf = false ∧
    (Instr.loop ⟨6, 1, 0, 0, 4294967294⟩).wf = false ∧
    (Instr.loop ⟨0, 0, 0, 0, 4294967294⟩).wf = false ∧
    (Instr.loop ⟨6, 7, 2, 1, 4294967294⟩).wf = false ∧
    (Instr.lbr ⟨16, 7, 2, 1, 4294967294⟩).wf = false ∧
    (Instr.lbr ⟨6, 7, 7, 1, 4294967294⟩).wf = false ∧
    (Instr.lbr ⟨1, 7, 6, 1, 4294967294⟩).wf = false ∧
    (Instr.lbr ⟨6, 7, 2, 12, 4294967294⟩).wf = false := by decide

theorem test_wf_branches_and_state_2 :
    (Instr.lbr ⟨6, 7, 4, 8, 4294967294⟩).wf = false ∧
    (Instr.mfs ⟨5, 0, 15, 0, 0⟩).wf = false ∧
    (Instr.mfs ⟨5, 0, 20, 0, 0⟩).wf = false ∧
    (Instr.mfs ⟨5, 0, 37, 0, 0⟩).wf = false ∧
    (Instr.mfs ⟨5, 0, 273, 0, 0⟩).wf = false ∧
    (Instr.mfs ⟨5, 0, 7, 0, 0⟩).wf = false ∧
    (Instr.mfs ⟨5, 0, 2, 1, 0⟩).wf = false ∧
    (Instr.mfs ⟨5, 0, 2, 0, 1⟩).wf = false ∧
    (Instr.mts ⟨0, 6, 1, 0, 0⟩).wf = false ∧
    (Instr.mts ⟨0, 6, 11, 0, 0⟩).wf = false ∧
    (Instr.vstartWrite ⟨0, 6, 2, 0, 0⟩).wf = false ∧
    (Instr.browbaseWrite ⟨0, 6, 10, 0, 0⟩).wf = false := by decide

theorem test_wf_operation_rows_1 :
    (Instr.lqopPush ⟨0, 6, 0, 0, 0, 0, 0, 0, 1⟩).wf = false ∧
    (Instr.lqopPop ⟨5, 0, 0, 0, 0, 0, 0, 0, 2⟩).wf = false ∧
    (Instr.lqopDrop ⟨0, 0, 0, 0, 0, 0, 0, 0, 0⟩).wf = false ∧
    (Instr.pgsetSet ⟨5, 6, 17, 0, 0, 0, 0, 0, 1⟩).wf = false ∧
    (Instr.pgsetNorm ⟨5, 6, 0, 0, 0, 0, 0, 0, 2⟩).wf = false ∧
    (Instr.pgsetWbset ⟨5, 6, 0, 0, 0, 0, 0, 0, 3⟩).wf = false ∧
    (Instr.qctlRd ⟨5, 6, 0, 0, 0, 0, 0, 0, 1⟩).wf = false ∧
    (Instr.qctlStop ⟨5, 6, 0, 0, 0, 0, 0, 0, 2⟩).wf = false ∧
    (Instr.qctlStart ⟨5, 6, 0, 0, 0, 0, 0, 0, 3⟩).wf = false ∧
    (Instr.qctlSetw ⟨5, 6, 17, 0, 0, 0, 0, 0, 4⟩).wf = false ∧
    (Instr.qctlSetp ⟨5, 6, 17, 0, 0, 0, 0, 0, 5⟩).wf = false := by decide

theorem test_wf_hints_1 :
    (Instr.add ⟨5, 6, 17, 0, 0, 0, 0, 32, 1⟩).wf = false ∧
    (Instr.vadd ⟨5, 6, 17, 0, 6, 1, 0, 32, 1⟩).wf = false ∧
    (Instr.fence ⟨0, 0, 0, 0, 0, 0, 0, 32, 1⟩).wf = false ∧
    (Instr.ld ⟨4, 6, 0, 10, 0, 0, 0, 0, 8, 0, 64⟩).wf = false ∧
    (Instr.vld ⟨4, 6, 7, 10, 1, 0, 0, 0, 8, 1, 64⟩).wf = false ∧
    (Instr.mopa ⟨2, 0, 6, 7, 10, 10, 0, 0, 1, 3, 8, 0⟩).wf = false ∧
    (Instr.launch ⟨4, 6, 7, 0, 0, 0, 0, 0, 8, 0, 64⟩).wf = false := by decide

/-- R61 to R63: a field out of range, the banks of two destinations, and a slot reading the other's destination. -/
theorem test_wf_pair :
    (Instr.addSlot ⟨32, 6, 0, 0, 0⟩ ⟨0, 21, 7, 0, 0, 0⟩).wf = false ∧
    (Instr.addSlot ⟨5, 6, 1, 0, 0⟩ ⟨0, 21, 7, 0, 0, 0⟩).wf = false ∧
    (Instr.addSlot ⟨5, 6, 0, 1, 0⟩ ⟨0, 21, 7, 0, 0, 0⟩).wf = false ∧
    (Instr.addSlot ⟨5, 6, 0, 0, 1⟩ ⟨0, 21, 7, 0, 0, 0⟩).wf = false ∧
    (Instr.minmaxSlot ⟨5, 6, 0, 0, 4⟩ ⟨0, 21, 7, 0, 0, 0⟩).wf = false ∧
    (Instr.fminmaxSlot ⟨5, 6, 10, 0, 2⟩ ⟨0, 21, 7, 0, 0, 0⟩).wf = false ∧
    (Instr.faddSlot ⟨5, 6, 9, 0, 0⟩ ⟨0, 21, 7, 0, 0, 0⟩).wf = false ∧
    (Instr.vshliSlot ⟨40, 0, 0, 2, 8⟩ ⟨0x12, 3, 4, 10, 2, 0⟩).wf = false ∧
    (Instr.vunarySlot ⟨40, 41, 10, 2, 2⟩ ⟨0x12, 3, 4, 10, 2, 0⟩).wf = false ∧
    (Instr.addSlot ⟨5, 6, 0, 0, 0⟩ ⟨0, 7, 8, 0, 0, 0⟩).wf = false ∧
    (Instr.vaddSlot ⟨40, 41, 10, 2, 0⟩ ⟨0x12, 33, 4, 10, 2, 0⟩).wf = false ∧
    (Instr.addSlot ⟨5, 21, 0, 0, 0⟩ ⟨0, 21, 7, 0, 0, 0⟩).wf = false ∧
    (Instr.addSlot ⟨5, 6, 0, 0, 0⟩ ⟨0, 21, 5, 0, 0, 0⟩).wf = false := by decide

/-- R60, R61, R74, R76: an opcode that is not allocated, a COP above 0x1F, bit 0 of a pair set, an operation code its
row does not have, and a hint bit the device does not take. -/
theorem test_decode_refuses :
    decode 0 = .error .illegalEncoding ∧
    decode 0b0_00101111_000000_000000_000000_000000_0000_000_000_000000_000000000000000 = .error .illegalEncoding ∧
    decode 0b0_11111111_000000_000000_000000_000000_0000_000_000_000000_000000000000000 = .error .illegalEncoding ∧
    decode 0b1_100000_000101_000110_0000_000_000000_010001_000000_000000_0000_000_000000_0 = .error .illegalEncoding ∧
    decode 0b1_010001_000000_000000_0000_000_000000_010001_000000_000000_0000_000_000000_1 = .error .illegalEncoding ∧
    decode 0b0_01110000_000101_000000_000000_000000_0000_000_000_000000_000000000000011 = .error .illegalEncoding ∧
    decode 0b0_11100100_000101_000000_000000_000000_0000_000_000_000000_000000000000011 = .error .illegalEncoding ∧
    decode 0b0_11101010_000101_000000_000000_000000_0000_000_000_000000_000000000000101 = .error .illegalEncoding ∧
    decode 0b0_00000001_000101_000110_010001_000000_0000_000_000_100000_000000000000000 = .error .hintUnsupported := by decide

/-! ### Witnesses: scalar words -/

theorem test_wit_integer_words :
    Instr.wf (.add ⟨5, 1, 2, 0, 0, 0, 0, 0, 0⟩) = true ∧
    Spec.integerResult (.add ⟨5, 1, 2, 0, 0, 0, 0, 0, 0⟩) testU = some (5, 0xFFFFFFFFFFFFFFFF) ∧
    Spec.integerResult (.add ⟨5, 2, 2, 0, 0, 0, 0, 0, 2⟩) testU = some (5, 0xFFFFFFFFFFFFFFFF) ∧
    Spec.integerResult (.sub ⟨5, 0, 1, 0, 0, 0, 0, 0, 2⟩) testU = some (5, 0) ∧
    Spec.integerResult (.sra ⟨5, 2, 1, 0, 0, 0, 0, 0, 0⟩) testU = some (5, 0xFFFFFFFFFFFFFFFF) ∧
    Spec.integerResult (.mulh ⟨5, 2, 2, 0, 0, 0, 0, 0, 2⟩) testU = some (5, 0xFFFFFFFFFFFFFFFE) ∧
    Spec.integerResult (.div ⟨5, 4, 0, 0, 0, 0, 0, 0, 0⟩) testU = some (5, 0xFFFFFFFFFFFFFFFF) ∧
    Spec.integerResult (.rem ⟨5, 4, 0, 0, 0, 0, 0, 0, 0⟩) testU = some (5, 7) := by decide

theorem test_wit_immediate_words :
    Instr.wf (.addi ⟨5, 4, 0, 0, 0, 0, 0xFFFFFFF8⟩) = true ∧
    Spec.immediateResult (.addi ⟨5, 4, 0, 0, 0, 0, 0xFFFFFFF8⟩) testU = some (5, 0xFFFFFFFFFFFFFFFF) ∧
    Spec.immediateResult (.lui ⟨5, 0, 0, 0, 0, 0, 0x80000000⟩) testU = some (5, 0x8000000000000000) ∧
    Spec.immediateResult (.auipc ⟨0, 0, 0, 0, 0, 0, 0xFFFFFFFF⟩) testU = some (0, 0x40000) := by decide

theorem test_wit_bit_fields :
    Instr.wf (.ext ⟨5, 2, 0, 0, 0, 0, 0, 0, 0x0FC0⟩) = true ∧ Instr.wf (.ins ⟨5, 2, 0, 0, 0, 0, 0, 0, 0x003F⟩) = true := by
  decide

/-- FP32 1.0 + 2^-30 is inexact, 1.0 + 1.0 is not; NX is enabled in the second state. -/
def testFp (fctrl : W64) : State :=
  { testU with th := { testThread with
    xs := ((Vector.replicate 32 (0 : W64)).setIfInBounds 1 0x3F800000).setIfInBounds 2 0x30800000
    sr := { SRegs.reset with fctrl := fctrl } } }

theorem test_wit_float_words :
    Spec.floatResult (.fadd ⟨5, 1, 1, 0, 0xA, 0, 0, 0, 0⟩) (testFp 0) = some (5, ⟨0x40000000, 0⟩) ∧
    (Spec.floatResult (.fadd ⟨5, 1, 2, 0, 0xA, 0, 0, 0, 0⟩) (testFp 0)).map (fun r => r.2.flags) = some 1 ∧
    (testFp 0).th.sr.fctrl.getLsbD 8 = false ∧
    (Spec.floatResult (.fadd ⟨5, 1, 2, 0, 0xA, 0, 0, 0, 0⟩) (testFp 0x100)).map (fun r => r.2.flags) = some 1 ∧
    (testFp 0x100).th.sr.fctrl.getLsbD 8 = true := by decide

theorem test_wit_fcmp :
    Instr.wf (.fcmp ⟨5, 1, 2, 0, 0xA, 0, 0, 0, 1⟩) = true ∧ (regVal 0xA 0x3F800000).isNan = false ∧
    (regVal 0xA 0x7FC00000).isNan = true ∧ (regVal 0xA 0x7FC00000).isSig = false ∧
    (regVal 0xA 0x7F800001).isSig = true := by decide

theorem test_wit_fcmp_finite : ∃ p, Spec.ratOf (regVal 0xA 0x3F800000) = some p := by
  have h : ∃ n m e, regVal 0xA 0x3F800000 = .fin n m e := ⟨_, _, _, rfl⟩
  obtain ⟨n, m, e, h⟩ := h
  rw [h]
  exact ⟨_, rfl⟩

theorem test_wit_fclass : Instr.wf (.fclass ⟨5, 1, 0, 0, 0xA, 0, 0, 0, 0⟩) = true := by decide

/-- BR compares x2 and x4: -2 is below 7 as a signed number and above it as an unsigned one. -/
theorem test_wit_branches :
    Spec.branchHolds 2 (testU.x5 2) (testU.x5 4) ∧ ¬ Spec.branchHolds 3 (testU.x5 2) (testU.x5 4) ∧
    Spec.branchHolds 5 (testU.x5 2) (testU.x5 4) ∧ ¬ Spec.branchHolds 4 (testU.x5 2) (testU.x5 4) ∧
    Spec.branchHolds 6 (testU.x5 2) (testU.x5 4) ∧ ¬ Spec.branchHolds 0 (testU.x5 2) (testU.x5 4) ∧
    Spec.branchHolds 1 (testU.x5 2) (testU.x5 4) := by
  simp only [Spec.branchHolds]
  decide

theorem test_wit_jalr :
    (BitVec.ofInt 64 ((testU.x (4 : BitVec 6)).toInt + (1 : BitVec 32).toInt)).toNat % 8 = 0 ∧
    (BitVec.ofInt 64 ((testU.x (4 : BitVec 6)).toInt + (2 : BitVec 32).toInt)).toNat % 8 ≠ 0 := by decide

/-- A poll of x1 and x4, not equal, whose run at the PC began at tick 10 with a budget of 5 cycles. -/
def testPoll (tick budget : Nat) : State :=
  { testU with
    th := { testThread with fe := { Front.reset with poll := some ⟨0x40008, 10, budget⟩ } }
    cal := { Cal.reset with tick := tick } }

theorem test_wit_loops :
    Instr.wf (.loop ⟨1, 4, 2, 0, 0xFFFFFFFF⟩) = true ∧ Spec.pollHolds 2 (testU.x5 1) (testU.x5 4) ∧
    ¬ Spec.pollHolds 1 (testU.x5 1) (testU.x5 4) ∧ ¬ Spec.pollHolds 3 (testU.x5 1) (testU.x5 4) ∧
    (Spec.pollRun testU).budget = 0x100000000 ∧
    (Spec.pollRun (testPoll 15 5)).budget = 5 ∧ (testPoll 15 5).cal.tick - (Spec.pollRun (testPoll 15 5)).since ≤ 5 ∧
    5 < (testPoll 16 5).cal.tick - (Spec.pollRun (testPoll 16 5)).since ∧ (Spec.pollRun (testPoll 15 0)).budget = 0 := by
  simp only [Spec.pollHolds]
  decide

theorem test_wit_waitlt :
    (testU.th.cc[(3 : BitVec 6).toNat]?.getD 0).toNat < (1 : BitVec 32).toNat ∧ testU.th.fe.wait = none ∧
    (1 : BitVec 32).toNat ≤ ((({ testThread with cc := testThread.cc.setIfInBounds 3 1 } : Thread)).cc[3]?.getD 0).toNat := by
  decide

/-! ### Witnesses: traps and state registers -/

/-- A pass stopped by a deferred fault, its handler running. -/
def testPass : Pass :=
  { pc := 0x40000, seq := 0, roots := [], p := 16, start := 16, len := 100, carries := [], back := [], blocks := [],
    serves := none, smode := false, halted := true, serial := false, treeOnly := false, hold := none, ready := true,
    since := 0, skipped := false }

/-- An S-mode handler with TRAPSTAT as given, over a stopped pass. -/
def testStopped (stat : W64) : State :=
  { testS with th := { testS.th with
    tr := { testS.th.tr with trapstat := stat, trappc := 0x40010 }
    dsp := { Dispatch.reset with pass0 := some testPass, stopped := some (.pass .p0), nextSeq := 1 } } }

theorem test_wit_tret :
    (testStopped 0x200).th.smode = true ∧ (testStopped 0x200).th.tr.trapstat.getLsbD 9 = true ∧
    (testStopped 0x200).th.dsp.stopped = some (.pass .p0) ∧ (testStopped 0x200).th.dsp.pass0 = some testPass ∧
    (testStopped 0x200).th.dsp.paused = false ∧ (testStopped 0x200).th.tr.trapstat.getLsbD 7 = false ∧
    (testStopped 0x280).th.tr.trapstat.getLsbD 7 = true ∧ (0 : BitVec 32).getLsbD 0 = false ∧
    (1 : BitVec 32).getLsbD 0 = true := by decide

theorem test_wit_taking_a_trap : (TrapInfo.mk 0x1A 0 0 0 0 0 15 true).src < 16 := by decide

theorem test_wit_privileged_words :
    testU.th.smode = false ∧ Spec.sModeWord (.tret ⟨0, 0, 0, 0, 0, 0, 0⟩) = true ∧
    Spec.sModeWord (.taskend ⟨0, 0, 0, 0, 0, 0, 0x8000⟩) = true ∧ testU.task.record.sa = false ∧
    ({ testU with tasks := [{ testTask with record := { Record.empty with sa := true } }] } : State).task.record.sa = true := by
  decide

/-- A thread with a pass in flight, so that its flags may still rise. -/
def testBusy : State :=
  { testU with th := { testThread with dsp := { Dispatch.reset with pass0 := some { testPass with halted := false } } } }

theorem test_wit_mfs :
    testU.th.smode = false ∧ 0x100 ≤ (0x100 : BitVec 12).toNat ∧ (0x0FF : BitVec 12).toNat < 0x100 ∧
    Spec.stateRegister testU 0x000 = some 100 ∧ Spec.stateRegister testS 0x100 = some 0x7000 ∧
    Spec.stateRegister testU 0x030 = some 0 ∧ Spec.stateRegister testU 0x037 = some 0 ∧
    testU.th.flagsDue = false ∧ testBusy.th.flagsDue = true ∧ testBusy.th.fe.wait = none := by decide

theorem test_wit_mts :
    Spec.written testU 0x006 0xFFFFFFFFFFFFFFFF = some (true, 0x1F07) ∧
    Spec.written testS 0x101 0xFFFFFFFFFFFFFFFF = some (false, 0xFFFFFFFFFFFFFFF8) ∧
    Spec.written testS 0x037 0x12345 = some (false, 0x2345) ∧ Spec.written testU 0x005 1 = none ∧
    (0x005 : BitVec 12) ∉ [0x001, 0x007, 0x00B, 0x00C] ∧ testS.th.smode = true := by decide

theorem test_wit_mts_task : Spec.HasTask testS := by
  unfold Spec.HasTask
  decide

/-- A second thread of the pair with rows 16 to 31 of the B store. -/
def testRows : State :=
  { testS with rest := [{ testThread with slot := 1, task := 2, sr := { SRegs.reset with browbase := 16, browlim := 32 } }] }

theorem test_wit_brow :
    testRows.th.smode = true ∧ Instr.wf (.browbaseWrite ⟨0, 4, 0x00C, 0, 0⟩) = true ∧
    (testRows.x (4 : BitVec 6)).toNat % 2 ^ 15 = 7 ∧ testRows.th.sr.browbase = 0 ∧
    (testRows.activeThreads 0 0).length = 2 ∧
    (∃ u ∈ testRows.activeThreads 0 0, u.slot ≠ testRows.th.slot ∧ u.sr.browbase < 17 ∧ 0 < u.sr.browlim ∧
      u.sr.browbase < u.sr.browlim) ∧
    ¬ (∃ u ∈ testRows.activeThreads 0 0, u.slot ≠ testRows.th.slot ∧ u.sr.browbase < 7 ∧ 0 < u.sr.browlim ∧
      u.sr.browbase < u.sr.browlim) := by decide

theorem test_wit_vstart :
    (testStopped 0x200).th.tr.trapstat.getLsbD 9 = true ∧ (testStopped 0x200).th.tr.trapstat.getLsbD 7 = false ∧
    (testStopped 0x200).th.dsp.pass0 = some testPass ∧ testPass.ready = true ∧
    (testStopped 0).th.tr.trapstat.getLsbD 9 = false ∧
    nextAnd (exec (.vstartWrite ⟨0, 4, 1, 0, 0⟩) (testStopped 0x200)) (fun t => t.th.vstart == 0) = true := by decide
/-! ### Witnesses: accesses to memory -/

theorem canonical_low (va : W64) (h : va.toNat < 2 ^ 54) : Spec.Canonical va := by
  have z : ∀ k, 54 ≤ k → va.getLsbD k = false := fun k hk =>
    Nat.testBit_lt_two_pow (Nat.lt_of_lt_of_le h (Nat.pow_le_pow_right (by decide) hk))
  intro k h1 _
  rw [z k h1, z 54 (Nat.le_refl 54)]

theorem leased_of_range (k : Task) (write : Bool) (a n : Nat) (r : Nat × LeaseRange) (hr : r ∈ k.ranges)
    (hw : r.2.w = true) (h1 : r.2.base ≤ a) (h2 : a + n ≤ r.2.base + r.2.len) : Spec.Leased k write a n :=
  fun _ hb1 hb2 => ⟨r, hr, fun _ => hw, Nat.le_trans h1 hb1, Nat.lt_of_lt_of_le hb2 h2⟩

theorem clean_of_none (s : State) (h1 : s.poison = []) (h2 : s.regions = []) (h3 : s.stale = []) (pa : Nat) :
    s.poisoned pa = false := by
  simp [State.poisoned, State.channelLost, State.staleAt, State.channelOf, State.locate, State.regionOf, h1, h2, h3]

/-- LD of 8 bytes at x3. -/
def testLd : FM := ⟨5, 3, 0, 7, 0, 0, 0, 0, 0, 0, 0⟩

theorem test_wit_misaligned :
    Instr.wf (.ld testLd) = true ∧ Spec.accessOf (.ld testLd) testU = some (0, 0x50100, 8) ∧
    testU.th.fe.posted.length ≤ 30 ∧ (0x50100 : W64).toNat % 8 = 0 ∧
    Instr.wf (.ld { testLd with ofs := 1 }) = true ∧
    Spec.accessOf (.ld { testLd with ofs := 1 }) testU = some (0, 0x50101, 8) ∧ (0x50101 : W64).toNat % 8 ≠ 0 ∧
    Spec.accessOf (.stpair { testLd with a := 1, ofs := 0x00F }) testU = some (1, 0x10, 16) ∧
    Spec.accessOf (.amo { testLd with ty := 7, a := 2, ofs := 2 }) testU = some (3, 0, 8) := by decide

/-- A thread whose x3 is 2^54: bit 54 is set and the bits above it are not. -/
def testFar : State := { testU with th := { testThread with xs := testXs.setIfInBounds 3 0x40000000000000 } }

theorem test_wit_not_canonical :
    Spec.accessOf (.ld testLd) testFar = some (0, 0x40000000000000, 8) ∧ (0x40000000000000 : W64).toNat % 8 = 0 ∧
    ¬ Spec.Canonical 0x40000000000000 :=
  ⟨by decide, by decide, fun h => absurd (h 63 (by decide) (by decide)) (by decide)⟩

/-- The lease begins at 0x50000, and the first byte past it lies at 0xB0000. -/
theorem test_wit_outside_the_lease :
    Spec.accessOf (.ld { testLd with a := 0 }) testU = some (0, 0, 8) ∧ testU.th.run = .running ∧
    testU.th.smode = false ∧ (0 : W64).toNat % 8 = 0 ∧ Spec.Canonical 0 ∧
    ¬ Spec.Leased testU.task false (0 : W64).toNat 8 := by
  refine ⟨by decide, by decide, by decide, by decide, canonical_low 0 (by decide), fun h => ?_⟩
  exact absurd (h 0 (by decide) (by decide)) (by decide)

theorem test_wit_lease_edges :
    Spec.Leased testU.task true 0x50000 0x60000 ∧ ¬ Spec.Leased testU.task false 0xAFFF9 8 := by
  refine ⟨leased_of_range _ _ _ _ (0, ⟨0x50000, 0x60000, true⟩) (by decide) rfl (by decide) (by decide), fun h => ?_⟩
  exact absurd (h 0xB0000 (by decide) (by decide)) (by decide)

theorem test_wit_mapped_page :
    Spec.Canonical 0xA0100 ∧ Spec.Leased testU.task true (0xA0100 : W64).toNat 8 ∧ (∀ pa, testU.poisoned pa = false) ∧
    testU.tlb = [] ∧ testU.channelsOut = [] ∧ tableOk (testU.mem.word 0x100000) = true ∧
    leafFrame testU.task.ptbase + 8 * ((0xA0100 : W64).toNat / 2 ^ 42 % 2 ^ 13) = 0x100000 ∧
    leafFrame (testU.mem.word 0x100000) + 8 * ((0xA0100 : W64).toNat / 2 ^ 29 % 2 ^ 13) = 0x110000 ∧
    tableOk (testU.mem.word 0x110000) = true ∧
    leafFrame (testU.mem.word 0x110000) + 8 * ((0xA0100 : W64).toNat / 2 ^ 16 % 2 ^ 13) = 0x120050 ∧
    testU.mem.word 0x120050 = 0x26000B ∧ (0x26000B : W64).extractLsb' 60 4 = 0 ∧ (0x26000B : W64).extractLsb' 4 2 = 0 ∧
    (0x26000B : W64).extractLsb' 7 2 = 0 ∧ (0x26000B : W64).getLsbD 3 = true ∧
    (0x26000B : W64).getLsbD 1 = true ∧ (0x26000B : W64).getLsbD 11 = false ∧ (0x26000B : W64).getLsbD 9 = false ∧
    (0x26000B : W64).getLsbD 6 = false ∧ (0x26000B : W64).getLsbD 13 = false ∧ isDram (leafFrame 0x26000B) = true ∧ (∀ r ∈ testU.regions, r.skew = 0) :=
  ⟨canonical_low _ (by decide),
   leased_of_range _ _ _ _ (0, ⟨0x50000, 0x60000, true⟩) (by decide) rfl (by decide) (by decide),
   clean_of_none _ rfl rfl rfl, by decide⟩

/-- Memory is free for the taking: no drain, no link reset, no quota. -/
theorem test_wit_available : Spec.Available testU 0x200100 ∧ Spec.Available testU 0x8000000010000 := by
  unfold Spec.Available
  decide

/-- A load of the dword at 0x200100 through the COH page, with what it leaves. -/
theorem test_wit_load :
    okAnd (testU.sAccess 0 false 0x50100 8) (fun r =>
      r.1.pa == 0x200100 && !isRegSpace (r.2.readPa r.1) && (r.2.poisonIn (r.2.readPa r.1) 8).isNone &&
      !leafLoc r.1.leaf && leafCls r.1.leaf != clsDev) = true ∧
    testU.th.fe.posted = [] ∧
    nextAnd (exec (.ld testLd) testU) (fun t => t.x 5 == 0x8000000000005678 && t.th.pc == 0x40010) = true ∧
    nextAnd (exec (.ld { testLd with ty := 2 }) testU) (fun t => t.x 5 == 0x5678) = true ∧
    nextAnd (exec (.ld { testLd with ty := 0, ofs := 7 }) testU) (fun t => t.x 5 == 0xFFFFFFFFFFFFFF80) = true := by
  decide

theorem test_wit_ldpair :
    Instr.wf (.ldpair ⟨5, 3, 6, 0, 0, 0, 0, 0, 0, 0, 0⟩) = true ∧
    okAnd (testU.sAccess 0 false 0x50100 16) (fun r =>
      leafCls r.1.leaf != clsDev && !isRegSpace (r.2.readPa r.1) && (r.2.poisonIn (r.2.readPa r.1) 16).isNone) = true ∧
    nextAnd (exec (.ldpair ⟨5, 3, 6, 0, 0, 0, 0, 0, 0, 0, 0⟩) testU)
      (fun t => t.x 5 == 0x8000000000005678 && t.x 6 == 0) = true := by decide

/-- A configured queue 3 of partition 0, whose doorbell the page at 0x70000 reaches. -/
def testConf : QueueConf :=
  { ringBase := 0x300000, size := 4, en := true, version1 := false, feedLaunch := true, ulaunch := false, prio := 1,
    weight := 9, ptbase := 0x100000, prod := 5, fractions := [] }

def testQueue (part : Nat) (conf : QueueConf) : Queue :=
  { part := part, q := 3, conf := conf, prod := 5, cons := 2, done := 2, fetching := true, ct := 0, ce := 0,
    fetched := none, finished := [], again := [] }

/-- A thread in S mode, with that queue. -/
def testBell : State := { testS with queues := [testQueue 0 testConf] }

theorem test_wit_register_space :
    okAnd (testBell.sAccess 0 false 0x70018 8) (fun r =>
      isRegSpace (r.2.readPa r.1) && !testBell.fabricWindow testBell.task.part (r.2.readPa r.1) &&
      (r.2.readPa r.1 - 0x4000000000000) / 0x10000 == 0 &&
      (r.2.readPa r.1 - 0x4000000000000) % 0x10000 / 8 == 3) = true ∧
    Spec.addressOf { testLd with a := 6 } testBell = 0x70018 ∧ testBell.queue? 0 3 = some (testQueue 0 testConf) ∧
    nextAnd (exec (.ld { testLd with a := 6 }) testBell) (fun t => t.x 5 == 5) = true ∧
    testS.queue? 0 3 = none ∧ nextAnd (exec (.ld { testLd with a := 6 }) testS) (fun t => t.x 5 == 0) = true := by
  decide

theorem test_wit_stores :
    Instr.wf (.st { testLd with d := 4 }) = true ∧ Instr.wf (.strl { testLd with d := 4 }) = true ∧
    testU.th.fe.posted.length < 32 ∧ testU.th.hasPending = false ∧
    okAnd (testU.sAccess 1 false 0x50100 8) (fun r => r.1.pa == 0x200100) = true ∧
    okAnd (testU.sAccess 1 true 0x50100 8) (fun r => r.1.pa == 0x200100) = true ∧
    nextAnd (exec (.st { testLd with d := 4 }) testU) (fun t =>
      t.th.fe.posted.map (fun p => (p.pa, p.bytes, p.release)) == [(0x200100, [7, 0, 0, 0, 0, 0, 0, 0], none)]) = true := by
  decide

theorem test_wit_stpair :
    Instr.wf (.stpair ⟨4, 3, 1, 0, 0, 0, 0, 0, 0, 0, 0⟩) = true ∧ testU.th.fe.posted.length < 31 ∧
    okAnd (testU.sAccess 1 false 0x50100 16) (fun r => leafCls r.1.leaf != clsDev) = true ∧
    Spec.addressOf ⟨4, 6, 1, 0, 0, 0, 0, 0, 0, 0, 8⟩ testU = 0x70020 ∧
    okAnd (testU.sAccess 1 false 0x70020 16) (fun r => leafCls r.1.leaf == clsDev) = true ∧
    nextAnd (exec (.stpair ⟨4, 6, 1, 0, 0, 0, 0, 0, 0, 0, 8⟩) testU) (fun t =>
      t.th.fe.posted.map (fun p => (p.pa, p.bytes)) ==
        [(0x4000000000020, [7, 0, 0, 0, 0, 0, 0, 0]), (0x4000000000028, [1, 0, 0, 0, 0, 0, 0, 0])]) = true := by
  decide

/-- A posted store of one byte, to the plain page or to the versioned one, carrying a step. -/
def testPost (pa leafPa : Nat) (leaf step : W64) : Posted :=
  { seq := 4, pc := 0x40000, va := 0x50108, pa := pa, leafPa := leafPa, leaf := leaf, bytes := [0xAB], stepno := step,
    kind := .store, smode := false, order := 0, release := none, since := 0 }

def testPosted (p : Posted) : State := { testU with th := { testThread with fe := { Front.reset with posted := [p] } } }

def testPlain : Posted := testPost 0x200108 0x120028 0x20002B 1
def testVer : Posted := testPost 0x220008 0x120030 0x22022B 1

theorem test_wit_posted_stores :
    (testPosted testPlain).th.fe.posted[0]? = some testPlain ∧ testPlain.bytes ≠ [] ∧
    (testPosted testPlain).th.postedFree testPlain = true ∧ (testPosted testPlain).th.releaseFree testPlain = true ∧
    (leafLoc testPlain.xl.leaf = false ∨ leafAcc testPlain.xl.leaf = false) ∧
    ((testPosted testPlain).writePa testPlain.xl 1).map (fun r => r.1) = some 0x200108 ∧
    isRegSpace 0x200108 = false ∧ (testPosted testPlain).channelsOut = [] ∧
    nextAnd (exec (.postedStorePerformed 0) (testPosted testPlain)) (fun t =>
      t.mem.read 0x200108 == 0xAB && t.th.fe.posted.isEmpty) = true ∧
    leafVer testVer.leaf = true ∧ ((testPosted testVer).writePa testVer.xl 1).map (fun r => r.1) = some 0x230008 ∧
    nextAnd (exec (.postedStorePerformed 0) (testPosted testVer)) (fun t =>
      t.mem.read 0x230008 == 0xAB && t.mem.read 0x230000 == 0x11 && t.mem.read 0x220008 == 0) = true := by decide

theorem test_wit_dropped_store :
    leafVer (testPost 0x220008 0x120030 0x22022B 9).leaf = true ∧ (9 : W64) ≠ testU.task.stepno ∧
    nextAnd (exec (.postedStorePerformed 0) (testPosted (testPost 0x220008 0x120030 0x22022B 9)))
      (fun t => t.th.fe.dropped == [⟨4, 0x40000, 0x50108, 0x18, 1, false⟩]) = true := by decide

/-! ### Witnesses: atomics, fences and communication registers -/

theorem test_wit_quiet : Spec.Quiet testU ∧ Spec.Quiet testS := by
  unfold Spec.Quiet
  decide

/-- AMO `.add` of x4 to the 64-bit integer at x3, the old value into x5. -/
def testAmo : FM := ⟨5, 3, 4, 7, 0, 0, 0, 0, 0, 1, 0⟩

theorem test_wit_amo :
    Instr.wf (.amo testAmo) = true ∧ testAmo.fn.getLsbD 4 = false ∧
    okAnd (testU.atomicReady 0x50100 8) (fun r =>
      !leafVer r.1.leaf && !isRegSpace r.1.pa && (r.2.poisonIn r.1.pa 8).isNone && !leafLoc r.1.leaf &&
      r.2.channelsOut.isEmpty) = true ∧
    nextAnd (exec (.amo testAmo) testU) (fun t =>
      t.x 5 == 0x8000000000005678 && t.mem.word 0x200100 == 0x800000000000567F) = true := by decide

/-- FP32 3.5 at 0x200100; x4 holds 2.25, or a signalling NaN; IV may be enabled. -/
def testFloatAmo (x : W64) (fctrl : W64) : State :=
  { testU with
    th := { testThread with xs := testXs.setIfInBounds 4 x, sr := { testThread.sr with fctrl := fctrl } }
    mem := (testMem.writeN 0x200100 [0, 0, 0x60, 0x40, 0, 0, 0, 0]) }

theorem test_wit_float_amo :
    Instr.wf (.amo { testAmo with ty := 0xA }) = true ∧ 8 ≤ (0xA : BitVec 4).toNat ∧
    okAnd ((testFloatAmo 0x40100000 0).atomicReady 0x50100 4) (fun r => !leafVer r.1.leaf && !isRegSpace r.1.pa) = true ∧
    atomicVal 1 0xA 0x40600000 0x40100000 = (0x40B80000, 0) ∧
    nextAnd (exec (.amo { testAmo with ty := 0xA }) (testFloatAmo 0x40100000 0)) (fun t =>
      t.mem.word 0x200100 == 0x40B80000 && t.x 5 == 0x40600000) = true ∧
    (atomicVal 1 0xA 0x40600000 0x7F800001).2 = 0x10 ∧ (0x1000 : W64).getLsbD 12 = true ∧
    nextAnd (exec (.amo { testAmo with ty := 0xA }) (testFloatAmo 0x7F800001 0x1000)) (fun t =>
      t.th.tr.trapcause == 0x312 || t.th.tr.trapcause == 0x12) = true := by decide

theorem test_wit_cas :
    Instr.wf (.cas { testAmo with fn := 0 }) = true ∧
    okAnd (testU.atomicReady 0x50100 8) (fun r => !leafVer r.1.leaf) = true ∧
    nextAnd (exec (.cas { testAmo with fn := 0 }) testU) (fun t =>
      t.x 5 == 0x8000000000005678 && t.mem.word 0x200100 == 0x8000000000005678) = true ∧
    nextAnd (exec (.cas { testAmo with fn := 0 }) { testU with th := { testThread with
      xs := testXs.setIfInBounds 5 0x8000000000005678 } }) (fun t =>
      t.x 5 == 0x8000000000005678 && t.mem.word 0x200100 == 7) = true := by decide

/-- A posted AMOW `.add` of 7. -/
def testAmow : Posted :=
  { testPost 0x200100 0x120028 0x20002B 1 with va := 0x50100, bytes := [7, 0, 0, 0, 0, 0, 0, 0], kind := .atomic 1 7 }

theorem test_wit_amow :
    Instr.wf (.amow { testAmo with d := 0 }) = true ∧ testU.th.fe.posted.length < 32 ∧ testU.th.hasPending = false ∧
    okAnd (testU.atomicCheck 0x50100 8) (fun r => (r.2.poisonIn r.1.pa 8).isNone) = true ∧
    testU.th.meetArit (Rng.span 0x50100 8) true false = .go ∧
    nextAnd (exec (.amow { testAmo with d := 0 }) testU) (fun t => t.th.fe.posted.length == 1) = true ∧
    (testPosted testAmow).th.postedFree testAmow = true ∧ (testPosted testAmow).th.releaseFree testAmow = true ∧
    leafVer testAmow.leaf = false ∧ isRegSpace testAmow.pa = false ∧
    (testPosted testAmow).poisonIn testAmow.pa 8 = none ∧
    nextAnd (exec (.postedStorePerformed 0) (testPosted testAmow)) (fun t => t.mem.word 0x200100 == 0x800000000000567F) = true := by
  decide

/-- A root pending, no work dispatched. -/
def testPending : State :=
  { testU with th := { testThread with rcp := { Recipe.reset 256 with pending := [0] } } }

theorem test_wit_releases :
    Spec.releases (.semclr ⟨0, 0, 0, 0, 0, 0, 0⟩) testU = true ∧
    Spec.releases (.cdamo ⟨5, 4, 0, 0, 0, 0, 0x2100⟩) testU = true ∧
    Spec.releases (.stepcmt ⟨5, 0, 0, 0, 0, 0, 0⟩) testS = true ∧ Spec.releases (.pgsetSet ⟨5, 3, 4, 0, 0, 0, 0, 0, 0⟩) testS = true ∧
    Spec.releases (.pgsetNorm ⟨5, 3, 0, 0, 0, 0, 0, 0, 1⟩) testS = true ∧
    Spec.releases (.pgsetWbset ⟨5, 3, 0, 0, 0, 0, 0, 0, 2⟩) testS = true ∧
    Spec.releases (.stepabt ⟨5, 0, 0, 0, 0, 0, 0⟩)
      { testU with tasks := [{ testTask with record := { Record.empty with sa := true } }] } = true ∧
    Spec.releases (.amo { testAmo with fn := 0x11 }) testU = true ∧ Spec.releases (.cas { testAmo with fn := 2 }) testU = true ∧
    testBusy.th.hasPending = false ∧ testBusy.th.unfinished = true ∧ testBusy.th.fe.wait = none ∧
    (testPosted testPlain).th.hasPending = false ∧ (testPosted testPlain).th.fe.posted ≠ [] ∧
    testPending.th.hasPending = true ∧ testPending.th.dsp.room 1 = true ∧ testPending.th.fe.wait = none := by decide

theorem test_wit_fences :
    (⟨0, 0, 0, 0, 0, 0, 0, 0, 0⟩ : FX).fnAt 0 2 = 0 ∧ (⟨0, 0, 0, 0, 0, 0, 0, 0, 1⟩ : FX).fnAt 0 2 = 1 ∧
    (⟨0, 0, 0, 0, 0, 0, 0, 0, 2⟩ : FX).fnAt 0 2 = 2 ∧ (⟨0, 0, 0, 0, 0, 0, 0, 0, 3⟩ : FX).fnAt 0 2 = 3 ∧
    testU.th.fe.posted = [] ∧ (testPosted testPlain).th.fe.wait = none ∧ testU.th.unfinished = false ∧
    testU.th.dsp.room 1 = true := by decide

/-- The communication set of task 1, with semaphore 2 set, and thread 1 of the pair waiting for it and for nothing else. -/
def testComm : Comm :=
  { cluster := 0, task := 1, sems := 4, waiters := [(2, ⟨0, 0, 1⟩)], cds := (Vector.replicate 64 0).setIfInBounds 9 11,
    arrived := [] }

def testComms (arrived : List HwId) : State :=
  { testU with
    comms := [{ testComm with arrived := arrived }]
    rest := [{ testThread with slot := 1, fe := { Front.reset with wait := some ⟨0x40008, .semaphore, 0, some 9, 2⟩ } }] }

theorem test_wit_semaphores :
    (testComms []).comm = testComm ∧ testComm.sems.getLsbD 3 = false ∧ (∀ w ∈ testComm.waiters, w.1 ≠ 3) ∧
    testComm.sems.getLsbD 2 = true ∧ (∃ w ∈ testComm.waiters, w.1 = 2) ∧ (testComms []).th.fe.wait = none ∧
    (testComms []).th.sr.waitbudget.toNat % 2 ^ 48 ≠ 0 ∧
    testComm.waiters.find? (fun v => v.1 == 2) = some (2, ⟨0, 0, 1⟩) ∧ (⟨0, 0, 1⟩ : HwId) ≠ (testComms []).th.hw ∧
    Spec.commReg ⟨0, 0, 0, 0, 0, 0, 2⟩ = 2 ∧ Spec.commReg ⟨0, 0, 0, 0, 0, 0, 63⟩ = 63 ∧
    ({ testComms [] with th := { testThread with sr := { testThread.sr with waitbudget := 0 } } } : State).th.sr.waitbudget.toNat % 2 ^ 48 = 0 ∧
    nextAnd (exec (.semtas ⟨0, 0, 0, 0, 0, 0, 3⟩) (testComms [])) (fun t => t.comm.sems == 0xC) = true ∧
    nextAnd (exec (.semclr ⟨0, 0, 0, 0, 0, 0, 2⟩) (testComms [])) (fun t =>
      t.comm.waiters.isEmpty && t.comm.sems == 4 && t.rest.all fun u => u.pc == 0x40010) = true := by decide

theorem test_wit_semaphores_quiet : Spec.Quiet (testComms []) := by
  unfold Spec.Quiet
  decide

theorem test_wit_data_registers :
    Instr.wf (.cdamo ⟨5, 4, 0, 0, 0, 0, 0x0109⟩) = true ∧ (0x0109 : BitVec 32).getLsbD 13 = false ∧
    nextAnd (exec (.cdamo ⟨5, 4, 0, 0, 0, 0, 0x0109⟩) (testComms [])) (fun t =>
      t.x 5 == 11 && t.comm.cds.toArray.getD 9 0 == 18) = true ∧
    nextAnd (exec (.cdwr ⟨0, 4, 0, 0, 0, 0, 63⟩) (testComms [])) (fun t => t.comm.cds.toArray.getD 63 0 == 7) = true ∧
    nextAnd (exec (.cdrd ⟨5, 0, 0, 0, 0, 0, 9⟩) (testComms [])) (fun t => t.x 5 == 11) = true := by decide

theorem test_wit_barrier :
    ((testComms []).threads.filter fun u =>
      u.task == 1 && u.cluster == 0 && u.run != .ended && !([] : List HwId).contains u.hw).length = 2 ∧
    ((testComms [⟨0, 0, 1⟩]).threads.filter fun u =>
      u.task == 1 && u.cluster == 0 && u.run != .ended && !([⟨0, 0, 1⟩] : List HwId).contains u.hw).length = 1 ∧
    ([⟨0, 0, 1⟩] : List HwId).Nodup ∧ (testComms [⟨0, 0, 1⟩]).th.hw ∉ ([⟨0, 0, 1⟩] : List HwId) ∧
    nextAnd (exec (.cbar ⟨0, 0, 0, 0, 0, 0, 0⟩) (testComms [])) (fun t => t.comm.arrived == [⟨0, 0, 0⟩]) = true ∧
    nextAnd (exec (.cbar ⟨0, 0, 0, 0, 0, 0, 0⟩) (testComms [⟨0, 0, 1⟩])) (fun t =>
      t.comm.arrived.isEmpty && t.th.pc == 0x40010) = true := by decide
/-! ### Witnesses: recording, dispatch and pair words -/

theorem test_wit_recording :
    ∃ q, Instr.wf (.vsplat ⟨8, 4, 7, 0, 0, 0, 0⟩) = true ∧
      Spec.recordingOf (.vsplat ⟨8, 4, 7, 0, 0, 0, 0⟩) testU = some (0, .ok q) ∧ Spec.Accepted testU 0 q 0 100 testU.th ∧
      testU.th.rcp.budget ≤ 256 ∧ q.parts = 1 ∧ q.dest = some 8 ∧ q.leafDest = none ∧ q.va = 7 := by
  refine ⟨_, by decide, rfl, ⟨by decide, ?_, ?_, fun _ => rfl, ?_, by decide, by decide, ?_, fun _ => by decide⟩, by decide,
    rfl, rfl, rfl, rfl⟩
  · intro n h; cases h
  · intro n h; cases h
  · intro l k h; cases h
  · intro f h; obtain rfl := Option.some.inj h; rfl

/-- v1 holds an FP32 splat of x4, v2 a 64-bit splat, both of length 100; k1 the comparison of v1 with itself. -/
def testNode (idx : Nat) (word : W64) (sa sb : Option Nat) : Node :=
  { idx := idx, seq := idx, part := 0, word := word, pc := 0x40000, lsrc := 0, len := 100, fctrl := 0, rseed := 0, va := 7,
    vb := 0, vc := 0, sa := sa, sb := sb, sc := none, sk := none, reads := [], writes := [], smode := false, bits := 0 }

def testRecipe : Recipe :=
  { Recipe.reset 256 with
    vnames := ((Vector.replicate 64 none).setIfInBounds 1 (some 0)).setIfInBounds 2 (some 1)
    knames := (Vector.replicate 8 none).setIfInBounds 1 (some 2)
    nodes := [testNode 0 (packJ 0x5B ⟨1, 4, 0xA, 0, 0, 0, 0⟩) none none,
              testNode 1 (packJ 0x5B ⟨2, 4, 7, 0, 0, 0, 0⟩) none none,
              testNode 2 (packX 0x4E ⟨1, 1, 1, 0, 0xA, 0, 0, 0, 0⟩) (some 0) (some 0)] }

def testNames : State := { testU with th := { testThread with rcp := testRecipe } }

theorem test_wit_sources :
    Spec.binaryWord (.vadd ⟨8, 1, 1, 0, 0xA, 1, 0, 0, 0⟩) = some ⟨8, 1, 1, 0, 0xA, 1, 0, 0, 0⟩ ∧
    testNames.th.rcp.vnames[1]? = some (some 0) ∧ (testNames.th.rcp.node? 0).map Node.nty = some (.elem 0xA) ∧
    testNames.th.rcp.knames[1]? = some (some 2) ∧ (testNames.th.rcp.node? 2).map Node.nty = some .mask ∧
    (testNames.th.rcp.node? 1).map Node.nty = some (.elem 7) ∧ testNames.th.rcp.vnames[63]? = some none ∧
    testNames.th.rcp.knames[7]? = some none ∧
    nextAnd (exec (.vadd ⟨8, 1, 1, 0, 0xA, 1, 0, 0, 0⟩) testNames) (fun t =>
      t.th.rcp.vnames[8]? == some (some 3) && t.th.dsp.queue.length == 1) = true ∧
    nextAnd (exec (.vadd ⟨8, 1, 2, 0, 0xA, 0, 0, 0, 0⟩) testNames) (fun t => t.th.tr.trapcause == 4) = true := by decide

/-- A dispatch queue with no room left. -/
def testEntry (seq : Nat) (word : W64) (node : Option Nat) : Entry :=
  { word := word, pc := 0x40000, a := 0, b := 0, c := 0, d := 0, rseed := 0, stepno := 1, fctrl := 0, smode := false,
    slot := false, seq := seq, node := node, lsrc := 0, len := 100, serial := false, nojoin := false, aw := 0, prog := 0,
    reads := [], writes := [] }

def testFull : State :=
  { testU with th := { testThread with dsp := { Dispatch.reset with
      queue := (List.range 32).map fun i => testEntry i vpassWord none, nextSeq := 32 } } }

/-- A node budget of three, all taken. -/
def testNoNodes : State := { testNames with th := { testNames.th with rcp := { testRecipe with budget := 3 } } }

theorem test_wit_refused :
    Spec.recordingOf (.vadd ⟨8, 63, 1, 0, 0xA, 0, 0, 0, 0⟩) testNames = some (0, .error 4) ∧
    testNames.recTb ⟨8, 4, 1, 0xA, 0, 0, 0, 0, 0, 0, 0⟩ = .error 5 := ⟨rfl, rfl⟩

theorem test_wit_not_recorded :
    testFull.th.dsp.room 1 = false ∧ testFull.th.fe.wait = none ∧
    testNoNodes.th.dsp.room 1 = true ∧ testNoNodes.th.rcp.free = 0 ∧
    nextAnd (exec (.vadd ⟨8, 1, 1, 0, 0xA, 0, 0, 0, 0⟩) testNoNodes) (fun t => t.th.tr.trapcause == 0x0F) = true := by
  decide

theorem test_wit_request :
    ∃ q, Spec.recordingOf (.vadd ⟨8, 1, 1, 0, 0xA, 0, 0, 0, 0⟩) testNames = some (0, .ok q) ∧ q.cc = none ∧ q.reserve = none ∧
      q.fixedLen = none ∧ q.own = none ∧ q.sa = some 0 ∧ testNoNodes.th.rcp.free < q.parts ∧
      q.parts ≤ testNames.th.rcp.free ∧ testNames.th.aritUsed + Spec.aritNeed testNames q 0 99 ≤ 64 ∧
      (testNames.th.rcp.node? 0).map Node.known = some (some 100) :=
  ⟨_, rfl, rfl, rfl, rfl, rfl, rfl, by decide, by decide, by decide, by decide⟩

theorem test_wit_scalar_pair :
    Instr.wf (.addSlot ⟨5, 4, 0, 0, 0⟩ ⟨0x08, 21, 0, 0, 0, 63⟩) = true ∧
    Spec.pairOf (.addSlot ⟨5, 4, 0, 0, 0⟩ ⟨0x08, 21, 0, 0, 0, 63⟩) = some (⟨0, 5, 4, 0, 0, 0⟩, ⟨0x08, 21, 0, 0, 0, 63⟩) ∧
    Spec.scalarSlot ⟨0, 5, 4, 0, 0, 0⟩ testU = some (some (5, 0x60007), 0) ∧
    Spec.scalarSlot ⟨0x08, 21, 0, 0, 0, 63⟩ testU = some (some (21, 0xFFFFFFFFFFFFFFFF), 0) ∧
    testU.th.dsp.room 0 = true ∧
    Spec.scalarSlot ⟨0x0E, 1, 2, 0xA, 0, 0⟩ (testFp 0x100) = some (some (1, 0x3F800000), 1) ∧
    (1 : BitVec 5).getLsbD 0 = true ∧ (testFp 0x100).th.sr.fctrl.getLsbD 8 = true := by decide

theorem test_wit_vector_slot :
    Instr.wf (.vmovSlot ⟨40, 1, 0, 0, 0⟩ ⟨0x08, 21, 0, 0, 0, 63⟩) = true ∧
    Spec.slotOpcode ⟨0x1E, 40, 1, 0, 0, 0⟩ = some 0x5F ∧ testNames.th.dsp.room 1 = true ∧ 1 ≤ testNames.th.rcp.free ∧
    okAnd (testNames.slotRun ⟨0x1E, 40, 1, 0, 0, 0⟩ 0) (fun t => t.th.rcp.vnames[40]? == some (some 0)) = true ∧
    okAnd (testNames.slotRun ⟨0x12, 1, 1, 0xA, 0, 0⟩ 0) (fun t => t.th.dsp.queue.length == 1) = true := by decide

/-- Length queue 0 with one slot filled, queue 1 with one not filled, queue 2 full. -/
def testLqs : State :=
  { testU with th := { testThread with rcp := { Recipe.reset 256 with
    lqs := (((Vector.replicate 4 Lq.empty).setIfInBounds 0 ⟨1, [⟨0, false, some 100⟩]⟩).setIfInBounds 1
      ⟨1, [⟨0, false, none⟩]⟩).setIfInBounds 2 ⟨0, (List.range 16).map fun i => ⟨i, false, some 1⟩⟩ } } }

theorem test_wit_length_queues :
    (testLqs.th.lq 0).slots.find? (fun u => !u.taken) = some ⟨0, false, some 100⟩ ∧
    (testLqs.th.lq 1).slots.find? (fun u => !u.taken) = some ⟨0, false, none⟩ ∧ testLqs.th.fe.wait = none ∧
    (testLqs.th.lq 2).slots.length = 16 ∧ (testLqs.th.lq 3).slots.find? (fun u => !u.taken) = none ∧
    (testLqs.x (4 : BitVec 6)).toNat < 2 ^ 48 ∧ (testLqs.x (2 : BitVec 6)).toNat ≥ 2 ^ 48 ∧ testLqs.th.dsp.room 1 = true ∧
    Instr.wf (.vpass ⟨0, 0, 0, 0, 0, 0, 0, 0, 1⟩) = true ∧
    nextAnd (exec (.lqopPop ⟨5, 0, 0, 0, 0, 0, 0, 0, 1⟩) testLqs) (fun t => t.x 5 == 100) = true ∧
    nextAnd (exec (.lqopPush ⟨0, 4, 0, 0, 0, 0, 0, 0, 24⟩) testLqs) (fun t =>
      (t.th.lq 3).slots == [⟨0, false, some 7⟩] && (t.th.lq 3).next == 1) = true := by decide

/-- The front end's lane stands at the kernel's first word, with lane registers 1 and 2 equal. -/
def testLane (fetches : Nat) : State :=
  let l : Lane := ⟨[0, 5, 5, 6] ++ List.replicate 12 0, 0x40000, 0x40000, 8, fetches, false⟩
  { testU with th := { testThread with lane := l } }

theorem test_wit_lane_words :
    BitVec.ofInt 64 ((testLane 0).th.lane.pc.toInt + 8 * (511 : BitVec 32).toInt) = 0x40FF8 ∧
    (testLane 0).task.kernel.entry.toNat ≤ 0x40FF8 ∧
    0x40FF8 + 8 * ((0 : BitVec 6).toNat + 1) ≤ (testLane 0).task.kernel.entry.toNat + (testLane 0).task.kernel.codelen ∧
    ¬ (0x40FF8 + 8 * ((1 : BitVec 6).toNat + 1) ≤ (testLane 0).task.kernel.entry.toNat + (testLane 0).task.kernel.codelen) ∧
    (testLane 65535).th.lane.fetches < 65536 ∧ 65536 ≤ (testLane 65536).th.lane.fetches ∧
    (testLane 0).th.lane.base.toNat ≤ 0x40038 ∧ 0x40038 < (testLane 0).th.lane.base.toNat + 8 * (testLane 0).th.lane.len ∧
    (testLane 0).th.lane.regs.getD 1 0 ≠ (testLane 0).th.lane.regs.getD 3 0 := by decide

/-- A stream parameter block: two indices of 32 bits at 0x50200, a table of 4 rows of 8 bytes at 0x50300. -/
def testBlockBytes : List Byte :=
  leBytes 8 0x50200 ++ leBytes 8 0x50300 ++ leBytes 8 2 ++ leBytes 8 4 ++ leBytes 4 8 ++ [4] ++ List.replicate 27 0

/-- That block at 0x50100. -/
def testBlock : State := { testU with mem := testMem.writeN 0x200100 testBlockBytes }

theorem test_wit_vldx :
    okAnd (testBlock.ksrc 0) (fun k => k.isNone) = true ∧
    okAnd (testBlock.blockAtIssue 0x50100) (fun r => r.1 == ⟨0x50200, 4, 2, 0x50300, 4, 8, 0⟩) = true ∧
    nextAnd (exec (.vldx ⟨8, 3, 0, 0xA, 0, 0, 0, 0, 0, 0, 0⟩) testBlock) (fun t =>
      t.th.rcp.vnames[8]? == some (some 0) &&
      t.th.rcp.nodes.map (fun n => n.reads) == [[⟨0x50200, 0x50207⟩, ⟨0x50300, 0x5031F⟩]]) = true ∧
    nextAnd (exec (.vldx ⟨8, 3, 0, 0xA, 0, 0, 0, 0, 0, 0, 0⟩) testU) (fun t => t.th.tr.trapcause == 4) = true := by decide

theorem test_wit_vldx_bad : testU.blockAtIssue 0x50100 = .error (Issue.fault 4) := rfl

/-! ### Witnesses: words that act on translations, pages, queues and the caches -/

theorem test_wit_tlbinv :
    testS.th.smode = true ∧ Instr.wf (.tlbinv ⟨0, 3, 4, 0, 0, 0, 0, 0, 0⟩) = true ∧
    Instr.wf (.tlbinv ⟨0, 0, 0, 0, 0, 0, 0, 0, 2⟩) = true ∧
    nextAnd (exec (.tlbinv ⟨0, 3, 4, 0, 0, 0, 0, 0, 0⟩) { testS with tlb := [⟨testS.ctx, 5, 0x120028, 0x20002B, false⟩, ⟨testS.ctx, 6, 0x120030, 0x22022B, false⟩] })
      (fun t => t.tlb.map (fun x => x.vpn) == [6]) = true := by decide

theorem test_wit_pgset :
    testS.th.fe.wait = none ∧ testS.channelsOut = [] ∧ testS.walk testS.task.ptbase 0 0x50100 = .ok ⟨0x120028, 0x20002B, false⟩ ∧
    (0x20002B : W64).getLsbD 0 = true ∧ testS.leased 0x50000 (2 ^ 16) = true ∧
    (0x20002B ^^^ 0x20042B : W64) &&& 0x3F1 = 0 ∧ (0x20002B ^^^ 0x20002A : W64) &&& 0x3F1 ≠ 0 ∧
    testS.writesThrough 0x120028 = false ∧ testS.leased 0x20000000 (2 ^ 29) = false ∧
    testS.walk testS.task.ptbase 0 0x20000000 = .ok ⟨0x110008, 0x2000C02B, true⟩ ∧
    testS.walk testS.task.ptbase 0 0xC0000 = .ok ⟨0x120060, 0, false⟩ ∧ (0 : W64).getLsbD 0 = false ∧
    nextAnd (exec (.pgsetWbset ⟨5, 3, 0, 0, 0, 0, 0, 0, 2⟩) testS) (fun t => t.mem.word 0x120028 == 0x20082B) = true := by
  refine ⟨by decide, by decide, rfl, by decide, by decide, by decide, by decide, by decide, by decide, rfl, rfl, by decide,
    by decide⟩

theorem test_wit_pgset_addresses :
    Spec.Canonical 0x50100 ∧ Spec.Canonical 0xC0000 ∧ ¬ Spec.Canonical 0x40000000000000 :=
  ⟨canonical_low _ (by decide), canonical_low _ (by decide), test_wit_not_canonical.2.2⟩

theorem test_wit_normalise :
    testS.mem.wf = true ∧ testS.mem.word 0x120030 = 0x22022B ∧ (0x22022B : W64).getLsbD 16 = false ∧
    (0x22022B : W64).extractLsb' 52 8 ≠ testS.task.stepno.setWidth 8 ∧ testS.task.committed 0x22022B = false ∧
    0x120030 + 8 ≤ inHalf (leafFrame 0x22022B) true ∧ (0x22022B : W64).getLsbD 9 = true ∧
    (testPosted testVer).th.fe.posted[0]? = some testVer ∧ testVer.leafPa = 0x120030 ∧ testVer.stepno = testU.task.stepno ∧
    nextAnd (exec (.versionedCopy 0) (testPosted testVer)) (fun t =>
      t.mem.read 0x230000 == 0x11 && t.mem.word 0x120030 == 0x1000000022022B) = true ∧
    nextAnd (exec (.pgsetNorm ⟨8, 5, 0, 0, 0, 0, 0, 0, 1⟩) testS) (fun t =>
      t.x 8 == 0x22022B && t.mem.read 0x230000 == 0x11) = true := by decide

theorem test_wit_normalise_walk : testS.walk testS.task.ptbase 0 0x60000 = .ok ⟨0x120030, 0x22022B, false⟩ := rfl

/-- Counters enabled at 0x310000; x3 names the host page 1, whose counter holds 0x0203. -/
def testCount (base : W64) : State :=
  { testS with
    th := { testS.th with xs := testXs.setIfInBounds 3 0x8000000010000 }
    tasks := [{ testTask with pgctrbase := base }]
    mem := testMem.writeN 0x310002 [3, 2] }

theorem test_wit_pgcnt :
    (testCount 0x310001).task.pgctrbase.getLsbD 0 = true ∧ (testCount 0x310000).task.pgctrbase.getLsbD 0 = false ∧
    ((testCount 0x310001).x (3 : BitVec 6)).toNat % 65536 = 0 ∧ 2 ^ 51 ≤ ((testCount 0x310001).x (3 : BitVec 6)).toNat ∧
    ((testCount 0x310001).x (3 : BitVec 6)).toNat < 2 ^ 51 + 2 ^ 40 ∧ ¬ (testS.x (3 : BitVec 6)).toNat % 65536 = 0 ∧
    nextAnd (exec (.pgcnt ⟨5, 3, 0, 0, 0, 0, 0, 0, 1⟩) (testCount 0x310001)) (fun t =>
      t.x 5 == 0x0203 && t.mem.readN 0x310002 2 == [0, 0]) = true := by decide

/-- A notification queue's descriptor at 0x50200: a ring of 16 entries at 0x320000, PROD 17, CONS as given. -/
def testNq (cons kind : Nat) : State :=
  { testS with
    th := { testS.th with xs := testXs.setIfInBounds 4 (BitVec.ofNat 64 kind) }
    mem := testMem.writeN 0x200200 (leBytes 8 0x320000 ++ leBytes 8 4 ++ leBytes 8 17 ++ leBytes 8 cons) }

theorem test_wit_nqpost :
    (testNq 2 0x8000).th.fe.posted = [] ∧
    okAnd ((testNq 2 0x8000).sAccess 1 false 0x50200 64) (fun r =>
      leafCls r.1.leaf == 2 && r.2.readPa r.1 == 0x200200 && r.2.channelsOut.isEmpty) = true ∧
    (17 + 2 ^ 32 - 2) % 2 ^ 32 < 2 ^ 4 ∧ 2 ^ 4 ≤ (17 + 2 ^ 32 - 1) % 2 ^ 32 ∧
    nextAnd (exec (.nqpost ⟨4, 3, 1, 0, 0, 0, 0, 0, 0, 0, 0x100⟩) (testNq 2 0x8000)) (fun t =>
      t.mem.word 0x320010 == 0x8000 && t.mem.word 0x320018 == 1 && leNat (t.mem.readN 0x200210 4) == 18) = true ∧
    nextAnd (exec (.nqpost ⟨4, 3, 1, 0, 0, 0, 0, 0, 0, 0, 0x100⟩) (testNq 1 0x8000)) (fun t =>
      t.mem.word 0x200220 == 1 && t.mem.word 0x320010 == 0) = true ∧
    nextAnd (exec (.nqpost ⟨4, 3, 1, 0, 0, 0, 0, 0, 0, 0, 0x100⟩) (testNq 1 0x7FFF)) (fun t => t.th.tr.trapcause == 4) = true := by
  decide

/-- The same thread inside a WAITI of 100 ticks, begun at tick 10 with PROD as given; its word lies in the line. -/
def testWaiti (aux tick : Nat) : State :=
  let w := (packJ 0xE7 ⟨5, 0, 0, 0, 0, 0, 100⟩).toNat
  let l : Line := ⟨0x40000, 0x240000, List.replicate 8 0 ++ leBytes 8 w ++ List.replicate 48 0, false, none⟩
  { testNq 2 0x8000 with
    th := { testS.th with fe := { Front.reset with line := some l, wait := some ⟨0x40008, .notification, 10, some 100, aux⟩ } }
    cal := { Cal.reset with tick := tick } }

theorem test_wit_waiti :
    leNat ((testWaiti 17 110).mem.readN ((testWaiti 17 110).task.nqbase.toNat + 16) 4) = 17 ∧ (testNq 2 0).th.fe.wait = none ∧
    (testWaiti 17 110).th.fe.wait = some ⟨0x40008, .notification, 10, some 100, 17⟩ ∧
    100 ≤ (testWaiti 17 110).cal.tick - 10 ∧ (testWaiti 17 110).th.run = .running ∧
    nextAnd (exec (.waiti ⟨5, 0, 0, 0, 0, 0, 100⟩) (testWaiti 16 11)) (fun t => t.x 5 == 1 && t.th.pc == 0x40010) = true ∧
    nextAnd (exec .waitiExpiry (testWaiti 17 110)) (fun t => t.x 5 == 0 && t.th.pc == 0x40010 && t.th.fe.wait.isNone) = true := by
  decide

theorem test_wit_waiti_word : okAnd (testWaiti 17 110).nextWord (fun i => i == .waiti ⟨5, 0, 0, 0, 0, 0, 100⟩) = true := by
  decide

/-- A thread inside a SLOTGATE of gap 100, begun at tick 10, in a period of the calendar without a link slot. -/
def testGate : State :=
  let w := (packJ 0x3A ⟨5, 0, 0, 0, 0, 0, 100⟩).toNat
  let l : Line := ⟨0x40000, 0x240000, List.replicate 8 0 ++ leBytes 8 w ++ List.replicate 48 0, false, none⟩
  { testU with
    th := { testThread with fe := { Front.reset with line := some l, wait := some ⟨0x40008, .slotgate, 10, none, 100⟩ } }
    cal := { Cal.reset with started := true, tick := 26100, done := 1000000 } }

theorem test_wit_slotgate :
    testGate.th.fe.wait = some ⟨0x40008, .slotgate, 10, none, 100⟩ ∧ testGate.th.run = .running ∧ 100 ≤ testGate.cal.calnext ∧
    okAnd testGate.nextWord (fun i => i == .slotgate ⟨5, 0, 0, 0, 0, 0, 100⟩) = true ∧
    nextAnd (exec .slotgateRelease testGate) (fun t => t.x 5 == BitVec.ofNat 64 testGate.cal.calnext) = true ∧
    5800 < (5801 : BitVec 32).toNat ∧ (5800 : BitVec 32).toNat ≤ 5800 ∧
    ({ testGate with cal := { testGate.cal with tick := 31999 } } : State).cal.calnext < 5800 ∧
    testGate.cal.dramSpan testGate.cal.nextSlot < 2 ^ 15 ∧ testGate.cal.linkSpan testGate.cal.nextSlot < 2 ^ 15 := by decide

theorem test_wit_leaseq :
    (∀ r ∈ testU.task.ranges, r.1 < 16) ∧
    nextAnd (exec (.leaseq ⟨5, 3, 0, 0, 0, 0, 0, 0, 0⟩) testU) (fun t => t.x 5 == 0xC000000000000000) = true ∧
    nextAnd (exec (.leaseq ⟨5, 4, 0, 0, 0, 0, 0, 0, 0⟩) testU) (fun t => t.x 5 == 0) = true := by decide

theorem test_wit_setvl :
    2 ^ 48 ≤ (testU.x (2 : BitVec 6)).toNat ∧ (0 : BitVec 32).toNat < 2 ^ 48 ∧ (∀ w ∈ [1, 15, 3], 1 ≤ w ∧ w ≤ 15) ∧
    testU.th.slot < 4 ∧ (testU.activeThreads 0 0).length = 1 ∧ laneShares [1, 15, 3] = [2, 11, 3] ∧ laneShares [5] = [16] ∧
    laneShares [1, 1, 1] = [6, 5, 5] ∧
    nextAnd (exec (.setvl ⟨5, 4, 0, 0, 0, 0, 0⟩) testU) (fun t => t.x 5 == 7 && t.th.sr.vl == 7 && t.th.sr.target == 16) = true := by
  decide

/-- A thread in S mode whose partition 1 has the queue 3 of `testConf`. -/
def testQctl (c : QueueConf) (q : W64) : State :=
  { testS with th := { testS.th with xs := testXs.setIfInBounds 3 q }, queues := [testQueue 1 c] }

theorem test_wit_qctl :
    ((testQctl testConf 3).x (3 : BitVec 6)).toNat = 3 ∧
    (testQctl testConf 3).queue? (testQctl testConf 3).task.part 3 = some (testQueue 1 testConf) ∧ testConf.en = true ∧
    testConf.weight < 256 ∧ testConf.prio < 4 ∧ 64 ≤ ((testQctl testConf 64).x (3 : BitVec 6)).toNat ∧
    (testQctl testConf 2).queue? 1 2 = none ∧
    ((testQctl testConf 3).x (4 : BitVec 6)).toNat % 256 ≠ 0 ∧ 4 ≤ ((testQctl testConf 3).x (4 : BitVec 6)).toNat ∧
    ((testQctl testConf 3).x (1 : BitVec 6)).toNat < 4 ∧ ((testQctl testConf 3).x (0 : BitVec 6)).toNat % 256 = 0 ∧
    nextAnd (exec (.qctlRd ⟨5, 3, 0, 0, 0, 0, 0, 0, 0⟩) (testQctl testConf 3)) (fun t => t.x 5 == 0x300000911) = true := by decide

theorem test_wit_cache_words :
    testU.th.unfinished = false ∧ testU.th.fe.posted = [] ∧ (1 : BitVec 8).getLsbD 0 = true ∧
    (0 : BitVec 8).getLsbD 0 = false ∧ (testU.x (4 : BitVec 6)).toNat ≤ 2 ^ 32 ∧ 2 ^ 32 < (testU.x (2 : BitVec 6)).toNat ∧
    (testU.x (4 : BitVec 6)).toNat ≤ 12 ∧ 12 < (testU.x (3 : BitVec 6)).toNat ∧ testU.pairShared = false ∧
    testRows.pairShared = true ∧ testU.th.meetArit (Rng.span 0x50100 7) true true = .go := by decide

/-- An arrival word at 0x50200 whose GEN is 6. -/
def testArrival : State := { testU with mem := testMem.writeN 0x200208 [6] }

theorem test_wit_arrival :
    okAnd (testArrival.arrivalOpen 3 0x50200) (fun r =>
      !leafVer r.1.leaf && !isRegSpace r.1.pa && !leafLoc r.1.leaf && (r.2.poisonIn r.1.pa 16).isNone) = true ∧
    okAnd (testArrival.arrivalOpen 0 0x50200) (fun r => leNat (r.2.mem.readN r.1.pa 16) / 2 ^ 64 % 2 ^ 32 == 6) = true ∧
    0 < (testArrival.x (4 : BitVec 6)).toNat ∧ (testArrival.x (4 : BitVec 6)).toNat < 2 ^ 32 ∧
    2 ^ 32 ≤ (testArrival.x (2 : BitVec 6)).toNat ∧ (testArrival.x (0 : BitVec 6)).toNat = 0 ∧
    nextAnd (exec (.arm ⟨0, 3, 4, 0, 0, 0, 0, 0, 0, 0, 0x100⟩) testArrival) (fun t =>
      leNat (t.mem.readN 0x200200 16) == 7 + 6 * 2 ^ 64 + 2 ^ 96) = true ∧
    nextAnd (exec (.arwait ⟨5, 3, 4, 0, 0, 0, 0, 0, 0, 0, 0x100⟩) testArrival) (fun t => t.x 5 == 6) = true ∧
    nextAnd (exec (.arwait ⟨5, 3, 4, 0, 0, 0, 0, 0, 0, 0, 0x100⟩) { testArrival with mem := testMem.writeN 0x200208 [7] })
      (fun t => t.th.fe.wait.isSome) = true := by decide

/-! ### Witnesses: steps, tasks and contexts -/

theorem test_wit_step_words :
    testS.th.smode = true ∧
    ({ testU with tasks := [{ testTask with record := { Record.empty with sa := true } }] } : State).task.record.sa = true ∧
    nextAnd (exec (.stepcmt ⟨5, 0, 0, 0, 0, 0, 0⟩) testS) (fun t =>
      t.x 5 == 2 && t.task.stepno == 2 && t.task.stepdone == 1 && t.task.cmap == 2) = true ∧
    nextAnd (exec (.stepabt ⟨5, 0, 0, 0, 0, 0, 0⟩) testS) (fun t =>
      t.x 5 == 2 && t.task.stepdone == 0 && t.task.cmap == 0) = true := by decide

theorem test_wit_taskend :
    testU.th.fe.wait = none ∧ (0x7FFF : BitVec 32).getLsbD 15 = false ∧ (0x8000 : BitVec 32).getLsbD 15 = true ∧
    testU.th.hasPending = false ∧ testU.th.dsp.queue = [] ∧ testU.th.dsp.passes = [] ∧ testU.th.dsp.ops = [] ∧
    testFull.th.dsp.queue ≠ [] ∧ testFull.th.hasPending = false ∧ testS.th.run ≠ .idle ∧
    nextAnd (exec (.taskend ⟨0, 0, 0, 0, 0, 0, 0x7FFF⟩) testU) (fun t =>
      t.th.run == .ended && t.th.endStatus == 0x7FFF && t.task.status == 0xFFFF) = true := by decide

/-- A record of 256 bytes at 0x50100, and a queue fed by LAUNCH; x3 and x7 name them. -/
def testLaunch (c : QueueConf) (prod : Nat) (q : W64) : State :=
  { testU with
    th := { testThread with xs := testXs.setIfInBounds 7 q }
    queues := [{ testQueue 1 c with prod := prod }] }

def testFeed : QueueConf := { testConf with ulaunch := true }

theorem test_wit_launch :
    ((testLaunch testFeed 5 3).x (7 : BitVec 6)).toNat = 3 ∧ 64 ≤ ((testLaunch testFeed 5 64).x (7 : BitVec 6)).toNat ∧
    (testLaunch testFeed 5 3).queue? 1 3 = some { testQueue 1 testFeed with prod := 5 } ∧ testFeed.feedLaunch = true ∧
    testConf.ulaunch = false ∧ (testLaunch testFeed 5 3).th.smode = false ∧ (testLaunch testFeed 5 3).queue? 1 63 = none ∧
    okAnd ((testLaunch testFeed 5 3).readRecord 4 0x50100) (fun r => r.1.length == 256 && r.2.channelsOut.isEmpty) = true ∧
    (5 + 2 ^ 32 - 2) % 2 ^ 32 < 2 ^ 4 ∧ 2 ^ 4 ≤ (18 + 2 ^ 32 - 2) % 2 ^ 32 ∧
    nextAnd (exec (.launch ⟨5, 3, 7, 0, 0, 0, 0, 0, 0, 0, 0⟩) (testLaunch testFeed 5 3)) (fun t =>
      t.x 5 == 5 && t.mem.word 0x300500 == 0x8000000000005678 && (t.queue? 1 3).map (fun u => u.prod) == some 6) = true ∧
    nextAnd (exec (.launch ⟨5, 3, 7, 0, 0, 0, 0, 0, 0, 0, 0⟩) (testLaunch testFeed 18 3)) (fun t =>
      t.x 5 == 0xFFFFFFFFFFFFFFFF) = true := by decide +kernel

/-- Tables that map nothing but the 512 MiB at 0x20000000, and there a context image in order: its first fields, and
nothing else. -/
def testAreaMem : Memory :=
  [(0x100000, 0x01), (0x100002, 0x11), (0x100007, 0x80), (0x110008, 0x2B), (0x110009, 0xC0), (0x11000B, 0x20),
   (0x20000000, 0x46), (0x20000001, 0x43), (0x20000002, 0x54), (0x20000003, 0x58), (0x20000004, 0x01), (0x20000008, 0x20),
   (0x2000000A, 0x04)]

def testImage : State := { testS with mem := testAreaMem }

theorem test_wit_context_area :
    testImage.yieldsTo = false ∧ testImage.th.smode = true ∧ ((0x20000001 : W64)).toNat % 65536 ≠ 0 ∧
    okAnd (testImage.contextArea 0x20000000 1) (fun _ => true) = true := by
  decide +kernel

theorem blank_tail (m : Memory) (a n : Nat) (h : m.dropWhile (fun c => decide (c.1 < a)) = []) :
    m.readN a n = List.replicate n 0 := by
  simp only [Memory.readN, h, Memory.read, Memory.blank]
  simp

theorem leNat_zeros (n : Nat) : leNat (List.replicate n 0#8) = 0 := by
  induction n with
  | zero => rfl
  | succ n ih => rw [List.replicate_succ, leNat, ih]; rfl

theorem records_blank (n : Nat) : recordsOk (nodeRecords (List.replicate n 0)) = true := by
  have h : nodeRecords (List.replicate n 0) = [] := by
    simp [nodeRecords, wordOf, fieldOf, List.drop_replicate, List.take_replicate, leNat_zeros]
  rw [h]
  rfl

theorem imageBad_clean (s : State) (a : W64) (ar : Area) (h : ∀ pa, s.poisoned pa = false) : s.imageBad a ar = none := by
  simp [State.imageBad, State.areaBad, h]

/-- The image of `testImage` is in order, and CTXRS may load it. -/
theorem test_wit_context_image :
    ∃ ar s1, testImage.contextArea 0x20000000 0 = .ok (ar, s1) ∧ s1.imageBad 0x20000000 ar = none ∧
      headerOk (s1.areaRead ar 0 256) testImage.th.tileCount = true ∧
      recordsOk (nodeRecords (s1.areaRead ar 0x2000 16384)) = true := by
  have h : okAnd (testImage.contextArea 0x20000000 0) (fun r =>
      r.2.poison.isEmpty && r.2.regions.isEmpty && r.2.stale.isEmpty && r.2.mem == testAreaMem &&
      r.2.areaPa r.1 0x2000 == 0x20002000 && headerOk (r.2.areaRead r.1 0 256) testImage.th.tileCount) = true := by
    decide +kernel
  obtain ⟨⟨ar, s1⟩, h1, h2⟩ := okAnd_exists h
  simp only [Bool.and_eq_true, List.isEmpty_iff, beq_iff_eq] at h2
  obtain ⟨⟨⟨⟨⟨p, r⟩, t⟩, m⟩, a⟩, hd⟩ := h2
  refine ⟨ar, s1, h1, imageBad_clean _ _ _ (clean_of_none s1 p r t), hd, ?_⟩
  have sp : areaSpans 0x2000 16384 = [(0x2000, 16384)] := by decide
  simp only [State.areaRead, sp, List.flatMap_cons, List.flatMap_nil, List.append_nil, a, State.physRead, m]
  rw [blank_tail _ _ _ (by decide)]
  exact records_blank _

/-! ### Witnesses: the front end, the sequencer and the engines -/

theorem test_wit_instruction_fetch :
    testU.th.run = .running ∧ testU.th.lineHere = false ∧ BitVec.ofNat 64 (testU.th.pc.toNat / 64 * 64) = 0x40000 ∧
    okAnd (testU.translate testU.ctx false 2 0x40000) (fun r =>
      r.2.readPa r.1 == 0x280000 && !r.2.poisoned (r.2.readPa r.1) && !leafLoc r.1.leaf) = true ∧
    nextAnd (exec .instructionFetch testU) (fun t =>
      t.th.fe.line.map (fun l => (l.va, l.pa, l.bad.isSome)) == some (0x40000, 0x280000, false)) = true ∧
    testS.translate testS.ctx true 2 0x40000 = .error (.trap (TrapInfo.at 0x06 2 0x40000)) := by
  refine ⟨by decide, by decide, by decide, by decide, by decide, rfl⟩

theorem test_wit_fetch_addresses : Spec.Canonical testU.th.pc ∧ ¬ Spec.Canonical 0x40000000000000 :=
  ⟨canonical_low _ (by decide), test_wit_not_canonical.2.2⟩

/-- A bounded wait whose budget has just run out, and a poll back-off over. -/
def testWaiting : State :=
  { testU with
    th := { testThread with fe := { Front.reset with wait := some ⟨0x40008, .semaphore, 10, some 5, 2⟩, backoff := some 15 } }
    cal := { Cal.reset with tick := 15 } }

theorem test_wit_timeouts :
    testWaiting.th.fe.backoff = some 15 ∧ 15 ≤ testWaiting.cal.tick ∧ testWaiting.th.run = .running ∧
    testWaiting.th.faultDue = false ∧ testWaiting.th.fe.wait = some ⟨0x40008, .semaphore, 10, some 5, 2⟩ ∧
    testWaiting.th.pc = 0x40008 ∧ 5 ≤ testWaiting.cal.tick - 10 ∧
    nextAnd (exec .waitTimeout testWaiting) (fun t => t.th.tr.trapcause == 0x16 && t.th.tr.trapaddr == 0) = true := by decide

/-- A deferred fault of the pass in slot 0, and a dropped store. -/
def testFault : DFault :=
  { seq := 0, ref := some (.pass .p0), smode := false, info := ⟨4, 0, 0x40000, 3, 17, 0x50000, 1, false⟩, late := false }

def testDeferred (drop : List Dropped) : State :=
  { testU with th := { testThread with
    dsp := { Dispatch.reset with pass0 := some testPass, deferred := [testFault] }
    fe := { Front.reset with dropped := drop } } }

theorem test_wit_deferred_faults :
    (testDeferred []).th.atBoundary = true ∧ (testDeferred []).th.dueDrop = none ∧
    (testDeferred []).th.dueFault = some testFault ∧
    (testDeferred [⟨4, 0x40000, 0x50108, 0x18, 1, false⟩]).th.dueDrop = some ⟨4, 0x40000, 0x50108, 0x18, 1, false⟩ ∧
    nextAnd (exec .deferredFaultDelivery (testDeferred [])) (fun t =>
      t.th.tr.trapelem == 17 && t.th.tr.trapstat == 0x1200 && t.th.pc == 0x7000 && t.th.tr.trappc == 0x40008) = true := by decide

/-- A node of a VST of v1 to 0x50400, recorded after `testRecipe`'s, joining or not, at the head of the queue. -/
def testRoot (fn : BitVec 8) : State :=
  let n : Node := { testNode 3 (packM 0x64 ⟨1, 3, 0, 0xA, 0, 0, 0, 0, 0, fn, 0⟩) (some 0) none with va := 0x50400 }
  { testU with th := { testThread with
    rcp := { testRecipe with nodes := testRecipe.nodes ++ [n] }
    dsp := { Dispatch.reset with queue := [testEntry 3 n.word (some 3)], nextSeq := 4 } } }

/-- A word without a node at the head of the queue. -/
def testHead (w : W64) : State :=
  { testU with th := { testThread with dsp := { Dispatch.reset with queue := [testEntry 0 w none], nextSeq := 1 } } }

/-- MZERO of tile 2. -/
def testMzero : FT := ⟨2, 0, 0, 0, 0, 0, 0, 0, 0, 0, 0, 0⟩

theorem test_wit_sequencer :
    (testHead vpassWord).th.headEntry = some (testEntry 0 vpassWord none) ∧ (testHead vpassWord).th.run = .running ∧
    (testHead vpassWord).th.plan = .drop ∧ (testRoot 1).th.plan = .pend 3 ∧
    (testHead (packX 0x38 ⟨0, 0, 0, 0, 0, 0, 0, 0, 2⟩)).th.plan = .fence ∧
    (testHead (packX 0x38 ⟨0, 0, 0, 0, 0, 0, 0, 0, 2⟩)).th.dsp.passes = [] ∧
    (testHead (packX 0x38 ⟨0, 0, 0, 0, 0, 0, 0, 0, 2⟩)).th.dsp.ops = [] ∧
    (testHead (packT 0x82 testMzero)).th.plan = .engine ∧
    ((testHead (packT 0x82 testMzero)).startEngine (testEntry 0 (packT 0x82 testMzero) none)).isSome = true ∧
    (testRoot 0).th.plan = .launch [3] true ∧ (testRoot 0).th.dsp.unready = none ∧
    (testRoot 0).th.dsp.freeSlot = some .p0 ∧ (testRoot 0).th.launchable 3 [3] = true ∧
    ((testRoot 0).th.rcp.reach [3]).map (fun n => n.idx) = [0, 3] ∧ (testRoot 0).th.launchBad [3] 0 = none ∧
    nextAnd (exec .passLaunch (testRoot 0)) (fun t =>
      t.th.dsp.pass0.map (fun p => (p.roots, p.start, p.p, p.len)) == some ([3], 0, 128, 100)) = true := by decide

/-- An operation of an engine. -/
def testOp (w : W64) (n prog : Nat) : Op :=
  { e := testEntry 0 w none, n := n, prog := prog, halted := false, part := false, hold := none, block := none, dev := false,
    keep := [], since := 0 }

def testMatrix (w : W64) (n prog : Nat) : State :=
  { testU with th := { testThread with dsp := { Dispatch.reset with matrix := some (testOp w n prog), nextSeq := 1 } } }

theorem test_wit_operation_complete :
    (testMatrix (packT 0x82 testMzero) 1 1).th.dsp.unit .matrix = some (testOp (packT 0x82 testMzero) 1 1) ∧
    (testOp (packT 0x82 testMzero) 1 1).halted = false ∧ (testOp (packT 0x82 testMzero) 1 1).keep = [] ∧
    wordCounter (packT 0x82 testMzero) = none ∧ wordCounter (packT 0x82 { testMzero with cce := 1, cc := 7 }) = some 7 ∧
    nextAnd (exec (.operationComplete .matrix) (testMatrix (packT 0x82 testMzero) 1 1)) (fun t => t.th.dsp.matrix.isNone) = true := by
  decide

/-- The launched pass of `testRoot`: one group of the 100 elements of v1 stored to 0x50400. -/
def testGroup (a : W64) (len start : Nat) : State :=
  let n : Node := { testNode 3 (packM 0x64 ⟨1, 3, 0, 0xA, 0, 0, 0, 0, 0, 0, 0⟩) (some 0) none with va := a, len := len }
  let p : Pass := { testPass with roots := [3], p := 16, start := start, len := len, halted := false }
  { testU with th := { testThread with
    rcp := { testRecipe with nodes := [{ testNode 0 (packJ 0x5B ⟨1, 4, 0xA, 0, 0, 0, 0⟩) none none with len := len }, n] }
    dsp := { Dispatch.reset with pass0 := some p, nextSeq := 4 } } }

/-- The group's evaluation, as GroupsCommitAndPassesComplete names it, and whether nothing holds it or fails as it is
performed. -/
def testEval (s : State) (p : Pass) : Work × Bool :=
  let g := s.th.groupOf p
  let roots := s.th.rcp.nodes.filter fun n => n.idx ∈ p.roots
  let q := (s.evaluate g p.carries p.back (g.wants roots)).prepare g p.p roots
  (q.w, q.held.isNone && (pickFault (q.w.s.performActs q.acts.reverse).2).isNone)

theorem test_wit_group_commits :
    ((testGroup 0x50400 20 16).th.dsp.pass .p0).all (fun p =>
      p.ready && !p.halted && p.serves.isNone && !p.treeOnly && p.start < p.len &&
      (let q := testEval (testGroup 0x50400 20 16) p
       !q.1.blocked && (pickFault q.1.faults).isNone && q.2)) = true ∧
    nextAnd (exec (.elementGroupCommit .p0) (testGroup 0x50400 20 16)) (fun t =>
      (t.th.dsp.pass .p0).map (fun p => p.start) == some 20 && t.mem.readN 0x200440 4 == [7, 0, 0, 0] &&
      t.mem.readN 0x20043C 4 == [0, 0, 0, 0] && t.mem.readN 0x200450 4 == [0, 0, 0, 0]) = true := by decide +kernel

/-- A store to an address that no leaf maps, in S mode's absence of a lease: the group meets a fault and writes nothing. -/
def testGroupBad : State :=
  let s := testGroup 0xA0000000 20 0
  { s with th := { s.th with
    smode := true
    rcp := { s.th.rcp with nodes := s.th.rcp.nodes.map fun n => { n with smode := true } }
    dsp := { s.th.dsp with pass0 := s.th.dsp.pass0.map fun p => { p with smode := true } } } }

theorem test_wit_group_faults :
    (testGroupBad.th.dsp.pass .p0).all (fun p =>
      let q := testEval testGroupBad p
      !q.1.blocked && (pickFault q.1.faults).any (fun f => !f.lease && f.code == 8 && f.elem == 0)) = true ∧
    nextAnd (exec (.elementGroupCommit .p0) testGroupBad) (fun t =>
      (t.th.dsp.pass .p0).all (fun p => p.halted) && t.th.dsp.deferred.length == 1) = true := by decide

theorem test_wit_pass_completes :
    ((testGroup 0x50400 20 20).th.dsp.pass .p0).all (fun p => p.ready && p.len ≤ p.start) = true ∧
    nextAnd (exec (.passComplete .p0) (testGroup 0x50400 20 20)) (fun t =>
      (t.th.dsp.pass .p0).isNone && (t.th.rcp.node? 3).isNone) = true := by decide

/-- A VRED `.add` of 64-bit integers into x5, all of its elements in its lanes. -/
def testRed : State :=
  let f : FM := ⟨1, 0, 5, 7, 0, 0, 0, 0, 0, 0, 0⟩
  let s := testGroup 0x50400 20 20
  { s with th := { s.th with
    rcp := { s.th.rcp with nodes := [{ testNode 3 (packM 0x68 f) (some 0) none with len := 20 }] }
    dsp := { s.th.dsp with pass0 := s.th.dsp.pass0.map fun p =>
      { p with carries := [⟨3, some 4 :: some 5 :: List.replicate 14 none⟩] } } } }

theorem test_wit_vred :
    (testRed.th.rcp.nodes.map fun n => n.instr) = [some (.vred ⟨1, 0, 5, 7, 0, 0, 0, 0, 0, 0, 0⟩)] ∧
    (⟨1, 0, 5, 7, 0, 0, 0, 0, 0, 0, 0⟩ : FM).fnAt 2 2 = 0 ∧
    (testRed.th.dsp.pass0).all (fun p => testRed.th.rcp.nodes.all fun n =>
      (redResult ⟨1, 0, 5, 7, 0, 0, 0, 0, 0, 0, 0⟩ ((Work.start testRed p.carries []).lanes n p.p)).2 == 0) = true ∧
    nextAnd (exec (.passComplete .p0) testRed) (fun t => t.x 5 == 9) = true := by decide

/-- An operation of the SSB or of the copy engine. -/
def testSsb (w : W64) : State :=
  { testU with th := { testThread with
    ssb := ⟨[[1]], true, false, [0]⟩, dsp := { Dispatch.reset with ssb := some (testOp w 1 0), nextSeq := 1 } } }

def testCopy (w a b : W64) : State :=
  { testU with
    th := { testThread with dsp := { Dispatch.reset with
      copy := some { testOp w 1 0 with e := { testEntry 0 w none with a := a, b := b } }, nextSeq := 1 } }
    pairs := [{ Pair.reset 0 0 with ways := 1 }] }

theorem test_wit_engines :
    (testOp (packT 0x82 testMzero) 1 0).going = true ∧ byRows (packT 0x82 testMzero) = false ∧
    byRows (packT 0x86 ⟨2, 0, 3, 4, 0xA, 0, 0, 0, 0, 0, 0, 0⟩) = true ∧
    decodeOpc (packT 0x82 testMzero) = some (.mzero testMzero) ∧ testMzero.mt.toNat < 8 ∧
    nextAnd (exec .matrixUnit (testMatrix (packT 0x82 testMzero) 1 0)) (fun t =>
      t.th.dsp.matrix.map (fun o => o.prog) == some 1) = true ∧
    decodeOpc (packX 0xA5 ⟨0, 0, 0, 0, 0, 0, 0, 0, 0⟩) = some (.ssrst ⟨0, 0, 0, 0, 0, 0, 0, 0, 0⟩) ∧
    nextAnd (exec .ssbUnit (testSsb (packX 0xA5 ⟨0, 0, 0, 0, 0, 0, 0, 0, 0⟩))) (fun t =>
      t.th.ssb.rows.isEmpty && t.th.ssb.poisoned.isEmpty) = true ∧
    decodeOpc (packM 0xB8 ⟨1, 3, 4, 0, 0, 0, 0, 0, 0, 0, 0⟩) = some (.stmap ⟨1, 3, 4, 0, 0, 0, 0, 0, 0, 0, 0⟩) ∧
    stashLen 0x8000000100 ≠ 0 ∧ stashLen 0 = 0 ∧
    nextAnd (exec .copyUnit (testCopy (packM 0xB8 ⟨1, 3, 4, 0, 0, 0, 0, 0, 0, 0, 0⟩) 0x50100 0x8000000100)) (fun t =>
      t.pair.slot 1 == some ⟨0x50100, stashOff 0x8000000100, stashLen 0x8000000100⟩) = true ∧
    nextAnd (exec .copyUnit (testCopy (packM 0xBD ⟨0, 3, 4, 0, 0, 0, 0, 0, 0, 0, 0⟩) 0x50100 0x80)) (fun t =>
      t.th.dsp.copy.map (fun o => o.prog) == some 1) = true := by decide

theorem test_wit_bload :
    (({ testU with th := { testThread with dsp := { Dispatch.reset with
      bloads := [testOp (packT 0x8B ⟨0, 0, 3, 4, 0xA, 0, 0, 0, 0, 0, 0, 0⟩) 1 0] } } } : State).th.dsp.bloads[0]?).isSome = true := by
  decide

/-! ### Witnesses: errors, the link, power and the calendar -/

theorem test_wit_errors :
    isDram 0x200100 = true ∧ isHost 0x8000000010000 = true ∧ testU.th.run = .running ∧ 3071 ∉ testU.channelsOut ∧
    (3071 : Nat) < 3072 ∧ 7 ∈ ({ testU with channelsOut := [7] } : State).channelsOut ∧ testU.parts = [] ∧
    nextAnd (exec (.uncorrectableError (.block 0x20013F)) testU) (fun t => t.poison == [0x200100]) = true ∧
    nextAnd (exec (.uncorrectableError (.tileBlock 7 127 7)) testU) (fun t => (t.th.tile 7).poisoned == [1023]) = true ∧
    nextAnd (exec .machineCheck testU) (fun t => t.th.run == .ended && t.task.status == 7) = true := by decide

/-- The link with transactions received ahead of their turn, a store to a host page pending, an exchange under way or not. -/
def testLink (received : List (Nat × LinkBody)) (exchanging : Bool) : State :=
  let p := { testPost 0x8000000010008 0x120040 0x800000001202B 1 with va := 0x80008 }
  { testPosted p with link := { Link.reset with
    txseq := 4, rxdone := 2, peerdone := 3, received := received, exchanging := exchanging } }

theorem test_wit_link :
    (testLink [] false).linkClosed = false ∧ (testLink [] true).linkClosed = true ∧ (2 : Nat) ≤ (testLink [] false).link.rxdone ∧
    (testLink [] false).link.rxdone + 1 < 4 ∧ 3 = (testLink [] false).link.rxdone + 1 ∧
    (∃ r ∈ (testLink [(4, .read 0 8)] false).link.received, r.1 = 4) ∧
    isRegSpace 0x200100 = false ∧ (testLink [] false).channelsOut = [] ∧ (testLink [] false).boot.stage ≠ 0 ∧
    (testLink [] false).link.exchanging = false ∧ (testLink [] true).link.exchanging = true ∧
    (testLink [] true).link.peerdone ≤ 3 ∧ 4 ≤ (testLink [] true).link.txseq ∧ (testLink [] true).link.out = [] ∧
    nextAnd (exec (.linkTransaction 3 (.write 0x200100 [9])) (testLink [] false)) (fun t =>
      t.mem.read 0x200100 == 9 && t.link.rxdone == 3) = true ∧
    nextAnd (exec (.linkReset .host) (testLink [] false)) (fun t =>
      t.link.out.map LinkOut.seq == [5] && t.link.txseq == 5 && t.link.peerrst) = true := by decide

/-- Stage 0 with two of the three images of a boot. -/
def testBoot : State :=
  { State.reset with boot := { Boot.reset with images := [⟨0, [], []⟩, ⟨1, [], []⟩] } }

theorem test_wit_power :
    testBoot.boot.stage = 0 ∧ testBoot.boot.failed = none ∧ (2 : Nat) < 3 ∧
    (∀ k < 3, k ≠ 2 → ∃ i ∈ testBoot.boot.images, i.kind = k) ∧
    (∃ k < 3, k ≠ 0 ∧ ∀ i ∈ testBoot.boot.images, i.kind ≠ k) ∧
    ({ State.reset with boot := { Boot.reset with power := false } } : State).boot.power = false ∧
    State.reset.boot.power = true ∧ testU.boot.stage ≠ 0 ∧
    nextAnd (exec (.cellReady 7) { testBoot with boot := { testBoot.boot with stage := 1 } }) (fun t =>
      t.boot.stage == 2 && t.boot.ready == [7]) = true ∧
    nextAnd (exec .criticalTemperature testU) (fun t =>
      t.boot.stage == 1 && t.tasks.all fun k => k.status == 7) = true := by decide

/-- The calendar late in period 4, with its events taken up to a point. -/
def testCal (done : Nat) (choices : List Nat) : State :=
  { testU with
    cal := { Cal.reset with started := true, tick := 28000, done := done }
    choices := choices }

theorem test_wit_slots :
    (testCal (16 * 25000) []).cal.due = some (25504, .horizon .dram) ∧
    (testCal (16 * 25600) []).cal.due = some (25600, .period) ∧
    (testCal (16 * 25600 + 4) []).cal.due = some (25600, .slotStart .dram) ∧
    (testCal (16 * 25600 + 7) []).cal.due = some (25664, .overrun .dram) ∧
    (testCal (16 * 25600 + 7) []).allFlying .dram false 25440 = [] ∧
    (testCal (16 * 26000) []).cal.due = some (26048, .slotEnd .dram) ∧ ((testCal (16 * 26000) []).choose).1 = 0 ∧
    ((testCal (16 * 26000) [1]).choose).1 ≠ 0 ∧ (testCal (16 * 26000) [1]).cal.ext .dram = false ∧
    ({ Cal.reset with dramExt := true } : Cal).ext .dram = true ∧ (testCal 0 []).boot.stage = 2 := by decide

/-- A cell-ready module with a leap slot for DRAM in period 4. -/
def testLeap : State :=
  { testCal (16 * 25600 + 4) [] with
    boot := { Boot.reset with stage := 2, ready := [0, 1, 2, 3, 4, 5, 6, 7] }
    cal := { (testCal (16 * 25600 + 4) []).cal with leaps := [⟨4, true, false, 100⟩] } }

theorem test_wit_leap_start :
    testLeap.cal.due = some (25600, .slotStart .dram) ∧ testLeap.boot.stage = 2 ∧ (∀ c < 8, c ∈ testLeap.boot.ready) ∧
    (∃ l ∈ testLeap.cal.leaps, l.period = 25600 / 6400 ∧ l.dram = true) := by decide

theorem test_wit_periods :
    (testCal (16 * 25600) []).cal.due = some (25600, .period) ∧ ((testCal (16 * 25600) []).tasks.map Task.id).Nodup ∧
    testTask.state ≠ .preempted ∧ testTask.record.tbudget = 0 ∧ testTask.record.ebudget = 0 ∧
    (let k := { testTask with turnTime := 9, record := { Record.empty with tbudget := 9 } }
     k.record.tbudget ≠ 0 ∧ k.record.tbudget < k.turnTime + k.pairs.length) ∧
    nextAnd (exec .periodBoundary { testCal (16 * 25600) [] with
        tokens := [(0, 5)], fractions := [⟨1, 0, 1, 0, 100, 50, [], []⟩] }) (fun t =>
      t.tokens == [(0, 50)] && t.task.tused == 1) = true := by decide

/-- A change of the refresh announced for the tick that has come. -/
def testHot : Cal :=
  { Cal.reset with started := true, tick := 102400, done := 16 * 102400, announced := some (true, 102400), warm := true }

theorem test_wit_leaps :
    (testCal 0 []).cal.started = true ∧ (testCal 0 []).cal.tick + 102400 ≤ 6400 * 21 ∧
    (∀ k ∈ (testCal 0 []).cal.leaps, k.period ≠ 21) ∧ true ≠ (testCal 0 []).cal.hot ∧ (testCal 0 []).cal.announced = none ∧
    testHot.due = some (102400, .hotSwitch) ∧ testHot.announced = some (true, 102400) ∧ testHot.warm = true ∧
    nextAnd (exec (.leapSlot ⟨21, true, true, 16000⟩) (testCal 0 [])) (fun t => t.cal.calrev == 1) = true := by decide

/-! ### Witnesses: the launch engine -/

/-- A kernel of one line of code at 0x40000. -/
def testKernelBytes : List Byte :=
  leBytes 4 0x484B4A46 ++ [1, 0, 1, 1] ++ leBytes 8 0 ++ leBytes 8 0x40000 ++ leBytes 4 64 ++ leBytes 4 0 ++ List.replicate 96 0

/-- A version-2 record: one thread on one pair, kernel header at 0x50180. -/
def testRecordBytes : List Byte :=
  [2, 0, 0, 0] ++ leBytes 4 0x9101 ++ leBytes 8 0 ++ leBytes 8 0x50180 ++ leBytes 8 0x50400 ++ List.replicate 224 0

def testPart : Part :=
  { conf := { id := 1, cells := [0], trapvec := 0x7000, nqbase := 0x200200, ctxPool := [], windows := [] }
    pool := [0x20000000, 0x20200000], quiesce := false, quiesced := false, lastServed := [] }

def testQConf : QueueConf := { testConf with feedLaunch := false, fractions := [1] }

/-- A module with a partition, a fraction over the pairs of cluster 0, and the record at the head of queue 3's ring. -/
def testEngine : State :=
  { State.reset with
    mem := (testMem.writeN 0x200180 testKernelBytes).writeN 0x300200 testRecordBytes
    boot := { Boot.reset with stage := 2, ready := [0] }
    parts := [testPart], queues := [testQueue 1 testQConf], fractions := [⟨1, 0, 0xFF, 0, 100, 1000, [], []⟩] }

theorem test_wit_record_fetch :
    testEngine.part? 1 = some testPart ∧ testEngine.queue? 1 3 = some (testQueue 1 testQConf) ∧
    testQConf.en = true ∧ testQConf.version1 = false ∧ 0 < (5 + 2 ^ 32 - 2) % 2 ^ 32 ∧ (5 + 2 ^ 32 - 2) % 2 ^ 32 ≤ 2 ^ 4 ∧
    testEngine.shutAt 0x300200 = false ∧ testEngine.poisonIn 0x300200 256 = none ∧
    testEngine.physRead 0x300200 256 = testRecordBytes ∧ recordOk testRecordBytes = true ∧
    groupsOk testRecordBytes = true ∧ (recordOf testRecordBytes).shapeOk 4 = true ∧ headerValid testKernelBytes = true ∧
    (kernelOf testKernelBytes).stages = (recordOf testRecordBytes).ns ∧
    testEngine.placeable (testQueue 1 testQConf) (recordOf testRecordBytes) (kernelOf testKernelBytes) = true ∧
    recordOk (List.replicate 256 0) = false ∧ (recordOf (List.replicate 256 0)).compl = 0 ∧
    nextAnd (exec (.recordFetch 1 3) testEngine) (fun t =>
      ((t.queue? 1 3).bind fun u => u.fetched).map (fun f => (f.index, f.kernel.entry, f.record.args)) ==
        some (2, 0x40000, 0x50400)) = true := by decide +kernel

/-- Bytes that the engine finds. -/
def bytesAre (r : Fetch) (b : List Byte) : Bool :=
  match r with
  | .bytes c _ => c == b
  | _ => false

theorem test_wit_engine_read : bytesAre (testEngine.engineRead (testQueue 1 testQConf) 0x50180 128) testKernelBytes = true := by decide +kernel

/-- The record fetched, its lease set up or not. -/
def testFetched (l : Letting) (held : List Bool) (waits : List (Nat × Nat × W64)) : Fetched :=
  { index := 2, record := { recordOf testRecordBytes with waits := waits }, kernel := kernelOf testKernelBytes, held := held,
    letting := l }

def testReady (l : Letting) (held : List Bool) (waits : List (Nat × Nat × W64)) : State :=
  { testEngine with queues := [{ testQueue 1 testQConf with cons := 3, fetched := some (testFetched l held waits) }] }

theorem test_wit_lease :
    (kernelOf testKernelBytes).ranges = [] ∧ (testReady Letting.fresh [] []).missing 0x100000 (kernelOf testKernelBytes) [] = [] ∧
    Letting.fresh = ⟨none, false, [], true⟩ ∧
    nextAnd (exec (.recordFetch 1 3) (testReady Letting.fresh [] [])) (fun t =>
      (t.queue? 1 3).bind (fun u => u.fetched.map fun f => f.letting) == some ⟨some [], true, [], false⟩) = true := by decide +kernel

/-- Whether a wait condition's test holds or stays open. -/
def condIs (c : Cond) (holds : Bool) : Bool :=
  match c with
  | .holds _ => holds
  | .open_ => !holds
  | _ => false

/-- Queue 3's DONE is 2: past 1, and not past 2. -/
theorem test_wit_wait_conditions :
    (∃ d < 5, (1 + 1 + d) % 2 ^ 32 = 2 % 2 ^ 32) ∧
    condIs ((testReady Letting.fresh [false] [(2, 1, 3)]).testWait (testQueue 1 testQConf) (2, 1, 3)) true = true ∧
    condIs ((testReady Letting.fresh [false] [(2, 2, 3)]).testWait (testQueue 1 testQConf) (2, 2, 3)) false = true ∧
    nextAnd (exec (.waitConditionHold 1 3 0) (testReady Letting.fresh [false] [(2, 1, 3)])) (fun t =>
      (t.queue? 1 3).bind (fun u => u.fetched.map fun f => f.held) == some [true]) = true := by decide

theorem test_wit_serial_order : ∀ d < 2 ^ 31, (2 + 1 + d) % 2 ^ 32 ≠ 2 % 2 ^ 32 := by omega

/-- What the engine chooses. -/
def startsOn (c : Option Choice) (q : Nat) (ps : List (Nat × Nat)) : Bool :=
  match c with
  | some (.start u (.first _) qs _) => u.q == q && qs == ps
  | _ => false

def resumesOn (c : Option Choice) (id : Nat) (ps : List (Nat × Nat)) : Bool :=
  match c with
  | some (.start _ (.again t) qs _) => t.id == id && qs == ps
  | _ => false

def displaces (c : Option Choice) (q : Nat) (ids : List Nat) : Bool :=
  match c with
  | some (.displace u is _) => u.q == q && is == ids
  | _ => false

theorem test_wit_task_start :
    startsOn ((testReady ⟨some [], true, [], false⟩ [] []).choose? 1) 3 [(0, 0)] = true ∧
    (testReady ⟨some [], true, [], false⟩ [] []).missing 0x100000 (kernelOf testKernelBytes) [] = [] ∧
    (∀ v ∈ (testReady ⟨some [], true, [], false⟩ [] []).threads, v.task ≠ 0 + 1) ∧
    nextAnd (exec (.taskStart 1 3) (testReady ⟨some [], true, [], false⟩ [] [])) (fun t =>
      t.tasks.map (fun k => (k.id, k.pairs, k.areas)) == [(1, [(0, 0)], [0x20000000])] && t.th.pc == 0x40000 &&
      t.th.x 3 == 0x50400 && t.th.run == .running && t.th.sr.target == 16) = true := by decide +kernel

/-- A task of a lower priority that holds all pairs of the fraction, alone on a pair with stash ways. -/
def testDisplaced (state : TaskState) : State :=
  { testReady ⟨some [], true, [], false⟩ [] [] with
    th := { testThread with task := 9 }
    tasks := [{ testTask with id := 9, queue := 4, state := state }]
    pairs := [{ Pair.reset 0 0 with ways := 1 }]
    queues := [{ testQueue 1 testQConf with cons := 3, fetched := some (testFetched ⟨some [], true, [], false⟩ [] []) },
               { testQueue 1 { testQConf with prio := 2 } with q := 4 }]
    fractions := [⟨1, 0, 1, 0, 100, 1000, [], []⟩] }

theorem test_wit_displace :
    displaces ((testDisplaced .running).choose? 1) 3 [9] = true ∧
    nextAnd (exec (.taskStart 1 3) (testDisplaced .running)) (fun t => t.tasks.all fun k => k.state == .leaving) = true ∧
    (testDisplaced .running).yieldsTo = true := by decide +kernel

/-- A task of the record's own queue still runs on the only pair there is; the record runs there next. -/
def testNext : State :=
  { testDisplaced .running with tasks := [{ testTask with id := 9 }] }

theorem test_wit_preload :
    (testNext.nextRecord 1 3).map (fun r => r.2.2) = some [(0, 0)] ∧
    nextAnd (exec (.preload 1 3) testNext) (fun t => (t.pairOf 0 0).icache.map (fun l => l.1) == [0x280000]) = true := by
  decide +kernel

/-- A task all of whose threads have ended; a task that leaves with its threads at the boundary; a pre-empted one. -/
def testOver : State :=
  { testU with
    th := { testThread with run := .ended }, parts := [testPart], queues := [testQueue 1 testQConf] }

def testLeaving : State :=
  { testU with
    mem := testAreaMem
    th := { testThread with tr := { testThread.tr with ctxarea := 0x20000000 } }
    tasks := [{ testTask with state := .leaving, areas := [0x20000000] }], parts := [testPart], queues := [testQueue 1 testQConf] }

theorem test_wit_task_ends :
    (testOver.tasks.find? fun t => t.id == 1) = some testTask ∧ testOver.queue? 1 3 = some (testQueue 1 testQConf) ∧
    testOver.taskOver 1 = true ∧ testTask.record.compl = 0 ∧ testTask.record.doneaw = none ∧
    nextAnd (exec (.taskComplete 1) testOver) (fun t => t.tasks.isEmpty && t.th.run == .idle) = true ∧
    (testLeaving.tasks.map Task.id).Nodup ∧
    nextAnd (exec (.quiesce 1) testU) (fun t => t.tasks.all fun k => k.state == .leaving) = true := by decide

theorem test_wit_preempt :
    testLeaving.canPreempt { testTask with state := .leaving, areas := [0x20000000] } = true ∧
    testLeaving.areasOpen { testTask with state := .leaving, areas := [0x20000000] } = true := by decide +kernel

/-- The pre-empted task at the head of its queue, its image in order. -/
def testParked : State :=
  { testEngine with
    mem := testAreaMem
    th := { testThread with run := .preempted, cluster := 32, tr := { testThread.tr with ctxarea := 0x20000000 } }
    tasks := [{ testTask with state := .preempted, areas := [0x20000000], pairs := [],
                              record := recordOf testRecordBytes, kernel := kernelOf testKernelBytes }]
    queues := [{ testQueue 1 testQConf with again := [1] }] }

theorem test_wit_resume :
    resumesOn (testParked.choose? 1) 1 [(0, 0)] = true ∧ testParked.imagesOpen (testParked.taskOf 1) 0 = true ∧
    (testParked.taskOf 1).letting = none ∧ (testParked.taskOf 1).state = .preempted := by decide +kernel

theorem test_wit_partition :
    ({ testPart with quiesce := true } : Part).quiesce = true ∧ testPart.quiesce = false := by decide

theorem test_wit_doorbell :
    testEngine.queue? 1 3 = some (testQueue 1 testQConf) ∧ testQConf.en = true ∧ State.reset.boot.stage = 0 ∧
    testEngine.boot.stage ≠ 0 ∧ 2 ≤ testEngine.boot.stage ∧ (∀ n ∈ testPart.conf.cells, n ∈ testEngine.boot.ready) ∧
    testEngine.part? 2 = none ∧ (testEngine.part? 1).isSome = true ∧ testEngine.tasks = [] ∧
    regionOk ⟨0x20000000, 0x20000000, [0], 0, 0⟩ = true ∧ testU.tasks ≠ [] ∧ testEngine.queue? 1 63 = none ∧
    (4 ≤ testQConf.size ∧ testQConf.size ≤ 16 ∧ testQConf.ringBase % 256 = 0 ∧ testQConf.prio < 4 ∧ 1 ≤ testQConf.weight ∧
      testQConf.weight < 256) ∧
    nextAnd (exec (.doorbell 1 3 18) testEngine) (fun t =>
      (t.queue? 1 3).map (fun u => (u.prod, u.fetching)) == some (18, true)) = true ∧
    nextAnd (exec (.doorbell 1 3 19) testEngine) (fun t =>
      (t.queue? 1 3).map (fun u => (u.prod, u.fetching)) == some (19, false)) = true := by decide

/-! ### Witnesses: decoding and the step -/

/-- NOP at the PC, in the line the thread holds; the schedule issues. -/
def testStep : State :=
  let l : Line := ⟨0x40000, 0x280000, List.replicate 8 0 ++ leBytes 8 0x1B80000000000000 ++ List.replicate 48 0, false, none⟩
  { testU with th := { testThread with fe := { Front.reset with line := some l } }, choices := [1] }

theorem test_wit_step :
    testStep.boot.power = true ∧ testStep.urgent = none ∧ testStep.inputs = [] ∧ testStep.choices = [1] ∧
    ({ testStep with choices := [] } : State).ready = true ∧ testStep.task.inCode testStep.th.pc.toNat 8 = true ∧
    testStep.th.pc.toNat % 8 = 0 ∧ decode 0x1B80000000000000 = .ok (.nop ⟨0, 0, 0, 0, 0, 0, 0⟩) ∧
    nextAnd (step testStep) (fun t => t.th.pc == 0x40010) = true ∧
    nextAnd (step (State.reset.withFetchWord 64 0x1B80000000000000)) (fun t => t.th.pc == 8) = true := by decide

theorem test_wit_encode :
    Instr.wf (.nop ⟨0, 0, 0, 0, 0, 0, 0⟩) = true ∧ encode (.nop ⟨0, 0, 0, 0, 0, 0, 0⟩) = some 0x1B80000000000000 := by decide

theorem test_wit_invariant : State.reset.Inv ∧ testStep.Inv := ⟨rfl, test_memory_is_canonical⟩

/-! ### Witnesses: further clauses -/

theorem test_wit_open : Spec.Open testU ∧ Spec.Open testS ∧ testU.mem.wf = true ∧ testS.mem.wf = true := by
  unfold Spec.Open
  decide

/-- No store posted and no copy of DEV pages: nothing comes before an access. -/
theorem test_wit_in_order (x : Xl) (a n : Nat) : Spec.InOrder testU x a n ∧ Spec.InOrder testBell x a n :=
  ⟨⟨fun _ h => absurd h List.not_mem_nil, fun _ => rfl⟩, ⟨fun _ h => absurd h List.not_mem_nil, fun _ => rfl⟩⟩

/-- A page of DRAM or of the register space is no host page. -/
theorem test_wit_host_serves (s : State) :
    Spec.HostServes s ⟨0x120028, 0x20002B, 0x200100⟩ ∧ Spec.HostServes s testPlain.xl ∧ Spec.HostServes s testAmow.xl :=
  ⟨fun h => absurd h (by decide), fun h => absurd h (by decide), fun h => absurd h (by decide)⟩

/-- A host page, and a schedule whose next choice is not a refusal. -/
theorem test_wit_host_page : Spec.HostServes testU ⟨0x120040, 0x800000001202B, 0x8000000010008⟩ :=
  fun _ h => absurd h (by decide)

theorem available_open (s : State) (pa : Nat) (h : Spec.Open s) (q : s.quota = none) : Spec.Available s pa :=
  ⟨fun _ => ⟨h.2.2.1, h.2.2.2.1, h.2.2.2.2⟩, fun _ => ⟨h.2.2.1, h.2.2.2.1⟩, fun _ => ⟨h.1, h.2.1, q⟩⟩

theorem test_wit_available_here :
    Spec.Available (testPosted testPlain) testPlain.pa ∧ Spec.Available (testPosted testVer) testVer.pa ∧
    Spec.Available (testPosted testAmow) testAmow.pa ∧ Spec.Available testBell 0x4000000000018 ∧
    Spec.Available (testNq 2 0x8000) 0x200200 ∧ Spec.Available testU 0x280000 ∧
    Spec.Available (testLaunch testFeed 5 3) (0x300000 + 256 * (5 % 2 ^ 4)) :=
  have o (s : State) (h1 : s.cal = Cal.reset) (h2 : s.link = Link.reset) : Spec.Open s := by
    simp [Spec.Open, h1, h2, Cal.reset, Link.reset]
  ⟨available_open _ _ (o _ rfl rfl) (by decide), available_open _ _ (o _ rfl rfl) (by decide),
   available_open _ _ (o _ rfl rfl) (by decide), available_open _ _ (o _ rfl rfl) (by decide),
   available_open _ _ (o _ rfl rfl) (by decide), available_open _ _ (o _ rfl rfl) (by decide),
   available_open _ _ (o _ rfl rfl) (by decide)⟩

theorem test_wit_mapped_page_bits :
    (0x26000B : W64).getLsbD 63 = false ∧ (0x26000B : W64).getLsbD 0 = true ∧
    Spec.addressOf { testLd with a := 6, ofs := 0x28 } testU = 0x70040 ∧
    okAnd (testU.sAccess 0 false 0x70040 64) (fun r => leafCls r.1.leaf == 3) = true ∧
    okAnd (testU.sAccess 0 false 0x50100 64) (fun r =>
      leafCls r.1.leaf != 3 && !leafSd r.1.leaf && !isRegSpace (r.2.readPa r.1) && (r.2.poisonIn (r.2.readPa r.1) 64).isNone) = true ∧
    nextAnd (exec (.vldx ⟨8, 6, 0, 0xA, 0, 0, 0, 0, 0, 0, 0x28⟩) testU) (fun t => t.th.tr.trapcause == 4) = true := by decide

/-- The bytes at 0x50100 are no parameter block: COUNT, for one, is 0. -/
theorem test_wit_block_refused : Spec.BlockRefused (testU.mem.readN 0x200100 64) :=
  .inr (.inr (.inl (by decide)))

theorem test_wit_not_ready :
    testFull.th.dsp.room 1 = false ∧ testFull.th.fe.wait = none ∧
    Spec.recordingOf (.vadd ⟨8, 63, 1, 0, 0xA, 0, 0, 0, 0⟩) testFull = some (0, .error 4) ∧
    testFull.recTb ⟨8, 4, 1, 0xA, 0, 0, 0, 0, 0, 0, 0⟩ = .error 5 ∧ testFull.ksrc 0 = .ok none ∧
    Spec.binaryWord (.vadd ⟨8, 63, 1, 0, 0xA, 0, 0, 0, 0⟩) = some ⟨8, 63, 1, 0, 0xA, 0, 0, 0, 0⟩ ∧
    nextAnd (exec (.vadd ⟨8, 63, 1, 0, 0xA, 0, 0, 0, 0⟩) testFull) (fun t =>
      t.th.fe.wait == some ⟨0x40008, .drain, 0, none, 0⟩ && t.th.tr.trapcause == testFull.th.tr.trapcause) = true :=
  ⟨by decide, rfl, rfl, rfl, rfl, rfl, by decide⟩

/-- Lane registers 1 and 2 hold 5 and 6; LBR's targets lie inside and outside the block of eight words. -/
theorem test_wit_lane_branches :
    let l := (testLane 0).th.lane
    (4 : BitVec 8).toNat % 16 < 8 ∧ extendTo64 4 (l.regs.getD 1 0).toNat = 5 ∧ extendTo64 4 (l.regs.getD 3 0).toNat = 6 ∧
    BitVec.ofInt 64 (l.pc.toInt + 8 * (7 : BitVec 32).toInt) = 0x40038 ∧
    BitVec.ofInt 64 (l.pc.toInt + 8 * (8 : BitVec 32).toInt) = 0x40040 ∧
    l.base.toNat ≤ 0x40038 ∧ 0x40038 < l.base.toNat + 8 * l.len ∧ ¬ 0x40040 < l.base.toNat + 8 * l.len ∧
    nextAnd (exec (.lbr ⟨1, 3, 2, 4, 7⟩) (testLane 0)) (fun t => t.th.lane.pc == 0x40038 && t.th.pc == 0x40010) = true ∧
    nextAnd (exec (.lbr ⟨3, 1, 2, 4, 7⟩) (testLane 0)) (fun t => t.th.lane.pc == 0x40008) = true ∧
    nextAnd (exec (.lbr ⟨1, 3, 2, 4, 8⟩) (testLane 0)) (fun t => t.th.tr.trapcause == 1) = true := by decide

theorem test_wit_lane_compares : Spec.branchHolds 2 (5 : W64) 6 ∧ ¬ Spec.branchHolds 2 (6 : W64) 5 := by
  simp only [Spec.branchHolds]
  decide

/-- A store posted to the page of 0x50000, by the thread in focus in S mode, or by another. -/
def testOthers : State :=
  { testS with rest := [{ testThread with slot := 1, fe := { Front.reset with posted := [testPlain] } }] }

theorem test_wit_translations_in_use :
    testOthers.th.smode = true ∧ testOthers.th.fe.wait = none ∧
    (∃ u ∈ testOthers.threads, ∃ p ∈ u.fe.posted, (testOthers.ctxOf u).part = testOthers.task.part ∧
      p.va % 2 ^ 55 / 65536 = 5) ∧
    (testOthers.x (3 : BitVec 6)).toNat % 2 ^ 55 / 65536 = 5 ∧ testOthers.writesThrough 0x120028 = true ∧
    (0x20002B : W64).getLsbD 11 = false ∧ (0x20002B ||| 0x800 : W64).getLsbD 11 = true ∧
    nextAnd (exec (.tlbinv ⟨0, 3, 4, 0, 0, 0, 0, 0, 0⟩) testOthers) (fun t => t.th.fe.wait.isSome) = true ∧
    nextAnd (exec (.pgsetWbset ⟨5, 3, 0, 0, 0, 0, 0, 0, 2⟩) testOthers) (fun t =>
      t.th.fe.wait.map (fun w => w.kind) == some .pageTable && t.mem.word 0x120028 == 0x20082B) = true := by decide

theorem test_wit_quiet_others : Spec.Quiet testOthers ∧ Spec.Open testOthers := by
  unfold Spec.Quiet Spec.Open
  decide

/-- A DRAM slot keeps the counter's memory back. -/
theorem test_wit_pgcnt_waits :
    let s := { testCount 0x310001 with cal := { Cal.reset with dramHeld := true, dramStopped := true } }
    s.shutAt (leafFrame s.task.pgctrbase + 2 * ((s.x (3 : BitVec 6)).toNat % 2 ^ 40 / 65536)) = true ∧ s.th.fe.wait = none ∧
    (testCount 0x310001).shutAt (leafFrame (testCount 0x310001).task.pgctrbase + 2) = false ∧
    nextAnd (exec (.pgcnt ⟨5, 3, 0, 0, 0, 0, 0, 0, 0⟩) s) (fun t => t.th.fe.wait.isSome) = true := by decide

theorem test_wit_versioned_copy :
    (testPosted testVer).shutAt testVer.pa = false ∧ (testPosted testVer).shutAt 0x120030 = false := by decide

theorem test_wit_cache_waits :
    testFull.th.dsp.queue ≠ [] ∧ testFull.th.fe.wait = none ∧ testU.th.dsp.queue = [] ∧ testU.th.dsp.passes = [] ∧
    testU.th.dsp.ops = [] ∧ nextAnd (exec (.cacheop ⟨0, 3, 4, 0, 0, 0, 0, 0, 0, 0, 0⟩) testFull) (fun t =>
      t.th.fe.wait.isSome) = true ∧
    nextAnd (exec (.cacheop ⟨0, 3, 4, 0, 0, 0, 0, 0, 0, 0, 0⟩)
      { testU with pairs := [{ Pair.reset 0 0 with icache := [(0x200100, []), (0x200140, [])] }] }) (fun t =>
        t.pair.icache.map (fun l => l.1) == [0x200140]) = true := by decide

/-- A U-mode thread that jumped out of its code; a load under way, on the link or not. -/
def testLoading (w : Option Bool) (exchanging : Bool) : State :=
  { testU with
    th := { testThread with fe := { Front.reset with loadWait := w.map fun u => ⟨0x40000, 0x80000, [], true, 0, 0, u⟩ } }
    link := { Link.reset with out := [⟨4, .load ⟨0, 0, 0⟩⟩], exchanging := exchanging } }

def testOutside : State :=
  { testU with th := { testThread with
    pc := 0x50000, fe := { Front.reset with line := some ⟨0x50000, 0x200000, [], false, none⟩ } } }

theorem test_wit_loads_return :
    testOutside.th.fe.line.isSome = true ∧ testOutside.th.smode = false ∧ testOutside.task.inCode 0x50000 8 = false ∧
    (∃ w, (testLoading (some true) false).th.fe.loadWait = some w ∧ w.unsent = true) ∧
    (testLoading (some false) true).link.exchanging = true ∧
    (∃ o ∈ (testLoading (some false) true).link.out, o.req = .load (testLoading (some false) true).th.hw) ∧
    (∃ w, (testLoading (some false) false).th.fe.loadWait = some w ∧ w.unsent = false) ∧
    (testLoading (some false) false).link.exchanging = false ∧
    nextAnd (exec .loadDataReturn (testLoading (some false) false)) (fun t =>
      t.th.fe.loadWait.isNone && t.link.out.isEmpty) = true ∧
    nextAnd (exec .loadDataReturn (testLoading (some false) true)) (fun t => t.th.fe.loadWait.isSome) = true :=
  ⟨rfl, rfl, by decide, ⟨_, rfl, rfl⟩, rfl, by decide, ⟨_, rfl, rfl⟩, rfl, by decide, by decide⟩

theorem test_wit_outside_canonical : Spec.Canonical testOutside.th.pc := canonical_low _ (by decide)

/-- A posted store that stood on the link at its reset, and the exchange that ends it. -/
def testReset : State :=
  let s := testLink [] true
  { s with link := { s.link with out := [⟨5, .posted ⟨0, 0, 0⟩ 4⟩], txseq := 5 } }

theorem test_wit_link_exchange :
    testReset.link.exchanging = true ∧ testReset.link.floor = 4 ∧ testReset.link.txseq = 5 ∧
    testReset.link.out = [⟨5, .posted testReset.th.hw 4⟩] ∧
    (testReset.th.fe.posted.find? fun q => q.seq == 4).isSome = true ∧ testReset.th.run ≠ .ended ∧
    nextAnd (exec (.lrxdoneExchange 4) testReset) (fun t =>
      t.th.fe.posted.isEmpty && t.th.fe.dropped.map (fun d => d.code) == [8] && !t.link.exchanging) = true ∧
    nextAnd (exec (.lrxdoneExchange 5) testReset) (fun t =>
      t.th.fe.posted.isEmpty && t.th.fe.dropped.isEmpty && t.mem.read 0x8000000010008 == 0xAB) = true := by decide

theorem test_wit_link_waits :
    (testLink [] true).linkClosed = true ∧ (testLink [] true).link.waiting = [] ∧ (testLink [] false).link.waiting = [] ∧
    (testLink [] false).link.received = [] ∧ isDram 0x200100 = true ∧ (testLink [] false).shut .dram = false ∧
    (testBell.doorbell? 0x4000000000018 8).map (fun u => u.q) = some 3 ∧
    nextAnd (exec (.linkTransaction 3 (.write 0x200100 [9])) (testLink [] true)) (fun t =>
      t.link.waiting == [(3, .write 0x200100 [9])]) = true := by decide

theorem test_wit_power_inputs :
    ({ State.reset with boot := { Boot.reset with power := false }, inputs := [.boot] } : State).inputs = [.boot] ∧
    (Instr.slotStart .dram) ≠ .boot ∧
    nextAnd (step { State.reset with boot := { Boot.reset with power := false }, inputs := [.boot] }) (fun t =>
      t.boot.power && t.inputs.isEmpty) = true := by decide

/-- A plain store posted before the horizon and still in flight when the slot starts. -/
def testOverrun : State :=
  { testPosted testPlain with cal := { Cal.reset with started := true, tick := 28000, done := 16 * 25600 + 7 } }

theorem test_wit_overrun :
    testOverrun.cal.due = some (25664, .overrun .dram) ∧
    ({ testOverrun with cal := { testOverrun.cal with done := 16 * 25664 + (CalEvent.overrun .dram).rank + 1 } } :
      State).allFlying .dram false (25664 - 160) = [.posted ⟨0, 0, 0⟩ 4] := by decide

/-- A region over cell 0's stacks while the partition that has the cell runs a task, and fractions that share a pair. -/
theorem test_wit_configuration :
    regionOk ⟨0x20000000, 0x20000000, [0, 2, 1], 0, 0⟩ = false ∧ [0, 1, 2].Pairwise (· < ·) ∧
    (∃ p ∈ testLeaving.parts, (∃ n ∈ [0, 1, 2], n / 3 ∈ p.conf.cells) ∧ ∃ k ∈ testLeaving.tasks, k.part = p.conf.id) ∧
    fractionOk ⟨1, 0, 0xF0, 0, 100, 50, [0, 0, 0], [0, 0, 0]⟩ = true ∧
    fractionOk ⟨1, 0, 0x3, 0, 100, 50, [0, 0, 0], [0, 0, 0]⟩ = false ∧ (0xF : BitVec 32) &&& 0xFF ≠ 0 := by decide

/-- The record fetched, as the engine then finds it. -/
theorem test_wit_fetched_header :
    bytesAre (({ testEngine with queues := [{ testQueue 1 testQConf with cons := 3 }] } : State).engineRead
      (testQueue 1 testQConf) 0x50180 128) testKernelBytes = true ∧ isHost 0x300200 = false ∧ recordOk (List.replicate 256 0) = false := by
  decide +kernel

theorem test_wit_group_skipped : testRed.th.dsp.pass0.all (fun p => !p.skipped) = true ∧ testRed.owed = [] := by decide

theorem test_wit_step_turn :
    ({ testStep with choices := [] } : State).wordNext = true ∧ testStep.th.slot < 4 ∧
    testStep.th.fe.line.all (fun l => l.bad.isNone && !l.poisoned) = true := by decide

theorem test_wit_launch_refused :
    (testLaunch { testFeed with en := false } 5 3).queue? 1 3 = some { testQueue 1 { testFeed with en := false } with prod := 5 } ∧
    ({ testFeed with en := false } : QueueConf).en = false ∧ (testLaunch testFeed 5 3).mem.wf = true := by decide

theorem test_wit_launch_quiet : Spec.Quiet (testLaunch testFeed 5 3) := by
  unfold Spec.Quiet
  decide

/-! ### Witnesses: words that complete -/

/-- v1 holds FP32, v2 64-bit integers, of 100 elements; v4 one element and v10 12,800, of FP32; v20 to v23 stand for a
scan's sources; k1 is a mask of 100 elements; x8 lies in the code; the thread has two tiles. -/
def testWords : State :=
  let f (len : Nat) (i : Nat) : Node := { testNode i (packJ 0x5B ⟨1, 4, 0xA, 0, 0, 0, 0⟩) none none with len := len }
  let names := ((((Vector.replicate 64 (none : Option Nat)).setIfInBounds 1 (some 0)).setIfInBounds 2 (some 1)).setIfInBounds 4
    (some 3)).setIfInBounds 10 (some 4)
  { testU with th := { testThread with
    xs := testXs.setIfInBounds 8 0x40000
    sr := { testThread.sr with tilegrant := 3 }
    rcp := { testRecipe with
      vnames := (((names.setIfInBounds 20 (some 0)).setIfInBounds 21 (some 0)).setIfInBounds 22 (some 0)).setIfInBounds 23 (some 0)
      nodes := testRecipe.nodes ++ [f 1 3, f 12800 4] } } }

/-- A recording word completes: one entry with its word, and the next word follows. -/
def recorded (i : Instr) : Bool :=
  i.wf && (Spec.recordingOf i testWords).isSome && nextAnd (exec i testWords) fun t =>
    t.th.pc == 0x40010 && t.th.dsp.queue.map (fun e => some e.word) == [encode i]

theorem test_complete_two :
    ([.vadd ⟨8, 1, 1, 0, 0xa, 1, 0, 0, 0x0⟩, .vsub ⟨8, 1, 1, 0, 0xa, 1, 0, 0, 0x0⟩, .vmul ⟨8, 1, 1, 0, 0xa, 1, 0, 0, 0x0⟩,
      .vdiv ⟨8, 1, 1, 0, 0xa, 1, 0, 0, 0x0⟩, .vmin ⟨8, 1, 1, 0, 0xa, 1, 0, 0, 0x0⟩, .vmax ⟨8, 1, 1, 0, 0xa, 1, 0, 0, 0x0⟩,
      .vcmp ⟨2, 1, 1, 0, 0xa, 0, 0, 0, 0x0⟩, .vmulh ⟨8, 2, 2, 0, 0x7, 0, 0, 0, 0x0⟩, .vand ⟨8, 2, 2, 0, 0x7, 0, 0, 0, 0x0⟩,
      .vor ⟨8, 2, 2, 0, 0x7, 0, 0, 0, 0x0⟩, .vxor ⟨8, 2, 2, 0, 0x7, 0, 0, 0, 0x0⟩, .vshl ⟨8, 2, 2, 0, 0x7, 0, 0, 0, 0x0⟩,
      .vshr ⟨8, 2, 2, 0, 0x7, 0, 0, 0, 0x0⟩] : List Instr).all recorded = true := by decide +kernel

theorem test_complete_one :
    ([.vadds ⟨8, 1, 4, 0, 0xa, 1, 0, 0, 0x0⟩, .vmuls ⟨8, 1, 4, 0, 0xa, 1, 0, 0, 0x0⟩,
      .vmins ⟨8, 1, 4, 0, 0xa, 1, 0, 0, 0x0⟩, .vmaxs ⟨8, 1, 4, 0, 0xa, 1, 0, 0, 0x0⟩,
      .vcmps ⟨2, 1, 4, 0, 0xa, 0, 0, 0, 0x0⟩, .vunary ⟨8, 1, 0, 0, 0xa, 1, 0, 0, 0x0⟩,
      .vrnd ⟨8, 1, 0, 0, 0xa, 1, 0, 0, 0x0⟩, .vsfu ⟨8, 1, 0, 0, 0xa, 1, 0, 0, 0x0⟩, .vscan ⟨8, 1, 0, 0, 0xa, 1, 0, 0, 0x0⟩,
      .vclass ⟨2, 1, 0, 0, 0xa, 0, 0, 0, 0x0⟩, .vpopc ⟨8, 2, 0, 0, 0x7, 0, 0, 0, 0x0⟩, .vshli ⟨8, 2, 0x7, 0, 0, 0, 0x3⟩,
      .vshri ⟨8, 2, 0x7, 0, 0, 0, 0x3⟩, .vslide ⟨8, 1, 0xa, 1, 0, 0, 0xffffffff⟩] : List Instr).all recorded = true := by decide +kernel

theorem test_complete_rest :
    ([.vfma ⟨8, 1, 1, 1, 0xa, 1, 0, 0, 0x0⟩, .vfmas ⟨8, 1, 4, 1, 0xa, 1, 0, 0, 0x0⟩, .vcvt ⟨8, 1, 0, 0, 0x9, 0, 0, 0, 0xa⟩,
      .vsel ⟨8, 1, 1, 1, 0xa, 1, 0, 0, 0x0⟩, .kop ⟨2, 1, 1, 0, 0x0, 1, 0, 0, 0x0⟩, .vflags ⟨2, 1, 0, 0, 0x0, 0, 0, 0, 0x0⟩,
      .vsplat ⟨8, 4, 0x7, 1, 0, 0, 0x0⟩, .viota ⟨8, 4, 0x7, 1, 0, 0, 0x0⟩, .vbcast ⟨8, 4, 1, 0, 0xa, 0, 0, 0, 0x0⟩,
      .vsegred ⟨8, 1, 1, 0, 0xa, 0, 0, 0, 0x0⟩] : List Instr).all recorded = true := by decide +kernel

theorem test_complete_mem :
    ([.vld ⟨8, 3, 0, 0xa, 1, 0, 0, 0, 0, 0x0, 0x0⟩, .vkld ⟨2, 3, 0, 0x0, 0, 0, 0, 0, 0, 0x0, 0x0⟩,
      .vst ⟨1, 3, 0, 0xa, 1, 0, 0, 0, 0, 0x0, 0x0⟩, .vstx ⟨1, 3, 2, 0xa, 1, 0, 0, 0, 0, 0x0, 0x0⟩,
      .vcst ⟨1, 3, 0, 0xa, 1, 0, 0, 0, 0, 0x2, 0x0⟩, .vkst ⟨1, 3, 0, 0x0, 1, 0, 0, 0, 0, 0x0, 0x0⟩,
      .vred ⟨1, 0, 5, 0xa, 1, 0, 0, 0, 0, 0x0, 0x0⟩, .vamo ⟨1, 3, 2, 0xa, 1, 0, 0, 0, 0, 0x2, 0x0⟩,
      .vforce ⟨8, 1, 0, 0, 0xa, 0, 0, 0, 0x0⟩, .kpop ⟨1, 1, 0, 0, 0x0, 1, 0, 0, 0x0⟩,
      .vtb ⟨9, 8, 1, 0xa, 1, 0, 0, 0, 0, 0x1, 0x0⟩, .cpyx ⟨0, 3, 2, 0x0, 0, 0, 0, 0, 0, 0x1, 0x0⟩,
      .vtread ⟨0, 0, 9, 4, 0xa, 0x0, 1, 0, 0, 0, 0, 0x0⟩] : List Instr).all recorded = true := by decide +kernel

theorem test_complete_mat :
    ([.mscale ⟨0, 0, 1, 0, 0xa, 0x0, 0, 0, 0, 0, 0, 0x0⟩, .mtwr ⟨0, 0, 1, 0, 0xa, 0x0, 0, 0, 0, 0, 0, 0x0⟩,
      .mrred ⟨0, 0, 9, 0, 0xa, 0x0, 0, 0, 0, 0, 0, 0x0⟩, .mopa ⟨0, 0, 10, 4, 0xa, 0xa, 0, 0, 0, 0, 0, 0x0⟩,
      .mops ⟨0, 0, 10, 4, 0xa, 0xa, 0, 0, 0, 0, 0, 0x0⟩, .mopt ⟨0, 0, 10, 10, 0xa, 0xa, 0, 0, 0, 0, 0, 0x0⟩,
      .mzero ⟨0, 0, 0, 0, 0x0, 0x0, 0, 0, 1, 3, 0, 0x0⟩, .maddt ⟨0, 1, 0, 0, 0x0, 0x0, 0, 0, 0, 0, 0, 0x0⟩,
      .mtrn ⟨0, 0, 0, 0, 0x0, 0x0, 0, 0, 0, 0, 0, 0x0⟩, .mtld ⟨0, 0, 3, 4, 0xa, 0x0, 0, 0, 0, 0, 0, 0x0⟩,
      .mtst ⟨0, 0, 3, 4, 0xa, 0x0, 0, 0, 0, 0, 0, 0x0⟩, .mpack ⟨0, 0, 3, 4, 0xf, 0x0, 0, 0, 0, 0, 0, 0x1⟩,
      .bload ⟨0, 0, 3, 4, 0xa, 0x0, 0, 0, 0, 0, 0, 0x1⟩, .bfromt ⟨0, 0, 0, 4, 0x0, 0xa, 0, 0, 0, 0, 0, 0x0⟩,
      .msave ⟨0, 0, 3, 0, 0x0, 0x0, 0, 0, 0, 0, 0, 0x0⟩, .mrest ⟨0, 0, 3, 0, 0x0, 0x0, 0, 0, 0, 0, 0, 0x0⟩] : List Instr).all recorded = true := by decide +kernel

theorem test_complete_oth :
    ([.sscfg ⟨0, 4, 0xa, 0, 0, 0, 0x0⟩, .sscan ⟨0, 20, 3, 4, 0xa, 0, 0, 0, 0x0⟩, .ssstep ⟨0, 20, 3, 4, 0xa, 0, 0, 0, 0x0⟩,
      .ssld ⟨0, 3, 0, 0x0, 0, 0, 0, 0, 0, 0x0, 0x0⟩, .ssst ⟨0, 3, 0, 0x0, 0, 0, 0, 0, 0, 0x0, 0x0⟩,
      .ssrst ⟨0, 0, 0, 0, 0x0, 0, 0, 0, 0x0⟩, .cpy ⟨5, 3, 0, 0x0, 0, 0, 0, 0, 0, 0x0, 0x0⟩,
      .cpyf ⟨5, 0, 4, 0xa, 0, 0, 0, 0, 0, 0x0, 0x0⟩, .cpyr ⟨5, 3, 0, 0x6, 0, 0, 0, 0, 0, 0x0, 0x0⟩,
      .cpypub ⟨5, 3, 0, 0x0, 0, 0, 0, 0, 0, 0x0, 0x0⟩, .cpy2d ⟨5, 3, 4, 0x0, 0, 0, 0, 0, 0, 0x0, 0x0⟩,
      .cpyt ⟨5, 3, 4, 0x0, 0, 0, 0, 0, 0, 0x0, 0x0⟩, .stmap ⟨1, 3, 4, 0x0, 0, 0, 0, 0, 0, 0x0, 0x0⟩,
      .stfl ⟨0, 3, 4, 0x0, 0, 0, 0, 0, 0, 0x0, 0x0⟩, .stinv ⟨0, 3, 4, 0x0, 0, 0, 0, 0, 0, 0x0, 0x0⟩] : List Instr).all recorded = true := by decide +kernel

theorem bound_fp : Spec.Bound testWords 1 (fun t => t = .elem (10 : BitVec 4).toNat) (some 100) :=
  ⟨0, _, rfl, rfl, rfl, fun _ _ h e => Option.some.inj (h.symm.trans e)⟩

theorem bound_int : Spec.Bound testWords 2 (fun t => t = .elem (7 : BitVec 4).toNat) (some 100) :=
  ⟨1, _, rfl, rfl, rfl, fun _ _ h e => Option.some.inj (h.symm.trans e)⟩

theorem bound_index : Spec.Bound testWords 2 (fun t => ∃ y < 8, t = .elem y) (some 100) :=
  ⟨1, _, rfl, rfl, ⟨7, by decide, rfl⟩, fun _ _ h e => Option.some.inj (h.symm.trans e)⟩

theorem bound_one : Spec.Bound testWords 4 (fun t => t = .elem (10 : BitVec 4).toNat) (some 1) :=
  ⟨3, _, rfl, rfl, rfl, fun _ _ h e => Option.some.inj (h.symm.trans e)⟩

theorem bound_tiles : Spec.Bound testWords 10 (fun t => t = .elem (10 : BitVec 4).toNat) (some 12800) :=
  ⟨4, _, rfl, rfl, rfl, fun _ _ h e => Option.some.inj (h.symm.trans e)⟩

theorem bound_any (n : Option Nat) (h : n = none ∨ n = some 100) (r : BitVec 6) (hr : r ∈ [1, 20, 21, 22, 23]) :
    Spec.Bound testWords r (fun _ => True) n := by
  refine ⟨0, _, ?_, rfl, trivial, ?_⟩
  · fin_cases hr <;> rfl
  · intro l k hl hk
    rcases h with h | h <;> subst h
    · cases hk
    · exact Option.some.inj (hl.symm.trans hk)

theorem masked_k1 (n : Option Nat) (h : n = none ∨ n = some 100) : Spec.Masked testWords 1 n := by
  refine .inr ⟨2, _, rfl, rfl, rfl, ?_⟩
  intro l k hl hk
  rcases h with h | h <;> subst h
  · cases hk
  · exact Option.some.inj (hl.symm.trans hk)

theorem masked_none (n : Option Nat) : Spec.Masked testWords 0 n := .inl rfl

theorem test_wit_operands_two :
    Spec.OperandsHere (.vadd ⟨8, 1, 1, 0, 0xa, 1, 0, 0, 0x0⟩) testWords (some 100) ∧
    Spec.OperandsHere (.vsub ⟨8, 1, 1, 0, 0xa, 1, 0, 0, 0x0⟩) testWords (some 100) ∧
    Spec.OperandsHere (.vmul ⟨8, 1, 1, 0, 0xa, 1, 0, 0, 0x0⟩) testWords (some 100) ∧
    Spec.OperandsHere (.vdiv ⟨8, 1, 1, 0, 0xa, 1, 0, 0, 0x0⟩) testWords (some 100) ∧
    Spec.OperandsHere (.vmin ⟨8, 1, 1, 0, 0xa, 1, 0, 0, 0x0⟩) testWords (some 100) ∧
    Spec.OperandsHere (.vmax ⟨8, 1, 1, 0, 0xa, 1, 0, 0, 0x0⟩) testWords (some 100) ∧
    Spec.OperandsHere (.vcmp ⟨2, 1, 1, 0, 0xa, 0, 0, 0, 0x0⟩) testWords (some 100) ∧
    Spec.OperandsHere (.vmulh ⟨8, 2, 2, 0, 0x7, 0, 0, 0, 0x0⟩) testWords (some 100) ∧
    Spec.OperandsHere (.vand ⟨8, 2, 2, 0, 0x7, 0, 0, 0, 0x0⟩) testWords (some 100) ∧
    Spec.OperandsHere (.vor ⟨8, 2, 2, 0, 0x7, 0, 0, 0, 0x0⟩) testWords (some 100) ∧
    Spec.OperandsHere (.vxor ⟨8, 2, 2, 0, 0x7, 0, 0, 0, 0x0⟩) testWords (some 100) ∧
    Spec.OperandsHere (.vshl ⟨8, 2, 2, 0, 0x7, 0, 0, 0, 0x0⟩) testWords (some 100) ∧
    Spec.OperandsHere (.vshr ⟨8, 2, 2, 0, 0x7, 0, 0, 0, 0x0⟩) testWords (some 100) :=
  ⟨⟨bound_fp, bound_fp, masked_k1 _ (.inr rfl)⟩,
   ⟨bound_fp, bound_fp, masked_k1 _ (.inr rfl)⟩,
   ⟨bound_fp, bound_fp, masked_k1 _ (.inr rfl)⟩,
   ⟨bound_fp, bound_fp, masked_k1 _ (.inr rfl)⟩,
   ⟨bound_fp, bound_fp, masked_k1 _ (.inr rfl)⟩,
   ⟨bound_fp, bound_fp, masked_k1 _ (.inr rfl)⟩,
   ⟨bound_fp, bound_fp, masked_none _⟩,
   ⟨bound_int, bound_int, masked_none _⟩,
   ⟨bound_int, bound_int, masked_none _⟩,
   ⟨bound_int, bound_int, masked_none _⟩,
   ⟨bound_int, bound_int, masked_none _⟩,
   ⟨bound_int, bound_int, masked_none _⟩,
   ⟨bound_int, bound_int, masked_none _⟩⟩

theorem test_wit_operands_one :
    Spec.OperandsHere (.vadds ⟨8, 1, 4, 0, 0xa, 1, 0, 0, 0x0⟩) testWords (some 100) ∧
    Spec.OperandsHere (.vmuls ⟨8, 1, 4, 0, 0xa, 1, 0, 0, 0x0⟩) testWords (some 100) ∧
    Spec.OperandsHere (.vmins ⟨8, 1, 4, 0, 0xa, 1, 0, 0, 0x0⟩) testWords (some 100) ∧
    Spec.OperandsHere (.vmaxs ⟨8, 1, 4, 0, 0xa, 1, 0, 0, 0x0⟩) testWords (some 100) ∧
    Spec.OperandsHere (.vcmps ⟨2, 1, 4, 0, 0xa, 0, 0, 0, 0x0⟩) testWords (some 100) ∧
    Spec.OperandsHere (.vunary ⟨8, 1, 0, 0, 0xa, 1, 0, 0, 0x0⟩) testWords (some 100) ∧
    Spec.OperandsHere (.vrnd ⟨8, 1, 0, 0, 0xa, 1, 0, 0, 0x0⟩) testWords (some 100) ∧
    Spec.OperandsHere (.vsfu ⟨8, 1, 0, 0, 0xa, 1, 0, 0, 0x0⟩) testWords (some 100) ∧
    Spec.OperandsHere (.vscan ⟨8, 1, 0, 0, 0xa, 1, 0, 0, 0x0⟩) testWords (some 100) ∧
    Spec.OperandsHere (.vclass ⟨2, 1, 0, 0, 0xa, 0, 0, 0, 0x0⟩) testWords (some 100) ∧
    Spec.OperandsHere (.vpopc ⟨8, 2, 0, 0, 0x7, 0, 0, 0, 0x0⟩) testWords (some 100) ∧
    Spec.OperandsHere (.vshli ⟨8, 2, 0x7, 0, 0, 0, 0x3⟩) testWords (some 100) ∧
    Spec.OperandsHere (.vshri ⟨8, 2, 0x7, 0, 0, 0, 0x3⟩) testWords (some 100) ∧
    Spec.OperandsHere (.vslide ⟨8, 1, 0xa, 1, 0, 0, 0xffffffff⟩) testWords (some 100) :=
  ⟨⟨bound_fp, masked_k1 _ (.inr rfl)⟩,
   ⟨bound_fp, masked_k1 _ (.inr rfl)⟩,
   ⟨bound_fp, masked_k1 _ (.inr rfl)⟩,
   ⟨bound_fp, masked_k1 _ (.inr rfl)⟩,
   ⟨bound_fp, masked_none _⟩,
   ⟨bound_fp, masked_k1 _ (.inr rfl)⟩,
   ⟨bound_fp, masked_k1 _ (.inr rfl)⟩,
   ⟨bound_fp, masked_k1 _ (.inr rfl)⟩,
   ⟨bound_fp, masked_k1 _ (.inr rfl)⟩,
   ⟨bound_fp, masked_none _⟩,
   ⟨bound_int, masked_none _⟩,
   ⟨bound_int, masked_none _⟩,
   ⟨bound_int, masked_none _⟩,
   ⟨bound_fp, masked_k1 _ (.inr rfl)⟩⟩

theorem test_wit_operands_rest :
    Spec.OperandsHere (.vfma ⟨8, 1, 1, 1, 0xa, 1, 0, 0, 0x0⟩) testWords (some 100) ∧
    Spec.OperandsHere (.vfmas ⟨8, 1, 4, 1, 0xa, 1, 0, 0, 0x0⟩) testWords (some 100) ∧
    Spec.OperandsHere (.vcvt ⟨8, 1, 0, 0, 0x9, 0, 0, 0, 0xa⟩) testWords (some 100) ∧
    Spec.OperandsHere (.vsel ⟨8, 1, 1, 1, 0xa, 1, 0, 0, 0x0⟩) testWords (some 100) ∧
    Spec.OperandsHere (.kop ⟨2, 1, 1, 0, 0x0, 1, 0, 0, 0x0⟩) testWords (some 100) ∧
    Spec.OperandsHere (.vflags ⟨2, 1, 0, 0, 0x0, 0, 0, 0, 0x0⟩) testWords (some 100) ∧
    Spec.OperandsHere (.vsplat ⟨8, 4, 0x7, 1, 0, 0, 0x0⟩) testWords (some 100) ∧
    Spec.OperandsHere (.viota ⟨8, 4, 0x7, 1, 0, 0, 0x0⟩) testWords (some 100) ∧
    Spec.OperandsHere (.vbcast ⟨8, 4, 1, 0, 0xa, 0, 0, 0, 0x0⟩) testWords (some 100) ∧
    Spec.OperandsHere (.vsegred ⟨8, 1, 1, 0, 0xa, 0, 0, 0, 0x0⟩) testWords (some 100) :=
  ⟨⟨bound_fp, bound_fp, bound_fp, masked_k1 _ (.inr rfl)⟩,
   ⟨bound_fp, bound_fp, masked_k1 _ (.inr rfl)⟩,
   bound_fp,
   ⟨bound_fp, bound_fp, masked_k1 _ (.inr rfl), masked_k1 _ (.inr rfl)⟩,
   ⟨masked_k1 _ (.inr rfl), masked_k1 _ (.inr rfl), masked_k1 _ (.inr rfl)⟩,
   bound_any _ (.inr rfl) 1 (by decide),
   masked_k1 _ (.inl rfl),
   masked_k1 _ (.inl rfl),
   ⟨by decide, by decide, bound_one, fun _ h => by injection h; subst_vars; rfl⟩,
   ⟨by decide, by decide, bound_fp, fun _ h => by injection h; subst_vars; rfl⟩⟩

theorem test_wit_operands_mem :
    Spec.OperandsHere (.vld ⟨8, 3, 0, 0xa, 1, 0, 0, 0, 0, 0x0, 0x0⟩) testWords (some 100) ∧
    Spec.OperandsHere (.vkld ⟨2, 3, 0, 0x0, 0, 0, 0, 0, 0, 0x0, 0x0⟩) testWords (some 100) ∧
    Spec.OperandsHere (.vst ⟨1, 3, 0, 0xa, 1, 0, 0, 0, 0, 0x0, 0x0⟩) testWords (some 100) ∧
    Spec.OperandsHere (.vstx ⟨1, 3, 2, 0xa, 1, 0, 0, 0, 0, 0x0, 0x0⟩) testWords (some 100) ∧
    Spec.OperandsHere (.vcst ⟨1, 3, 0, 0xa, 1, 0, 0, 0, 0, 0x2, 0x0⟩) testWords (some 100) ∧
    Spec.OperandsHere (.vkst ⟨1, 3, 0, 0x0, 1, 0, 0, 0, 0, 0x0, 0x0⟩) testWords (some 100) ∧
    Spec.OperandsHere (.vred ⟨1, 0, 5, 0xa, 1, 0, 0, 0, 0, 0x0, 0x0⟩) testWords (some 100) ∧
    Spec.OperandsHere (.vamo ⟨1, 3, 2, 0xa, 1, 0, 0, 0, 0, 0x2, 0x0⟩) testWords (some 100) ∧
    Spec.OperandsHere (.vforce ⟨8, 1, 0, 0, 0xa, 0, 0, 0, 0x0⟩) testWords (some 100) ∧
    Spec.OperandsHere (.kpop ⟨1, 1, 0, 0, 0x0, 1, 0, 0, 0x0⟩) testWords (some 100) ∧
    Spec.OperandsHere (.vtb ⟨9, 8, 1, 0xa, 1, 0, 0, 0, 0, 0x1, 0x0⟩) testWords (some 100) ∧
    Spec.OperandsHere (.cpyx ⟨0, 3, 2, 0x0, 0, 0, 0, 0, 0, 0x1, 0x0⟩) testWords (some 100) ∧
    Spec.OperandsHere (.vtread ⟨0, 0, 9, 4, 0xa, 0x0, 1, 0, 0, 0, 0, 0x0⟩) testWords (some 100) :=
  ⟨⟨masked_k1 _ (.inr rfl), fun h => absurd h (by decide)⟩,
   masked_none _,
   ⟨bound_fp, masked_k1 _ (.inr rfl)⟩,
   ⟨bound_fp, bound_index, masked_k1 _ (.inr rfl)⟩,
   ⟨bound_fp, masked_k1 _ (.inr rfl), fun _ => by decide⟩,
   ⟨masked_k1 _ (.inr rfl), masked_k1 _ (.inr rfl)⟩,
   ⟨bound_fp, masked_k1 _ (.inr rfl), fun h => absurd h (by decide)⟩,
   ⟨bound_fp, bound_index, masked_k1 _ (.inr rfl)⟩,
   bound_fp,
   ⟨masked_k1 _ (.inr rfl), masked_k1 _ (.inr rfl), by decide⟩,
   ⟨masked_k1 _ (.inr rfl), by decide, by decide, by decide, fun j hj => by
    obtain rfl : j = 0 := by revert hj; decide +revert
    exact ⟨0, _, rfl, rfl, ⟨by decide, .inr (.inr rfl)⟩, fun _ _ h e => Option.some.inj (h.symm.trans e)⟩⟩,
   fun _ => bound_index,
   ⟨masked_k1 _ (.inr rfl), by decide, by decide⟩⟩

theorem test_wit_operands_mat :
    Spec.OperandsHere (.mscale ⟨0, 0, 1, 0, 0xa, 0x0, 0, 0, 0, 0, 0, 0x0⟩) testWords (some 100) ∧
    Spec.OperandsHere (.mtwr ⟨0, 0, 1, 0, 0xa, 0x0, 0, 0, 0, 0, 0, 0x0⟩) testWords (some 100) ∧
    Spec.OperandsHere (.mrred ⟨0, 0, 9, 0, 0xa, 0x0, 0, 0, 0, 0, 0, 0x0⟩) testWords (some 100) ∧
    Spec.OperandsHere (.mopa ⟨0, 0, 10, 4, 0xa, 0xa, 0, 0, 0, 0, 0, 0x0⟩) testWords (some 100) ∧
    Spec.OperandsHere (.mops ⟨0, 0, 10, 4, 0xa, 0xa, 0, 0, 0, 0, 0, 0x0⟩) testWords (some 100) ∧
    Spec.OperandsHere (.mopt ⟨0, 0, 10, 10, 0xa, 0xa, 0, 0, 0, 0, 0, 0x0⟩) testWords (some 100) ∧
    Spec.OperandsHere (.mzero ⟨0, 0, 0, 0, 0x0, 0x0, 0, 0, 1, 3, 0, 0x0⟩) testWords (some 100) ∧
    Spec.OperandsHere (.maddt ⟨0, 1, 0, 0, 0x0, 0x0, 0, 0, 0, 0, 0, 0x0⟩) testWords (some 100) ∧
    Spec.OperandsHere (.mtrn ⟨0, 0, 0, 0, 0x0, 0x0, 0, 0, 0, 0, 0, 0x0⟩) testWords (some 100) ∧
    Spec.OperandsHere (.mtld ⟨0, 0, 3, 4, 0xa, 0x0, 0, 0, 0, 0, 0, 0x0⟩) testWords (some 100) ∧
    Spec.OperandsHere (.mtst ⟨0, 0, 3, 4, 0xa, 0x0, 0, 0, 0, 0, 0, 0x0⟩) testWords (some 100) ∧
    Spec.OperandsHere (.mpack ⟨0, 0, 3, 4, 0xf, 0x0, 0, 0, 0, 0, 0, 0x1⟩) testWords (some 100) ∧
    Spec.OperandsHere (.bload ⟨0, 0, 3, 4, 0xa, 0x0, 0, 0, 0, 0, 0, 0x1⟩) testWords (some 100) ∧
    Spec.OperandsHere (.bfromt ⟨0, 0, 0, 4, 0x0, 0xa, 0, 0, 0, 0, 0, 0x0⟩) testWords (some 100) ∧
    Spec.OperandsHere (.msave ⟨0, 0, 3, 0, 0x0, 0x0, 0, 0, 0, 0, 0, 0x0⟩) testWords (some 100) ∧
    Spec.OperandsHere (.mrest ⟨0, 0, 3, 0, 0x0, 0x0, 0, 0, 0, 0, 0, 0x0⟩) testWords (some 100) :=
  ⟨bound_fp,
   bound_fp,
   (by decide : (0 : BitVec 3).toNat < testWords.th.tileCount),
   bound_tiles,
   bound_tiles,
   ⟨bound_tiles, bound_tiles⟩,
   trivial,
   trivial,
   trivial,
   trivial,
   trivial,
   trivial,
   trivial,
   trivial,
   trivial,
   trivial⟩

theorem test_wit_operands_oth :
    Spec.OperandsHere (.sscfg ⟨0, 4, 0xa, 0, 0, 0, 0x0⟩) testWords (some 100) ∧
    Spec.OperandsHere (.sscan ⟨0, 20, 3, 4, 0xa, 0, 0, 0, 0x0⟩) testWords (some 100) ∧
    Spec.OperandsHere (.ssstep ⟨0, 20, 3, 4, 0xa, 0, 0, 0, 0x0⟩) testWords (some 100) ∧
    Spec.OperandsHere (.ssld ⟨0, 3, 0, 0x0, 0, 0, 0, 0, 0, 0x0, 0x0⟩) testWords (some 100) ∧
    Spec.OperandsHere (.ssst ⟨0, 3, 0, 0x0, 0, 0, 0, 0, 0, 0x0, 0x0⟩) testWords (some 100) ∧
    Spec.OperandsHere (.ssrst ⟨0, 0, 0, 0, 0x0, 0, 0, 0, 0x0⟩) testWords (some 100) ∧
    Spec.OperandsHere (.cpy ⟨5, 3, 0, 0x0, 0, 0, 0, 0, 0, 0x0, 0x0⟩) testWords (some 100) ∧
    Spec.OperandsHere (.cpyf ⟨5, 0, 4, 0xa, 0, 0, 0, 0, 0, 0x0, 0x0⟩) testWords (some 100) ∧
    Spec.OperandsHere (.cpyr ⟨5, 3, 0, 0x6, 0, 0, 0, 0, 0, 0x0, 0x0⟩) testWords (some 100) ∧
    Spec.OperandsHere (.cpypub ⟨5, 3, 0, 0x0, 0, 0, 0, 0, 0, 0x0, 0x0⟩) testWords (some 100) ∧
    Spec.OperandsHere (.cpy2d ⟨5, 3, 4, 0x0, 0, 0, 0, 0, 0, 0x0, 0x0⟩) testWords (some 100) ∧
    Spec.OperandsHere (.cpyt ⟨5, 3, 4, 0x0, 0, 0, 0, 0, 0, 0x0, 0x0⟩) testWords (some 100) ∧
    Spec.OperandsHere (.stmap ⟨1, 3, 4, 0x0, 0, 0, 0, 0, 0, 0x0, 0x0⟩) testWords (some 100) ∧
    Spec.OperandsHere (.stfl ⟨0, 3, 4, 0x0, 0, 0, 0, 0, 0, 0x0, 0x0⟩) testWords (some 100) ∧
    Spec.OperandsHere (.stinv ⟨0, 3, 4, 0x0, 0, 0, 0, 0, 0, 0x0, 0x0⟩) testWords (some 100) :=
  ⟨trivial,
   ⟨bound_any _ (.inl rfl) 20 (by decide), bound_any _ (.inl rfl) 21 (by decide),
     bound_any _ (.inl rfl) 22 (by decide), bound_any _ (.inl rfl) 23 (by decide)⟩,
   ⟨bound_any _ (.inl rfl) 20 (by decide), bound_any _ (.inl rfl) 21 (by decide),
     bound_any _ (.inl rfl) 22 (by decide), bound_any _ (.inl rfl) 23 (by decide)⟩,
   trivial,
   trivial,
   trivial,
   trivial,
   trivial,
   trivial,
   trivial,
   trivial,
   trivial,
   (by decide : ∀ u ∈ testWords.threads, u.run = .running → u.cluster = testWords.th.cluster →
     u.pair = testWords.th.pair → u.task = testWords.th.task),
   trivial,
   trivial⟩

/-- What else the statement asks: a length from VL, or from a slot of length queue 0, filled or not; and room. -/
theorem test_wit_room :
    Spec.LengthFor testWords 0 (some 100) ∧ Spec.LengthFor testLqs 1 (some 100) ∧ Spec.LengthFor testLqs 2 none ∧
    testWords.th.dsp.queue.length < 32 ∧ testWords.th.rcp.budget ≤ 256 ∧
    testWords.th.rcp.nodes.length + 2 ≤ testWords.th.rcp.budget ∧ testWords.th.aritUsed + 2 ≤ 64 ∧
    testWords.th.cc[3]?.getD 0 ≠ 0xFFFF :=
  ⟨.inl ⟨rfl, rfl⟩, .inr ⟨by decide, ⟨0, false, some 100⟩, by decide, rfl⟩, .inr ⟨by decide, ⟨0, false, none⟩, by decide, rfl⟩,
   by decide⟩

/-- A vector slot of each shape and a scalar one that raises no flag. -/
theorem test_wit_slots_here :
    Spec.SlotHere ⟨0x12, 1, 1, 0xA, 1, 0⟩ testWords ∧ Spec.SlotHere ⟨0x1A, 2, 0, 7, 0, 3⟩ testWords ∧
    Spec.SlotHere ⟨0x1E, 40, 1, 0, 0, 0⟩ testWords ∧ Spec.SlotHere ⟨0x1F, 40, 1, 0xA, 1, 0⟩ testWords ∧
    Spec.SlotHere ⟨0x08, 21, 0, 0, 0, 63⟩ testWords ∧ Spec.SlotHere ⟨0x11, 0, 0, 0, 0, 0⟩ testWords :=
  ⟨⟨bound_fp, bound_fp, masked_k1 _ (.inr rfl)⟩, ⟨bound_int, masked_none _⟩, trivial, ⟨bound_fp, masked_k1 _ (.inr rfl)⟩,
   ⟨_, 0, rfl, by decide⟩, ⟨_, 0, rfl, by decide⟩⟩

theorem test_complete_pairs :
    Instr.wf (.vaddSlot ⟨1, 1, 0xA, 1, 0⟩ ⟨0x14, 33, 33, 0xA, 1, 0⟩) = true ∧
    Instr.wf (.vaddSlot ⟨1, 1, 0xA, 1, 0⟩ ⟨0x1E, 40, 2, 0, 0, 0⟩) = true ∧
    nextAnd (exec (.vaddSlot ⟨1, 1, 0xA, 1, 0⟩ ⟨0x1E, 40, 2, 0, 0, 0⟩) testWords) (fun t =>
      t.th.dsp.queue.map (fun e => (e.word.toNat / 2 ^ 55, e.slot)) == [(0x40, false), (0x5F, true)] && t.th.pc == 0x40010) = true ∧
    nextAnd (exec (.addiSlot ⟨5, 0, 0, 0, 63⟩ ⟨0x1F, 40, 1, 0xA, 1, 0⟩) testWords) (fun t =>
      t.th.dsp.queue.map (fun e => (e.word.toNat / 2 ^ 55, e.slot)) == [(0x47, true)] && t.th.pc == 0x40010) = true := by
  decide +kernel

/-- The table entries above the page of 0x50000, and a leaf of it. -/
def pageHere (s : State) (leaf : W64) : Bool :=
  s.task.ptbase == 0x100000 && s.mem.word 0x100000 == 0x8000000000110001 && s.mem.word 0x110000 == 0x8000000000120001 &&
    s.mem.word 0x120028 == leaf

/-- The page of 0x50000 is in order, with every permission. -/
theorem page_here (s : State) (smode write : Bool) (va : W64) (e : W64) (he : e = 0x20002B ∨ e = 0x20402B ∨ e = 0x20C02B)
    (h : pageHere s e = true) (hv : va.toNat / 2 ^ 16 = 5) : Spec.Page s smode write va 0x120028 := by
  simp only [pageHere, Bool.and_eq_true, beq_iff_eq] at h
  obtain ⟨⟨⟨hp, h0⟩, h1⟩, h2⟩ := h
  have e1 : va.toNat / 2 ^ 42 % 2 ^ 13 = 0 := by omega
  have e2 : va.toNat / 2 ^ 29 % 2 ^ 13 = 0 := by omega
  have e3 : va.toNat / 2 ^ 16 % 2 ^ 13 = 5 := by omega
  have f0 : leafFrame 0x100000 + 8 * 0 = 0x100000 := by decide
  have f1 : leafFrame 0x8000000000110001 + 8 * 0 = 0x110000 := by decide
  simp only [Spec.Page, hp, e1, e2, e3, f0, h0, f1, h1, h2]
  refine ⟨by decide, canonical_low va (by omega), ?_⟩
  rcases he with rfl | rfl | rfl <;> cases smode <;> cases write <;> decide

theorem test_wit_usual : Spec.Usual testU ∧ Spec.Usual testS ∧ Spec.Usual (testNq 2 0x8000) ∧ Spec.Usual testBlock ∧
    Spec.Usual testArrival := by
  simp only [Spec.Usual, Spec.Open]
  decide

/-- The bytes at 0x50100, aligned for every width, are reached by a load and by a store. -/
theorem reached_here (s : State) (write : Bool) (va : W64) (n : Nat) (hu : Spec.Usual s)
    (hm : Spec.Page s s.th.smode write va 0x120028) (ha : Spec.Apart s va.toNat n) (hn : va.toNat % n = 0)
    (hl : s.task.ranges = [(0, ⟨0x50000, 0x60000, true⟩)]) (h1 : 0x50000 ≤ va.toNat) (h2 : va.toNat + n ≤ 0xB0000) :
    Spec.Reached s write va n 0x120028 :=
  ⟨hu, hm, ha, hn, fun _ => leased_of_range _ _ _ _ (0, ⟨0x50000, 0x60000, true⟩) (hl ▸ List.mem_singleton.2 rfl) rfl h1 h2⟩

theorem apart_idle (s : State) (a n : Nat) (h1 : s.th.dsp = Dispatch.reset) (h2 : s.th.rcp.nodes = []) (h3 : s.th.fe = Front.reset) :
    Spec.Apart s a n := by
  simp [Spec.Apart, h1, h2, h3, Dispatch.reset, Dispatch.passes, Dispatch.ops, Front.reset]

theorem test_wit_reached (write : Bool) (n : Nat) (hn : n ∈ [1, 2, 4, 8, 16, 64]) :
    Spec.Reached testU write 0x50100 n 0x120028 := by
  refine reached_here _ _ _ _ test_wit_usual.1 (page_here _ _ _ _ _ (.inl rfl) (by decide) (by decide)) (apart_idle _ _ _ rfl rfl rfl)
    ?_ rfl (by decide) ?_ <;> (fin_cases hn <;> decide)

/-- The words that go further than a load or a store: a parameter block in order, an arrival word, a queue's descriptor. -/
theorem test_wit_reached_words :
    Spec.Reached testBlock false 0x50100 64 0x120028 ∧ Spec.Reached testArrival true 0x50200 16 0x120028 ∧
    Spec.Reached testArrival false 0x50200 16 0x120028 ∧ Spec.Reached (testNq 2 0x8000) true 0x50200 64 0x120028 :=
  have page (s : State) (write : Bool) (va : W64) (n : Nat) (hu : Spec.Usual s) (h : pageHere s 0x20002B = true)
      (hv : va.toNat / 2 ^ 16 = 5 ∧ va.toNat % n = 0 ∧ 0x50000 ≤ va.toNat ∧ va.toNat + n ≤ 0xB0000)
      (hl : s.task.ranges = [(0, ⟨0x50000, 0x60000, true⟩)]) (ha : Spec.Apart s va.toNat n) :
      Spec.Reached s write va n 0x120028 :=
    reached_here _ _ _ _ hu (page_here _ _ _ _ _ (.inl rfl) h hv.1) ha hv.2.1 hl hv.2.2.1 hv.2.2.2
  ⟨page _ _ _ _ test_wit_usual.2.2.2.1 (by decide) (by decide) rfl (apart_idle _ _ _ rfl rfl rfl),
   page _ _ _ _ test_wit_usual.2.2.2.2 (by decide) (by decide) rfl (apart_idle _ _ _ rfl rfl rfl),
   page _ _ _ _ test_wit_usual.2.2.2.2 (by decide) (by decide) rfl (apart_idle _ _ _ rfl rfl rfl),
   page _ _ _ _ test_wit_usual.2.2.1 (by decide) (by decide) rfl (apart_idle _ _ _ rfl rfl rfl)⟩

/-- The fields of the block at 0x50100 are in order. -/
theorem test_wit_block_in_order : ¬ Spec.BlockRefused (testBlock.mem.readN 0x200100 64) := by
  have h : testBlock.mem.readN 0x200100 64 = testBlockBytes := by decide
  rw [h]
  have z : ∀ k < 64, 38 ≤ k → testBlockBytes.getD k 0 = 0 := by decide
  unfold Spec.BlockRefused
  rintro (⟨k, h1, h2, h3⟩ | h)
  · exact h3 (z k h2 h1)
  · revert h
    decide

theorem test_wit_access_words :
    Spec.placeOf testU 0x50100 0x120028 = 0x200100 ∧ (0x120028 + 8 ≤ 0x200100) ∧ (0x20002B : W64).extractLsb' 4 2 = 2 ∧
    leNat ((testNq 2 0x8000).mem.readN (0x200200 + 8) 4) = 4 ∧ 0x8000 ≤ ((testNq 2 0x8000).x (4 : BitVec 6)).toNat % 2 ^ 16 ∧
    leNat (testArrival.mem.readN 0x200200 16) / 2 ^ 64 % 2 ^ 32 = 6 ∧ (testArrival.x (4 : BitVec 6)).toNat = 7 ∧
    (testNq 2 0x8000).th.smode = true := by decide

/-- PGSET: the entries of 0x50100's page, whose lease the new leaf keeps, and of the versioned page at 0x60000. -/
theorem test_wit_pgset_here :
    leafFrame testS.task.ptbase + 8 * ((0x50100 : W64).toNat / 2 ^ 42 % 2 ^ 13) = 0x100000 ∧
    tableOk (testS.mem.word 0x100000) = true ∧ tableOk (testS.mem.word 0x110000) = true ∧
    testS.mem.word 0x120028 = 0x20002B ∧ testS.mem.word 0x120030 = 0x22022B ∧ (0x22022B : W64).getLsbD 9 = true ∧
    (0x20002B ^^^ 0x20042B : W64) &&& 0x3F1 = 0 ∧ testS.leased 0x50000 (2 ^ 16) = true ∧ testS.leased 0x90000 (2 ^ 16) = true ∧
    (∀ u ∈ testS.threads, u.fe.posted = []) ∧ testS.th.fe.wait = none := by decide

/-- A record to launch whose page has its A bit. -/
def testLaunching : State :=
  { testLaunch testFeed 5 3 with mem := testMem.writeN 0x120029 [0x40] }

theorem test_wit_launch_completes :
    Spec.Usual testLaunching ∧ (∀ k < 4, Spec.Reached testLaunching false (0x50100 + BitVec.ofNat 64 (64 * k)) 64 0x120028) ∧
    Spec.Settled testLaunching false 0x120028 ∧ Spec.Quiet testLaunching := by
  have u : Spec.Usual testLaunching := by
    simp only [Spec.Usual, Spec.Open]
    decide
  refine ⟨u, fun k hk => ?_, by simp only [Spec.Settled]; decide, by unfold Spec.Quiet; decide⟩
  have hv : (0x50100 + BitVec.ofNat 64 (64 * k) : W64).toNat = 0x50100 + 64 * k := by
    revert k
    decide
  exact reached_here _ _ _ _ u (page_here _ _ _ _ _ (.inr (.inl rfl)) (by decide) (by omega)) (apart_idle _ _ _ rfl rfl rfl)
    (by omega) rfl (by omega) (by omega)

/-- The 144 pages of a context area at 0x20000000, all with A and D, and the first fields of an image in their frame. -/
def testAreaPages : Memory :=
  [(0x100000, 0x01), (0x100002, 0x11), (0x100007, 0x80), (0x110008, 0x01), (0x11000A, 0x13), (0x11000F, 0x80)] ++
  ((List.range 144).flatMap fun k => [(0x130000 + 8 * k, 0x2B), (0x130001 + 8 * k, 0xC0), (0x130003 + 8 * k, 0x20)]) ++
  [(0x20000000, 0x46), (0x20000001, 0x43), (0x20000002, 0x54), (0x20000003, 0x58), (0x20000004, 0x01), (0x20000008, 0x20),
   (0x2000000A, 0x04)]

def testArea : State := { testS with mem := testAreaPages }

theorem area_words : ∀ k < 144, testArea.mem.word (0x130000 + 8 * k) = 0x2000C02B := by decide +kernel

theorem test_wit_area :
    Spec.Usual testArea ∧ testArea.th.smode = true ∧ testArea.th.dsp.queue = [] ∧
    (∀ k < 144, ∀ write, Spec.Page testArea true write (0x20000000 + BitVec.ofNat 64 (65536 * k)) (0x130000 + 8 * k) ∧
      Spec.Settled testArea write (0x130000 + 8 * k)) := by
  have u : Spec.Usual testArea := by
    simp only [Spec.Usual, Spec.Open]
    decide +kernel
  refine ⟨u, by decide, by decide, fun k hk write => ?_⟩
  have hv : (0x20000000 + BitVec.ofNat 64 (65536 * k) : W64).toNat = 0x20000000 + 65536 * k := by
    rw [BitVec.toNat_add, BitVec.toNat_ofNat]
    simp only [BitVec.reduceToNat]
    omega
  have e1 : (0x20000000 + 65536 * k) / 2 ^ 42 % 2 ^ 13 = 0 := by omega
  have e2 : (0x20000000 + 65536 * k) / 2 ^ 29 % 2 ^ 13 = 1 := by omega
  have e3 : (0x20000000 + 65536 * k) / 2 ^ 16 % 2 ^ 13 = k := by omega
  have f0 : leafFrame testArea.task.ptbase + 8 * 0 = 0x100000 := by decide
  have h0 : testArea.mem.word 0x100000 = 0x8000000000110001 := by decide +kernel
  have f1 : leafFrame 0x8000000000110001 + 8 * 1 = 0x110008 := by decide
  have h1 : testArea.mem.word 0x110008 = 0x8000000000130001 := by decide +kernel
  have f2 : leafFrame 0x8000000000130001 = 0x130000 := by decide
  simp only [Spec.Page, Spec.Settled, hv, e1, e2, e3, f0, h0, f1, h1, f2, area_words k hk]
  exact ⟨⟨trivial, canonical_low _ (by omega), by cases write <;> decide⟩, by cases write <;> decide⟩

/-- The image there is in order. -/
theorem test_wit_area_image :
    leafFrame (testArea.mem.word 0x130000) = 0x20000000 ∧
    headerOk (testArea.mem.readN 0x20000000 256) testArea.th.tileCount = true ∧
    recordsOk (nodeRecords (testArea.mem.readN 0x20002000 16384)) = true := by
  refine ⟨by decide +kernel, by decide +kernel, ?_⟩
  rw [blank_tail _ _ _ (by decide +kernel)]
  exact records_blank _

/-! ### Witnesses: values, waits and further forms -/

/-- FP32 1.0, 2.0 and -1.0, and the numbers about FP16's largest and smallest that the rounding statements speak of. -/
theorem test_wit_float_numbers :
    Spec.fpNum 0xA 0x3F800000 = 1 ∧ Spec.fpNum 0xA 0x40000000 = 2 ∧ Spec.fpNum 0xA 0xBF800000 = -1 ∧
    Spec.fpMag 0x8 (Spec.fpMax 0x8) = 65504 ∧ Spec.fpMag 0x8 (Spec.fpMax 0x8 - 1) = 65472 ∧
    Spec.fpMag 0x8 (Spec.fpMax 0x8 + 1) = 65536 ∧ Spec.fpMag 0x8 0x3C00 = 1 ∧ Spec.fpMag 0x8 0x3C01 = 1025 / 1024 ∧
    Spec.fpMag 0x8 (2 ^ (Spec.fpShape 0x8).2.1) = 1 / 16384 ∧ Spec.fpMag 0x8 1 = 1 / 16777216 ∧
    Spec.intNum 6 0xFFFFFFFFFFFFFFFF = -1 := by
  have c1 : Spec.fpCode 0xA 0x3F800000 = 0x3F800000 ∧ Spec.fpNeg 0xA 0x3F800000 = false := by decide
  have c2 : Spec.fpCode 0xA 0x40000000 = 0x40000000 ∧ Spec.fpNeg 0xA 0x40000000 = false := by decide
  have c3 : Spec.fpCode 0xA 0xBF800000 = 0x3F800000 ∧ Spec.fpNeg 0xA 0xBF800000 = true := by decide
  have m : Spec.fpMax 0x8 = 31743 := by decide
  simp only [Spec.fpNum, Spec.fpMag, Spec.fpShape, c1, c2, c3, m]
  exact ⟨by norm_num, by norm_num, by norm_num, by norm_num, by norm_num, by norm_num, by norm_num, by norm_num, by norm_num,
    by norm_num, by decide⟩
theorem test_wit_float_operands :
    Spec.fpFin 0xA 0x3F800000 = true ∧ Spec.fpInf 0xA 0xFF800000 = true ∧ Spec.fpNeg 0xA 0xFF800000 = true ∧
    Spec.fpNan 0xA 0x7FC00000 = true ∧ Spec.fpSig 0xA 0x7FC00000 = false ∧ Spec.fpSig 0xA 0x7F800001 = true ∧
    Spec.fpCode 0xA 0x80000000 = 0 ∧ Spec.fpNeg 0xA 0x80000000 = true ∧
    faddVal 0xA 0 true 0x7F800000 0x7F800000 = Spec.invalid 0xA ∧ faddVal 0xA 3 true 0x3F800000 0x3F800000 = ⟨0x80000000, 0⟩ ∧
    fmulVal 0xA 0 0x7F800000 0 = Spec.invalid 0xA ∧ fmulVal 0xA 0 0x80000000 0x3F800000 = ⟨0x80000000, 0⟩ ∧
    ffmaVal 0xA 0 false false 0x7F800000 0 0x7FC00000 = Spec.invalid 0xA ∧
    fdivVal 0xA 0 0xBF800000 0 = ⟨0xFF800000, 8⟩ ∧ fsqrtVal 0xA 0 0x80000000 = ⟨0x80000000, 0⟩ ∧
    fsqrtVal 0xA 0 0xBF800000 = Spec.invalid 0xA ∧ fminmaxVal 0xA false 0 0x80000000 = ⟨0x80000000, 0⟩ ∧
    frndVal 0xA 0 0 true 0x40200000 = ⟨0x40000000, 1⟩ ∧ fcvtVal 4 0xA 0 0 0x4F800000 0 = ⟨0x7FFFFFFF, 0x10⟩ ∧
    fcvtVal 0x8 0xA 0 0 0x47FFE000 0 = ⟨0x7BFF, 5⟩ ∧ fcvtVal 0xC 0xA 0 0 0x7F800000 0 = ⟨0x7E, 5⟩ := by decide +kernel

/-- What the rounding statements ask of their operands; a number that overflows, one that is tiny, and one that is neither. -/
theorem test_wit_float_reals :
    ((Spec.fpNum 0xA 0x3F800000 : ℚ) : ℝ) > 0 ∧ ((Spec.fpNum 0xA 0x3F800000 : ℚ) : ℝ) + (Spec.fpNum 0xA 0x40000000 : ℚ) ≠ 0 ∧
    ((Spec.fpNum 0xA 0x3F800000 : ℚ) : ℝ) * (Spec.fpNum 0xA 0x40000000 : ℚ) ≠ 0 ∧
    Spec.fpNum 0xA 0x3F800000 + Spec.fpNum 0xA 0xBF800000 = 0 ∧ (Spec.intNum 6 0xFFFFFFFFFFFFFFFF : ℚ) ≠ 0 ∧
    Spec.Overflows 0x8 0 false 65520 ∧ ¬ Spec.Overflows 0x8 0 false 65519 ∧ Spec.Tiny 0x8 0 false (1 / 32768) ∧
    ¬ Spec.Tiny 0x8 0 false 1 := by
  obtain ⟨h1, h2, h3, h5, h6, -, -, -, m, u, h10⟩ := test_wit_float_numbers
  have e : Spec.fpMax 0x8 % 2 = 1 := by decide
  refine ⟨by rw [h1]; norm_num, by rw [h1, h2]; norm_num, by rw [h1, h2]; norm_num, by rw [h1, h3]; norm_num,
    by rw [h10]; norm_num, ?_, ?_, ?_, ?_⟩ <;> simp only [Spec.Overflows, Spec.Tiny, h5, h6, m, u, e, if_true] <;> norm_num

/-- A stopped pass in the other slot, and a stopped operation of the matrix engine of 20 units, its handler running. -/
def testStoppedIn (d : Dispatch) : State :=
  let s := testStopped 0x200
  { s with th := { s.th with dsp := d } }

def testSecond : State :=
  testStoppedIn { Dispatch.reset with pass1 := some testPass, stopped := some (.pass .p1), nextSeq := 1 }

def testStoppedOp : State :=
  let o := { testOp (packT 0x86 ⟨2, 0, 3, 4, 0xA, 0, 0, 0, 0, 0, 0, 0⟩) 20 9 with halted := true }
  testStoppedIn { Dispatch.reset with matrix := some o, stopped := some (.op 0), nextSeq := 1 }

theorem test_wit_stopped :
    testSecond.th.smode = true ∧ testSecond.th.tr.trapstat.getLsbD 9 = true ∧ testSecond.th.tr.trapstat.getLsbD 7 = false ∧
    testSecond.th.dsp.pass .p1 = some testPass ∧ testSecond.th.dsp.paused = false ∧ (testStoppedOp.th.dsp.op? 0).isSome = true ∧
    Spec.progressUnit (packT 0x86 ⟨2, 0, 3, 4, 0xA, 0, 0, 0, 0, 0, 0, 0⟩) = 8 ∧
    nextAnd (exec (.tret ⟨0, 0, 0, 0, 0, 0, 0⟩) testSecond) (fun t =>
      (t.th.dsp.pass .p1).map (fun q => (q.halted, q.start, q.p)) == some (false, 16, 16) && t.th.dsp.stopped.isNone) = true ∧
    nextAnd (exec (.tret ⟨0, 0, 0, 0, 0, 0, 1⟩) testSecond) (fun t => (t.th.dsp.pass .p1).isNone) = true ∧
    nextAnd (exec (.vstartWrite ⟨0, 4, 1, 0, 0⟩) testSecond) (fun t =>
      (t.th.dsp.pass .p1).map (fun q => q.start) == some 0 && t.th.vstart == 0) = true ∧
    nextAnd (exec (.vstartWrite ⟨0, 4, 1, 0, 0⟩) testStoppedOp) (fun t =>
      (t.th.dsp.op? 0).map (fun q => (q.prog, q.n, q.halted)) == some (0, 20, true)) = true ∧
    nextAnd (exec (.vstartWrite ⟨0, 3, 1, 0, 0⟩) testStoppedOp) (fun t =>
      (t.th.dsp.op? 0).map (fun q => q.prog) == some 20 && t.th.vstart == 20) = true := by decide

/-- The queue of the doorbell with EN = 0: it reads zero, and so does a narrow load of the doorbell that is enabled. -/
theorem test_wit_doorbells_that_read_zero :
    let off : State := { testS with queues := [testQueue 0 { testConf with en := false }] }
    off.queue? 0 3 = some (testQueue 0 { testConf with en := false }) ∧ bytesOf 2 = 2 ∧
    okAnd (testBell.sAccess 0 false 0x70018 2) (fun r => isRegSpace (r.2.readPa r.1)) = true ∧
    okAnd (off.sAccess 0 false 0x70018 8) (fun r => isRegSpace (r.2.readPa r.1)) = true ∧
    nextAnd (exec (.ld { testLd with a := 6, ty := 2 }) testBell) (fun t => t.x 5 == 0) = true ∧
    nextAnd (exec (.ld { testLd with a := 6 }) off) (fun t => t.x 5 == 0) = true := by decide

/-- A write of the thread that WB keeps back, with a budget to wait on or without one. -/
def testHeldWrite (budget : W64) : State :=
  { testBusy with th := { testBusy.th with
      sr := { testBusy.th.sr with waitbudget := budget }
      dsp := { testBusy.th.dsp with pass0 := testBusy.th.dsp.pass0.map fun p => { p with hold := some ⟨0, 0⟩ } } } }

theorem test_wit_fences_wait :
    testBusy.th.hasPending = false ∧ testBusy.th.unfinished = true ∧ testBusy.th.writeHeld = false ∧
    (testHeldWrite 9).th.writeHeld = true ∧ (testHeldWrite 9).th.sr.waitbudget.toNat % 2 ^ 48 ≠ 0 ∧
    (testHeldWrite 0).th.sr.waitbudget.toNat % 2 ^ 48 = 0 ∧ (testHeldWrite 9).th.fe.wait = none ∧
    testPending.th.hasPending = true ∧ testPending.th.dsp.room 1 = true ∧ testPending.th.writeHeld = false ∧
    nextAnd (exec (.fence ⟨0, 0, 0, 0, 0, 0, 0, 0, 1⟩) testBusy) (fun t =>
      t.th.fe.wait.map (fun w => (w.kind, w.budget)) == some (.fence, none)) = true ∧
    nextAnd (exec (.fence ⟨0, 0, 0, 0, 0, 0, 0, 0, 1⟩) (testHeldWrite 9)) (fun t =>
      t.th.fe.wait.map (fun w => (w.kind, w.budget)) == some (.fence, some 9)) = true ∧
    nextAnd (exec (.fence ⟨0, 0, 0, 0, 0, 0, 0, 0, 1⟩) (testHeldWrite 0)) (fun t => t.th.tr.trapcause == 0x16) = true ∧
    nextAnd (exec (.fence ⟨0, 0, 0, 0, 0, 0, 0, 0, 1⟩) testPending) (fun t =>
      t.th.dsp.queue.map (fun e => (e.word, e.pc)) == [(vpassWord, 0x40008)] && t.th.fe.wait.isSome) = true := by decide

/-- `.vv` has room for its entry, and for the launch of the roots pending. -/
theorem test_wit_fences_complete :
    testU.th.dsp.queue.length + 1 ≤ 32 ∧ testPending.th.dsp.queue.length + 2 ≤ 32 ∧ testU.yieldsTo = false ∧
    nextAnd (exec (.fence ⟨0, 0, 0, 0, 0, 0, 0, 0, 2⟩) testPending) (fun t =>
      t.th.dsp.queue.map (fun e => e.word == vpassWord) == [true, false] && t.th.pc == 0x40010) = true ∧
    nextAnd (exec (.fence ⟨0, 0, 0, 0, 0, 0, 0, 0, 3⟩) testU) (fun t => t.th.pc == 0x40010) = true ∧
    nextAnd (exec (.yield ⟨5, 0, 0, 0, 0, 0, 0⟩) testU) (fun t => t.x 5 == 0 && t.th.pc == 0x40010) = true := by decide

/-- A launch that releases: its queue and its record pass their checks. -/
theorem test_wit_launch_releases : Spec.releases (.launch ⟨5, 3, 7, 0, 0, 0, 0, 0, 0, 0, 0⟩) (testLaunch testFeed 5 3) = true := by
  decide +kernel

/-- Source B of another type, and a mask's name bound to a vector or to nothing. -/
theorem test_wit_other_sources :
    (∃ n, testNames.th.rcp.vnames[2]? = some (some 1) ∧ testNames.th.rcp.node? 1 = some n ∧ n.nty ≠ .elem 0xA) ∧
    testNames.th.rcp.knames[7]? = some none ∧
    (let s : State := { testNames with th := { testNames.th with
        rcp := { testRecipe with knames := testRecipe.knames.setIfInBounds 2 (some 0) } } }
     (∃ n, s.th.rcp.knames[2]? = some (some 0) ∧ s.th.rcp.node? 0 = some n ∧ n.nty ≠ .mask) ∧
     nextAnd (exec (.vadd ⟨8, 1, 1, 0, 0xA, 2, 0, 0, 0⟩) s) (fun t => t.th.tr.trapcause == 4) = true) ∧
    nextAnd (exec (.vadd ⟨8, 1, 2, 0, 0xA, 0, 0, 0, 0⟩) testNames) (fun t => t.th.tr.trapcause == 4) = true ∧
    nextAnd (exec (.vadd ⟨8, 1, 1, 0, 0xA, 7, 0, 0, 0⟩) testNames) (fun t => t.th.tr.trapcause == 4) = true :=
  ⟨⟨_, rfl, rfl, by decide⟩, rfl, ⟨⟨_, rfl, rfl, by decide⟩, by decide⟩, by decide⟩

/-- The translation of the versioned page, whose leaf's STAG is another step's, or with STAG 1 the current one's and H set. -/
def testVx : Xl := ⟨0x120030, 0x22022B, 0x220008⟩

def testStag : State := { testU with mem := (testMem.writeN 0x120031 [0x06]).writeN 0x120036 [0x10] }

def testCmap : State := { testU with tasks := [{ testTask with cmap := 1 }] }

theorem test_wit_halves :
    testU.mem.word 0x120030 = 0x22022B ∧ testU.task.stepno = 1 ∧ testU.task.committed 0x22022B = false ∧
    testU.readPa testVx = 0x220008 ∧ (testU.writePa testVx 1).map (fun r => r.1) = some 0x230008 ∧
    testU.writePa testVx 9 = none ∧ testCmap.task.committed 0x22022B = true ∧ testCmap.readPa testVx = 0x230008 ∧
    (testStag.mem.word 0x120030).extractLsb' 52 8 = testU.task.stepno.setWidth 8 ∧ testStag.mem.wf = true ∧
    testStag.readPa testVx = 0x230008 ∧ (testStag.writePa testVx 1).map (fun r => r.1) = some 0x220008 ∧
    (testStag.mem.word 0x120030).getLsbD 16 = false ∧ testVx.leaf.getLsbD 9 = true ∧
    0x120030 + 8 ≤ inHalf (leafFrame (testStag.mem.word 0x120030)) false ∧
    testU.readPa ⟨0x120028, 0x20002B, 0x200100⟩ = 0x200100 ∧
    (testU.writePa ⟨0x120028, 0x20002B, 0x200100⟩ 9).map (fun r => r.1) = some 0x200100 := by decide

theorem test_wit_pgcnt_poisoned :
    let s : State := { testCount 0x310001 with poison := [0x310000] }
    s.poisoned (leafFrame s.task.pgctrbase + 2) = true ∧ s.shutAt (leafFrame s.task.pgctrbase + 2) = false ∧
    (testCount 0x310001).poisoned 0x310002 = false ∧
    nextAnd (exec (.pgcnt ⟨5, 3, 0, 0, 0, 0, 0, 0, 1⟩) s) (fun t =>
      t.th.tr.trapcause == 0x30A && t.mem.readN 0x310002 2 == [3, 2]) = true := by decide

/-- A thread that jumped out of its code and holds no line, in U mode or in S mode. -/
def testGone (smode : Bool) : State := { testU with th := { testThread with pc := 0x50000, smode := smode } }

theorem test_wit_fetch_outside :
    (testGone false).th.run = .running ∧ (testGone false).th.lineHere = false ∧ (testGone false).task.inCode 0x50000 8 = false ∧
    nextAnd (exec .instructionFetch (testGone false)) (fun t =>
      (t.th.fe.line.bind fun l => l.bad).isSome && t.mem == testMem) = true ∧
    testU.task.inCode testU.th.pc.toNat 8 = true ∧
    nextAnd (exec .instructionFetch (testGone true)) (fun t =>
      (t.th.fe.line.bind fun l => l.bad).any fun i => i.code == 6) = true := by decide

theorem test_wit_fetch_outside_canonical : Spec.Canonical (testGone false).th.pc := canonical_low _ (by decide)

/-- The store of `testOverrun`, issued before the horizon. -/
def testDraining : State := { testOverrun with draining := [(.dram, .posted ⟨0, 0, 0⟩ 4)] }

/-- The horizon of a slot while a posted store may still go. -/
def testHorizon : State :=
  { testPosted testPlain with cal := { Cal.reset with started := true, tick := 25504, done := 16 * 25000 } }

theorem test_wit_drains :
    testDraining.cal.due = some (25664, .overrun .dram) ∧
    ((({ testDraining with cal := { testDraining.cal with done := 16 * 25664 + (CalEvent.overrun .dram).rank + 1 } } :
      State).allFlying .dram false (25664 - 160)).filter fun v => (SlotRes.dram, v) ∈ testDraining.draining) =
        [.posted ⟨0, 0, 0⟩ 4] ∧
    testOverrun.draining = [] ∧ testHorizon.cal.due = some (25504, .horizon .dram) ∧ testHorizon.shut .dram = false ∧
    nextAnd (exec (.drainHorizon .dram) testHorizon) (fun t =>
      t.draining == [(.dram, .posted ⟨0, 0, 0⟩ 4)] && t.cal.dramHeld && !t.cal.dramStopped) = true ∧
    nextAnd (exec (.drainHorizon .dram) { testHorizon with cal := { testHorizon.cal with dramHeld := true } }) (fun t =>
      t.draining.isEmpty) = true ∧
    testU.owed = [] ∧ testU.link.waiting = [] ∧ testU.link.received = [] ∧ testU.heldUnits = [] := by decide

theorem test_wit_fractions_on_cells :
    Spec.oneFractionOnEachCell testEngine.fractions testQConf ∧
    ¬ Spec.oneFractionOnEachCell [⟨1, 0, 0xF, 0, 100, 50, [], []⟩, ⟨2, 0, 0xF0, 0, 100, 50, [], []⟩]
      { testQConf with fractions := [1, 2] } ∧
    testQConf.ptbase.toNat % 65536 = 0 ∧ (0x100100 : W64).toNat % 65536 ≠ 0 ∧
    (let s : State := { testEngine with boot := { testEngine.boot with stage := 1 } }
     s.boot.stage < 2 ∧ s.boot.stage ≠ 0 ∧
     nextAnd (exec (.doorbell 1 3 18) s) (fun t => (t.queue? 1 3).map (fun u => u.prod) == some 5) = true) ∧
    (let s : State := { testEngine with queues := [testQueue 1 { testQConf with en := false }] }
     s.queue? 1 3 = some (testQueue 1 { testQConf with en := false }) ∧
     nextAnd (exec (.doorbell 1 3 18) s) (fun t => (t.queue? 1 3).map (fun u => u.prod) == some 5) = true) := by
  unfold Spec.oneFractionOnEachCell
  decide

/-- A choice that begins a round: the head waits for the pair of a task of its own priority, and its queue has no credit. -/
def testRound : State :=
  { testDisplaced .running with
    queues := [{ testQueue 1 testQConf with cons := 3, ct := -5, fetched := some (testFetched ⟨some [], true, [], false⟩ [] []) },
               { testQueue 1 testQConf with q := 4 }] }

def roundOf (c : Option Choice) (q : Nat) : Bool :=
  match c with
  | some (.round u s) => u.q == q && (s.queue? 1 q).any fun v => 0 < v.ct
  | _ => false

theorem test_wit_round :
    roundOf (testRound.choose? 1) 3 = true ∧
    nextAnd (exec (.taskStart 1 3) testRound) (fun t => ((t.queue? 1 3).any fun v => 0 < v.ct) && t.tasks.length == 1) = true := by
  decide +kernel

/-- A record whose lease holds a page that nothing maps. -/
theorem test_wit_missing_leaf :
    let r : Nat × LeaseRange := (0, ⟨0xC0000, 0x10000, false⟩)
    let s := testReady ⟨some [r], true, [], false⟩ [] []
    startsOn (s.choose? 1) 3 [(0, 0)] = true ∧ s.missing 0x100000 (kernelOf testKernelBytes) [r] ≠ [] ∧
    nextAnd (exec (.taskStart 1 3) s) (fun t => t.tasks.isEmpty && ((t.queue? 1 3).bind fun u => u.fetched).any fun f =>
      !f.letting.ready && f.letting.retry) = true := by decide +kernel

/-- The area of `testImage` lies in whole pages, none of them versioned, each in a frame of its own. -/
theorem test_wit_plain_area :
    ∃ ar s1, testImage.contextArea 0x20000000 1 = .ok (ar, s1) ∧ Spec.PlainArea s1 ar ∧ ∃ x, ar.head? = some x ∧ x.pa = 0x20000000 := by
  have h : okAnd (testImage.contextArea 0x20000000 1) (fun r => r.2.mem.wf && r.2.channelsOut.isEmpty &&
      decide ((r.1.map fun x => x.pa).Nodup) && (r.1.all fun x => !leafVer x.leaf && x.pa % 65536 == 0 && x.pa != 0 &&
        !isRegSpace x.pa) && (r.1.head?.map fun x => x.pa) == some 0x20000000) = true := by decide +kernel
  obtain ⟨⟨ar, s1⟩, h1, h2⟩ := okAnd_exists h
  simp only [Bool.and_eq_true, List.isEmpty_iff, List.all_eq_true, bne_iff_ne, beq_iff_eq, Bool.not_eq_true',
    decide_eq_true_eq] at h2
  obtain ⟨⟨⟨⟨m, c⟩, n⟩, p⟩, k⟩ := h2
  refine ⟨ar, s1, h1, ⟨m, c, n, fun x hx => ?_⟩, ?_⟩
  · obtain ⟨⟨⟨a, b⟩, d⟩, e⟩ := p x hx
    exact ⟨a, b, d, e⟩
  · cases h3 : ar.head? with
    | none => simp [h3] at k
    | some x => exact ⟨x, rfl, by simpa [h3] using k⟩

/-- An image one of whose progress records is in use, and with TRAPSTAT.PEND set. -/
def testUsedMem : Memory := (testAreaMem.writeN 0x200000A8 [0, 1]).writeN 0x20000614 [1]

def testImageUsed : State := { testS with mem := testUsedMem }

theorem test_wit_image_in_use :
    ∃ ar s1, testImageUsed.contextArea 0x20000000 0 = .ok (ar, s1) ∧ s1.imageBad 0x20000000 ar = none ∧
      headerOk (s1.areaRead ar 0 256) testImageUsed.th.tileCount = true ∧
      recordsOk (nodeRecords (s1.areaRead ar 0x2000 16384)) = true ∧
      fieldOf (s1.areaRead ar 0x600 512) (32 * 0 + 20) 1 ≠ 0 ∧
      (wordOf (s1.areaRead ar 0 256) 168 &&& 0xFBC0) ||| 0x200 = 0x300 ∧ Spec.HasTask testImageUsed := by
  have h : okAnd (testImageUsed.contextArea 0x20000000 0) (fun r =>
      r.2.poison.isEmpty && r.2.regions.isEmpty && r.2.stale.isEmpty && r.2.mem == testUsedMem &&
      r.2.areaPa r.1 0x2000 == 0x20002000 && headerOk (r.2.areaRead r.1 0 256) testImageUsed.th.tileCount &&
      fieldOf (r.2.areaRead r.1 0x600 512) 20 1 == 1 && wordOf (r.2.areaRead r.1 0 256) 168 == 0x100) = true := by
    decide +kernel
  obtain ⟨⟨ar, s1⟩, h1, h2⟩ := okAnd_exists h
  simp only [Bool.and_eq_true, List.isEmpty_iff, beq_iff_eq] at h2
  obtain ⟨⟨⟨⟨⟨⟨⟨p, r⟩, t⟩, m⟩, a⟩, hd⟩, u⟩, w⟩ := h2
  refine ⟨ar, s1, h1, imageBad_clean _ _ _ (clean_of_none s1 p r t), hd, ?_, by simp [u], by rw [w]; decide,
    by unfold Spec.HasTask; decide⟩
  have sp : areaSpans 0x2000 16384 = [(0x2000, 16384)] := by decide
  simp only [State.areaRead, sp, List.flatMap_cons, List.flatMap_nil, List.append_nil, a, State.physRead, m]
  rw [blank_tail _ _ _ (by decide)]
  exact records_blank _

/-- Three sources of one element each: nodes 10, 11 and 12, the last one in the recipe. -/
def testWork (a b c : W64) : Work :=
  let s : State := { testU with th := { testThread with rcp := { Recipe.reset 256 with nodes := [testNode 12 0 none none] } } }
  { Work.start s [] [] with memo := [(10, [⟨0, [⟨some a, 5, false⟩]⟩]), (11, [⟨0, [EVal.of b]⟩]), (12, [⟨0, [EVal.of c]⟩])] }

/-- A node of a word over those sources. -/
def testOver3 (word va : W64) : Node :=
  { testNode 3 word (some 10) (some 11) with sc := some 12, va := va, len := 64 }

/-- A node's element is a value with its flags. -/
def elemIs (w : Work) (n : Node) (v : W64) (fl : Flags) : Bool := (w.plainElem ⟨[n], [], []⟩ n 0).1 == ⟨some v, fl, false⟩

theorem at_here (i : Instr) (word va a b c : W64) (h : decodeOpc word = some i) : Spec.At (testWork a b c) (testOver3 word va) i 0 a b c :=
  ⟨h, by simp [Work.pastMask, testOver3, testNode], rfl, rfl, rfl, rfl⟩

/-- VADD of INT8 with and without saturation, VDIV by zero, VADD of FP32, EXP2 of -∞, VCVT, VFLAGS, VSEL and KOP. -/
theorem test_wit_elements :
    Spec.integerElement (.vadd ⟨8, 1, 1, 0, 0, 0, 0, 0, 1⟩) 0 0x7F 1 = some 0x7F ∧
    Spec.integerElement (.vadd ⟨8, 1, 1, 0, 0, 0, 0, 0, 0⟩) 0 0x7F 1 = some 0x80 ∧
    Spec.integerElement (.vdiv ⟨8, 1, 1, 0, 2, 0, 0, 0, 0⟩) 0 5 0 = some 0xFFFF ∧
    elemIs (testWork 0x7F 1 0) (testOver3 (packX 0x40 ⟨8, 1, 1, 0, 0, 0, 0, 0, 1⟩) 0) 0x7F 0 = true ∧
    elemIs (testWork 0x7F 1 0) (testOver3 (packX 0x40 ⟨8, 1, 1, 0, 0, 0, 0, 0, 0⟩) 0) 0x80 0 = true ∧
    elemIs (testWork 5 0 0) (testOver3 (packX 0x44 ⟨8, 1, 1, 0, 2, 0, 0, 0, 0⟩) 0) 0xFFFF 0 = true ∧
    Spec.floatElement (.vadd ⟨8, 1, 1, 0, 0xA, 0, 0, 0, 0⟩) 0 0 0x3F800000 0x3F800000 0 = some ⟨0x40000000, 0⟩ ∧
    elemIs (testWork 0x3F800000 0x3F800000 0) (testOver3 (packX 0x40 ⟨8, 1, 1, 0, 0xA, 0, 0, 0, 0⟩) 0) 0x40000000 0 = true ∧
    elemIs (testWork 0xFF800000 0 0) (testOver3 (packX 0x50 ⟨8, 1, 0, 0, 0xA, 0, 0, 0, 0⟩) 0) 0 0 = true ∧
    elemIs (testWork 0xFF800000 0 0) (testOver3 (packX 0x4D ⟨8, 1, 0, 0, 8, 0, 0, 0, 0xA⟩) 0) 0xFC00 0 = true ∧
    elemIs (testWork 0 0 0) (testOver3 (packX 0x6F ⟨2, 1, 0, 0, 0, 0, 0, 0, 4⟩) 0) 1 0 = true ∧
    elemIs (testWork 3 4 0) (testOver3 (packX 0x4F ⟨8, 1, 1, 1, 7, 0, 0, 0, 0⟩) 0) 4 0 = true ∧
    elemIs (testWork 1 0 0) (testOver3 (packX 0x6D ⟨2, 1, 1, 0, 0, 0, 0, 0, 3⟩) 0) 1 0 = true ∧
    (0 : BitVec 13).getLsbD 8 = false := by decide +kernel

/-- A masked-off element of a leaf and of a node with a source; an enabled flag is a fault of its element. -/
theorem test_wit_masked_elements :
    let w := testWork 7 0 0
    let n := { testOver3 (packX 0x40 ⟨8, 1, 1, 0, 7, 1, 0, 0, 0⟩) 0 with sk := some 12 }
    let l := { testOver3 (packJ 0x5B ⟨8, 4, 7, 1, 0, 0, 0⟩) 9 with sa := none, sk := some 12 }
    w.mask n 0 = some false ∧ n.isLeaf = false ∧ w.mask l 0 = some false ∧ l.isLeaf = true ∧ w.pastMask n 0 = false ∧
    w.pastMask l 0 = false ∧
    elemIs w n 7 5 = false ∧ elemIs w n 7 0 = true ∧ elemIs w l 0 0 = true ∧
    (w.note { n with fctrl := 0x100 } 0 1).faults.map (fun f => (f.elem, f.code)) = [(0, 0x12)] ∧
    (w.note n 0 1).faults.length = 0 := by decide +kernel

/-- A slide inside its source and beyond it, an expansion, a splat, an index and a transposed tile. -/
theorem test_wit_moved_elements :
    let w := testWork 7 0 0
    let slide (d : BitVec 32) : Node := testOver3 (packJ 0x5E ⟨8, 1, 7, 0, 0, 0, d⟩) 0
    (w.slideElem (slide 0) 0 0).1 = ⟨some 7, 0, false⟩ ∧ (w.slideElem (slide 0xFFFFFFFF) (-1) 0).1 = ⟨some 0, 0, false⟩ ∧
    (slide 0).size = 64 ∧
    ((w.bcastNode { testOver3 (packX 0x5D ⟨8, 1, 4, 0, 7, 0, 0, 0, 1⟩) 1 with len := 8 } ⟨8, 1, 4, 0, 7, 0, 0, 0, 1⟩ [(2, 4)]).1.map
      fun g => (g.lo, g.vals)) = [(2, [⟨some 7, 0, false⟩, ⟨some 7, 0, false⟩])] ∧
    elemIs w (testOver3 (packJ 0x5B ⟨8, 4, 7, 0, 0, 0, 0⟩) 9) 9 0 = true ∧
    elemIs w (testOver3 (packJ 0x5C ⟨8, 4, 7, 0, 0, 0, 2⟩) 9) 9 0 = true ∧
    (w.s.th.tile 0).poisoned = [] ∧
    elemIs w (testOver3 (packT 0x62 ⟨0, 0, 9, 4, 0xA, 0, 0, 0, 0, 0, 0, 0⟩) 3) 0 0 = true := by decide +kernel

/-- Folds: a scan's first and second element, a segment's last, a lane of a reduction, and the tree over four lanes. -/
theorem test_wit_folds :
    let w := testWork 5 0 0
    let f : FX := ⟨8, 1, 0, 0, 6, 0, 0, 0, 0⟩
    let g : FX := ⟨8, 1, 2, 0, 6, 0, 0, 0, 0⟩
    let r : FM := ⟨1, 0, 5, 6, 0, 0, 0, 0, 0, 0, 0⟩
    let red := testOver3 (packM 0x68 r) 0
    Spec.foldOf 0 6 false 3 5 = ⟨8, 0⟩ ∧ Spec.foldNext 0 0xA false none 0x7F800001 = ⟨0x7F800001, 0⟩ ∧
    ((w.scanElem (testOver3 (packX 0x6A f) 0) f ⟨some 3, false⟩ 0).1 = ⟨some 8, 0, false⟩) ∧
    ((w.scanElem (testOver3 (packX 0x6A f) 0) f ⟨none, false⟩ 0).1 = ⟨some 5, 0, false⟩) ∧
    ((w.segElem (testOver3 (packX 0x69 g) 1) g ⟨some 3, false⟩ 0 0).1 = some ⟨some 5, 0, false⟩) ∧
    (w.lanes red 4).length = 4 ∧ (w.reduce red r 4 9 5).lanes red 4 = [none, some 5, none, none] ∧
    redResult r [some 1, none, some 2, some 3, some 4] = (10, 0) ∧ redResult r [none, none] = (0, 0) ∧
    Instr.wf (.vred r) = true := by decide +kernel

/-- The page of 0x50000 with its A and D bits, and a recipe whose node 1 holds 64-bit indices. -/
def testSettled : State :=
  { testU with mem := testMem.writeN 0x120029 [0xC0], th := { testThread with rcp := testRecipe } }

/-- Roots that write to 0x50800, before their first element; VCST has written two. -/
def testPrep : Prep := ⟨Work.start testSettled [⟨3, [some 2]⟩] [], [], none⟩

/-- Where a root writes, and what. -/
def writes (n : Node) (e : Nat) (a b : W64) (va : W64) (bytes mask : List Byte) : Bool :=
  okAnd (testSettled.check n.smode 1 va bytes.length) (fun r =>
    leafCls r.1.leaf != clsDev && !leafSd r.1.leaf && !leafVer r.1.leaf && !(r.2.heldWrite false r.1 bytes.length).1 &&
    !leafLoc r.1.leaf && decide ((testPrep.rootElem 16 n e a b).acts = [.write ⟨n, e, va, r.1, bytes, mask⟩]))

theorem test_wit_roots :
    let f : FM := ⟨1, 3, 2, 4, 0, 0, 0, 0, 0, 0, 0⟩
    (testNode 3 (packM 0x64 { f with b := 0 }) (some 0) none).instr = some (.vst { f with b := 0 }) ∧
    writes { testNode 3 (packM 0x64 { f with b := 0 }) (some 0) none with va := 0x50800 } 3 0x01020304 0 0x5080C
      [4, 3, 2, 1] [0xFF, 0xFF, 0xFF, 0xFF] = true ∧
    writes { testNode 3 (packM 0x64 { f with fn := 2 }) (some 0) none with va := 0x50800, vb := 0xFFFFFFFFFFFFFFF8 } 1 5 0 0x507F8
      [5, 0, 0, 0] [0xFF, 0xFF, 0xFF, 0xFF] = true ∧
    writes { testNode 3 (packM 0x65 f) (some 0) (some 1) with va := 0x50800 } 3 5 2 0x50808
      [5, 0, 0, 0] [0xFF, 0xFF, 0xFF, 0xFF] = true ∧
    (testSettled.th.rcp.node? 1).map Node.nty = some (.elem 7) ∧
    writes { testNode 3 (packM 0x66 f) (some 0) none with va := 0x50800 } 9 5 0 0x50808
      [5, 0, 0, 0] [0xFF, 0xFF, 0xFF, 0xFF] = true ∧
    writes { testNode 3 (packM 0x67 { f with ty := 0 }) (some 0) none with va := 0x50801 } 9 1 0 0x50802 [2] [2] = true ∧
    bytesOf 4 = 4 := by decide +kernel

theorem test_wit_performed_write :
    let r : RootWrite := ⟨testNode 3 0 none none, 0, 0x50103, ⟨0x120028, 0x20C02B, 0x200103⟩, [0x11, 0x22, 0x33], [0xFF, 0x0F, 0x00]⟩
    leafVer r.x.leaf = false ∧ leafLoc r.x.leaf = false ∧ isDram r.x.pa = true ∧ testSettled.mem.wf = true ∧
    testSettled.channelsOut = [] ∧ r.mask.length = r.bytes.length ∧
    (testSettled.performActs [.write r]).1.mem.readN 0x200100 8 = [0x78, 0x56, 0, 0x11, 0x02, 0, 0, 0x80] := by decide

theorem test_wit_tiles :
    let f : FT := ⟨2, 3, 0, 0, 0, 0, 0, 0, 0, 0, 0, 0⟩
    let s := testMatrix (packT 0x84 f) 1 0
    let t := testMatrix (packT 0x85 f) 1 0
    decodeOpc (packT 0x84 f) = some (.maddt f) ∧ decodeOpc (packT 0x85 f) = some (.mtrn f) ∧ s.th.run = .running ∧
    (s.th.dsp.matrix.all fun o => o.going) = true ∧ (t.th.dsp.matrix.all fun o => o.going) = true ∧
    (s.th.tile 2).poisoned = [] ∧ (s.th.tile 3).poisoned = [] ∧
    (s.th.dsp.matrix.all fun o => o.e.fctrl == 0) = true ∧ (List.replicate 128 (0 : W64)).length = 128 ∧
    (List.replicate 512 (0 : Byte)).length = 512 := by decide +kernel

/-- Two P by one N: la = 0, whose exponential is 1. -/
theorem test_wit_recurrent :
    (exp32 (regVal 0xA 0)).1 = regVal 0xA 0x3F800000 ∧
    (let v (x : W64) : Val := regVal 0xA x
     let r := recurrentStep [[v 0x3F800000], [v 0]] (v 0) (v 0) [v 0x3F800000] [v 0x40000000] [v 0x3F800000, v 0x40000000]
     r.h = [[v 0x40000000], [v 0x40000000]] ∧ r.y = [v 0x40800000, v 0x40800000]) := by decide +kernel

/-- A copy, or a fill, of 40 bytes to 0x50400 in the page of 0x50000. -/
def testMove (w : W64) : State :=
  { testSettled with th := { testThread with dsp := { Dispatch.reset with
      copy := some { testOp w 40 0 with e := { testEntry 0 w none with a := 0x50100, b := 0x0102, c := 0x50400 } }, nextSeq := 1 } } }

theorem test_wit_copies :
    let f : FM := ⟨5, 3, 0, 3, 0, 0, 0, 0, 0, 0, 0⟩
    decodeOpc (packM 0xB0 f) = some (.cpy f) ∧ decodeOpc (packM 0xB4 f) = some (.cpyf f) ∧ f.fnAt 3 5 = 0 ∧
    (∀ w ∈ [packM 0xB0 f, packM 0xB4 f], ∃ o, (testMove w).th.dsp.copy = some o ∧ o.going = true ∧ o.dev = false ∧
      o.keep = [] ∧ o.e.smode = false ∧ o.n = 40 ∧ o.prog = 0 ∧ o.e.a = 0x50100 ∧ o.e.c = 0x50400) ∧
    Spec.placeOf (testMove (packM 0xB0 f)) 0x50400 0x120028 = 0x200400 ∧ 0x120028 + 8 ≤ 0x200400 ∧
    nextAnd (exec .copyUnit (testMove (packM 0xB0 f))) (fun t =>
      t.mem.readN 0x200400 8 == [0x78, 0x56, 0, 0, 0, 0, 0, 0x80]) = true ∧
    nextAnd (exec .copyUnit (testMove (packM 0xB4 f))) (fun t => t.mem.readN 0x200400 4 == [2, 1, 2, 1]) = true := by
  refine ⟨by decide, by decide, by decide, fun w _ => ⟨_, rfl, rfl, rfl, rfl, rfl, rfl, rfl, rfl, rfl⟩, by decide, by decide,
    by decide, by decide⟩

theorem test_wit_copy_pages (w : W64) (va : W64) (hv : va.toNat / 2 ^ 16 = 5) (write : Bool) :
    Spec.Usual (testMove w) ∧ (testMove w).pairs = [] ∧ Spec.Page (testMove w) false write va 0x120028 ∧
    Spec.Settled (testMove w) write 0x120028 ∧ Spec.Leased (testMove w).task write 0x50400 40 := by
  have u : Spec.Usual testSettled := by
    simp only [Spec.Usual, Spec.Open]
    decide
  have d : Spec.Settled testSettled write 0x120028 := by
    simp only [Spec.Settled]
    cases write <;> decide
  have h : pageHere testSettled 0x20C02B = true := by decide
  exact ⟨u, rfl, page_here (testMove w) _ _ _ _ (.inr (.inr rfl)) h hv, d,
    leased_of_range _ _ _ _ (0, ⟨0x50000, 0x60000, true⟩) (List.mem_singleton.2 rfl) rfl (by decide) (by decide)⟩

/-! ### The manual's own words and worked numbers -/

/-- The words worked out in Scalar execution, Stream unit instructions and Matrix engine. -/
theorem test_manual_words_1 :
    decode 0x008A30E000000001 = .ok (.add ⟨5, 6, 7, 0, 0, 0, 0, 0, 1⟩) ∧
    decode 0x0D8A3000000010C8 = .ok (.ext ⟨5, 6, 0, 0, 0, 0, 0, 0, 0x10C8⟩) ∧
    decode 0x0E8C390050000000 = .ok (.fadd ⟨6, 7, 8, 0, 0xA, 0, 0, 0, 0⟩) ∧
    decode 0x148D2400FFFFFFFC = .ok (.br ⟨3, 9, 2, 0, 0xFFFFFFFC⟩) ∧
    decode 0x16140000FFFFFFFD = .ok (.loop ⟨5, 0, 0, 0, 0xFFFFFFFD⟩) ∧
    decode 0x268C2801C800000A = .ok (.vcvt ⟨6, 5, 0, 3, 9, 0, 0, 0, 0xA⟩) ∧
    decode 0x270408E050000002 = .ok (.vcmp ⟨2, 1, 7, 0, 0xA, 0, 0, 0, 2⟩) ∧
    decode 0x3406026800000000 = .ok (.vred ⟨3, 0, 9, 0xA, 0, 0, 0, 0, 0, 0, 0⟩) ∧
    decode 0x6814706800009000 = .ok (.vtb ⟨10, 7, 1, 0xA, 0, 0, 0, 0, 0, 9, 0⟩) ∧
    decode 0x4010213DE1D00000 = .ok (.mopa ⟨1, 0, 4, 9, 0xE, 0xF, 0, 3, 1, 2, 0, 0⟩) ∧
    decode 0x458030FE00000001 = .ok (.bload ⟨0, 0, 6, 7, 0xF, 0, 0, 0, 0, 0, 0, 1⟩) ∧
    decode 0x4690A00000780000 = .ok (.msave ⟨1, 0, 20, 0, 0, 0, 0, 0, 1, 7, 0, 0⟩) := by decide

/-- Words from the chapters on hints, synchronisation, tasks and the almanac; the last is the worked VADD whose hint sets the
must-understand bit. -/
theorem test_manual_words_2 :
    decode 0x1394314000300000 = .ok (.ldpair ⟨10, 3, 5, 0, 0, 0, 0, 0, 3, 0, 0⟩) ∧
    decode 0x1A80500100000000 = .ok (.setvl ⟨0, 10, 0, 0, 0, 1, 0⟩) ∧
    decode 0x1C00000000000011 = .ok (.fence ⟨0, 0, 0, 0, 0, 0, 0, 0, 0x11⟩) ∧
    decode 0x6210401800004000 = .ok (.ldaq ⟨8, 4, 0, 6, 0, 0, 0, 0, 0, 4, 0⟩) ∧
    decode 0x6292501800004000 = .ok (.strl ⟨9, 5, 0, 6, 0, 0, 0, 0, 0, 4, 0⟩) ∧
    decode 0x6580000000000000 = .ok (.cbar ⟨0, 0, 0, 0, 0, 0, 0⟩) ∧
    decode 0x618440E800002000 = .ok (.vamo ⟨2, 4, 3, 0xA, 0, 0, 0, 0, 0, 2, 0⟩) ∧
    decode 0x6510480000000103 = .ok (.cdamo ⟨8, 9, 0, 0, 0, 0, 0x103⟩) ∧
    decode 0x6C10424000000000 = .ok (.launch ⟨8, 4, 9, 0, 0, 0, 0, 0, 0, 0, 0⟩) ∧
    decode 0x6D9220A000000000 = .ok (.leaseq ⟨9, 4, 5, 0, 0, 0, 0, 0, 0⟩) ∧
    decode 0x1D0E300000000000 = .ok (.slotgate ⟨7, 6, 0, 0, 0, 0, 0⟩) ∧
    decode 0x6900000000000000 = .ok (.lstop ⟨0, 0, 0, 0, 0, 0, 0⟩) ∧
    decode 0x2006084050108000 = .error .hintUnsupported := by decide

/-- Scalar execution: `ext.s` of 0xB00 gives -5, and 0x41 << 32 less 0x7FFFFFF0 is 0x4080000010. -/
theorem test_manual_scalar :
    nextAnd (exec (.ext ⟨5, 6, 0, 0, 0, 0, 0, 0, 0x10C8⟩) { testU with th := { testThread with xs := testXs.setIfInBounds 6 0xB00 } })
      (fun t => t.x 5 == 0xFFFFFFFFFFFFFFFB) = true ∧
    nextAnd (exec (.lui ⟨5, 0, 0, 0, 0, 0, 0x41⟩) testU) (fun t => t.x 5 == 0x4100000000) = true ∧
    nextAnd (exec (.addi ⟨5, 5, 0, 0, 0, 0, 0x80000010⟩) { testU with th := { testThread with
      xs := testXs.setIfInBounds 5 0x4100000000 } }) (fun t => t.x 5 == 0x4080000010) = true := by decide

/-- Execution model: weights 3 and 1 share the lane groups 12 to 4. -/
theorem test_manual_lane_shares : laneShares [3, 1] = [12, 4] := by decide

/-- State-space engine: 2^-7.5 and 2^-0.5 in FP32. -/
theorem test_manual_exp2 :
    (exp2Rne (.fin true 15 (-1))).bits = 0x3BB504F3 ∧ (exp2Rne (.fin true 1 (-1))).bits = 0x3F3504F3 := by decide +kernel

/-- Number formats: the worked LNS6 square; (3, 5) decodes to 1.0, and the transposed block's header. -/
theorem test_manual_square :
    let b : List Byte := [0x01, 0x81, 0xFC, 0xFF, 0xA8, 0xAA, 0, 0] ++ leBytes 48 (packCodes 0
      ((List.range 64).map fun k => if k == 0 then 0x0D else if k < 8 then 0 else if k == 56 then 0x18 else if 56 < k then 0
        else if k % 8 == 0 then 4 else 0x0C)) ++ List.replicate 8 0
    (decodeSq (Square.ofBytes b) 3 5).map (fun v => (arith 0xA rne v 0).bits) = some 0x3F800000 ∧
    (transposeBlock b).take 8 = [0x01, 0x81, 0xA8, 0xAA, 0xFC, 0xFF, 0, 0] ∧ (Square.ofBytes (transposeBlock b)).elem 0 = 0x0D := by
  decide +kernel

end Sys2Proof.Tests
end

/-! The sequencer's steps (R13, R191, R156): what the head entry does, a launch, and the end of an engine operation. -/

namespace Sys2Proof.Laws

open Sys2Proof Sys2Proof.Machine

/-! ### Lane groups that move (R29) -/

theorem groupless_shrinkLanes (u : Thread) (b : Option HwId) :
    Spec.groupless (u.shrinkLanes b) = Spec.groupless u := by
  unfold Thread.shrinkLanes
  split <;> rfl

/-- An update of the threads of a pair that only moves lane groups. -/
theorem groupless_onSlots (s : State) (c p : Nat) (f : Thread → Thread)
    (h : ∀ u, Spec.groupless (f u) = Spec.groupless u) :
    Spec.groupless (s.onSlots c p f).th = Spec.groupless s.th ∧
      (s.onSlots c p f).rest.map Spec.groupless = s.rest.map Spec.groupless := by
  have h1 : ∀ u : Thread, Spec.groupless (if u.activeOn c p then f u else u) = Spec.groupless u := by
    intro u; split
    · exact h u
    · rfl
  exact ⟨h1 s.th, by simp [State.onSlots, State.mapThreads, h1]⟩

/-- R29: as lane groups move, every thread keeps all but its groups. -/
theorem groupless_moveLanes (s : State) (c p : Nat) (b : Option HwId) :
    Spec.groupless (s.moveLanes c p b).th = Spec.groupless s.th ∧
      (s.moveLanes c p b).rest.map Spec.groupless = s.rest.map Spec.groupless := by
  obtain ⟨h1, h2⟩ := groupless_onSlots s c p (fun u => u.shrinkLanes b) (fun u => groupless_shrinkLanes u b)
  unfold State.moveLanes
  dsimp only
  refine ⟨(groupless_onSlots _ c p _ ?_).1.trans h1, (groupless_onSlots _ c p _ ?_).2.trans h2⟩
  all_goals exact fun _ => rfl

/-! ### What a thread keeps as one of its operations ends -/

theorem lower_eq (t : Thread) (w : W64) : t.lower w = { t with cc := (t.lower w).cc } := by
  unfold Thread.lower
  split <;> rfl

theorem mem_shelved {d : Dispatch} {u : EngineUnit} {o : Op} (h : o ∈ d.shelved u) : o ∈ d.shelf :=
  List.mem_of_find?_eq_some h

/-- R272: going back to an engine makes no new operation. -/
theorem mem_ops_of_unshelve {d : Dispatch} {o : Op} (h : o ∈ d.unshelve.ops) : o ∈ d.ops := by
  have back (e : Option Op) (u : EngineUnit) (he : o ∈ e.or (if e.isNone then d.shelved u else none)) :
      o ∈ e ∨ o ∈ d.shelf := by
    cases e with
    | none => exact .inr (mem_shelved (by simpa using he))
    | some x => exact .inl (by simpa using he)
  simp only [Dispatch.ops, List.mem_append, Option.mem_toList] at h ⊢
  obtain (((h | h) | h) | h) | h := h
  · have := back _ _ h; tauto
  · have : o ∈ d.bloads := h; tauto
  · have := back _ _ h; tauto
  · have := back _ _ h; tauto
  · have := List.mem_of_mem_filter h; tauto

/-- An operation that is removed is none of the thread's any more. -/
theorem op?_dropOp (d : Dispatch) (seq : Nat) : (d.dropOp seq).op? seq = none := by
  have ne (o : Op) (h : o ∈ (d.dropOp seq).ops) : o.e.seq ≠ seq := by
    have h1 := mem_ops_of_unshelve h
    simp only [Dispatch.ops, List.mem_append, Option.mem_toList, Option.filter_eq_some_iff,
      List.mem_filter] at h1
    simp only [bne_iff_ne] at h1
    tauto
  simpa [Dispatch.op?] using ne

/-- R156, R166: what the end of an operation leaves of its thread. -/
structure OpEnded (t u : Thread) (o : Op) : Prop where
  xs : u.xs = t.xs
  pc : u.pc = t.pc
  sr : u.sr = t.sr
  tr : u.tr = t.tr
  queue : u.dsp.queue = t.dsp.queue
  cc : u.cc = (t.lower o.e.word).cc
  gone : u.dsp.op? o.e.seq = none

theorem endOp_ended (t : Thread) (o : Op) : OpEnded t (t.endOp o) o := by
  unfold Thread.endOp
  rw [lower_eq]
  dsimp only
  split
  case h_1 i _ _ =>
    cases i
    all_goals exact ⟨rfl, rfl, rfl, rfl, rfl, rfl, op?_dropOp _ _⟩
  case h_2 => exact ⟨rfl, rfl, rfl, rfl, rfl, rfl, op?_dropOp _ _⟩

theorem lower_cc_eq {t u : Thread} (w : W64) (h : u.cc = t.cc) : (u.lower w).cc = (t.lower w).cc := by
  unfold Thread.lower
  split
  · simp [Thread.ccDown, h]
  · exact h

/-- R270, R273, R289: what a completed operation leaves besides lies in a tile, the SSB or the B store. -/
theorem complete_ended (t : Thread) (o : Op) : OpEnded t (t.complete o) o := by
  have keep (u : Thread) (hx : u.xs = t.xs) (hp : u.pc = t.pc) (hs : u.sr = t.sr) (ht : u.tr = t.tr)
      (hd : u.dsp = t.dsp) (hc : u.cc = t.cc) : OpEnded t (u.endOp o) o := by
    obtain ⟨xs, pc, sr, tr, queue, cc, gone⟩ := endOp_ended u o
    exact ⟨xs.trans hx, pc.trans hp, sr.trans hs, tr.trans ht, hd ▸ queue, cc.trans (lower_cc_eq _ hc), gone⟩
  unfold Thread.complete
  split
  · split <;> exact keep _ rfl rfl rfl rfl rfl rfl
  · split <;> exact keep _ rfl rfl rfl rfl rfl rfl
  · exact keep _ rfl rfl rfl rfl rfl rfl
  · exact keep _ rfl rfl rfl rfl rfl rfl

/-! ### The head entry and its launch (R13, R191) -/

theorem exec_entryStart (s t : State) (hr : s.th.run = .running) (h : s.startNow = some t) :
    exec .entryStart s = .next t := by
  show execEntryStart s = .next t
  simp [execEntryStart, hr, h]

/-- R229: a launch that reaches no VLDX reads no block. -/
theorem launchBlocks_of_no_vldx (start : Nat) (ns : List Node) (s : State)
    (h : ∀ n ∈ ns, ∀ f, n.instr ≠ some (.vldx f)) : s.launchBlocks start ns = (Work.start s [] [], []) := by
  induction ns with
  | nil => rfl
  | cons n ns ih =>
    rw [State.launchBlocks]
    split
    · exact absurd ‹_› (h n (by simp) _)
    · exact ih fun m hm => h m (by simp [hm])

theorem pass_setPass (t : Thread) (i : PassSlot) (p : Option Pass) : (t.setPass i p).dsp.pass i = p := by
  cases i <;> rfl

/-- R191: a launch whose checks find nothing, and that reads no block, makes its pass ready. -/
theorem launchPass_ready (s : State) (i : PassSlot) (p : Pass) (hs : p.skipped = false) (ht : p.treeOnly = false)
    (hv : ∀ n ∈ s.th.rcp.reach p.roots, ∀ f, n.instr ≠ some (.vldx f)) (hb : s.th.launchBad p.roots p.start = none) :
    s.launchPass i p = s.setPass i (some { p with
      ready := true, since := s.now, blocks := [], len := passLength (s.th.rcp.reach p.roots) p.roots }) := by
  simp [State.launchPass, hs, ht, hb, launchBlocks_of_no_vldx _ _ _ hv, Work.start, pickFault]

/-- What a launch checks of a thread stands in its nodes and tiles. -/
theorem launchBad_congr (t u : Thread) (roots : List Nat) (start : Nat) (hn : u.rcp.nodes = t.rcp.nodes)
    (ht : u.tiles = t.tiles) : u.launchBad roots start = t.launchBad roots start := by
  have hleaf : u.leafBad = t.leafBad := by
    funext n; simp [Thread.leafBad, Thread.tile, ht]
  have hnode : u.rcp.node? = t.rcp.node? := by
    funext n; simp [Recipe.node?, hn]
  have hreach : u.rcp.reach = t.rcp.reach := by
    funext n; simp [Recipe.reach, hn]
  have hsize : u.rcp.sizesOk = t.rcp.sizesOk := by
    funext n; simp [Recipe.sizesOk, Recipe.srcsSized, hnode]
  have hseg : u.rcp.segMismatch = t.rcp.segMismatch := by
    funext n; simp [Recipe.segMismatch, hreach]
  simp [Thread.launchBad, hreach, hsize, hseg, hleaf, hnode]

/-! ### The five things a head entry may do -/

theorem head_drop (s : State) (e : Entry) (hr : s.th.run = .running) (he : s.th.headEntry = some e)
    (hp : s.th.plan = .drop) : exec .entryStart s = .next { s with th := s.th.unqueue e } :=
  exec_entryStart s _ hr (by simp [State.startNow, hp, he])

theorem head_pend (s : State) (e : Entry) (k : Nat) (hr : s.th.run = .running) (he : s.th.headEntry = some e)
    (hp : s.th.plan = .pend k) : exec .entryStart s =
      .next { s with th := { s.th.unqueue e with rcp := { s.th.rcp with pending := s.th.rcp.pending ++ [k] } } } :=
  exec_entryStart s _ hr (by simp [State.startNow, hp, he, Thread.unqueue])

theorem head_fence (s : State) (e : Entry) (hr : s.th.run = .running) (he : s.th.headEntry = some e)
    (hp : s.th.plan = .fence) (h1 : s.th.dsp.passes = []) (h2 : s.th.dsp.ops = []) :
    exec .entryStart s = .next ({ s with th := s.th.unqueue e } : State).mergeRemote :=
  exec_entryStart s _ hr (by simp [State.startNow, hp, he, Thread.fenceFree, h1, h2])

theorem head_engine (s t : State) (e : Entry) (hr : s.th.run = .running) (he : s.th.headEntry = some e)
    (hp : s.th.plan = .engine) (h : s.startEngine e = some t) : exec .entryStart s = .next t :=
  exec_entryStart s t hr (by simp [State.startNow, hp, he, h])

/-- The thread from which an entry's launch takes the entry and its roots, before the pass stands in its slot. -/
def launched (t : Thread) (e : Entry) (roots : List Nat) : Thread :=
  { t.unqueue e with rcp := { t.rcp with pending := t.rcp.pending.filter fun k => !roots.contains k } }

theorem unqueue_queue (t : Thread) (e : Entry) :
    (t.unqueue e).dsp.queue = t.dsp.queue.filter fun q => q.seq ≠ e.seq := by
  refine List.filter_congr fun q _ => ?_
  by_cases h : q.seq = e.seq <;> simp [h]

theorem setPass_setPass (t : Thread) (i : PassSlot) (p q : Option Pass) :
    (t.setPass i p).setPass i q = t.setPass i q := by cases i <;> rfl

/-- R191: the pass of some roots once its launch has been made. -/
def readyPass (s : State) (e : Entry) (roots : List Nat) : Pass :=
  { s.th.newPass s.now roots e true with
    ready := true, since := s.now, blocks := [], len := passLength (s.th.rcp.reach roots) roots }

/-- R191: the launch of the entry's own pass, where its checks find nothing and it reads no block. -/
theorem head_launch (s : State) (e : Entry) (i : PassSlot) (roots : List Nat) (hr : s.th.run = .running)
    (he : s.th.headEntry = some e) (hp : s.th.plan = .launch roots true) (hu : s.th.dsp.unready = none)
    (hf : s.th.dsp.freeSlot = some i) (hl : s.th.launchable e.seq roots = true)
    (hv : ∀ n ∈ s.th.rcp.reach roots, ∀ f, n.instr ≠ some (.vldx f)) (hb : s.th.launchBad roots 0 = none) :
    exec .passLaunch s =
      .next { s with th := (launched s.th e roots).setPass i (some (readyPass s e roots)) } := by
  let p := s.th.newPass s.now roots e true
  let s1 : State := { s with th := (launched s.th e roots).setPass i (some p) }
  have go : s.launchNow = some (s1.launchPass i p) := by
    simp only [State.launchNow, hu, hp, he, hf, hl]; rfl
  have nodes : s1.th.rcp.nodes = s.th.rcp.nodes := by cases i <;> rfl
  have tiles : s1.th.tiles = s.th.tiles := by cases i <;> rfl
  have reach : s1.th.rcp.reach roots = s.th.rcp.reach roots := by simp [Recipe.reach, nodes]
  have ready := launchPass_ready s1 i p rfl rfl (reach ▸ hv) ((launchBad_congr _ _ roots 0 nodes tiles).trans hb)
  show execPassLaunch s = _
  simp only [execPassLaunch, hr, beq_self_eq_true, if_true, go, ready, Option.getD_some]
  rw [State.setPass, setPass_setPass, show p.roots = roots from rfl, reach]
  rfl

theorem pass_frame (t : Thread) (i : PassSlot) (p : Option Pass) :
    (t.setPass i p).rcp = t.rcp ∧ (t.setPass i p).dsp.queue = t.dsp.queue ∧ (t.setPass i p).xs = t.xs ∧
      (t.setPass i p).sr = t.sr := by cases i <;> exact ⟨rfl, rfl, rfl, rfl⟩

/-- R156, R328: an operation whose units are done, and that nothing is owed to its arrival word for, is over. -/
theorem opOver_of_done (s : State) (o : Op) (hh : o.halted = false) (hn : o.n ≤ o.prog) (hk : o.keep = [])
    (hw : ∀ w ∈ s.owed, ∀ pa n, w.kind ≠ .arrive pa n (some (s.th.hw, o.e.seq))) : s.opOver o = true := by
  have done : o.over = true := by simp [Op.over, hh, hn, hk]
  rw [State.opOver, done, Bool.true_and, Bool.not_eq_true', List.any_eq_false]
  intro w h
  split
  · next pa n u hu =>
    intro he
    exact hw w h pa n (by rw [hu, eq_of_beq he])
  · simp

theorem exec_operationComplete (s : State) (u : EngineUnit) (o : Op) (hu : s.th.dsp.unit u = some o)
    (hr : s.th.run = .running) (ho : s.opOver o = true) :
    exec (.operationComplete u) s = .next ({ s with th := s.th.complete o } : State).laneBoundary := by
  show execOperationComplete u s = _
  simp [execOperationComplete, hu, hr, ho]

/-- Threads that differ in their lane groups alone. -/
theorem fields_of_groupless {t u : Thread} (h : Spec.groupless u = Spec.groupless t) :
    u.xs = t.xs ∧ u.pc = t.pc ∧ u.sr = { t.sr with groups := u.sr.groups } ∧ u.cc = t.cc ∧ u.tr = t.tr ∧ u.dsp = t.dsp := by
  have same {α : Type} (g : Thread → α) : g (Spec.groupless u) = g (Spec.groupless t) := congrArg g h
  exact ⟨same Thread.xs, same Thread.pc, same fun v => { v.sr with groups := u.sr.groups }, same Thread.cc,
    same Thread.tr, same Thread.dsp⟩

theorem groupless_laneBoundary (s : State) :
    Spec.groupless s.laneBoundary.th = Spec.groupless s.th ∧
      s.laneBoundary.rest.map Spec.groupless = s.rest.map Spec.groupless :=
  groupless_moveLanes s s.th.cluster s.th.pair (some s.th.hw)

theorem lower_counted (t : Thread) (w : W64) (c : Nat) (h : wordCounter w = some c) : t.lower w = t.ccDown c := by
  simp [Thread.lower, h]

theorem lower_uncounted (t : Thread) (w : W64) (h : wordCounter w = none) : t.lower w = t := by
  simp [Thread.lower, h]

/-- Settles O38: each thing a head entry may do is one equation of the sequencer's step; an operation's end touches the
counter and the engines, and the lane groups that then move are all that changes besides. -/
theorem sequencerSteps : Obligations.SequencerSteps := by
  unfold Obligations.SequencerSteps
  refine ⟨fun s e hr he => ⟨head_drop s e hr he, ?pend, ?fence, fun t => head_engine s t e hr he, ?launch⟩, ?complete⟩
  case pend =>
    exact fun k hp => ⟨_, head_pend s e k hr he hp, rfl, unqueue_queue _ _, rfl, rfl⟩
  case fence =>
    exact fun hp h1 h2 => ⟨_, head_fence s e hr he hp h1 h2, unqueue_queue _ _, rfl, rfl, rfl⟩
  case launch =>
    intro i roots hp hu hf hl hv hb
    obtain ⟨rcp, queue, xs, sr⟩ := pass_frame (launched s.th e roots) i (some (readyPass s e roots))
    refine ⟨_, _, head_launch s e i roots hr he hp hu hf hl hv hb, pass_setPass _ _ _, rfl, rfl, rfl, rfl, rfl, rfl, rfl,
      rfl, rfl, rfl, queue.trans (unqueue_queue _ _), fun k hk => ?_, xs, sr, rfl⟩
    rw [rcp]
    simp [launched, hk]
  case complete =>
    intro s u o hu hr hh hn hk hw
    obtain ⟨xs, pc, sr, tr, queue, cc, gone⟩ := complete_ended s.th o
    obtain ⟨th, rest⟩ := groupless_laneBoundary { s with th := s.th.complete o }
    obtain ⟨hxs, hpc, hsr, hcc, htr, hdsp⟩ := fields_of_groupless th
    refine ⟨_, exec_operationComplete s u o hu hr (opOver_of_done s o hh hn hk hw), ?_, fun c h => ?_, fun h => ?_,
      hxs.trans xs, hpc.trans pc, sr ▸ hsr, htr.trans tr, (congrArg Dispatch.queue hdsp).trans queue, rest, rfl, rfl⟩
    · rw [hdsp]
      exact gone
    · rw [hcc, ← lower_counted s.th _ c h]
      exact cc
    · rw [hcc, cc, lower_uncounted s.th _ h]

end Sys2Proof.Laws

/-! Recording words (R183 to R196): what every request holds, what an accepted one makes, and why one is refused. -/

namespace Sys2Proof.Laws

open Sys2Proof Sys2Proof.Machine

/-! ### How a request is formed -/

/-- Every request that `x` answers with has a property. -/
def Answers (x : Except Nat Rec) (P : Rec → Prop) : Prop := ∀ q, x = .ok q → P q

theorem answers_bind {α : Type} (x : Except Nat α) (f : α → Except Nat Rec) (P : Rec → Prop) :
    Answers (x >>= f) P ↔ ∀ a, x = .ok a → Answers (f a) P := by
  cases x with
  | error c => exact ⟨fun _ _ h => (nomatch h), fun _ _ h => (nomatch h)⟩
  | ok a => exact ⟨fun h b hb => by cases hb; exact h, fun h => h a rfl⟩

theorem answers_ok (q : Rec) (P : Rec → Prop) : Answers (.ok q) P ↔ P q :=
  ⟨fun h => h q rfl, fun h p hp => by cases hp; exact h⟩

theorem answers_error (c : Nat) (P : Rec → Prop) : Answers (.error c) P ↔ True :=
  ⟨fun _ => trivial, fun _ _ h => (nomatch h)⟩

theorem answers_unless (c : Prop) [Decidable c] (n : Nat) (x : Except Nat Rec) (P : Rec → Prop) :
    Answers (if c then .error n else x) P ↔ (¬ c → Answers x P) := by
  by_cases h : c <;> simp [h, answers_error]

theorem ok_bind {α β : Type} (a : α) (f : α → Except Nat β) : (Except.ok a >>= f) = f a := rfl

/-! ### What every request holds -/

/-- R196: the words whose node or root holds a range. -/
def nodeRangesOf (i : Instr) : Nat :=
  match i with
  | .vld _ | .vkld _ | .vst _ | .vstx _ | .vcst _ | .vkst _ | .vred _ | .vamo _ | .vforce _ => 1
  | _ => 0

/-- R196: the engine words whose entry holds the ranges of a transfer. -/
def entryRangesOf (i : Instr) : Nat :=
  match i with
  | .mtld _ | .mtst _ | .mpack _ | .bload _ | .msave _ | .mrest _ | .ssld _ | .ssst _ | .cpy _ | .cpypub _ | .cpy2d _
  | .cpyt _ | .cpyf _ | .cpyr _ | .cpyx _ | .stfl _ | .stinv _ => 2
  | _ => 0

/-- R196: how many ranges a request's nodes and entry take at most. -/
def requestRanges (i : Instr) (q : Rec) : Nat :=
  nodeRangesOf i * (if q.leafDest.isSome then 2 else 1) +
    (q.entryRng.map fun u => u.1.length + u.2.length).getD (entryRangesOf i)

/-- What the request of a recording word holds, whatever its operands. -/
structure Request (i : Instr) (q : Rec) : Prop where
  entry : q.entry = true
  word : encode i = some q.word
  counter : decodeOpc q.word = some i → q.cc = wordCounter q.word
  parts : q.parts = Spec.nodesOf i
  fixed : Spec.fixedLength i = q.fixedLen.isSome
  nodeRng : q.nodeRng = none
  ranges : requestRanges i q ≤ Spec.rangesOf i

theorem recCvt_request (s : State) (f : FX) : Answers (s.recCvt f) (Request (.vcvt f)) := by
  simp only [State.recCvt, answers_bind, answers_ok]
  intro a _
  by_cases h0 : f.c = 0
  · rw [if_pos (beq_iff_eq.mpr h0)]
    exact ⟨rfl, rfl, fun h => by rw [wordCounter, h], (if_pos h0).symm, rfl, rfl, Nat.le_refl _⟩
  · rw [if_neg (mt beq_iff_eq.mp h0)]
    exact ⟨rfl, rfl, fun h => by rw [wordCounter, h], (if_neg h0).symm, rfl, rfl, Nat.le_refl _⟩

theorem recLd_request (s : State) (f : FM) : Answers (s.recLd f) (Request (.vld f)) := by
  simp only [State.recLd, answers_bind, answers_ok, answers_unless]
  intro a _ _
  by_cases h0 : f.fnAt 2 3 = 0
  · rw [if_pos (beq_iff_eq.mpr h0)]
    exact ⟨rfl, rfl, fun h => by rw [wordCounter, h], (if_pos h0).symm, rfl, rfl, Nat.le_refl _⟩
  · rw [if_neg (mt beq_iff_eq.mp h0)]
    exact ⟨rfl, rfl, fun h => by rw [wordCounter, h], (if_neg h0).symm, rfl, rfl, Nat.le_refl _⟩

/-- R264, R265: MTST and MPACK; with K = 0 they make no node. -/
theorem recMoveOut_request (s : State) (f : FT) :
    Request (.mtst f) (s.recMoveOut 0x87 f) ∧ Request (.mpack f) (s.recMoveOut 0x88 f) := by
  unfold State.recMoveOut
  by_cases h0 : f.k = 0
  · simp only [if_pos (beq_iff_eq.mpr h0)]
    exact ⟨⟨rfl, rfl, fun h => by rw [wordCounter, h] ; rfl, (if_pos h0).symm, rfl, rfl, Nat.le_refl _⟩,
      ⟨rfl, rfl, fun h => by rw [wordCounter, h] ; rfl, (if_pos h0).symm, rfl, rfl, Nat.le_refl _⟩⟩
  · simp only [if_neg (mt beq_iff_eq.mp h0)]
    exact ⟨⟨rfl, rfl, fun h => by rw [wordCounter, h] ; rfl, (if_neg h0).symm, rfl, rfl, Nat.le_refl _⟩,
      ⟨rfl, rfl, fun h => by rw [wordCounter, h] ; rfl, (if_neg h0).symm, rfl, rfl, Nat.le_refl _⟩⟩

theorem copyxRanges_length (s : State) (b : Option StreamBlock) (idx : Bool) (n : Option Nat) (d : W64) :
    (s.copyxRanges b idx n d).1.length + (s.copyxRanges b idx n d).2.length = 2 := by
  unfold State.copyxRanges
  split <;> rfl

theorem recCpyx_request (s : State) (f : FM) : Answers (s.recCpyx f) (Request (.cpyx f)) := by
  unfold State.recCpyx
  dsimp only
  split <;> simp only [answers_bind, answers_ok] <;> intro a _
  · next h1 _ =>
    exact ⟨rfl, rfl, fun h => by rw [wordCounter, h]; rfl, (if_pos h1).symm, rfl, rfl,
      by simp [requestRanges, nodeRangesOf, Spec.rangesOf, copyxRanges_length]⟩
  · next h1 _ =>
    exact ⟨rfl, rfl, fun h => by rw [wordCounter, h]; rfl, (if_neg h1).symm, rfl, rfl,
      by simp [requestRanges, nodeRangesOf, Spec.rangesOf, copyxRanges_length]⟩

theorem recordingOf_request (i : Instr) (s : State) (ls : Nat) (r : Except Nat Rec)
    (h : Spec.recordingOf i s = some (ls, r)) : Answers r (Request i) := by
  unfold Spec.recordingOf at h
  split at h
  case h_82 => cases h
  case h_41 =>
    split at h
    · cases h
      simp only [State.recTb, answers_bind, answers_ok, answers_unless]
      intros
      exact ⟨rfl, rfl, fun h => by rw [wordCounter, h], rfl, rfl, rfl, Nat.le_refl _⟩
    · cases h
  all_goals cases h
  case h_27 => exact recCvt_request s _
  case h_38 => exact recLd_request s _
  case h_42 => exact recCpyx_request s _
  case h_61 => exact (answers_ok _ _).mpr (recMoveOut_request s _).1
  case h_62 => exact (answers_ok _ _).mpr (recMoveOut_request s _).2
  all_goals
    simp only [State.recBin, State.recScalar, State.recImm, State.recUn, State.recFma, State.recFmas,
      State.recCmp, State.recCmps, State.recClass, State.recSel, State.recKop, State.recFlags, State.recSplat,
      State.recIota, State.recBcast, State.recSegred, State.recKld, State.recTread,
      State.recMscale, State.recMtwr, State.recMrred, State.recSt, State.recStx, State.recCst, State.recKst, State.recRed,
      State.recAmo, State.recForce, State.recKpop, State.recMop, State.recScan, bind_assoc, ok_bind, answers_bind,
      answers_ok, answers_unless, if_true, Bool.false_eq_true, if_false]
    intros
    exact ⟨rfl, rfl, fun h => by rw [wordCounter, h] <;> rfl, rfl, rfl, rfl, Nat.le_refl _⟩

/-! ### A recording word issues as its request says -/

/-- Every fault that `x` answers with is OPERAND_RANGE. -/
def FaultsInRange {α : Type} (x : Except Nat α) : Prop := ∀ c, x = .error c → c = causeRange

theorem faultsInRange_ok {α : Type} (a : α) : FaultsInRange (.ok a) := fun _ h => nomatch h

theorem faultsInRange_bind {α β : Type} {x : Except Nat α} {f : α → Except Nat β} (hx : FaultsInRange x)
    (hf : ∀ a, FaultsInRange (f a)) : FaultsInRange (x >>= f) := by
  cases x with
  | error c => exact fun d h => hx d (by cases h; rfl)
  | ok a => exact hf a

theorem vsrc_faults (s : State) (r : BitVec 6) (ok : NTy → Bool) : FaultsInRange (s.vsrc r ok) := by
  intro c h
  unfold State.vsrc at h
  split at h
  · cases h; rfl
  · split at h
    · cases h; rfl
    · split at h <;> cases h
      rfl

theorem ksrc_faults (s : State) (k : Nat) : FaultsInRange (s.ksrc k) := by
  intro c h
  unfold State.ksrc at h
  split at h
  · cases h
  · split at h
    · cases h; rfl
    · split at h
      · cases h; rfl
      · split at h <;> cases h
        rfl

/-- R245: a VTB whose block lies on its boundary meets no fault but OPERAND_RANGE. -/
theorem recTb_faults (s : State) (f : FM) (h : (s.address f).toNat % 8 = 0) : FaultsInRange (s.recTb f) := by
  have src (c : Prop) [Decidable c] (r : BitVec 6) (ok : NTy → Bool) :
      FaultsInRange (if c then (do let n ← s.vsrc r ok; .ok (some n)) else .ok none : Except Nat (Option Nat)) := by
    split
    · exact faultsInRange_bind (vsrc_faults s r ok) fun n => faultsInRange_ok _
    · exact faultsInRange_ok _
  refine faultsInRange_bind (src _ _ _) fun a => faultsInRange_bind (src _ _ _) fun b =>
    faultsInRange_bind (src _ _ _) fun c => faultsInRange_bind (ksrc_faults s _) fun k => ?_
  dsimp only
  rw [if_neg (by simp [h])]
  split
  · intro c hc; cases hc; rfl
  · exact faultsInRange_ok _

/-- A word that no operand can refuse issues as any recording does. -/
theorem settle_record_eq_recordE (s : State) (ls : Nat) (q : Rec) (he : q.entry = true) :
    s.settle (s.record ls q) = s.recordE ls (.ok q) := by
  unfold State.recordE State.whenRoom
  split
  · rfl
  · next h => simp [State.record, State.recordHere, he, h]

theorem recMoveOut_entry (s : State) (o : BitVec 8) (f : FT) : (s.recMoveOut o f).entry = true := by
  unfold State.recMoveOut
  split <;> rfl

theorem exec_vtb (f : FM) (s : State) (h : (s.address f).toNat % 8 = 0) :
    exec (.vtb f) s = s.recordE f.ls.toNat (s.recTb f) := by
  show execVtb f s = _
  unfold execVtb State.recordE
  have faults := recTb_faults s f h
  cases hq : s.recTb f with
  | ok q => rfl
  | error c => rw [faults c hq]; rfl

theorem exec_sscfg (f : FJ) (s : State) : exec (.sscfg f) s = s.recordE f.ls.toNat (.ok
    { word := packJ 0xA0 f, parts := 0, fixedLen := some 1, va := if f.a = 0 then f.imm.setWidth 64 else s.x f.a }) := by
  show execSscfg f s = _
  simp only [execSscfg, beq_iff_eq]
  exact settle_record_eq_recordE s _ _ rfl

/-- Every recording word issues as `recordE` of its request. -/
theorem exec_recording (i : Instr) (s : State) (ls : Nat) (r : Except Nat Rec)
    (h : Spec.recordingOf i s = some (ls, r)) : exec i s = s.recordE ls r := by
  unfold Spec.recordingOf at h
  split at h
  case h_82 => cases h
  case h_41 =>
    split at h
    · next h0 =>
      cases h
      exact exec_vtb _ s h0
    · cases h
  all_goals cases h
  case h_61 => exact settle_record_eq_recordE s _ _ (recMoveOut_entry s _ _)
  case h_62 => exact settle_record_eq_recordE s _ _ (recMoveOut_entry s _ _)
  case h_67 => exact exec_sscfg _ s
  any_goals rfl
  all_goals
    refine settle_record_eq_recordE s _ _ ?_
    rfl

/-- The word of a recording word decodes to it. -/
theorem row_recording (i : Instr) (s : State) (ls : Nat) (r : Except Nat Rec) (w : W64)
    (h : Spec.recordingOf i s = some (ls, r)) (he : encode i = some w) : decodeOpc w = some i := by
  unfold Spec.recordingOf at h
  split at h
  case h_82 => cases h
  all_goals cases he
  any_goals with_reducible refine row_packX _ _ _ ?_
  any_goals with_reducible refine row_packJ _ _ _ ?_
  any_goals with_reducible refine row_packM _ _ _ ?_
  any_goals with_reducible refine row_packT _ _ _ ?_
  all_goals exact fun _ => rfl

/-! ### How many ranges a recording takes (R196) -/

theorem rangesAt_le (n : Node) (i : Instr) (len : Nat) (u : List Rng × List Rng) (hi : n.instr = some i)
    (h : n.rangesAt len = some u) : u.1.length + u.2.length ≤ nodeRangesOf i := by
  unfold Node.rangesAt at h
  rw [hi] at h
  dsimp only at h
  split at h
  case h_11 =>
    cases h
    exact Nat.zero_le _
  all_goals
    rename_i heq
    cases heq
    repeat' split at h
  all_goals cases h
  all_goals simp [nodeRangesOf]

theorem openRanges_le (s : State) (n : Node) (i : Instr) (hi : n.instr = some i) :
    (s.openRanges n).1.length + (s.openRanges n).2.length ≤ nodeRangesOf i := by
  unfold State.openRanges
  rw [hi]
  dsimp only
  split
  case h_7 =>
    cases h : n.rangesAt 0 with
    | none => exact Nat.zero_le _
    | some u => exact rangesAt_le n i 0 u hi h
  all_goals
    rename_i heq
    cases heq
    try split
    all_goals simp [nodeRangesOf]

theorem writableRanges_length (s : State) (m : Bool) : (s.writableRanges m).length = 1 := by
  unfold State.writableRanges
  split
  · rfl
  · dsimp only
    split <;> rfl

theorem nodeRanges_le (s : State) (n : Node) (i : Instr) (hi : n.instr = some i) (hr : n.reads = []) (hw : n.writes = []) :
    (s.nodeRanges n).1.length + (s.nodeRanges n).2.length ≤ nodeRangesOf i := by
  unfold State.nodeRanges
  rw [hi]
  split
  · next heq =>
    cases heq
    simp [nodeRangesOf, writableRanges_length]
  · next heq =>
    cases heq
    simp [nodeRangesOf, writableRanges_length]
  · split
    · exact openRanges_le s n i hi
    · next l _ =>
      cases h : n.rangesAt l with
      | none => simp [hr, hw]
      | some u => exact rangesAt_le n i l u hi h

theorem entryRangesAt_le (e : Entry) (i : Instr) (n : Nat) (u : List Rng × List Rng) (hi : decodeOpc e.word = some i)
    (hr : e.reads = []) (hw : e.writes = []) (h : e.rangesAt n = some u) :
    u.1.length + u.2.length ≤ 2 ∧ entryRangesOf i = 2 := by
  unfold Entry.rangesAt at h
  rw [hi] at h
  dsimp only at h
  split at h
  case h_18 => cases h
  all_goals
    rename_i heq
    cases heq
    cases h
    refine ⟨?_, rfl⟩
    repeat' split
  all_goals simp [hr, hw]

theorem openEntry_le (s : State) (e : Entry) : (s.openEntry e).1.length + (s.openEntry e).2.length ≤ 2 := by
  unfold State.openEntry
  dsimp only
  split <;> simp

theorem entryRanges_le (s : State) (e : Entry) (i : Instr) (hi : decodeOpc e.word = some i) (hr : e.reads = [])
    (hw : e.writes = []) : (s.entryRanges e).1.length + (s.entryRanges e).2.length ≤ entryRangesOf i := by
  unfold State.entryRanges
  split
  · simp [hr, hw]
  · next u h _ =>
    rw [(entryRangesAt_le e i 0 u hi hr hw h).2]
    exact openEntry_le s e
  · next u l h _ =>
    obtain ⟨h0, h2⟩ := entryRangesAt_le e i 0 u hi hr hw h
    rw [h2]
    cases hl : e.rangesAt l with
    | none => exact h0
    | some v => exact (entryRangesAt_le e i l v hi hr hw hl).1

theorem newNode_ranges_le (s : State) (q : Rec) (i : Instr) (idx lsrc len : Nat) (hw : decodeOpc q.word = some i)
    (hr : q.nodeRng = none) :
    (s.newNode q idx lsrc len).reads.length + (s.newNode q idx lsrc len).writes.length ≤ nodeRangesOf i := by
  simp only [State.newNode, hr, Option.getD_none]
  exact nodeRanges_le s _ i hw rfl rfl

theorem newNodes_ranges_le (s : State) (q : Rec) (i : Instr) (lsrc len : Nat) (hw : decodeOpc q.word = some i)
    (hr : q.nodeRng = none) :
    ((s.newNodes q lsrc len).map fun n => n.reads.length + n.writes.length).sum ≤
      nodeRangesOf i * (if q.leafDest.isSome then 2 else 1) := by
  have first := newNode_ranges_le s q i s.th.rcp.freeIdx lsrc len hw hr
  unfold State.newNodes
  split
  · exact Nat.zero_le _
  · dsimp only
    split
    · by_cases hl : q.leafDest.isSome = true <;>
        simp only [List.map_cons, List.map_nil, List.sum_cons, List.sum_nil, Node.second, hl, if_true, if_false,
          Bool.false_eq_true, List.length_nil] <;> omega
    · simp only [List.map_cons, List.map_nil, List.sum_cons, List.sum_nil]
      split <;> omega

/-- R196: a recording takes no more entries of the ARIT than its request tells. -/
theorem aritNeed_le (s : State) (q : Rec) (i : Instr) (lsrc len : Nat) (hw : decodeOpc q.word = some i)
    (hr : q.nodeRng = none) : Spec.aritNeed s q lsrc len ≤ requestRanges i q := by
  have nodes := newNodes_ranges_le s q i lsrc len hw hr
  have entry (node : Option Nat) : (s.newRecEntry q node lsrc len).reads.length +
      (s.newRecEntry q node lsrc len).writes.length ≤
        (q.entryRng.map fun u => u.1.length + u.2.length).getD (entryRangesOf i) := by
    unfold State.newRecEntry
    cases he : q.entryRng with
    | some u => exact Nat.le_refl _
    | none => exact entryRanges_le s _ i hw rfl rfl
  have e1 := entry (((s.newNodes q lsrc len)[0]?).map fun n => n.idx)
  unfold Spec.aritNeed requestRanges
  dsimp only
  omega

/-! ### An accepted request is recorded (R185) -/

/-- R189: taking a length changes a thread in its length queues alone. -/
theorem takeLen_thread (t u : Thread) (ls lsrc len : Nat) (h : t.takeLen ls = .ok (lsrc, len, u)) :
    ∃ v, u = { t with rcp := { t.rcp with lqs := v } } := by
  unfold Thread.takeLen at h
  split at h
  · cases h
    exact ⟨t.rcp.lqs, rfl⟩
  · dsimp only at h
    split at h
    · cases h
    · split at h <;> cases h <;> exact ⟨_, rfl⟩

theorem accepted_thread {s : State} {ls : Nat} {q : Rec} {lsrc len : Nat} {t : Thread}
    (h : Spec.Accepted s ls q lsrc len t) : ∃ v, t = { s.th with rcp := { s.th.rcp with lqs := v } } := by
  obtain ⟨-, -, hf, ht, -⟩ := h
  cases hq : q.fixedLen with
  | none => exact takeLen_thread _ _ _ _ _ (ht hq)
  | some n => exact ⟨s.th.rcp.lqs, (hf n hq).2.2⟩

/-- R188, R189: the length a request takes. -/
def lengthTaken (s : State) (ls : Nat) (q : Rec) : Except Nat (Nat × Nat × Thread) :=
  match q.fixedLen with
  | some n => .ok (5, n, s.th)
  | none => s.th.takeLen ls

/-- R189: the length queue that a request reserves slots of has too few. -/
def queueFull (s : State) (q : Rec) : Bool :=
  match q.reserve with
  | some (lq, k) => 16 < (s.th.lq lq).slots.length + k
  | none => false

/-- R188: a request's sources agree with a length, as far as it is known. -/
def lengthsMeet (q : Rec) (t : Thread) (known : Option Nat) : Bool :=
  match q.own with
  | some f => f known
  | none => t.rcp.lengthsOk (q.sa.toList ++ q.sb.toList ++ q.sc.toList ++ q.sk.toList) known

/-- R12, R25: the entry of a request that is accepted. -/
def requestEntry (s : State) (q : Rec) (lsrc len : Nat) : Entry :=
  s.newRecEntry q (((s.newNodes q lsrc len)[0]?).map Node.idx) lsrc len

/-- R185: what a request comes to once it has its length. -/
def recordSized (s : State) (q : Rec) (lsrc len : Nat) (t : Thread) : Issue :=
  if queueFull s q then Issue.fault causeRange
  else if s.th.rcp.free < q.parts then Issue.fault causeCapacity
  else
    match s.th.aritRoom (Spec.aritNeed s q lsrc len) with
    | .wait => .wait .drain false 0
    | .never => Issue.fault causeCapacity
    | .yes =>
      if !lengthsMeet q t (knownLen lsrc len) then Issue.fault causeLength
      else .done (s.commitRec q t (s.newNodes q lsrc len) (requestEntry s q lsrc len))

/-- With room in the queue and its counter, a request takes its length and goes on. -/
theorem recordHere_sized {s : State} {ls : Nat} {q : Rec} {lsrc len : Nat} {t : Thread} (hroom : s.th.dsp.room 1 = true)
    (hcc : s.th.counterRoom q.cc = true) (hl : lengthTaken s ls q = .ok (lsrc, len, t)) :
    s.recordHere ls q = recordSized s q lsrc len t := by
  have unfolded : s.recordHere ls q =
      if q.entry && !(s.th.dsp.room 1 && s.th.counterRoom q.cc) then .wait .drain false 0
      else match lengthTaken s ls q with
        | .error c => Issue.fault c
        | .ok (lsrc, len, t) => recordSized s q lsrc len t := rfl
  rw [unfolded, hroom, hcc, hl]
  simp

theorem recordHere_accepted {s : State} {ls : Nat} {q : Rec} {lsrc len : Nat} {t : Thread}
    (h : Spec.Accepted s ls q lsrc len t) :
    s.recordHere ls q = .done (s.commitRec q t (s.newNodes q lsrc len) (requestEntry s q lsrc len)) := by
  obtain ⟨v, hv⟩ := accepted_thread h
  obtain ⟨hroom, hcc, hfix, htake, hres, hparts, harit, hown, hlen⟩ := h
  have counter : s.th.counterRoom q.cc = true := by
    cases hq : q.cc with
    | none => rfl
    | some n => simpa [Thread.counterRoom] using hcc n hq
  have taken : lengthTaken s ls q = .ok (lsrc, len, t) := by
    unfold lengthTaken
    cases hq : q.fixedLen with
    | none => exact htake hq
    | some n =>
      obtain ⟨rfl, rfl, rfl⟩ := hfix n hq
      rfl
  have reserved : queueFull s q = false := by
    unfold queueFull
    cases hq : q.reserve with
    | none => rfl
    | some u => simpa using hres u.1 u.2 hq
  have lengths : lengthsMeet q t (knownLen lsrc len) = true := by
    unfold lengthsMeet
    cases hq : q.own with
    | none => rw [hv]; exact hlen hq
    | some f => exact hown f hq
  have arit : s.th.aritRoom (Spec.aritNeed s q lsrc len) = .yes := if_pos harit
  rw [recordHere_sized hroom counter taken, recordSized, reserved, if_neg (Nat.not_lt.mpr hparts), arit, lengths]
  rfl

/-! ### The nodes that stay (R184) -/

theorem named_subset_live (named : List Nat) (ns : List Node) : named ⊆ (liveNodes named ns).1 := by
  induction ns with
  | nil => exact fun _ h => h
  | cons n ns ih =>
    rw [liveNodes]
    split
    · exact fun i h => List.mem_append_right _ (ih h)
    · exact ih

/-- R184: a root, or a node that a name is bound to, is live. -/
theorem mem_liveNodes (named : List Nat) (ns : List Node) (n : Node) (hn : n ∈ ns)
    (h : n.isRoot = true ∨ n.idx ∈ named) : n ∈ (liveNodes named ns).2 := by
  induction ns with
  | nil => cases hn
  | cons m ns ih =>
    rw [liveNodes]
    rcases List.mem_cons.mp hn with rfl | hn
    · have kept : (n.isRoot || (liveNodes named ns).1.contains n.idx) = true := by
        rcases h with h | h
        · simp [h]
        · simp [named_subset_live named ns h]
      rw [if_pos kept]
      exact List.mem_cons_self
    · split
      · exact List.mem_cons_of_mem _ (ih hn)
      · exact ih hn

theorem mem_collect (r : Recipe) (n : Node) (hn : n ∈ r.nodes)
    (h : n.isRoot = true ∨ (∃ d : Nat, r.vnames[d]? = some (some n.idx)) ∨ ∃ d : Nat, r.knames[d]? = some (some n.idx)) :
    n ∈ r.collect.nodes := by
  refine mem_liveNodes _ _ n hn (h.imp_right fun h => ?_)
  rw [List.mem_append, List.mem_filterMap, List.mem_filterMap]
  refine h.imp ?_ ?_
  · rintro ⟨d, hd⟩
    exact ⟨some n.idx, by simpa using Vector.mem_of_getElem? hd, rfl⟩
  · rintro ⟨d, hd⟩
    exact ⟨some n.idx, by simpa using Vector.mem_of_getElem? hd, rfl⟩

/-- R183: with fewer than 256 nodes, the index of a new one is free. -/
theorem freeIdx_free (r : Recipe) (h : r.nodes.length < 256) : ∀ m ∈ r.nodes, m.idx ≠ r.freeIdx := by
  have free : ∃ i ∈ List.range 256, i ∉ r.nodes.map Node.idx := by
    by_contra hall
    push Not at hall
    have := (List.nodup_range.subperm hall).length_le
    simp at this
    omega
  have found : ((List.range 256).find? fun i => !r.nodes.any fun n => n.idx == i).isSome := by
    rw [List.find?_isSome]
    obtain ⟨i, hi, hn⟩ := free
    exact ⟨i, hi, by simpa using hn⟩
  obtain ⟨i, hi⟩ := Option.isSome_iff_exists.mp found
  have := List.find?_some hi
  simpa [Recipe.freeIdx, hi] using this

/-! ### The names a recording binds (R185) -/

@[simp] theorem bindV_nodes (r : Recipe) (d n : Option Nat) : (r.bindV d n).nodes = r.nodes := by cases d <;> rfl

@[simp] theorem bindV_knames (r : Recipe) (d n : Option Nat) : (r.bindV d n).knames = r.knames := by cases d <;> rfl

@[simp] theorem bindK_nodes (r : Recipe) (d n : Option Nat) : (r.bindK d n).nodes = r.nodes := by
  unfold Recipe.bindK
  split
  · split <;> rfl
  · rfl

@[simp] theorem bindK_vnames (r : Recipe) (d n : Option Nat) : (r.bindK d n).vnames = r.vnames := by
  unfold Recipe.bindK
  split
  · split <;> rfl
  · rfl

@[simp] theorem bindK_bindV_knames (r : Recipe) (d n e m : Option Nat) :
    ((r.bindV d n).bindK e m).knames = (r.bindK e m).knames := by
  unfold Recipe.bindK
  split
  · split <;> simp
  · simp

theorem bindV_same (r : Recipe) (i : Nat) (n : Option Nat) (h : i < 64) :
    (r.bindV (some i) n).vnames[i]? = some n := by simp [Recipe.bindV, h]

theorem bindV_other (r : Recipe) (d n : Option Nat) (i : Nat) (h : d ≠ some i) :
    (r.bindV d n).vnames[i]? = r.vnames[i]? := by
  cases d with
  | none => rfl
  | some j => simp [Recipe.bindV, Vector.getElem?_setIfInBounds_ne (show j ≠ i from fun e => h (e ▸ rfl))]

theorem bindK_same (r : Recipe) (i : Nat) (n : Option Nat) (h0 : i ≠ 0) (h : i < 8) :
    (r.bindK (some i) n).knames[i]? = some n := by simp [Recipe.bindK, h0, h]

theorem bindK_other (r : Recipe) (d n : Option Nat) (i : Nat) (h : d ≠ some i) :
    (r.bindK d n).knames[i]? = r.knames[i]? := by
  cases d with
  | none => rfl
  | some j =>
    unfold Recipe.bindK
    dsimp only
    split
    · rfl
    · simp [Vector.getElem?_setIfInBounds_ne (show j ≠ i from fun e => h (e ▸ rfl))]

/-- R185: the names bound to a recording's nodes. -/
def bindNames (r : Recipe) (q : Rec) (i0 i1 : Option Nat) : Recipe :=
  let r1 := if i0.isSome then (r.bindV q.dest i0).bindK q.kdest i0 else r
  if i1.isSome then (r1.bindK q.ovf i1).bindV q.leafDest i1 else r1

theorem bindNames_nodes (r : Recipe) (q : Rec) (i0 i1 : Option Nat) : (bindNames r q i0 i1).nodes = r.nodes := by
  cases i0 <;> cases i1 <;> simp [bindNames]

theorem bindNames_vnames (r : Recipe) (q : Rec) (i0 i1 : Option Nat) (d : Nat) (h : q.leafDest ≠ some d) :
    (bindNames r q i0 i1).vnames[d]? = if i0.isSome then (r.bindV q.dest i0).vnames[d]? else r.vnames[d]? := by
  cases i0 <;> cases i1 <;> simp [bindNames, bindV_other _ _ _ _ h]

theorem bindNames_knames (r : Recipe) (q : Rec) (i0 i1 : Option Nat) (d : Nat) (h : q.ovf ≠ some d) :
    (bindNames r q i0 i1).knames[d]? = if i0.isSome then (r.bindK q.kdest i0).knames[d]? else r.knames[d]? := by
  cases i0 <;> cases i1 <;> simp [bindNames, bindK_other _ _ _ _ h]

/-- What the commit of a request makes of its thread. -/
structure Committed (q : Rec) (t : Thread) (ns : List Node) (e : Entry) (u : Thread) : Prop where
  dsp : u.dsp = { t.dsp with queue := t.dsp.queue ++ [{ e with seq := t.dsp.nextSeq }], nextSeq := t.dsp.nextSeq + 1 }
  pc : u.pc = t.pc
  xs : u.xs = t.xs
  sr : u.sr = t.sr
  tr : u.tr = t.tr
  cc : u.cc = (t.count q.cc).cc
  names : ∀ r, r = bindNames { t.rcp with nodes := t.rcp.nodes ++ ns } q ((ns[0]?).map Node.idx) ((ns[1]?).map Node.idx) →
    u.rcp.nodes = r.collect.nodes ∧ u.rcp.vnames = r.vnames ∧ u.rcp.knames = r.knames

theorem commitRec_committed (s : State) (q : Rec) (t : Thread) (ns : List Node) (e : Entry) (he : q.entry = true) :
    Committed q t ns e (s.commitRec q t ns e).th := by
  unfold State.commitRec
  rw [he]
  cases hr : q.reserve <;> cases hc : q.cc
  all_goals exact ⟨rfl, rfl, rfl, rfl, rfl, by rw [hc]; rfl, fun r h => by subst h; exact ⟨rfl, rfl, rfl⟩⟩

/-- The nodes of a request: none, one, or a first and a second. -/
theorem newNodes_first (s : State) (q : Rec) (lsrc len : Nat) (h : 1 ≤ q.parts) :
    (s.newNodes q lsrc len)[0]? = some (s.newNode q s.th.rcp.freeIdx lsrc len) := by
  have h0 : ¬ (q.parts == 0) = true := by simp; omega
  rw [State.newNodes, if_neg h0]
  dsimp only
  split <;> rfl

theorem newNodes_none (s : State) (q : Rec) (lsrc len : Nat) (h : q.parts = 0) : s.newNodes q lsrc len = [] := by
  simp [State.newNodes, h]

theorem count_room (t : Thread) (cc : Option Nat) :
    (cc = none → (t.count cc).cc = t.cc) ∧
      ∀ n, cc = some n → t.cc[n]?.getD 0 ≠ 0xFFFF → (t.count cc).cc = t.cc.setIfInBounds n (t.cc[n]?.getD 0 + 1) := by
  refine ⟨fun h => by rw [h]; rfl, fun n h hn => ?_⟩
  have full : ¬ (t.cc[n]?.getD 0 == 0xFFFF) = true := by simpa using hn
  rw [h, Thread.count, Thread.ccUp]
  dsimp only
  rw [if_neg full]

/-- The first node of an accepted request: it is new, it stays where it is a root or named, and the names are bound to it. -/
theorem first_node_kept (q : Rec) (t u : Thread) (n : Node) (ns : List Node) (e : Entry) (hn : ns[0]? = some n)
    (hc : Committed q t ns e u) :
    (n.isRoot = true → n ∈ u.rcp.nodes) ∧
      (∀ d, q.dest = some d → q.leafDest = none → d < 64 →
        n ∈ u.rcp.nodes ∧ u.rcp.vnames[d]? = some (some n.idx)) ∧
      (∀ d, q.kdest = some d → q.ovf = none → d ≠ 0 → d < 8 →
        n ∈ u.rcp.nodes ∧ u.rcp.knames[d]? = some (some n.idx)) := by
  obtain ⟨hnodes, hv, hk⟩ := hc.names _ rfl
  rw [hn] at hnodes hv hk
  have mem := fun h => hnodes ▸ mem_collect _ n
    (by rw [bindNames_nodes]; exact List.mem_append_right _ (List.mem_of_getElem? hn)) h
  refine ⟨fun h => mem (.inl h), fun d hd hl h64 => ?_, fun d hd ho h0 h8 => ?_⟩
  · have bound : u.rcp.vnames[d]? = some (some n.idx) := by
      rw [hv, bindNames_vnames _ _ _ _ _ (by simp [hl]), hd]
      exact bindV_same _ _ _ h64
    exact ⟨mem (.inr (.inl ⟨d, hv ▸ bound⟩)), bound⟩
  · have bound : u.rcp.knames[d]? = some (some n.idx) := by
      rw [hk, bindNames_knames _ _ _ _ _ (by simp [ho]), hd]
      exact bindK_same _ _ _ h0 h8
    exact ⟨mem (.inr (.inr ⟨d, hk ▸ bound⟩)), bound⟩

/-- R185: the names that a request does not bind stay as they are. -/
theorem other_names_kept (q : Rec) (t u : Thread) (ns : List Node) (e : Entry) (hc : Committed q t ns e u) :
    (∀ d : Nat, q.dest ≠ some d → q.leafDest ≠ some d → u.rcp.vnames[d]? = t.rcp.vnames[d]?) ∧
      (∀ d : Nat, q.kdest ≠ some d → q.ovf ≠ some d → u.rcp.knames[d]? = t.rcp.knames[d]?) := by
  obtain ⟨-, hv, hk⟩ := hc.names _ rfl
  refine ⟨fun d hd hl => ?_, fun d hd ho => ?_⟩
  · rw [hv, bindNames_vnames _ _ _ _ _ hl, bindV_other _ _ _ _ hd]
    exact ite_self _
  · rw [hk, bindNames_knames _ _ _ _ _ ho, bindK_other _ _ _ _ hd]
    exact ite_self _

/-- R12, R25, R185: what an accepted recording word does. -/
theorem recordingWordsRecord : Spec.RecordingWordsRecord := by
  intro i s ls q lsrc len t0 _ hq hacc hb
  have req := recordingOf_request i s ls _ hq q rfl
  obtain ⟨v, hv⟩ := accepted_thread hacc
  have recorded := recordHere_accepted hacc
  obtain ⟨hroom, hcc, -, -, -, hparts, -⟩ := hacc
  have ran := (exec_recording i s ls _ hq).trans (recordE_ok s _ ls q hroom recorded)
  have com := commitRec_committed s q t0 (s.newNodes q lsrc len) (requestEntry s q lsrc len) req.entry
  have node (h : 1 ≤ q.parts) := first_node_kept q t0 _ _ _ _ (newNodes_first s q lsrc len h) com
  obtain ⟨vother, kother⟩ := other_names_kept q t0 _ _ _ com
  obtain ⟨cc0, cc1⟩ := count_room t0 q.cc
  obtain ⟨dsp, pc, xs, sr, tr, cc, -⟩ := com
  subst hv
  refine ⟨_, _, ran, congrArg Dispatch.queue dsp, congrArg Dispatch.nextSeq dsp, rfl, req.word, rfl, rfl, rfl, rfl, rfl, rfl,
    rfl, rfl, rfl, rfl, rfl, rfl, rfl, rfl, rfl, fun h => ?_, fun h => ⟨s.newNode q s.th.rcp.freeIdx lsrc len, ?_, ?_, rfl,
      rfl, rfl, rfl, rfl, rfl, rfl, rfl, rfl, rfl, rfl, node h⟩, vother, kother, fun h => cc.trans (cc0 h),
    fun n h => cc.trans (cc1 n h (hcc n h)), congrArg (· + 8) pc, xs, sr, tr, rfl, rfl, rfl⟩
  · exact congrArg (fun l : List Node => (l[0]?).map Node.idx) (newNodes_none s q lsrc len h)
  · exact congrArg (Option.map Node.idx) (newNodes_first s q lsrc len h)
  · refine freeIdx_free s.th.rcp ?_
    unfold Recipe.free at hparts
    omega

/-! ### A request that is not accepted (R12, R64, R188) -/

/-- R160, R162: TRAPSTAT of a precise trap at a word. -/
theorem trapStat_eq_statOf (s : State) :
    trapStat 0 false s.th.smode false s.th.faultHeld false false = Spec.statOf s := by
  have held : s.th.faultHeld = !decide (s.th.dsp.deferred = [] ∧ s.th.fe.dropped = []) := by
    unfold Thread.faultHeld
    cases s.th.dsp.deferred <;> cases s.th.fe.dropped <;> rfl
  rw [held]
  unfold Spec.statOf
  cases s.th.smode <;> by_cases h : s.th.dsp.deferred = [] ∧ s.th.fe.dropped = [] <;> simp [h, trapStat]

/-- R160 to R164: a precise trap with a cause and an address. -/
theorem trapped_trap (s : State) (code acc : Nat) (a : W64) :
    Spec.Trapped s (s.trap (TrapInfo.at code acc a)) code acc a := by
  refine ⟨?_, rfl, rfl, rfl, rfl, rfl, rfl, rfl, rfl, rfl, rfl, rfl⟩
  have cause : BitVec.ofNat 64 (acc * 0x100 + code) = BitVec.ofNat 64 (256 * acc + code) := by rw [Nat.mul_comm]
  rw [← cause, ← trapStat_eq_statOf]
  rfl

theorem beginWait_drain (s : State) (h : s.th.fe.wait = none) : s.beginWait .drain false 0 = Spec.waiting s .drain 0 :=
  beginWait_start s .drain 0 h

theorem recordE_fault (s : State) (ls c : Nat) (q : Rec) (hr : s.th.dsp.room 1 = true)
    (h : s.recordHere ls q = Issue.fault c) : s.recordE ls (.ok q) = .next (s.trap (TrapInfo.at c 0 0)) := by
  rw [State.recordE, whenRoom_room s 1 _ hr]
  simp [State.record, h, Issue.fault]
  rfl

/-- R188: with LS = 0 a request takes VL. -/
theorem lengthTaken_vl (s : State) (q : Rec) (h : q.fixedLen = none) :
    lengthTaken s 0 q = .ok (0, s.th.sr.vl.toNat % 2 ^ 48, s.th) := by
  rw [lengthTaken, h]
  simp [Thread.takeLen, slice]

/-- R188: a length known that differs from a source's. -/
theorem lengthsOk_differ (r : Recipe) (is : List Nat) (i l k : Nat) (n : Node) (hi : i ∈ is) (hn : r.node? i = some n)
    (hk : n.known = some k) (h : k ≠ l) : r.lengthsOk is (some l) = false := by
  rw [Recipe.lengthsOk, List.all_eq_false]
  exact ⟨i, hi, by simp [hn, hk, h]⟩

theorem recordHere_capacity (s : State) (q : Rec) (hroom : s.th.dsp.room 1 = true) (hcc : q.cc = none)
    (hres : q.reserve = none) (hfix : q.fixedLen = none) (h : s.th.rcp.free < q.parts) :
    s.recordHere 0 q = Issue.fault causeCapacity := by
  rw [recordHere_sized hroom (by rw [hcc]; rfl) (lengthTaken_vl s q hfix), recordSized, queueFull, hres, if_pos h]
  rfl

theorem recordHere_length (s : State) (q : Rec) (j k : Nat) (n : Node) (hroom : s.th.dsp.room 1 = true) (hcc : q.cc = none)
    (hres : q.reserve = none) (hfix : q.fixedLen = none) (hown : q.own = none) (hparts : q.parts ≤ s.th.rcp.free)
    (harit : s.th.aritUsed + Spec.aritNeed s q 0 (s.th.sr.vl.toNat % 2 ^ 48) ≤ 64) (ha : q.sa = some j)
    (hn : s.th.rcp.node? j = some n) (hk : n.known = some k) (h : k ≠ s.th.sr.vl.toNat % 2 ^ 48) :
    s.recordHere 0 q = Issue.fault causeLength := by
  have differ : lengthsMeet q s.th (knownLen 0 (s.th.sr.vl.toNat % 2 ^ 48)) = false := by
    rw [lengthsMeet, hown]
    exact lengthsOk_differ _ _ j _ k n (by simp [ha]) hn hk h
  have arit : s.th.aritRoom (Spec.aritNeed s q 0 (s.th.sr.vl.toNat % 2 ^ 48)) = .yes := if_pos harit
  rw [recordHere_sized hroom (by rw [hcc]; rfl) (lengthTaken_vl s q hfix), recordSized, queueFull, hres,
    if_neg (Nat.not_lt.mpr hparts), arit, differ]
  rfl

theorem address_eq (f : FM) (s : State) : s.address f = Spec.addressOf f s := by
  rw [State.address, Spec.addressOf, BitVec.ofInt_add, BitVec.ofInt_toInt]
  rfl

/-- R245: a VTB whose block is misaligned. -/
theorem exec_vtb_misaligned (f : FM) (s : State) (h : s.recTb f = .error causeMisaligned) :
    exec (.vtb f) s = s.whenRoom 1 (.next (s.trap (TrapInfo.at causeMisaligned 0 (Spec.addressOf f s)))) := by
  show execVtb f s = _
  rw [execVtb, h, ← address_eq]
  rfl

/-- R12, R64, R185, R188: why a recording word does not record. -/
theorem recordingWordsThatCannotRecord : Spec.RecordingWordsThatCannotRecord := by
  intro i s ls
  refine ⟨fun r hq hroom hw => ?_, fun c hroom hq => ?_, fun q hq => ⟨?_, ?_⟩, fun f hf => ⟨fun hroom => ?_, fun hroom hw => ?_⟩⟩
  · rw [exec_recording i s ls r hq, recordE_full s ls r hroom, beginWait_drain s hw]
  · exact ⟨_, (exec_recording i s ls _ hq).trans (recordE_error s ls c hroom), trapped_trap s c 0 0⟩
  · rintro hroom hcc hres hfix rfl hfree
    exact ⟨_, (exec_recording i s 0 _ hq).trans
      (recordE_fault s 0 _ q hroom (recordHere_capacity s q hroom hcc hres hfix hfree)), trapped_trap s _ 0 0⟩
  · rintro j n k hroom hcc hres hfix hown rfl hparts harit ha hn hk hne
    exact ⟨_, (exec_recording i s 0 _ hq).trans (recordE_fault s 0 _ q hroom
      (recordHere_length s q j k n hroom hcc hres hfix hown hparts harit ha hn hk hne)), trapped_trap s _ 0 0⟩
  · exact ⟨_, (exec_vtb_misaligned f s hf).trans (whenRoom_room s 1 _ hroom), trapped_trap s _ 0 _⟩
  · rw [exec_vtb_misaligned f s hf, whenRoom_full s 1 _ hroom, beginWait_drain s hw]

/-- Settles O21: an accepted request's commit is `commitRec` of its nodes and entry, and each refusal is the branch of
`recordHere` that its cause names. -/
theorem recordingWords : Obligations.RecordingWords := ⟨recordingWordsRecord, recordingWordsThatCannotRecord⟩

/-! ### Operands that are there (R185, R187, R188) -/

/-- R188: nodes have a length, as far as both are known. -/
def Sized (s : State) (n : Option Nat) (is : List Nat) : Prop := s.th.rcp.lengthsOk is n = true

theorem sized_nil (s : State) (n : Option Nat) : Sized s n [] := rfl

theorem sized_append {s : State} {n : Option Nat} {is js : List Nat} (hi : Sized s n is) (hj : Sized s n js) :
    Sized s n (is ++ js) := by
  unfold Sized Recipe.lengthsOk at *
  rw [List.all_append, hi, hj]
  rfl

theorem sized_of_node {s : State} {n : Option Nat} {j : Nat} {m : Node} (hm : s.th.rcp.node? j = some m)
    (h : ∀ l k, m.known = some l → n = some k → l = k) : Sized s n [j] := by
  cases hn : n with
  | none => simp [Sized, Recipe.lengthsOk]
  | some k =>
    cases hl : m.known with
    | none => simp [Sized, Recipe.lengthsOk, hm, hl]
    | some l => simp [Sized, Recipe.lengthsOk, hm, hl, h l k hl hn]

theorem known_of_sized {s : State} {j l k : Nat} (h : Sized s (some k) [j])
    (hl : (s.th.rcp.node? j).bind Node.known = some l) : l = k := by
  obtain ⟨m, hm, hk⟩ := Option.bind_eq_some_iff.mp hl
  simpa [Sized, Recipe.lengthsOk, hm, hk] using h

/-- A source that is bound to a node the entry accepts is found, with its length. -/
theorem vsrc_bound {s : State} {r : BitVec 6} {p : NTy → Prop} {n : Option Nat} {ok : NTy → Bool} (h : Spec.Bound s r p n)
    (hp : ∀ t, p t → ok t = true) : ∃ j, s.vsrc r ok = .ok j ∧ Sized s n [j] := by
  obtain ⟨j, m, hv, hm, ht, hl⟩ := h
  exact ⟨j, by simp [State.vsrc, hv, hm, hp _ ht], sized_of_node hm hl⟩

theorem vsrcTy_bound {s : State} {r : BitVec 6} {ty : BitVec 4} {n : Option Nat}
    (h : Spec.Bound s r (fun t => t = .elem ty.toNat) n) : ∃ j, s.vsrcTy r ty = .ok j ∧ Sized s n [j] :=
  vsrc_bound h fun t ht => by simp [ht]

theorem vsrcInt_bound {s : State} {r : BitVec 6} {n : Option Nat} (h : Spec.Bound s r (fun t => ∃ y < 8, t = .elem y) n) :
    ∃ j, s.vsrcInt r = .ok j ∧ Sized s n [j] :=
  vsrc_bound h fun t ⟨y, hy, ht⟩ => by simp [ht, hy]

/-- R187: a mask that is k0, or bound to a mask node, is found, with its length. -/
theorem ksrc_masked {s : State} {k : Nat} {n : Option Nat} (h : Spec.Masked s k n) :
    ∃ o, s.ksrc k = .ok o ∧ Sized s n o.toList := by
  obtain rfl | ⟨j, m, hk, hm, ht, hl⟩ := h
  · exact ⟨none, rfl, rfl⟩
  · by_cases h0 : k = 0
    · exact ⟨none, by simp [State.ksrc, h0], rfl⟩
    · exact ⟨some j, by simp [State.ksrc, h0, hk, hm, ht], sized_of_node hm hl⟩

/-! ### Requests whose operands are there -/

/-- A request is formed, its lengths agree with `n`, and the length queue it reserves slots of has them. -/
def Fits (s : State) (n : Option Nat) (x : Except Nat Rec) : Prop :=
  ∃ q, x = .ok q ∧ lengthsMeet q s.th n = true ∧ queueFull s q = false

theorem fits_bind {α : Type} {s : State} {n : Option Nat} {x : Except Nat α} {f : α → Except Nat Rec} {P : α → Prop}
    (h : ∃ a, x = .ok a ∧ P a) (k : ∀ a, P a → Fits s n (f a)) : Fits s n (x >>= f) := by
  obtain ⟨a, rfl, ha⟩ := h
  exact k a ha

theorem fits_ok {s : State} {n : Option Nat} {q : Rec} (ho : q.own = none) (ha : Sized s n q.sa.toList)
    (hb : Sized s n q.sb.toList) (hc : Sized s n q.sc.toList) (hk : Sized s n q.sk.toList) (hr : queueFull s q = false) :
    Fits s n (.ok q) := by
  refine ⟨q, rfl, ?_, hr⟩
  rw [lengthsMeet, ho]
  exact sized_append (sized_append (sized_append ha hb) hc) hk

theorem fits_own {s : State} {n : Option Nat} {q : Rec} {f : Option Nat → Bool} (ho : q.own = some f) (h : f n = true)
    (hr : queueFull s q = false) : Fits s n (.ok q) := by
  refine ⟨q, rfl, ?_, hr⟩
  rw [lengthsMeet, ho]
  exact h

theorem queueFull_reserves {s : State} {q : Rec} {l k : Nat} (hq : q.reserve = some (l, k))
    (h : (s.th.lq l).slots.length + k ≤ 16) : queueFull s q = false := by
  simp [queueFull, hq, h]

theorem queueFull_reservesIf {s : State} {q : Rec} {l k : Nat} {c : Bool}
    (hq : q.reserve = if c then some (l, k) else none) (h : c = true → (s.th.lq l).slots.length + k ≤ 16) :
    queueFull s q = false := by
  cases c with
  | false => simp [queueFull, hq]
  | true => exact queueFull_reserves hq (h rfl)

section
variable {s : State} {n : Option Nat} {o : BitVec 8}

theorem recBin_fits {f : FX} (h : Spec.Bound s f.a (fun t => t = .elem f.ty.toNat) n ∧
    Spec.Bound s f.b (fun t => t = .elem f.ty.toNat) n ∧ Spec.Masked s f.k.toNat n) : Fits s n (s.recBin o f) := by
  obtain ⟨ha, hb, hk⟩ := h
  exact fits_bind (vsrcTy_bound ha) fun a la => fits_bind (vsrcTy_bound hb) fun b lb => fits_bind (ksrc_masked hk)
    fun k lk => fits_ok rfl la lb rfl lk rfl

theorem recScalar_fits {f : FX} (h : Spec.Bound s f.a (fun t => t = .elem f.ty.toNat) n ∧ Spec.Masked s f.k.toNat n) :
    Fits s n (s.recScalar o f) := by
  obtain ⟨ha, hk⟩ := h
  exact fits_bind (vsrcTy_bound ha) fun a la => fits_bind (ksrc_masked hk) fun k lk => fits_ok rfl la rfl rfl lk rfl

theorem recUn_fits {f : FX} (h : Spec.Bound s f.a (fun t => t = .elem f.ty.toNat) n ∧ Spec.Masked s f.k.toNat n) :
    Fits s n (s.recUn o f) := by
  obtain ⟨ha, hk⟩ := h
  exact fits_bind (vsrcTy_bound ha) fun a la => fits_bind (ksrc_masked hk) fun k lk => fits_ok rfl la rfl rfl lk rfl

theorem recImm_fits {f : FJ} (h : Spec.Bound s f.a (fun t => t = .elem f.ty.toNat) n ∧ Spec.Masked s f.k.toNat n) :
    Fits s n (s.recImm o f) := by
  obtain ⟨ha, hk⟩ := h
  exact fits_bind (vsrcTy_bound ha) fun a la => fits_bind (ksrc_masked hk) fun k lk => fits_ok rfl la rfl rfl lk rfl

theorem recFma_fits {f : FX} (h : Spec.Bound s f.a (fun t => t = .elem f.ty.toNat) n ∧
    Spec.Bound s f.b (fun t => t = .elem f.ty.toNat) n ∧ Spec.Bound s f.c (fun t => t = .elem f.ty.toNat) n ∧
    Spec.Masked s f.k.toNat n) : Fits s n (s.recFma f) := by
  obtain ⟨ha, hb, hc, hk⟩ := h
  simp only [State.recFma, State.recBin, bind_assoc, ok_bind]
  exact fits_bind (vsrcTy_bound ha) fun a la => fits_bind (vsrcTy_bound hb) fun b lb => fits_bind (ksrc_masked hk)
    fun k lk => fits_bind (vsrcTy_bound hc) fun c lc => fits_ok rfl la lb lc lk rfl

theorem recFmas_fits {f : FX} (h : Spec.Bound s f.a (fun t => t = .elem f.ty.toNat) n ∧
    Spec.Bound s f.c (fun t => t = .elem f.ty.toNat) n ∧ Spec.Masked s f.k.toNat n) : Fits s n (s.recFmas f) := by
  obtain ⟨ha, hc, hk⟩ := h
  simp only [State.recFmas, State.recScalar, bind_assoc, ok_bind]
  exact fits_bind (vsrcTy_bound ha) fun a la => fits_bind (ksrc_masked hk) fun k lk => fits_bind (vsrcTy_bound hc)
    fun c lc => fits_ok rfl la rfl lc lk rfl

theorem recCvt_fits {f : FX} (h : Spec.Bound s f.a (fun t => t = .elem (f.fnAt 0 4)) n) : Fits s n (s.recCvt f) := by
  refine fits_bind (vsrc_bound h fun t ht => by simp [ht]) fun a la => ?_
  dsimp only
  split <;> exact fits_ok rfl la rfl rfl rfl rfl

theorem recCmp_fits {f : FX} (h : Spec.Bound s f.a (fun t => t = .elem f.ty.toNat) n ∧
    Spec.Bound s f.b (fun t => t = .elem f.ty.toNat) n ∧ Spec.Masked s f.k.toNat n) : Fits s n (s.recCmp f) := by
  obtain ⟨ha, hb, hk⟩ := h
  simp only [State.recCmp, State.recBin, bind_assoc, ok_bind]
  exact fits_bind (vsrcTy_bound ha) fun a la => fits_bind (vsrcTy_bound hb) fun b lb => fits_bind (ksrc_masked hk)
    fun k lk => fits_ok rfl la lb rfl lk rfl

theorem recCmps_fits {f : FX} (h : Spec.Bound s f.a (fun t => t = .elem f.ty.toNat) n ∧ Spec.Masked s f.k.toNat n) :
    Fits s n (s.recCmps f) := by
  obtain ⟨ha, hk⟩ := h
  simp only [State.recCmps, State.recScalar, bind_assoc, ok_bind]
  exact fits_bind (vsrcTy_bound ha) fun a la => fits_bind (ksrc_masked hk) fun k lk => fits_ok rfl la rfl rfl lk rfl

theorem recClass_fits {f : FX} (h : Spec.Bound s f.a (fun t => t = .elem f.ty.toNat) n ∧ Spec.Masked s f.k.toNat n) :
    Fits s n (s.recClass f) := by
  obtain ⟨ha, hk⟩ := h
  simp only [State.recClass, State.recUn, bind_assoc, ok_bind]
  exact fits_bind (vsrcTy_bound ha) fun a la => fits_bind (ksrc_masked hk) fun k lk => fits_ok rfl la rfl rfl lk rfl

theorem recSel_fits {f : FX} (h : Spec.Bound s f.a (fun t => t = .elem f.ty.toNat) n ∧
    Spec.Bound s f.b (fun t => t = .elem f.ty.toNat) n ∧ Spec.Masked s f.k.toNat n ∧ Spec.Masked s f.c.toNat n) :
    Fits s n (s.recSel f) := by
  obtain ⟨ha, hb, hk, hc⟩ := h
  simp only [State.recSel, State.recBin, bind_assoc, ok_bind]
  exact fits_bind (vsrcTy_bound ha) fun a la => fits_bind (vsrcTy_bound hb) fun b lb => fits_bind (ksrc_masked hk)
    fun k lk => fits_bind (ksrc_masked hc) fun c lc => fits_ok rfl la lb lc lk rfl

theorem recKop_fits {f : FX} (h : Spec.Masked s f.a.toNat n ∧ Spec.Masked s f.b.toNat n ∧ Spec.Masked s f.k.toNat n) :
    Fits s n (s.recKop f) := by
  obtain ⟨ha, hb, hk⟩ := h
  exact fits_bind (ksrc_masked ha) fun a la => fits_bind (ksrc_masked hb) fun b lb => fits_bind (ksrc_masked hk)
    fun k lk => fits_ok rfl la lb rfl lk rfl

theorem recFlags_fits {f : FX} (h : Spec.Bound s f.a (fun _ => True) n) : Fits s n (s.recFlags f) :=
  fits_bind (vsrc_bound h fun _ _ => rfl) fun _ la => fits_ok rfl la rfl rfl rfl rfl

theorem recSplat_fits {f : FJ} (h : Spec.Masked s f.k.toNat none) : Fits s n (s.recSplat f) :=
  fits_bind (ksrc_masked h) fun _ _ => fits_own rfl rfl rfl

theorem recIota_fits {f : FJ} (h : Spec.Masked s f.k.toNat none) : Fits s n (s.recIota f) :=
  fits_bind (ksrc_masked h) fun _ _ => fits_own rfl rfl rfl

theorem periodOk_of_range {m : W64} (h0 : 0 < m.toNat) (h : m.toNat < 2 ^ 48) : periodOk m = true := by
  have : ¬ m = 0#64 := by rintro rfl; exact absurd h0 (by decide)
  simpa [periodOk, this] using h

theorem lengthRel_of_known {a : Nat} {rel : Nat → Option Nat → Bool}
    (h : ∀ l, (s.th.rcp.node? a).bind Node.known = some l → rel l n = true) : s.lengthRel a rel n = true := by
  unfold State.lengthRel
  cases hl : (s.th.rcp.node? a).bind Node.known with
  | none => rfl
  | some l => exact h l hl

/-- R225: VBCAST; the source has length m, and n is a multiple of m. -/
theorem recBcast_fits {f : FX} (h : 0 < (s.x f.b).toNat ∧ (s.x f.b).toNat < 2 ^ 48 ∧
    Spec.Bound s f.a (fun t => t = .elem f.ty.toNat) (some (s.x f.b).toNat) ∧
    ∀ k, n = some k → k % (s.x f.b).toNat = 0) : Fits s n (s.recBcast f) := by
  obtain ⟨h0, h48, ha, hm⟩ := h
  refine fits_bind (vsrcTy_bound ha) fun a la => ?_
  dsimp only
  rw [if_neg (by simp [periodOk_of_range h0 h48])]
  refine fits_own rfl (lengthRel_of_known fun l hl => ?_) rfl
  rw [known_of_sized la hl]
  cases n with
  | none => simp
  | some k => simp [hm k rfl]

/-- R227: VSEGRED; the source has length n, a multiple of m. -/
theorem recSegred_fits {f : FX} (h : 0 < (s.x f.b).toNat ∧ (s.x f.b).toNat < 2 ^ 48 ∧
    Spec.Bound s f.a (fun t => t = .elem f.ty.toNat) n ∧ ∀ k, n = some k → k % (s.x f.b).toNat = 0) :
    Fits s n (s.recSegred f) := by
  obtain ⟨h0, h48, ha, hm⟩ := h
  refine fits_bind (vsrcTy_bound ha) fun a la => ?_
  dsimp only
  rw [if_neg (by simp [periodOk_of_range h0 h48])]
  refine fits_own rfl (lengthRel_of_known fun l hl => ?_) rfl
  cases n with
  | none => rfl
  | some k => simp [known_of_sized la hl, hm k rfl]

theorem geometryOk_of_fields {x : W64} (h48 : x.toNat < 2 ^ 48) (hw : x.toNat % 2 ^ 24 ≠ 0) (hh : x.toNat / 2 ^ 24 ≠ 0) :
    geometryOk x = true := by
  have field (lo len : Nat) : (slice x lo len).toNat = x.toNat / 2 ^ lo % 2 ^ len := by
    simp [slice, Nat.shiftRight_eq_div_pow]
  have h1 : slice x 48 16 = 0 := BitVec.eq_of_toNat_eq (by rw [field, Nat.div_eq_of_lt h48]; rfl)
  have h2 : ¬ slice x 0 24 = 0#24 := fun e => hw (by have := field 0 24; rw [e] at this; simpa using this.symm)
  have h3 : ¬ slice x 24 24 = 0#24 := fun e => hh (by
    have := field 24 24
    rw [e, Nat.mod_eq_of_lt (by omega)] at this
    exact this.symm)
  simp [geometryOk, h1, h2, h3]

/-- R228: VLD; a tensor's geometry lies within its fields. -/
theorem recLd_fits {f : FM} (h : Spec.Masked s f.k.toNat n ∧ (f.ty = 0xF →
    (s.x f.b).toNat < 2 ^ 48 ∧ (s.x f.b).toNat % 2 ^ 24 ≠ 0 ∧ (s.x f.b).toNat / 2 ^ 24 ≠ 0)) :
    Fits s n (s.recLd f) := by
  obtain ⟨hk, hg⟩ := h
  refine fits_bind (ksrc_masked hk) fun k lk => ?_
  have geometry : ¬ ((f.ty == 0xF && !geometryOk (s.x f.b)) = true) := by
    by_cases ht : f.ty = 15#4
    · obtain ⟨h1, h2, h3⟩ := hg ht
      simp [geometryOk_of_fields h1 h2 h3]
    · simp [ht]
  dsimp only
  rw [if_neg geometry]
  split <;> exact fits_ok rfl rfl rfl rfl lk rfl

theorem recKld_fits {f : FM} (h : Spec.Masked s f.k.toNat n) : Fits s n (s.recKld f) :=
  fits_bind (ksrc_masked h) fun _ lk => fits_ok rfl rfl rfl rfl lk rfl

theorem recTread_fits {f : FT} (h : Spec.Masked s f.k.toNat n ∧ f.mt.toNat < s.th.tileCount ∧ (s.x f.b).toNat ≤ 127) :
    Fits s n (s.recTread f) := by
  obtain ⟨hk, ht, hb⟩ := h
  refine fits_bind (ksrc_masked hk) fun k lk => ?_
  rw [if_neg (by simp; omega)]
  exact fits_ok rfl rfl rfl rfl lk rfl

/-- R245: VTB's sources are its first names. -/
theorem recTb_fits {f : FM} (h8 : (s.address f).toNat % 8 = 0) (h : Spec.Masked s f.k.toNat n ∧
    (Spec.addressOf f s).toNat % 8 = 0 ∧ s.task.kernel.entry.toNat ≤ (Spec.addressOf f s).toNat ∧
    (Spec.addressOf f s).toNat + 8 * (f.fnAt 2 3 + 1) ≤ s.task.kernel.entry.toNat + s.task.kernel.codelen ∧
    ∀ j < f.fnAt 0 2, Spec.Bound s (f.b + BitVec.ofNat 6 j)
      (fun t => t ≠ .mask ∧ (j ≠ 0 ∨ f.k = 0 ∨ t = .elem f.ty.toNat)) n) : Fits s n (s.recTb f) := by
  obtain ⟨hk, -, hlo, hhi, hsrc⟩ := h
  have src (i : Nat) : ∃ o : Option Nat, (if i < f.fnAt 0 2 then (do
        let n ← s.vsrc (f.b + BitVec.ofNat 6 i) fun t => t != .mask && (i != 0 || f.k == 0 || t == .elem f.ty.toNat)
        .ok (some n))
      else .ok none : Except Nat (Option Nat)) = .ok o ∧ Sized s n o.toList := by
    split
    · next hi =>
      obtain ⟨j, hj, lj⟩ := vsrc_bound (ok := fun t => t != .mask && (i != 0 || f.k == 0 || t == .elem f.ty.toNat))
        (hsrc i hi) fun t ⟨h1, h2⟩ => by simpa [h1, or_assoc] using h2
      exact ⟨some j, by rw [hj]; rfl, lj⟩
    · exact ⟨none, rfl, rfl⟩
  refine fits_bind (src 0) fun a la => fits_bind (src 1) fun b lb => fits_bind (src 2) fun c lc =>
    fits_bind (ksrc_masked hk) fun k lk => ?_
  have code : s.task.inCode (s.address f).toNat (8 * (f.fnAt 2 3 + 1)) = true := by
    rw [address_eq]
    simp [Task.inCode, hlo, hhi]
  dsimp only
  rw [if_neg (by simp [h8]), if_neg (by simp [code])]
  exact fits_ok rfl la lb lc lk rfl

theorem recCpyx_fits {f : FM} (h : f.fn.getLsbD 0 = true → Spec.Bound s f.b (fun t => ∃ y < 8, t = .elem y) n) :
    Fits s n (s.recCpyx f) := by
  unfold State.recCpyx
  dsimp only
  split
  · next hv =>
    obtain ⟨j, hj, lj⟩ := vsrcInt_bound (h hv)
    rw [hj]
    exact fits_ok rfl lj rfl rfl rfl rfl
  · exact fits_ok rfl rfl rfl rfl rfl rfl

theorem recMscale_fits {f : FT} (h : Spec.Bound s f.a (fun t => t = .elem f.ty.toNat) n) : Fits s n (s.recMscale f) :=
  fits_bind (vsrcTy_bound h) fun _ la => fits_ok rfl la rfl rfl rfl rfl

theorem recMtwr_fits {f : FT} (h : Spec.Bound s f.a (fun t => t = .elem f.ty.toNat) n) : Fits s n (s.recMtwr f) :=
  fits_bind (vsrcTy_bound h) fun _ la => fits_ok rfl la rfl rfl rfl rfl

theorem recMrred_fits {f : FT} (h : f.mt.toNat < s.th.tileCount) : Fits s n (s.recMrred f) := by
  rw [State.recMrred, if_neg (Nat.not_le.mpr h)]
  exact fits_ok rfl rfl rfl rfl rfl rfl

theorem recSt_fits {f : FM} (h : Spec.Bound s f.d (fun t => t = .elem f.ty.toNat) n ∧ Spec.Masked s f.k.toNat n) :
    Fits s n (s.recSt f) := by
  obtain ⟨ha, hk⟩ := h
  exact fits_bind (vsrcTy_bound ha) fun a la => fits_bind (ksrc_masked hk) fun k lk => fits_ok rfl la rfl rfl lk rfl

theorem recStx_fits {f : FM} (h : Spec.Bound s f.d (fun t => t = .elem f.ty.toNat) n ∧
    Spec.Bound s f.b (fun t => ∃ y < 8, t = .elem y) n ∧ Spec.Masked s f.k.toNat n) : Fits s n (s.recStx f) := by
  obtain ⟨ha, hb, hk⟩ := h
  exact fits_bind (vsrcTy_bound ha) fun a la => fits_bind (vsrcInt_bound hb) fun b lb => fits_bind (ksrc_masked hk)
    fun k lk => fits_ok rfl la lb rfl lk rfl

theorem recAmo_fits {f : FM} (h : Spec.Bound s f.d (fun t => t = .elem f.ty.toNat) n ∧
    Spec.Bound s f.b (fun t => ∃ y < 8, t = .elem y) n ∧ Spec.Masked s f.k.toNat n) : Fits s n (s.recAmo f) := by
  obtain ⟨ha, hb, hk⟩ := h
  exact fits_bind (vsrcTy_bound ha) fun a la => fits_bind (vsrcInt_bound hb) fun b lb => fits_bind (ksrc_masked hk)
    fun k lk => fits_ok rfl la lb rfl lk rfl

theorem recCst_fits {f : FM} (h : Spec.Bound s f.d (fun t => t = .elem f.ty.toNat) n ∧ Spec.Masked s f.k.toNat n ∧
    (f.fn.getLsbD 1 = true → (s.th.lq (f.fnAt 2 2)).slots.length + (f.fnAt 4 2 + 1) ≤ 16)) : Fits s n (s.recCst f) := by
  obtain ⟨ha, hk, hr⟩ := h
  exact fits_bind (vsrcTy_bound ha) fun a la => fits_bind (ksrc_masked hk) fun k lk =>
    fits_ok rfl la rfl rfl lk (queueFull_reservesIf rfl hr)

theorem recKst_fits {f : FM} (h : Spec.Masked s f.d.toNat n ∧ Spec.Masked s f.k.toNat n) : Fits s n (s.recKst f) := by
  obtain ⟨ha, hk⟩ := h
  exact fits_bind (ksrc_masked ha) fun a la => fits_bind (ksrc_masked hk) fun k lk => fits_ok rfl la rfl rfl lk rfl

theorem recRed_fits {f : FM} (h : Spec.Bound s f.d (fun t => t = .elem f.ty.toNat) n ∧ Spec.Masked s f.k.toNat n ∧
    (f.fnAt 2 2 = 1 → (s.th.lq (f.fnAt 4 2)).slots.length + 1 ≤ 16)) : Fits s n (s.recRed f) := by
  obtain ⟨ha, hk, hr⟩ := h
  exact fits_bind (vsrcTy_bound ha) fun a la => fits_bind (ksrc_masked hk) fun k lk =>
    fits_ok rfl la rfl rfl lk (queueFull_reservesIf rfl fun h1 => hr (beq_iff_eq.mp h1))

theorem recForce_fits {f : FX} (h : Spec.Bound s f.a (fun t => t = .elem f.ty.toNat) n) : Fits s n (s.recForce f) :=
  fits_bind (vsrcTy_bound h) fun _ la => fits_ok rfl la rfl rfl rfl rfl

theorem recKpop_fits {f : FX} (h : Spec.Masked s f.a.toNat n ∧ Spec.Masked s f.k.toNat n ∧
    (s.th.lq f.d.toNat).slots.length + (f.fnAt 1 2 + 1) ≤ 16) : Fits s n (s.recKpop f) := by
  obtain ⟨ha, hk, hr⟩ := h
  exact fits_bind (ksrc_masked ha) fun a la => fits_bind (ksrc_masked hk) fun k lk =>
    fits_ok rfl la rfl rfl lk (queueFull_reserves rfl hr)

/-- R257: MOPA and MOPS; the recipe has 128 elements for each unit of the length. -/
theorem recMop_fits {f : FT} (h : Spec.Bound s f.a (fun t => t = .elem f.ty.toNat) (n.map (128 * ·))) :
    Fits s n (s.recMop o f false) :=
  fits_bind (vsrcTy_bound h) fun _ la => fits_own rfl la rfl

/-- R257: MOPT, of two recipes. -/
theorem recMopt_fits {f : FT} (h : Spec.Bound s f.a (fun t => t = .elem f.ty.toNat) (n.map (128 * ·)) ∧
    Spec.Bound s f.b (fun t => t = .elem f.tyb.toNat) (n.map (128 * ·))) : Fits s n (s.recMop o f true) := by
  obtain ⟨ha, hb⟩ := h
  obtain ⟨b, hb, lb⟩ := vsrcTy_bound hb
  refine fits_bind (vsrcTy_bound ha) fun a la => ?_
  rw [hb]
  exact fits_own rfl (sized_append la lb) rfl

theorem recScan_fits {f : FX} {one : Bool} (h : Spec.Bound s f.a (fun _ => True) none ∧
    Spec.Bound s (f.a + 1) (fun _ => True) none ∧ Spec.Bound s (f.a + 2) (fun _ => True) none ∧
    Spec.Bound s (f.a + 3) (fun _ => True) none) : Fits s n (s.recScan o f one) := by
  obtain ⟨hx, hl, hb, hc⟩ := h
  have src {r : BitVec 6} (hr : Spec.Bound s r (fun _ => True) none) := vsrc_bound (ok := fun _ => true) hr fun _ _ => rfl
  exact fits_bind (src hx) fun _ _ => fits_bind (src hl) fun _ _ => fits_bind (src hb) fun _ _ =>
    fits_bind (src hc) fun _ _ => fits_own rfl rfl rfl

theorem recMoveOut_fits {f : FT} : Fits s n (.ok (s.recMoveOut o f)) := by
  unfold State.recMoveOut
  split <;> exact fits_ok rfl rfl rfl rfl rfl rfl

/-- R331: with the threads of no other task active on the pair, STMAP is not refused. -/
theorem pairShared_of_alone (h : ∀ u ∈ s.threads, u.run = .running → u.cluster = s.th.cluster → u.pair = s.th.pair →
    u.task = s.th.task) : s.pairShared = false := by
  unfold State.pairShared State.activeThreads
  rw [List.any_eq_false]
  intro u hu
  obtain ⟨i, -, hi⟩ := List.mem_filterMap.mp hu
  have active := List.find?_some hi
  simp only [Thread.activeOn, Bool.and_eq_true, beq_iff_eq] at active
  obtain ⟨⟨⟨hr, hc⟩, hp⟩, -⟩ := active
  simp [h u (List.mem_of_find?_eq_some hi) hr hc hp]

end

/-- Every recording word whose operands are there forms a request that its lengths and length queues allow. -/
theorem recordingOf_fits (i : Instr) (s : State) (ls : Nat) (r : Except Nat Rec) (n : Option Nat)
    (h : Spec.recordingOf i s = some (ls, r)) (ho : Spec.OperandsHere i s n) : Fits s n r := by
  unfold Spec.recordingOf at h
  split at h
  case h_82 => cases h
  case h_41 =>
    split at h
    · next h8 =>
      cases h
      exact recTb_fits h8 ho
    · cases h
  all_goals cases h
  case h_79 =>
    rw [if_neg (by simp [pairShared_of_alone ho])]
    exact fits_ok rfl rfl rfl rfl rfl rfl
  case h_1 | h_2 | h_3 | h_4 | h_5 | h_6 | h_7 | h_8 | h_9 | h_10 | h_11 | h_12 => exact recBin_fits ho
  case h_13 | h_14 | h_15 | h_16 => exact recScalar_fits ho
  case h_17 | h_18 | h_19 => exact recImm_fits ho
  case h_20 | h_21 | h_22 | h_23 | h_24 => exact recUn_fits ho
  case h_25 => exact recFma_fits ho
  case h_26 => exact recFmas_fits ho
  case h_27 => exact recCvt_fits ho
  case h_28 => exact recCmp_fits ho
  case h_29 => exact recCmps_fits ho
  case h_30 => exact recClass_fits ho
  case h_31 => exact recSel_fits ho
  case h_32 => exact recKop_fits ho
  case h_33 => exact recFlags_fits ho
  case h_34 => exact recSplat_fits ho
  case h_35 => exact recIota_fits ho
  case h_36 => exact recBcast_fits ho
  case h_37 => exact recSegred_fits ho
  case h_38 => exact recLd_fits ho
  case h_39 => exact recKld_fits ho
  case h_40 => exact recTread_fits ho
  case h_42 => exact recCpyx_fits ho
  case h_43 => exact recMscale_fits ho
  case h_44 => exact recMtwr_fits ho
  case h_45 => exact recMrred_fits ho
  case h_46 => exact recSt_fits ho
  case h_47 => exact recStx_fits ho
  case h_48 => exact recCst_fits ho
  case h_49 => exact recKst_fits ho
  case h_50 => exact recRed_fits ho
  case h_51 => exact recAmo_fits ho
  case h_52 => exact recForce_fits ho
  case h_53 => exact recKpop_fits ho
  case h_54 | h_55 => exact recMop_fits ho
  case h_56 => exact recMopt_fits ho
  case h_61 | h_62 => exact recMoveOut_fits
  case h_68 | h_69 => exact recScan_fits ho
  -- What is left are engine words that read no name.
  all_goals exact fits_ok rfl rfl rfl rfl rfl rfl

/-! ### Recording words complete -/

/-- R188, R189: the length that a word finds is taken; it is known where it is filled. -/
theorem takeLen_lengthFor {s : State} {ls : Nat} {n : Option Nat} (h : Spec.LengthFor s ls n) :
    ∃ lsrc len t, s.th.takeLen ls = .ok (lsrc, len, t) ∧ knownLen lsrc len = n := by
  obtain ⟨rfl, rfl⟩ | ⟨h0, u, hu, rfl⟩ := h
  · exact ⟨0, _, _, rfl, by simp [knownLen, slice]⟩
  · have h5 : ls ≠ 5 := by
      rintro rfl
      exact nomatch hu
    have old : (s.th.lq (ls - 1)).oldest = some u := hu
    cases hf : u.filled with
    | some l =>
      exact ⟨5, l, s.th.setLq (ls - 1) ((s.th.lq (ls - 1)).take u.no), by simp [Thread.takeLen, h0, old, hf], rfl⟩
    | none =>
      exact ⟨ls, u.no, s.th.setLq (ls - 1) ((s.th.lq (ls - 1)).take u.no), by simp [Thread.takeLen, h0, old, hf],
        by simp [knownLen, h0, h5]⟩

/-- The words of a fixed length ask nothing of their operands that turns on a length. -/
theorem operandsHere_fixed {i : Instr} {s : State} {n m : Option Nat} (hf : Spec.fixedLength i = true)
    (h : Spec.OperandsHere i s n) : Spec.OperandsHere i s m := by
  unfold Spec.fixedLength at hf
  split at hf
  case h_7 => cases hf
  all_goals exact h

/-- The length a request takes, with operands that agree with it. -/
theorem length_and_operands {i : Instr} {s : State} {ls : Nat} {n : Option Nat} (ho : Spec.OperandsHere i s n)
    (hl : Spec.fixedLength i = false → Spec.LengthFor s ls n) (fixed : Option Nat) (hf : Spec.fixedLength i = fixed.isSome) :
    ∃ lsrc len t, (∀ k, fixed = some k → lsrc = 5 ∧ len = k ∧ t = s.th) ∧
      (fixed = none → s.th.takeLen ls = .ok (lsrc, len, t)) ∧ Spec.OperandsHere i s (knownLen lsrc len) := by
  cases fixed with
  | some k =>
    exact ⟨5, k, s.th, fun j hj => ⟨rfl, Option.some.inj hj, rfl⟩, fun h => (nomatch h), operandsHere_fixed hf ho⟩
  | none =>
    obtain ⟨lsrc, len, t, ht, rfl⟩ := takeLen_lengthFor (hl hf)
    exact ⟨lsrc, len, t, fun j hj => (nomatch hj), fun _ => ht, ho⟩

/-- Settles O50: operands that are there form a request, the room the statement names accepts it, and what an accepted
request does is known. -/
theorem recordingWordsComplete : Obligations.RecordingWordsComplete := by
  intro i s ls r n hwf hr hl ho hqueue hcount hbudget hnodes harit
  obtain ⟨q0, rfl, -, -⟩ := recordingOf_fits i s ls r n hr ho
  have req := recordingOf_request i s ls _ hr q0 rfl
  have row := row_recording i s ls _ q0.word hr req.word
  obtain ⟨lsrc, len, t0, hfix, htake, ho⟩ := length_and_operands ho hl q0.fixedLen req.fixed
  obtain ⟨q, hq, meets, room⟩ := recordingOf_fits i s ls _ _ hr ho
  cases hq
  have accepted : Spec.Accepted s ls q0 lsrc len t0 := by
    refine ⟨?_, fun c hc => ?_, hfix, htake, fun l k hk => ?_, ?_, ?_, fun f hf => ?_, fun hf => ?_⟩
    · simp [Dispatch.room]
      omega
    · exact hcount q0.word c req.word (req.counter row ▸ hc)
    · simpa [queueFull, hk] using room
    · rw [req.parts, Recipe.free]
      omega
    · have := (aritNeed_le s q0 i lsrc len row req.nodeRng).trans req.ranges
      omega
    · simpa [lengthsMeet, hf] using meets
    · simpa [lengthsMeet, hf] using meets
  obtain ⟨t, e, hexec, queue, -, -, word, -, -, -, -, pc, -, -, -, -, -, -, smode, -, -, -, -, -, -, -, -, -, npc, xs, sr, tr,
    rest, tasks, mem⟩ := recordingWordsRecord i s ls q0 lsrc len t0 hwf hr accepted hbudget
  exact ⟨t, e, hexec, queue, word, pc, smode, npc, xs, sr, tr, rest, tasks, mem⟩

end Sys2Proof.Laws


/-! Lane groups (R27 to R30): how sixteen of them are shared by weight. -/

namespace Sys2Proof.Laws

open Sys2Proof Sys2Proof.Machine

/-! ### The division by weight (R27) -/

/-- R27: the groups of thread `i` before those left over are given out. -/
def shareBase (ws : List Nat) (i : Nat) : Nat := 1 + (16 - ws.length) * ws.getD i 0 / ws.sum

/-- R27: the fraction thread `i` has dropped, in parts of the sum of the weights. -/
def sharePart (ws : List Nat) (i : Nat) : Nat := (16 - ws.length) * ws.getD i 0 % ws.sum

/-- R27: the groups left over. -/
def groupsLeft (ws : List Nat) : Nat := 16 - ∑ i ∈ Finset.range ws.length, shareBase ws i

/-- R27: `j` stands before `i` for a group left over. -/
def ahead (part : Nat → Nat) (j i : Nat) : Bool := part i < part j || (part i == part j && j < i)

/-- R27: how many of `n` threads stand before `i`. -/
def rankAmong (part : Nat → Nat) (n i : Nat) : Nat := ((List.range n).filter fun j => ahead part j i).length

theorem ahead_iff (part : Nat → Nat) (j i : Nat) :
    ahead part j i = true ↔ part i < part j ∨ part i = part j ∧ j < i := by simp [ahead]

theorem rankAmong_eq_card (part : Nat → Nat) (n i : Nat) :
    rankAmong part n i = ((Finset.range n).filter fun j => ahead part j i = true).card := by
  simp [rankAmong, Finset.card, Finset.filter, Finset.range, Multiset.range]

theorem getD_map_of_lt {α β : Type} (f : α → β) (l : List α) (i : Nat) (a : α) (b : β) (h : i < l.length) :
    (l.map f).getD i b = f (l.getD i a) := by
  simp [List.getD, h]

theorem map_getD_range (ws : List Nat) : (List.range ws.length).map (fun i => ws.getD i 0) = ws := by
  refine List.ext_getElem (by simp) fun i _ h => ?_
  simp [h]

theorem sum_getD_range (ws : List Nat) (f : Nat → Nat) :
    ∑ i ∈ Finset.range ws.length, f (ws.getD i 0) = (ws.map f).sum := by
  calc ∑ i ∈ Finset.range ws.length, f (ws.getD i 0)
      = ((List.range ws.length).map fun i => f (ws.getD i 0)).sum := rfl
    _ = (((List.range ws.length).map fun i => ws.getD i 0).map f).sum := by rw [List.map_map]; rfl
    _ = (ws.map f).sum := by rw [map_getD_range]

/-- R27: the division, with its base, its fractions and its order named. -/
theorem laneShares_eq (ws : List Nat) :
    laneShares ws = (List.range ws.length).map fun i =>
      shareBase ws i + if rankAmong (sharePart ws) ws.length i < groupsLeft ws then 1 else 0 := by
  have left : groupsLeft ws = 16 - (ws.map fun w => 1 + (16 - ws.length) * w / ws.sum).sum := by
    rw [groupsLeft, ← sum_getD_range]
    rfl
  refine List.map_congr_left fun i hi => ?_
  have hi : i < ws.length := List.mem_range.mp hi
  have base : (ws.map fun w => 1 + (16 - ws.length) * w / ws.sum).getD i 0 = shareBase ws i :=
    getD_map_of_lt _ ws i 0 0 hi
  have part (j : Nat) (hj : j < ws.length) :
      (ws.map fun w => (16 - ws.length) * w % ws.sum).getD j 0 = sharePart ws j := getD_map_of_lt _ ws j 0 0 hj
  have rank : ((List.range ws.length).filter fun j =>
      (ws.map fun w => (16 - ws.length) * w % ws.sum).getD i 0 < (ws.map fun w => (16 - ws.length) * w % ws.sum).getD j 0 ||
      ((ws.map fun w => (16 - ws.length) * w % ws.sum).getD j 0 ==
        (ws.map fun w => (16 - ws.length) * w % ws.sum).getD i 0 && j < i)).length =
      rankAmong (sharePart ws) ws.length i := by
    refine congrArg List.length (List.filter_congr fun j hj => ?_)
    rw [part i hi, part j (List.mem_range.mp hj), Bool.beq_comm]
    rfl
  dsimp only
  rw [base, rank, left]

theorem length_laneShares (ws : List Nat) : (laneShares ws).length = ws.length := by
  simp [laneShares_eq]

theorem getD_laneShares (ws : List Nat) (i : Nat) (h : i < ws.length) :
    (laneShares ws).getD i 0 =
      shareBase ws i + if rankAmong (sharePart ws) ws.length i < groupsLeft ws then 1 else 0 := by
  rw [laneShares_eq]
  simp [List.getD, h]

/-! ### The order of those a group left over goes to -/

theorem ahead_total (part : Nat → Nat) {i j : Nat} (h : i ≠ j) : ahead part i j = true ∨ ahead part j i = true := by
  simp only [ahead_iff]
  omega

/-- A thread that stands before another has a lower rank. -/
theorem rankAmong_lt_of_ahead (part : Nat → Nat) {n i j : Nat} (hj : j < n) (h : ahead part j i = true) :
    rankAmong part n j < rankAmong part n i := by
  rw [rankAmong_eq_card, rankAmong_eq_card]
  refine Finset.card_lt_card ⟨fun k hk => ?_, fun hsub => ?_⟩
  · simp only [Finset.mem_filter, Finset.mem_range, ahead_iff] at hk h ⊢
    omega
  · have : j ∈ (Finset.range n).filter fun k => ahead part k j = true := hsub (by simp [hj, h])
    simp [ahead_iff] at this

theorem rankAmong_lt (part : Nat → Nat) {n i : Nat} (h : i < n) : rankAmong part n i < n := by
  rw [rankAmong_eq_card]
  calc ((Finset.range n).filter fun j => ahead part j i = true).card
      < (Finset.range n).card := Finset.card_lt_card (Finset.filter_ssubset.mpr ⟨i, by simp [h], by simp [ahead_iff]⟩)
    _ = n := Finset.card_range n

theorem rankAmong_injOn (part : Nat → Nat) (n : Nat) : Set.InjOn (rankAmong part n) (Finset.range n) := by
  intro i hi j hj h
  by_contra hne
  simp only [Finset.coe_range, Set.mem_Iio] at hi hj
  obtain h1 | h1 := ahead_total part hne
  · exact absurd h (rankAmong_lt_of_ahead part hi h1).ne
  · exact absurd h (rankAmong_lt_of_ahead part hj h1).ne'

/-- Every rank below `n` is some thread's, so that as many threads rank below `k` as there are such ranks. -/
theorem card_rankAmong_lt (part : Nat → Nat) {n k : Nat} (h : k ≤ n) :
    ((Finset.range n).filter fun i => rankAmong part n i < k).card = k := by
  have onto : (Finset.range n).image (rankAmong part n) = Finset.range n := by
    refine Finset.eq_of_subset_of_card_le (fun r hr => ?_) ?_
    · obtain ⟨i, hi, rfl⟩ := Finset.mem_image.mp hr
      exact Finset.mem_range.mpr (rankAmong_lt part (Finset.mem_range.mp hi))
    · rw [Finset.card_image_of_injOn (rankAmong_injOn part n)]
  calc ((Finset.range n).filter fun i => rankAmong part n i < k).card
      = (((Finset.range n).filter fun i => rankAmong part n i < k).image (rankAmong part n)).card :=
        (Finset.card_image_of_injOn ((rankAmong_injOn part n).mono (Finset.coe_subset.mpr (Finset.filter_subset _ _)))).symm
    _ = ((Finset.range n).filter (· < k)).card := by
        rw [← Finset.filter_image (p := (· < k)), onto]
    _ = (Finset.range k).card := congrArg Finset.card (by ext r; simp; omega)
    _ = k := Finset.card_range k

/-! ### All sixteen groups are given out -/

/-- Rounding down leaves over no more than one group for each thread. -/
theorem sum_div_bounds (l : List Nat) (r w : Nat) (hw : 0 < w) (hsum : l.sum = w) :
    (l.map fun x => r * x / w).sum ≤ r ∧ r ≤ (l.map fun x => r * x / w).sum + l.length := by
  have below (m : List Nat) : w * (m.map fun x => r * x / w).sum ≤ r * m.sum ∧
      r * m.sum ≤ w * (m.map fun x => r * x / w).sum + w * m.length := by
    induction m with
    | nil => simp
    | cons x m ih =>
      have hdiv := Nat.div_add_mod (r * x) w
      have hmod := Nat.mod_lt (r * x) hw
      simp only [List.map_cons, List.sum_cons, List.length_cons, Nat.mul_add, Nat.mul_one]
      omega
  obtain ⟨h1, h2⟩ := below l
  rw [hsum, Nat.mul_comm r w] at h1 h2
  rw [← Nat.mul_add] at h2
  exact ⟨Nat.le_of_mul_le_mul_left h1 hw, Nat.le_of_mul_le_mul_left h2 hw⟩

theorem sum_one_add (l : List Nat) (f : Nat → Nat) : (l.map fun x => 1 + f x).sum = l.length + (l.map f).sum := by
  induction l with
  | nil => rfl
  | cons x l ih =>
    simp only [List.map_cons, List.sum_cons, List.length_cons, ih]
    omega

theorem sum_shareBase (ws : List Nat) (hn : ws.length ≤ 16) (hw : 0 < ws.sum) :
    (∑ i ∈ Finset.range ws.length, shareBase ws i) + groupsLeft ws = 16 ∧ groupsLeft ws ≤ ws.length := by
  have base : ∑ i ∈ Finset.range ws.length, shareBase ws i =
      ws.length + (ws.map fun w => (16 - ws.length) * w / ws.sum).sum :=
    (sum_getD_range ws fun w => 1 + (16 - ws.length) * w / ws.sum).trans (sum_one_add ws _)
  obtain ⟨h1, h2⟩ := sum_div_bounds ws (16 - ws.length) ws.sum hw rfl
  rw [groupsLeft, base]
  omega

theorem sum_laneShares (ws : List Nat) (hn : ws.length ≤ 16) (hw : 0 < ws.sum) : (laneShares ws).sum = 16 := by
  obtain ⟨total, left⟩ := sum_shareBase ws hn hw
  calc (laneShares ws).sum
      = ∑ i ∈ Finset.range ws.length,
          (shareBase ws i + if rankAmong (sharePart ws) ws.length i < groupsLeft ws then 1 else 0) := by
        rw [laneShares_eq]; rfl
    _ = (∑ i ∈ Finset.range ws.length, shareBase ws i) + groupsLeft ws := by
        rw [Finset.sum_add_distrib, ← Finset.card_filter, card_rankAmong_lt _ left]
    _ = 16 := total

theorem sum_pos_of_weights (ws : List Nat) (h0 : 0 < ws.length) (h : ∀ w ∈ ws, 1 ≤ w) : 0 < ws.sum := by
  obtain ⟨w, ws, rfl⟩ := List.exists_cons_of_length_pos h0
  have := h w (by simp)
  simp only [List.sum_cons]
  omega

theorem laneGroupsAreSharedByWeight : Spec.LaneGroupsAreSharedByWeight := by
  intro ws h0 h4 hws
  refine ⟨length_laneShares ws, sum_laneShares ws (by omega) (sum_pos_of_weights ws h0 fun w h => (hws w h).1),
    fun i hi => ⟨?_, fun j hj hup hdown => ?_⟩⟩
  · dsimp only
    rw [getD_laneShares ws i hi]
    change _ = shareBase ws i ∨ _ = shareBase ws i + 1
    split
    · exact .inr rfl
    · exact .inl rfl
  · dsimp only at hup hdown
    rw [getD_laneShares ws i hi] at hup
    rw [getD_laneShares ws j hj] at hdown
    change _ = shareBase ws i + 1 at hup
    change _ = shareBase ws j at hdown
    change sharePart ws j < sharePart ws i ∨ sharePart ws j = sharePart ws i ∧ i < j
    have hlt : rankAmong (sharePart ws) ws.length i < rankAmong (sharePart ws) ws.length j := by
      split at hup <;> split at hdown <;> omega
    obtain h | h := ahead_total (sharePart ws) (i := i) (j := j) (by rintro rfl; omega)
    · rw [ahead_iff] at h
      omega
    · exact absurd (rankAmong_lt_of_ahead _ hj h) (by omega)

end Sys2Proof.Laws


/-! SETVL (R210) and the division of a pair's lanes that it brings about (R27, R29). -/

namespace Sys2Proof.Laws

open Sys2Proof Sys2Proof.Machine

/-! ### What a new division keeps -/

/-- A thread but for the lane groups it holds and its target. -/
def laneless (t : Thread) : Thread := { t with sr := { t.sr with groups := 0, target := 0 } }

/-- An update of the threads active on a pair keeps what it keeps of each of them. -/
theorem onSlots_keeps {α : Type} (g : Thread → α) (s : State) (c p : Nat) (f : Thread → Thread) (h : ∀ u, g (f u) = g u) :
    g (s.onSlots c p f).th = g s.th ∧ (s.onSlots c p f).rest.map g = s.rest.map g := by
  have h1 : ∀ u : Thread, g (if u.activeOn c p then f u else u) = g u := by
    intro u; split
    · exact h u
    · rfl
  exact ⟨h1 s.th, by simp [State.onSlots, State.mapThreads, h1]⟩

/-- Threads that differ in their lanes alone agree in all that does not tell of them. -/
theorem same_of_laneless {α : Type} {t u : Thread} (h : laneless u = laneless t) (g : Thread → α)
    (hg : ∀ v, g (laneless v) = g v := by intro; rfl) : g u = g t := by
  rw [← hg u, h, hg t]

theorem laneless_groupless (t : Thread) : laneless (Spec.groupless t) = laneless t := rfl

theorem laneless_of_groupless {t u : Thread} (h : Spec.groupless u = Spec.groupless t) : laneless u = laneless t := by
  rw [← laneless_groupless u, h, laneless_groupless]

theorem laneless_divideLanes (s : State) (c p : Nat) :
    laneless (s.divideLanes c p).th = laneless s.th ∧ (s.divideLanes c p).rest.map laneless = s.rest.map laneless :=
  onSlots_keeps laneless s c p _ fun _ => rfl

theorem laneless_moveLanes (s : State) (c p : Nat) (b : Option HwId) :
    laneless (s.moveLanes c p b).th = laneless s.th ∧ (s.moveLanes c p b).rest.map laneless = s.rest.map laneless := by
  obtain ⟨th, rest⟩ := groupless_moveLanes s c p b
  refine ⟨laneless_of_groupless th, ?_⟩
  simpa [Function.comp_def, laneless_groupless] using congrArg (List.map laneless) rest

/-- R27, R29: a division moves lane groups and targets, and nothing else of any thread. -/
theorem laneless_recomputeLanes (s : State) (c p : Nat) :
    laneless (s.recomputeLanes c p).th = laneless s.th ∧
      (s.recomputeLanes c p).rest.map laneless = s.rest.map laneless := by
  obtain ⟨th, rest⟩ := laneless_moveLanes (s.divideLanes c p) c p none
  obtain ⟨th1, rest1⟩ := laneless_divideLanes s c p
  exact ⟨th.trans th1, rest.trans rest1⟩

/-- R27, R29: a division is nothing to the rest of the machine. -/
theorem recomputeLanes_eq (s : State) (c p : Nat) :
    s.recomputeLanes c p = { s with th := (s.recomputeLanes c p).th, rest := (s.recomputeLanes c p).rest } := rfl

theorem sr_of_laneless {t u : Thread} (h : laneless u = laneless t) :
    u.sr = { t.sr with groups := u.sr.groups, target := u.sr.target } :=
  same_of_laneless h fun v => { v.sr with groups := u.sr.groups, target := u.sr.target }

/-! ### The target of a thread (R27) -/

/-- The threads active on a pair stand in the order of their slots. -/
theorem activeThreads_pairwise (s : State) (c p : Nat) :
    (s.activeThreads c p).Pairwise fun t u => t.slot < u.slot := by
  refine List.pairwise_filterMap.mpr (List.pairwise_lt_range.imp fun {i j} hij t ht u hu => ?_)
  have slot {k : Nat} {v : Thread} (h : s.threads.find? (fun t => t.activeOn c p && t.slot == k) = some v) : v.slot = k := by
    have := List.find?_some h
    simp only [Bool.and_eq_true, beq_iff_eq] at this
    exact this.2
  rw [slot ht, slot hu]
  exact hij

/-- The share beside the first thread of a slot is the one at its place. -/
theorem find?_zip_shares (ts : List Thread) (shares : List Nat) (slot k : Nat) (hlen : shares.length = ts.length)
    (hk : k < ts.length) (hslot : ts[k].slot = slot) (hne : ∀ j (h : j < k), ts[j].slot ≠ slot) :
    (ts.zip shares).find? (fun u => u.1.slot == slot) = some (ts[k], shares[k]) := by
  rw [List.find?_eq_some_iff_getElem]
  refine ⟨by simp [hslot], k, by simp [hlen, hk], by simp, fun j hj => ?_⟩
  simpa using hne j hj

theorem target_divideLanes (s : State) (k : Nat) (d : Thread) (hrun : s.th.run = .running)
    (hk : k < (s.activeThreads s.th.cluster s.th.pair).length)
    (hslot : ((s.activeThreads s.th.cluster s.th.pair).getD k d).slot = s.th.slot) :
    (s.divideLanes s.th.cluster s.th.pair).th.sr.target =
      (laneShares ((s.activeThreads s.th.cluster s.th.pair).map fun u => max 1 u.sr.divided)).getD k 0 := by
  have order := activeThreads_pairwise s s.th.cluster s.th.pair
  unfold State.divideLanes
  generalize s.activeThreads s.th.cluster s.th.pair = ts at hk hslot order
  have len : (laneShares (ts.map fun u => max 1 u.sr.divided)).length = ts.length := by
    rw [length_laneShares, List.length_map]
  have hslot : ts[k].slot = s.th.slot := by simpa [hk] using hslot
  have found := find?_zip_shares ts _ s.th.slot k len hk hslot fun j hj =>
    ((List.pairwise_iff_getElem.mp order j k _ hk hj).trans_eq hslot).ne
  have active : s.th.activeOn s.th.cluster s.th.pair = true := by simp [Thread.activeOn, hrun]
  simp only [State.onSlots, State.mapThreads, active, if_true, found, Option.elim_some]
  simp [List.getD, len, hk]

theorem target_moveLanes (s : State) (c p : Nat) (b : Option HwId) :
    (s.moveLanes c p b).th.sr.target = s.th.sr.target := by
  obtain ⟨-, -, hsr, -⟩ := fields_of_groupless (groupless_moveLanes s c p b).1
  rw [hsr]

/-! ### SETVL (R210) -/

theorem setvlLen_eq (s : State) (f : FJ) : s.setvlLen f = if f.a = 0 then f.imm.toNat else (s.x f.a).toNat := by
  by_cases h : f.a = 0 <;> simp [State.setvlLen, h]

/-- The state in which SETVL divides the lanes: VL holds the length, and the thread's weight takes part from now on. -/
def lengthSet (s : State) (n : Nat) : State :=
  { s with th := { s.th with sr := { s.th.sr with vl := BitVec.ofNat 64 n, divided := s.th.sr.weight } } }

theorem exec_setvl (f : FJ) (s : State) (h : s.setvlLen f < 2 ^ 48) :
    exec (.setvl f) s = .next (((lengthSet s (s.setvlLen f)).recomputeLanes s.th.cluster s.th.pair).wrote f.d
      (BitVec.ofNat 64 (s.setvlLen f))) := by
  show s.settle (s.setvl f) = _
  rw [State.setvl, if_neg (Nat.not_le.mpr h), State.finish, settle_done, setX_eq, retire_eq]
  rfl

theorem exec_setvl_tooLong (f : FJ) (s : State) (h : 2 ^ 48 ≤ s.setvlLen f) :
    exec (.setvl f) s = .next (s.trap (TrapInfo.at causeRange 0 0)) := by
  show s.settle (s.setvl f) = _
  rw [State.setvl, if_pos h]
  rfl

theorem setvlSetsTheLength : Spec.SetvlSetsTheLength := by
  intro f s
  rw [← setvlLen_eq]
  refine ⟨fun h => ⟨_, exec_setvl_tooLong f s h, trapped_trap s _ _ _⟩, fun h => ⟨_, exec_setvl f s h, ?_⟩⟩
  generalize s.setvlLen f = n
  have target (k : Nat) := target_divideLanes (lengthSet s n) k (lengthSet s n).th
  have keep := (laneless_recomputeLanes (lengthSet s n) s.th.cluster s.th.pair).1
  have moved := target_moveLanes ((lengthSet s n).divideLanes s.th.cluster s.th.pair) s.th.cluster s.th.pair none
  have tasks : ((lengthSet s n).recomputeLanes s.th.cluster s.th.pair).tasks = s.tasks := rfl
  have mem : ((lengthSet s n).recomputeLanes s.th.cluster s.th.pair).mem = s.mem := rfl
  change ((lengthSet s n).recomputeLanes s.th.cluster s.th.pair).th.sr.target = _ at moved
  generalize (lengthSet s n).recomputeLanes s.th.cluster s.th.pair = u at keep moved tasks mem ⊢
  have pc : u.th.pc = s.th.pc := same_of_laneless keep Thread.pc
  have xs : u.th.xs = s.th.xs := same_of_laneless keep Thread.xs
  have sr := sr_of_laneless keep
  have cc : u.th.cc = s.th.cc := same_of_laneless keep Thread.cc
  have tr : u.th.tr = s.th.tr := same_of_laneless keep Thread.tr
  have dsp : u.th.dsp = s.th.dsp := same_of_laneless keep Thread.dsp
  have rcp : u.th.rcp = s.th.rcp := same_of_laneless keep Thread.rcp
  have posted : u.th.fe.posted = s.th.fe.posted := same_of_laneless keep fun t => t.fe.posted
  refine ⟨by rw [pc_wrote, pc], ?_, by rw [wrote_th_sr]; exact sr, fun k hk hslot hrun _ => ?_, by rw [wrote_th_cc, cc],
    by rw [wrote_th_tr, tr], by rw [wrote_th_dsp, dsp], by rw [wrote_th_rcp, rcp], posted, tasks, mem⟩
  · simp only [State.withX, State.wrote, State.passed, xs]
  · rw [wrote_th_sr]
    exact moved.trans (target k hrun hk hslot)

/-- Settles O12: a thread's rank among the fractions dropped says who takes a group left over, and the ranks are a
permutation; SETVL is its length and a new division. -/
theorem setvlSharesTheLanes : Obligations.SetvlSharesTheLanes := ⟨laneGroupsAreSharedByWeight, setvlSetsTheLength⟩

end Sys2Proof.Laws


/-! What the launch engine's operations keep (R341 to R361): each moves threads, pairs and communication sets, or updates
one entry of a table, and leaves the rest of the machine alone. -/

namespace Sys2Proof.Laws

open Sys2Proof Sys2Proof.Machine

/-! ### Repeated steps -/

/-- What each step keeps, all of them keep. -/
theorem foldl_keeps {σ α β : Type} (g : σ → β) (f : σ → α → σ) (h : ∀ s a, g (f s a) = g s) (l : List α) (s : σ) :
    g (l.foldl f s) = g s := by
  induction l generalizing s with
  | nil => rfl
  | cons a l ih => exact (ih (f s a)).trans (h s a)

/-! ### All but the threads and where they are -/

/-- A state but for its threads, its pairs, its communication sets and the schedule's choices. -/
def unseated (s : State) : State := { s with th := Thread.reset, rest := [], pairs := [], comms := [], choices := [] }

/-- States that differ in those alone agree in all else. -/
theorem same_of_unseated {α : Type} {s t : State} (h : unseated t = unseated s) (g : State → α)
    (hg : ∀ v, g (unseated v) = g v := by intro; rfl) : g t = g s := by
  rw [← hg t, h, hg s]

theorem unseated_setPair (s : State) (p : Pair) : unseated (s.setPair p) = unseated s := by
  unfold State.setPair
  split <;> rfl

theorem unseated_choose (s : State) : unseated s.choose.2 = unseated s := by
  unfold State.choose
  split <;> rfl

theorem unseated_focus (s : State) (h : HwId) : unseated (s.focus h) = unseated s := by
  unfold State.focus
  split
  · rfl
  · split <;> rfl

theorem unseated_recomputeLanes (s : State) (c p : Nat) : unseated (s.recomputeLanes c p) = unseated s := by
  rw [recomputeLanes_eq]
  rfl

theorem unseated_freePairs (s : State) (id : Nat) (ps : List (Nat × Nat)) :
    unseated (s.freePairs id ps) = unseated s := by
  refine foldl_keeps unseated _ (fun s u => ?_) ps s
  rw [unseated_recomputeLanes]
  split
  · exact unseated_setPair s _
  · rfl

theorem unseated_removeThreads (s : State) (id : Nat) : unseated (s.removeThreads id) = unseated s := by
  unfold State.removeThreads
  dsimp only
  split
  · rfl
  · split <;> rfl

theorem unseated_addThread (s : State) (t : Thread) : unseated (s.addThread t) = unseated s := by
  unfold State.addThread
  split <;> rfl

theorem unseated_addComms (s : State) (id : Nat) (ps : List (Nat × Nat)) : unseated (s.addComms id ps) = unseated s :=
  foldl_keeps unseated (fun s c => { s with comms := Comm.zero c id :: s.comms }) (fun _ _ => rfl) _ s

theorem unseated_startStash (s : State) (u : Nat × Nat) (r : Record) (b : W64) (id : Nat × Nat × Nat) :
    unseated (s.startStash u r b id) = unseated s := by
  unfold State.startStash
  split
  · rfl
  · dsimp only
    rw [unseated_setPair]
    split
    · rfl
    · exact unseated_choose s

/-! ### Threads but for their lanes -/

/-- Every thread of the machine but for its lanes. -/
def lanelessThreads (s : State) : List Thread := s.threads.map laneless

theorem lanelessThreads_recomputeLanes (s : State) (c p : Nat) :
    lanelessThreads (s.recomputeLanes c p) = lanelessThreads s := by
  obtain ⟨th, rest⟩ := laneless_recomputeLanes s c p
  simp only [lanelessThreads, State.threads, List.map_cons, th, rest]

theorem threads_setPair (s : State) (p : Pair) : (s.setPair p).threads = s.threads := by simp [State.threads]

theorem lanelessThreads_freePairs (s : State) (id : Nat) (ps : List (Nat × Nat)) :
    lanelessThreads (s.freePairs id ps) = lanelessThreads s := by
  refine foldl_keeps lanelessThreads _ (fun s u => ?_) ps s
  rw [lanelessThreads_recomputeLanes]
  split
  · simp only [lanelessThreads, threads_setPair]
  · rfl

/-- A thread that a division has touched was there before, with other lanes. -/
theorem mem_threads_of_laneless {s t : State} (h : lanelessThreads t = lanelessThreads s) {v : Thread}
    (hv : v ∈ t.threads) : ∃ u ∈ s.threads, laneless v = laneless u := by
  have : laneless v ∈ lanelessThreads s := h ▸ List.mem_map_of_mem hv
  obtain ⟨u, hu, e⟩ := List.mem_map.mp this
  exact ⟨u, hu, e.symm⟩

/-- As many threads meet a test before a division as after, where the test does not look at lanes. -/
theorem length_filter_threads_of_laneless {s t : State} (h : lanelessThreads t = lanelessThreads s) (p : Thread → Bool)
    (hp : ∀ v, p (laneless v) = p v := by intro; rfl) :
    (t.threads.filter p).length = (s.threads.filter p).length := by
  have count (u : State) : (u.threads.filter p).length = (lanelessThreads u).countP p := by
    rw [← List.countP_eq_length_filter, lanelessThreads, List.countP_map]
    exact congrArg (List.countP · u.threads) (funext fun v => (hp v).symm)
  rw [count, count, h]

/-! ### Tables: an entry found after an update -/

/-- An update that keeps a table's keys finds the entry it has updated. -/
theorem find?_map_update {α : Type} (l : List α) (p c : α → Bool) (f : α → α) (h : ∀ a, p (f a) = p a) :
    (l.map fun a => if c a then f a else a).find? p = (l.find? p).map fun a => if c a then f a else a := by
  rw [List.find?_map]
  congr 2
  funext a
  simp only [Function.comp]
  split
  · exact h a
  · rfl

theorem queue?_mapQueue (s : State) (m r n q : Nat) (f : Queue → Queue)
    (h : ∀ u, (f u).part = u.part ∧ (f u).q = u.q) :
    (s.mapQueue n q f).queue? m r = (s.queue? m r).map fun u => if u.part == n && u.q == q then f u else u :=
  find?_map_update s.queues _ _ f fun u => by rw [(h u).1, (h u).2]

theorem part?_mapPart (s : State) (m n : Nat) (f : Part → Part) (h : ∀ p, (f p).conf.id = p.conf.id) :
    (s.mapPart n f).part? m = (s.part? m).map fun p => if p.conf.id == n then f p else p :=
  find?_map_update s.parts _ _ f fun p => by rw [h p]

theorem key_of_queue? {s : State} {n q : Nat} {u : Queue} (h : s.queue? n q = some u) : u.part = n ∧ u.q = q := by
  simpa using List.find?_some h

theorem id_of_part? {s : State} {n : Nat} {p : Part} (h : s.part? n = some p) : p.conf.id = n := by
  simpa using List.find?_some h

theorem id_of_find? {l : List Task} {n : Nat} {k : Task} (h : l.find? (fun t => t.id == n) = some k) : k.id = n := by
  simpa using List.find?_some h

theorem queue?_mapQueue_same {s : State} {n q : Nat} {u : Queue} (f : Queue → Queue)
    (h : ∀ u, (f u).part = u.part ∧ (f u).q = u.q) (hu : s.queue? n q = some u) :
    (s.mapQueue n q f).queue? n q = some (f u) := by
  obtain ⟨hn, hq⟩ := key_of_queue? hu
  rw [queue?_mapQueue s n q n q f h, hu]
  simp [hn, hq]

theorem part?_mapPart_same {s : State} {n : Nat} {p : Part} (f : Part → Part) (h : ∀ p, (f p).conf.id = p.conf.id)
    (hp : s.part? n = some p) : (s.mapPart n f).part? n = some (f p) := by
  rw [part?_mapPart s n n f h, hp]
  simp [id_of_part? hp]

/-- What an update makes true of the queue it names is true of the queue then found. -/
theorem of_queue?_mapQueue {s : State} {n q : Nat} {f : Queue → Queue} {w : Queue} (P : Queue → Prop)
    (h : ∀ u, (f u).part = u.part ∧ (f u).q = u.q) (hP : ∀ u, P (f u)) (hw : (s.mapQueue n q f).queue? n q = some w) : P w := by
  rw [queue?_mapQueue s n q n q f h] at hw
  obtain ⟨u, hu, rfl⟩ := Option.map_eq_some_iff.mp hw
  obtain ⟨hn, hq⟩ := key_of_queue? hu
  simpa [hn, hq] using hP u

@[simp] theorem mapPart_th (s : State) (n : Nat) (f : Part → Part) : (s.mapPart n f).th = s.th := rfl
@[simp] theorem mapPart_rest (s : State) (n : Nat) (f : Part → Part) : (s.mapPart n f).rest = s.rest := rfl
@[simp] theorem mapPart_pairs (s : State) (n : Nat) (f : Part → Part) : (s.mapPart n f).pairs = s.pairs := rfl
@[simp] theorem mapPart_comms (s : State) (n : Nat) (f : Part → Part) : (s.mapPart n f).comms = s.comms := rfl
@[simp] theorem mapPart_tasks (s : State) (n : Nat) (f : Part → Part) : (s.mapPart n f).tasks = s.tasks := rfl
@[simp] theorem mapPart_mem (s : State) (n : Nat) (f : Part → Part) : (s.mapPart n f).mem = s.mem := rfl
@[simp] theorem mapPart_queues (s : State) (n : Nat) (f : Part → Part) : (s.mapPart n f).queues = s.queues := rfl
@[simp] theorem mapPart_owed (s : State) (n : Nat) (f : Part → Part) : (s.mapPart n f).owed = s.owed := rfl

/-! ### Tasks on their way out (R350, R356, R361) -/

/-- R350: a task set out to be pre-empted. -/
def Task.left (k : Task) : Task := if k.state = .running then { k with state := .leaving } else k

theorem left_id (k : Task) : (Task.left k).id = k.id := by
  unfold Task.left
  split <;> rfl

theorem left_left (k : Task) : Task.left (Task.left k) = Task.left k := by
  unfold Task.left
  split <;> simp_all

theorem left_preempted (k : Task) : (Task.left k).state = .preempted ↔ k.state = .preempted := by
  unfold Task.left
  split <;> simp_all

theorem left_not_running (k : Task) : (Task.left k).state ≠ .running := by
  unfold Task.left
  split <;> simp_all

theorem leave_eq (s : State) (ids : List Nat) :
    s.leave ids = { s with tasks := s.tasks.map fun k => if k.id ∈ ids then Task.left k else k } := by
  induction ids generalizing s with
  | nil => simp [State.leave]
  | cons i ids ih =>
    have step : s.leave (i :: ids) = (s.mapTask i Task.left).leave ids := by
      unfold State.leave
      rw [List.foldl_cons]
      congr 2
      funext k
      simp [Task.left]
    rw [step, ih, State.mapTask]
    dsimp only
    rw [List.map_map]
    congr 1
    refine List.map_congr_left fun k _ => ?_
    by_cases hi : k.id = i <;> by_cases hm : k.id ∈ ids <;> simp [hi, hm, left_id, left_left]

end Sys2Proof.Laws


/-! Tasks complete, are pre-empted and resume; QUIESCE and its end (R31, R167, R352, R359). -/

namespace Sys2Proof.Laws

open Sys2Proof Sys2Proof.Machine

/-! ### A task is charged for its energy (R355, R357) -/

/-- R355, R357: as a task is charged, threads change places, the task's counters of energy and its queue's credit move, and
nothing else. -/
theorem chargeNow_cases (s : State) (id : Nat) : ∃ (u : State) (g : Task → Task) (e : Nat),
    unseated u = unseated { s with free := s.free + 1 } ∧ (∀ k, (g k).id = k.id) ∧
      s.chargeNow id = (u.mapTask id g).mapQueue (s.taskOf id).part (s.taskOf id).queue fun w => { w with ce := w.ce - e } := by
  have accrue (f : State) (hf : unseated f = unseated s) : ∃ (u : State) (g : Task → Task) (e : Nat),
      unseated u = unseated { s with free := s.free + 1 } ∧ (∀ k, (g k).id = k.id) ∧
        f.accrue id = (u.mapTask id g).mapQueue (s.taskOf id).part (s.taskOf id).queue fun w => { w with ce := w.ce - e } := by
    rw [← same_of_unseated hf (fun v => v.taskOf id)]
    refine ⟨f.fresh.2, _, _, ?_, fun k => ?_, rfl⟩
    · exact same_of_unseated hf fun v => unseated { v with free := v.free + 1 }
    · rfl
  unfold State.chargeNow
  dsimp only
  split
  · exact accrue _ (unseated_focus s _)
  · exact accrue s rfl

/-! ### The end of a task (R352) -/

/-- R346, R352: with no completion record and no DONEAW, a record's last step is that it counts as finished. -/
theorem concludeAt_bare (s : State) (u : Queue) (index : Nat) (bytes : List Byte) :
    s.concludeAt u index 0 bytes none = some (s.owe (.done u.part u.q index [])) := rfl

theorem mem_threads_removeThreads {s : State} {id : Nat} {v : Thread} (h : v ∈ (s.removeThreads id).threads)
    (hrun : v.run ≠ .idle) : v.task ≠ id := by
  have keep (u : Thread) (hu : (u.task != id || u.run == .idle) = true) : u.run ≠ .idle → u.task ≠ id := by
    simpa [or_iff_not_imp_right] using hu
  unfold State.removeThreads at h
  dsimp only at h
  split at h
  · next hk =>
    obtain rfl | h := List.mem_cons.mp h
    · exact keep _ hk hrun
    · exact keep v (List.mem_filter.mp h).2 hrun
  · split at h
    · rw [List.mem_singleton.mp h] at hrun
      exact absurd rfl hrun
    · next t ts e =>
      have h : v ∈ t :: ts := h
      rw [← e] at h
      exact keep v (List.mem_filter.mp h).2 hrun

/-- R352: the machine once a task has left it, from the state in which its record has been concluded. -/
def withoutTask (s : State) (t : Task) : State :=
  let s2 := { s with comms := s.comms.filter fun c => c.task != t.id }
  let s3 := s2.mapPart t.part fun p => { p with pool := p.pool ++ t.areas }
  let s4 := s3.mapQueue t.part t.queue fun w => { w with again := w.again.filter fun i => i != t.id }
  let s5 := ({ s4 with tasks := s4.tasks.filter fun k => k.id != t.id }.removeThreads t.id).freePairs t.id t.pairs
  s5.markQuiesced t.part

theorem finishTask_bare (s : State) (t : Task) (u : Queue) (hq : s.queue? t.part t.queue = some u)
    (hc : t.record.compl = 0) (hd : t.record.doneaw = none) :
    s.finishTask t = some (withoutTask ((s.chargeNow t.id).owe (.done u.part u.q t.index [])) t) := by
  rw [State.finishTask, hq]
  dsimp only
  rw [hc, hd, concludeAt_bare]
  rfl

theorem comms_freePairs (s : State) (id : Nat) (ps : List (Nat × Nat)) : (s.freePairs id ps).comms = s.comms := by
  refine foldl_keeps State.comms _ (fun s u => ?_) ps s
  rw [recomputeLanes_eq]
  split
  · exact setPair_comms s _
  · rfl

theorem comms_removeThreads (s : State) (id : Nat) : (s.removeThreads id).comms = s.comms := by
  unfold State.removeThreads
  dsimp only
  split
  · rfl
  · split <;> rfl

/-- R352: what is left of the machine once a task has left it. -/
structure Without (s t : State) (k : Task) : Prop where
  tasks : t.tasks = s.tasks.filter fun j => j.id != k.id
  threads : ∀ v ∈ t.threads, v.run ≠ .idle → v.task ≠ k.id
  comms : ∀ c ∈ t.comms, c.task ≠ k.id
  parts : ∀ p, s.part? k.part = some p → ∃ p1, t.part? k.part = some p1 ∧ p1.pool = p.pool ++ k.areas
  queues : t.queues = (s.mapQueue k.part k.queue fun w => { w with again := w.again.filter fun i => i != k.id }).queues
  owed : t.owed = s.owed
  mem : t.mem = s.mem

theorem withoutTask_without (s : State) (k : Task) : Without s (withoutTask s k) k := by
  let bare : State :=
    { (({ s with comms := s.comms.filter fun c => c.task != k.id }.mapPart k.part fun p =>
        { p with pool := p.pool ++ k.areas }).mapQueue k.part k.queue fun w =>
        { w with again := w.again.filter fun i => i != k.id }) with tasks := s.tasks.filter fun j => j.id != k.id }
  let freed : State := (bare.removeThreads k.id).freePairs k.id k.pairs
  have out : withoutTask s k = freed.markQuiesced k.part := rfl
  have elsewhere : unseated freed = unseated bare :=
    (unseated_freePairs _ _ _).trans (unseated_removeThreads _ _)
  have lanes : lanelessThreads freed = lanelessThreads (bare.removeThreads k.id) := lanelessThreads_freePairs _ _ _
  have comms : freed.comms = bare.comms := (comms_freePairs _ _ _).trans (comms_removeThreads _ _)
  rw [out]
  refine ⟨same_of_unseated elsewhere State.tasks, fun v hv hrun => ?_, fun c hc => ?_, fun p hp => ?_,
    same_of_unseated elsewhere State.queues, same_of_unseated elsewhere State.owed, same_of_unseated elsewhere State.mem⟩
  · obtain ⟨u, hu, e⟩ := mem_threads_of_laneless lanes hv
    rw [same_of_laneless e Thread.run] at hrun
    rw [same_of_laneless e Thread.task]
    exact mem_threads_removeThreads hu hrun
  · have hc : c ∈ bare.comms := comms ▸ hc
    simpa using (List.mem_filter.mp hc).2
  · have hb : bare.part? k.part = some { p with pool := p.pool ++ k.areas } :=
      part?_mapPart_same (s := s) (fun p => { p with pool := p.pool ++ k.areas }) (fun _ => rfl) hp
    have hf : freed.part? k.part = bare.part? k.part := same_of_unseated elsewhere fun v => v.part? k.part
    exact ⟨_, part?_mapPart_same _ (fun _ => rfl) (hf.trans hb), rfl⟩

/-- The tasks of other numbers are not touched as one is updated. -/
theorem filter_mapTask (l : List Task) (id : Nat) (g : Task → Task) (hg : ∀ k, (g k).id = k.id) :
    (l.map fun k => if k.id == id then g k else k).filter (fun k => k.id != id) = l.filter fun k => k.id != id := by
  induction l with
  | nil => rfl
  | cons k l ih =>
    rw [List.map_cons, List.filter_cons, List.filter_cons, ih]
    by_cases h : k.id = id <;> simp [h, hg]

/-- R352: TASK_COMPLETE of a task with no completion record and no DONEAW. -/
theorem taskComplete_completes (s : State) (k : Task) (u : Queue)
    (hk : s.tasks.find? (fun t => t.id == k.id) = some k) (hu : s.queue? k.part k.queue = some u)
    (ho : s.taskOver k.id = true) (hc : k.record.compl = 0) (hd : k.record.doneaw = none) :
    ∃ t, exec (.taskComplete k.id) s = .next t ∧ t.tasks = s.tasks.filter (fun j => j.id ≠ k.id) ∧
      (∀ v ∈ t.threads, v.run ≠ .idle → v.task ≠ k.id) ∧ (∀ c ∈ t.comms, c.task ≠ k.id) ∧
      (∀ p, s.part? k.part = some p → ∃ p1, t.part? k.part = some p1 ∧ p1.pool = p.pool ++ k.areas) ∧
      (∀ w, t.queue? k.part k.queue = some w → w.done = u.done ∧ k.id ∉ w.again) ∧
      t.owed.map Owed.kind = s.owed.map Owed.kind ++ [.done k.part k.queue k.index []] ∧ t.mem = s.mem := by
  obtain ⟨hpart, hq⟩ := key_of_queue? hu
  obtain ⟨e, g, n, elsewhere, hg, charge⟩ := chargeNow_cases s k.id
  have htask : s.taskOf k.id = k := by rw [State.taskOf, hk]; rfl
  rw [htask] at charge
  have done : exec (.taskComplete k.id) s =
      .next (withoutTask ((s.chargeNow k.id).owe (.done k.part k.queue k.index [])) k) := by
    show execTaskComplete k.id s = _
    simp [execTaskComplete, hk, ho, finishTask_bare s k u hu hc hd, hpart, hq]
  obtain ⟨tasks, threads, comms, parts, queues, owed, mem⟩ :=
    withoutTask_without ((s.chargeNow k.id).owe (.done k.part k.queue k.index [])) k
  have same {α : Type} (f : State → α) (hf : ∀ v, f (unseated v) = f v := by intro; rfl) :
      f e = f { s with free := s.free + 1 } := same_of_unseated elsewhere f hf
  refine ⟨_, done, ?_, threads, comms, fun p hp => ?_, fun w hw => ?_, ?_, ?_⟩
  · have : (e.mapTask k.id g).tasks.filter (fun j => j.id != k.id) = s.tasks.filter fun j => j.id != k.id := by
      rw [State.mapTask, same State.tasks]
      exact filter_mapTask s.tasks k.id g hg
    rw [tasks, charge]
    exact this.trans (List.filter_congr fun j _ => by by_cases h : j.id = k.id <;> simp [h])
  · exact parts p (by rw [charge]; exact (same fun v => v.part? k.part).trans hp)
  · have found : (s.chargeNow k.id).queue? k.part k.queue = some { u with ce := u.ce - n } := by
      rw [charge]
      exact queue?_mapQueue_same _ (fun _ => ⟨rfl, rfl⟩) ((same fun v => v.queue? k.part k.queue).trans hu)
    rw [State.queue?, queues] at hw
    have hw := hw.symm.trans (queue?_mapQueue_same _ (fun _ => ⟨rfl, rfl⟩) found)
    rw [Option.some.inj hw]
    exact ⟨rfl, by simp⟩
  · rw [owed, charge]
    show (e.owed ++ [_]).map Owed.kind = _
    rw [same State.owed, List.map_append]
    rfl
  · rw [mem, charge]
    exact same State.mem

end Sys2Proof.Laws
namespace Sys2Proof.Laws

open Sys2Proof Sys2Proof.Machine

/-! ### Pre-emption (R31, R167) -/

/-- R355: a task that goes back to its queue waits there. -/
theorem mem_again_queueAgain {s : State} {k : Task} {w : Queue} (hw : (s.queueAgain k).queue? k.part k.queue = some w) :
    k.id ∈ w.again := by
  unfold State.queueAgain at hw
  refine of_queue?_mapQueue (fun w => k.id ∈ w.again) ?_ ?_ hw
  · exact fun _ => ⟨rfl, rfl⟩
  · exact fun _ => List.mem_append_right _ List.mem_cons_self

/-- R31, R167: PREEMPT of a task that stands at the common boundary. -/
theorem preempt_preempts (s : State) (k : Task) (hk : s.tasks.find? (fun t => t.id == k.id) = some k)
    (hp : s.canPreempt k = true) (ha : s.areasOpen k = true) :
    ∃ t, exec (.preempt k.id) s = .next t ∧ (∀ j ∈ t.tasks, j.id = k.id → j.state = .preempted ∧ j.pairs = []) ∧
      (∀ c ∈ t.comms, c.task ≠ k.id) ∧ (∀ w, t.queue? k.part k.queue = some w → k.id ∈ w.again) := by
  have done : exec (.preempt k.id) s = .next (s.preemptTask k) := by
    show execPreempt k.id s = _
    simp [execPreempt, hk, hp, ha]
  refine ⟨_, done, fun j hj hid => ?_, fun c hc => ?_, fun w hw => ?_⟩
  · obtain ⟨i, -, rfl⟩ := List.mem_map.mp hj
    by_cases hi : i.id = k.id
    · simp [hi]
    · simp [hi] at hid
  · unfold State.preemptTask at hc
    dsimp only at hc
    generalize State.chargeNow _ _ = e at hc
    have hc : c ∈ (State.freePairs { e with comms := e.comms.filter fun c => c.task != k.id } k.id k.pairs).comms := hc
    rw [comms_freePairs] at hc
    simpa using (List.mem_filter.mp hc).2
  · unfold State.preemptTask at hw
    exact mem_again_queueAgain hw

/-! ### Resumption (R31, R167) -/

theorem resume_resumes (s s1 : State) (k h : Task) (u : Queue) (ps : List (Nat × Nat))
    (hk : s.tasks.find? (fun t => t.id == k.id) = some k) (hs : k.state = .preempted) (hl : k.letting = none)
    (hc : s.choose? k.part = some (.start u (.again h) ps s1)) (hid : h.id = k.id) (hi : s1.imagesOpen k 0 = true) :
    exec (.resume k.id) s = .next ((s1.resumeTask k ps).tookTurn u) := by
  show execResume k.id s = _
  have hi : s1.imagesOpen k accRead = true := hi
  simp [execResume, hk, hs, hl, State.resumeNow, hc, hid, hi]

/-! ### QUIESCE and the resumption of a partition (R359) -/

/-- R359: a partition's task as QUIESCE leaves it. -/
def sentOut (part : Nat) (k : Task) : Task := if k.part = part ∧ k.state = .running then { k with state := .leaving } else k

/-- R359: with every number held by one task, QUIESCE sends out the partition's tasks and no other. -/
theorem quiesce_tasks (s : State) (part : Nat) (hn : (s.tasks.map Task.id).Nodup) :
    (s.tasks.map fun k => if k.id ∈ (s.tasks.filter fun t => t.part == part).map (fun t => t.id) then Task.left k else k) =
      s.tasks.map (sentOut part) := by
  refine List.map_congr_left fun k hk => ?_
  have mine : k.id ∈ (s.tasks.filter fun t => t.part == part).map (fun t => t.id) ↔ k.part = part := by
    simp only [List.mem_map, List.mem_filter, beq_iff_eq]
    refine ⟨fun ⟨j, ⟨hj, hp⟩, hid⟩ => ?_, fun hp => ⟨k, ⟨hk, hp⟩, rfl⟩⟩
    rw [← List.inj_on_of_nodup_map hn hj hk hid]
    exact hp
  by_cases hp : k.part = part <;> simp [mine, hp, Task.left, sentOut]

theorem exec_quiesce (s : State) (part : Nat) (hn : (s.tasks.map Task.id).Nodup) :
    exec (.quiesce part) s = .next (State.markQuiesced { s.mapPart part fun p => { p with quiesce := true } with
      tasks := s.tasks.map (sentOut part) } part) := by
  show execQuiesce part s = _
  rw [execQuiesce]
  dsimp only
  rw [leave_eq, mapPart_tasks, quiesce_tasks s part hn]

theorem sentOut_out (part : Nat) (k : Task) :
    ((sentOut part k).part != part || (sentOut part k).state == .preempted) = true ↔ (k.part = part → k.state = .preempted) := by
  unfold sentOut
  split
  · next h => simp [h.1, h.2]
  · by_cases hp : k.part = part <;> simp [hp]

theorem quiesce_quiesces (s : State) (part : Nat) (hn : (s.tasks.map Task.id).Nodup) :
    ∃ t, exec (.quiesce part) s = .next t ∧
      (∀ p ∈ t.parts, p.conf.id = part → p.quiesce = true ∧
        (p.quiesced = true ↔ ∀ k ∈ s.tasks, k.part = part → k.state = .preempted)) ∧
      t.tasks = s.tasks.map (fun k => if k.part = part ∧ k.state = .running then { k with state := .leaving } else k) ∧
      t.th = s.th ∧ t.queues = s.queues ∧ t.mem = s.mem := by
  refine ⟨_, exec_quiesce s part hn, fun p hp hid => ?_, rfl, rfl, rfl, rfl⟩
  obtain ⟨p1, hp1, rfl⟩ := List.mem_map.mp hp
  obtain ⟨p0, -, rfl⟩ := List.mem_map.mp hp1
  by_cases h0 : p0.conf.id = part
  · refine ⟨by simp [h0], ?_⟩
    simp only [h0, beq_self_eq_true, if_true, Bool.true_and, List.all_map, List.all_eq_true, Function.comp, sentOut_out]
  · simp [h0] at hid

theorem resumePartition_resumes (s : State) (part : Nat) (p : Part) (hp : s.part? part = some p) (hq : p.quiesce = true) :
    exec (.resumePartition part) s = .next { s with
      parts := s.parts.map fun p => if p.conf.id = part then { p with quiesce := false, quiesced := false } else p
      tasks := s.tasks.map fun k => if k.part = part ∧ k.state = .preempted then
        { k with letting := some ⟨none, false, [], true⟩ } else k } := by
  show execResumePartition part s = _
  simp [execResumePartition, hp, hq, State.mapPart, Letting.fresh]

/-- Settles O49: each step of the launch engine is told from its definition; what the divisions and the threads' moves
leave alone is told once for all of them. -/
theorem tasksEndAndMove : Obligations.TasksEndAndMove := by
  intro s
  exact ⟨fun k u hk hu ho hc hd => taskComplete_completes s k u hk hu ho hc hd,
    fun k hk hp ha => preempt_preempts s k hk hp ha,
    fun k h u ps s1 hk hs hl hc hid hi => resume_resumes s s1 k h u ps hk hs hl hc hid hi,
    fun part hn => quiesce_quiesces s part hn,
    fun part p hp hq => resumePartition_resumes s part p hp hq⟩

end Sys2Proof.Laws


/-! Tasks start on their pairs (R19, R22, R352). -/

namespace Sys2Proof.Laws

open Sys2Proof Sys2Proof.Machine

/-! ### The threads a task brings (R22) -/

/-- The threads of a state that belong to a task. -/
def threadsOf (s : State) (id : Nat) : List Thread := s.threads.filter fun v => v.task = id

/-- R22: running threads of one task are brought into a machine in which the place in focus is no idle thread of that
task: they join its threads, and the threads there were stay or were idle. -/
theorem threads_addThreads (id : Nat) (ts : List Thread) (hts : ∀ t ∈ ts, t.run = .running ∧ t.task = id) (s : State)
    (hs : s.th.run = .idle → s.th.task ≠ id) :
    (∀ v ∈ (ts.foldl State.addThread s).threads, v ∈ s.threads ∨ v ∈ ts) ∧
      (threadsOf (ts.foldl State.addThread s) id).length = (threadsOf s id).length + ts.length := by
  induction ts generalizing s with
  | nil => exact ⟨fun v hv => .inl hv, rfl⟩
  | cons t ts ih =>
    obtain ⟨hrun, htask⟩ := hts t (by simp)
    have one : (s.addThread t).th.run ≠ .idle ∧ (∀ v ∈ (s.addThread t).threads, v ∈ s.threads ∨ v = t) ∧
        (threadsOf (s.addThread t) id).length = (threadsOf s id).length + 1 := by
      unfold State.addThread
      by_cases hi : s.th.run = .idle
      · simp [hi, State.threads, threadsOf, hrun, htask, hs hi]
        tauto
      · simp only [beq_iff_eq, hi, if_false, ne_eq, not_false_iff, State.threads, threadsOf, ← List.cons_append,
          List.filter_append, List.length_append, true_and]
        exact ⟨fun v hv => by simpa [or_assoc] using hv, by simp [htask]⟩
    obtain ⟨busy, old, more⟩ := one
    obtain ⟨all, count⟩ := ih (fun u hu => hts u (by simp [hu])) (s.addThread t) fun h => absurd h busy
    refine ⟨fun v hv => ?_, by rw [List.foldl_cons, count, more, List.length_cons]; omega⟩
    obtain h | h := all v hv
    · obtain h | rfl := old v h
      · exact .inl h
      · exact .inr (by simp)
    · exact .inr (by simp [h])

/-- R19: every thread of a task has one seat. -/
theorem length_seats (s : State) (r : Record) (k : Kernel) (sizes : List Nat) (ps : List (Nat × Nat)) :
    (s.seats r k sizes ps).length = ps.length * (r.nt * r.ns) := by
  simp [State.seats, List.length_flatMap, Record.perPair]

/-- R352: the threads of a record's task as they start. -/
def startingThreads (s : State) (p : Part) (f : Fetched) (ps : List (Nat × Nat)) : List Thread :=
  (s.seats f.record f.kernel (newRows f.record f.kernel) ps).zipIdx.map fun v =>
    newThread (s.nextTask + 1) f.record f.kernel p.conf.trapvec ((p.pool.take f.record.threads).getD v.2 0) v.1

/-- R352: the task a record becomes. -/
def startingTask (s : State) (u : Queue) (p : Part) (f : Fetched) (ps : List (Nat × Nat)) : Task :=
  { Task.empty with
    id := s.nextTask + 1
    part := u.part
    queue := u.q
    index := f.index
    record := f.record
    kernel := f.kernel
    pairs := ps
    ranges := f.letting.ranges.getD []
    ptbase := u.conf.ptbase
    ctxid := BitVec.ofNat 64 (s.nextTask + 1)
    nqbase := p.conf.nqbase
    areas := p.pool.take f.record.threads
    started := s.starts }

/-- What is made true of a state before its threads, pairs and communication sets move. -/
def taskListed (s : State) (u : Queue) (p : Part) (f : Fetched) (ps : List (Nat × Nat)) : State :=
  (({ s with nextTask := s.nextTask + 1, starts := s.starts + 1, tasks := s.tasks ++ [startingTask s u p f ps] }.mapPart u.part
    fun p => { p with pool := p.pool.drop f.record.threads }).mapQueue u.part u.q fun w => { w with fetched := none })

def stashed (s : State) (u : Queue) (f : Fetched) (ps : List (Nat × Nat)) : State :=
  ps.foldl (fun s v => s.startStash v f.record u.conf.ptbase (u.part, u.q, f.index)) (s.addComms s.nextTask ps)

/-- R22: the task's threads stand on their seats. -/
def peopled (s : State) (u : Queue) (p : Part) (f : Fetched) (ps : List (Nat × Nat)) : State :=
  (startingThreads s p f ps).foldl State.addThread (stashed (taskListed s u p f ps) u f ps)

/-- R352: a start lists the task, sets up its stashes and communication sets, brings its threads, and divides the lanes. -/
theorem startTask_eq (s : State) (u : Queue) (p : Part) (f : Fetched) (ps : List (Nat × Nat)) :
    s.startTask u p f ps = ps.foldl (fun s v => s.recomputeLanes v.1 v.2)
      { peopled s u p f ps with
        preloaded := (peopled s u p f ps).preloaded.filter fun l => l.record != (u.part, u.q, f.index) } := rfl

/-! ### What a start leaves -/

theorem unseated_peopled (s : State) (u : Queue) (p : Part) (f : Fetched) (ps : List (Nat × Nat)) :
    unseated (peopled s u p f ps) = unseated (taskListed s u p f ps) :=
  calc unseated (peopled s u p f ps)
      = unseated (stashed (taskListed s u p f ps) u f ps) := foldl_keeps unseated _ unseated_addThread _ _
    _ = unseated (State.addComms _ _ ps) := foldl_keeps unseated _ (fun s v => unseated_startStash s v _ _ _) ps _
    _ = unseated (taskListed s u p f ps) := unseated_addComms _ _ ps

/-- A start lists the task; it changes nothing else but threads, pairs, communication sets, choices and preloaded lines. -/
theorem startTask_same {α : Type} (s : State) (u : Queue) (p : Part) (f : Fetched) (ps : List (Nat × Nat)) (g : State → α)
    (hg : ∀ v l, g (unseated { v with preloaded := l }) = g v := by intros; rfl) :
    g (s.startTask u p f ps) = g (taskListed s u p f ps) := by
  have hu (v : State) : g (unseated v) = g v := hg v v.preloaded
  rw [startTask_eq, ← hu, foldl_keeps unseated (fun (s : State) (v : Nat × Nat) => s.recomputeLanes v.1 v.2)
    (fun s v => unseated_recomputeLanes s _ _), hg, same_of_unseated (unseated_peopled s u p f ps) g hu]

theorem place_startStash (s : State) (v : Nat × Nat) (r : Record) (b : W64) (id : Nat × Nat × Nat) :
    (s.startStash v r b id).th = s.th ∧ (s.startStash v r b id).rest = s.rest := by
  unfold State.startStash
  split
  · exact ⟨rfl, rfl⟩
  · dsimp only
    rw [setPair_th, setPair_rest]
    split
    · exact ⟨rfl, rfl⟩
    · exact ⟨choose_th s, choose_rest s⟩

/-- Stashes and communication sets are set up under the threads that are there. -/
theorem place_stashed (s : State) (u : Queue) (f : Fetched) (ps : List (Nat × Nat)) :
    ((stashed s u f ps).th, (stashed s u f ps).rest) = (s.th, s.rest) :=
  (foldl_keeps (fun s : State => (s.th, s.rest)) _ (fun s v => by
      obtain ⟨th, rest⟩ := place_startStash s v f.record u.conf.ptbase (u.part, u.q, f.index)
      exact Prod.ext th rest) ps _).trans
    (foldl_keeps (fun s : State => (s.th, s.rest)) (fun s c => { s with comms := Comm.zero c _ :: s.comms })
      (fun _ _ => rfl) _ s)

theorem lanelessThreads_startTask (s : State) (u : Queue) (p : Part) (f : Fetched) (ps : List (Nat × Nat)) :
    lanelessThreads (s.startTask u p f ps) = lanelessThreads (peopled s u p f ps) := by
  rw [startTask_eq]
  exact foldl_keeps lanelessThreads _ (fun s v => lanelessThreads_recomputeLanes s _ _) ps _

theorem mem_startingThreads {s : State} {p : Part} {f : Fetched} {ps : List (Nat × Nat)} {v : Thread}
    (h : v ∈ startingThreads s p f ps) :
    ∃ area seat, v = newThread (s.nextTask + 1) f.record f.kernel p.conf.trapvec area seat := by
  obtain ⟨w, -, rfl⟩ := List.mem_map.mp h
  exact ⟨_, _, rfl⟩

/-- R22: the threads of the new task are its starting threads, one for each seat. -/
theorem threads_peopled (s : State) (u : Queue) (p : Part) (f : Fetched) (ps : List (Nat × Nat))
    (hid : ∀ v ∈ s.threads, v.task ≠ s.nextTask + 1) :
    (∀ v ∈ (peopled s u p f ps).threads, v.task = s.nextTask + 1 → v ∈ startingThreads s p f ps) ∧
      (threadsOf (peopled s u p f ps) (s.nextTask + 1)).length = ps.length * (f.record.nt * f.record.ns) := by
  obtain ⟨th, rest⟩ := Prod.mk.inj (place_stashed (taskListed s u p f ps) u f ps)
  have same : (stashed (taskListed s u p f ps) u f ps).threads = s.threads := by
    rw [State.threads, th, rest]
    rfl
  obtain ⟨all, count⟩ := threads_addThreads (s.nextTask + 1) (startingThreads s p f ps) (fun t ht => by
      obtain ⟨area, seat, rfl⟩ := mem_startingThreads ht
      exact ⟨rfl, rfl⟩) (stashed (taskListed s u p f ps) u f ps) fun _ => th ▸ hid s.th List.mem_cons_self
  have none : threadsOf (stashed (taskListed s u p f ps) u f ps) (s.nextTask + 1) = [] := by
    rw [threadsOf, same, List.filter_eq_nil_iff]
    exact fun v hv => by simpa using hid v hv
  refine ⟨fun v hv ht => ?_, ?_⟩
  · obtain h | h := all v hv
    · exact absurd ht (hid v (same ▸ h))
    · exact h
  · rw [peopled, count, none, startingThreads, List.length_map, List.length_zipIdx, length_seats]
    simp

/-! ### TASK_START (R350, R352) -/

/-- R352: TASK_START of a record that the engine has chosen. -/
theorem taskStart_starts (s s1 : State) (part q : Nat) (u : Queue) (f : Fetched) (ps : List (Nat × Nat)) (p : Part)
    (hc : s.choose? part = some (.start u (.first f) ps s1)) (hq : u.q = q) (hp : s1.part? part = some p)
    (hm : s1.missing u.conf.ptbase f.kernel (f.letting.ranges.getD []) = []) :
    exec (.taskStart part q) s = .next ((s1.startTask u p f ps).tookTurn u) := by
  show execTaskStart part q s = _
  simp [execTaskStart, hc, hq, hp, hm]

theorem startTask_task (s : State) (part q : Nat) (s1 : State) (u : Queue) (f : Fetched) (ps : List (Nat × Nat)) (p : Part)
    (hc : s.choose? part = some (.start u (.first f) ps s1)) (hq : u.q = q) (hp : s1.part? part = some p)
    (hm : s1.missing u.conf.ptbase f.kernel (f.letting.ranges.getD []) = [])
    (hid : ∀ v ∈ s1.threads, v.task ≠ s1.nextTask + 1) :
    ∃ t k, exec (.taskStart part q) s = .next t ∧ t.tasks = s1.tasks ++ [k] ∧ k.id = s1.nextTask + 1 ∧ k.state = .running ∧
      k.index = f.index ∧ k.record = f.record ∧ k.kernel = f.kernel ∧ k.pairs = ps ∧ k.ptbase = u.conf.ptbase ∧
      k.stepno = 1 ∧ k.stepdone = 0 ∧ k.areas = p.pool.take f.record.threads ∧
      (∀ v ∈ t.threads, v.task = k.id → v.run = .running ∧ v.pc = f.kernel.entry &&& ~~~7 ∧ v.smode = false ∧
        v.xs = (Vector.replicate 32 0).setIfInBounds 3 f.record.args ∧ v.cc = Vector.replicate 8 0 ∧
        v.tr.trapvec = p.conf.trapvec &&& ~~~7 ∧ v.sr.vl = 0 ∧ v.rcp.nodes = [] ∧ v.dsp.queue = []) ∧
      (t.threads.filter fun v => v.task = k.id).length = ps.length * (f.record.nt * f.record.ns) ∧
      (∀ w, t.queue? u.part u.q = some w → w.fetched = none) ∧ t.mem = s1.mem := by
  have lanes := lanelessThreads_startTask s1 u p f ps
  obtain ⟨all, count⟩ := threads_peopled s1 u p f ps hid
  refine ⟨_, startingTask s1 u p f ps, taskStart_starts s s1 part q u f ps p hc hq hp hm,
    startTask_same s1 u p f ps State.tasks, rfl, rfl, rfl, rfl, rfl, rfl, rfl, rfl, rfl, rfl, fun v hv ht => ?_, ?_,
    fun w hw => ?_, startTask_same s1 u p f ps State.mem⟩
  · obtain ⟨w, hw, e⟩ := mem_threads_of_laneless lanes hv
    have ht : w.task = s1.nextTask + 1 := (same_of_laneless e Thread.task).symm.trans ht
    obtain ⟨area, seat, rfl⟩ := mem_startingThreads (all w hw ht)
    exact ⟨same_of_laneless e Thread.run, same_of_laneless e Thread.pc, same_of_laneless e Thread.smode,
      same_of_laneless e Thread.xs, same_of_laneless e Thread.cc, same_of_laneless e fun t => t.tr.trapvec,
      same_of_laneless e fun t => t.sr.vl, same_of_laneless e fun t => t.rcp.nodes, same_of_laneless e fun t => t.dsp.queue⟩
  · exact (length_filter_threads_of_laneless lanes fun v => v.task = s1.nextTask + 1).trans count
  · refine of_queue?_mapQueue (f := fun w => { w with fetched := none }) (fun w => w.fetched = none) ?_ ?_
      ((startTask_same s1 u p f ps fun v => v.queue? u.part u.q).symm.trans hw)
    · exact fun _ => ⟨rfl, rfl⟩
    · exact fun _ => rfl

/-- R351, R352: a record with a page whose leaf is no longer valid goes back to have its lease set up. -/
theorem taskStart_sendsBack (s s1 : State) (part q : Nat) (u : Queue) (f : Fetched) (ps : List (Nat × Nat)) (p : Part)
    (hc : s.choose? part = some (.start u (.first f) ps s1)) (hq : u.q = q) (hp : s1.part? part = some p)
    (hm : s1.missing u.conf.ptbase f.kernel (f.letting.ranges.getD []) ≠ []) :
    exec (.taskStart part q) s = .next { s1 with queues := s1.queues.map fun w => if w.part = part ∧ w.q = q then
      { w with fetched := some { f with letting := { f.letting with ready := false, retry := true } } } else w } := by
  show execTaskStart part q s = _
  simp [execTaskStart, hc, hq, hp, hm, State.mapQueue]

theorem taskStart_displaces (s s1 : State) (part q : Nat) (u : Queue) (ids : List Nat)
    (hc : s.choose? part = some (.displace u ids s1)) (hq : u.q = q) :
    ∃ t, exec (.taskStart part q) s = .next t ∧
      (∀ k ∈ t.tasks, k.id ∈ ids → k.state ≠ .running) ∧ t.th = s1.th ∧ t.mem = s1.mem := by
  have done : exec (.taskStart part q) s = .next (s1.leave ids) := by
    show execTaskStart part q s = _
    simp [execTaskStart, hc, hq]
  rw [leave_eq] at done
  refine ⟨_, done, fun k hk hid => ?_, rfl, rfl⟩
  obtain ⟨j, -, rfl⟩ := List.mem_map.mp hk
  by_cases hj : j.id ∈ ids
  · simpa [hj] using left_not_running j
  · simp [hj] at hid

theorem taskStart_round (s s1 : State) (part q : Nat) (u : Queue) (hc : s.choose? part = some (.round u s1)) :
    exec (.taskStart part q) s = .next (if u.q = q then s1 else s) := by
  show execTaskStart part q s = _
  simp [execTaskStart, hc]

end Sys2Proof.Laws


/-! Preloading (R353): the lines it brings into the instruction caches. -/

namespace Sys2Proof.Laws

open Sys2Proof Sys2Proof.Machine

/-! ### The engine's own accesses -/

theorem accessed_foldl {α β : Type} (f : β × State → α → β × State) (h : ∀ r a, Accessed r.2 (f r a).2) (l : List α)
    (r : β × State) : Accessed r.2 (l.foldl f r).2 := by
  induction l generalizing r with
  | nil => exact .refl _
  | cons a l ih => exact (h r a).trans (ih (f r a))

/-- R113, R358: what the engine accesses, of no pair and no task, leaves the thread in focus as it is. -/
theorem byEngine_accessed {α : Type} (s : State) (f : State → α × State) (h : ∀ v, Accessed v (f v).2) :
    Accessed s (s.byEngine f).2 := by
  have a := h { s with th := { s.th with cluster := 1000, task := 0 } }
  refine ⟨?_, a.rest, a.comms, a.tasks, a.regions, a.fractions, a.channelsOut, a.parts, a.queues, a.nextTask, a.starts,
    a.preloaded, a.config, a.wallclock, a.cal, a.boot, a.reports, a.inputs, a.turn, a.pace, a.wf⟩
  exact congrArg (fun t : Thread => { t with cluster := s.th.cluster, task := s.th.task }) a.th

theorem codeLines_accessed (s : State) (u : Queue) (k : Kernel) : Accessed s (s.codeLines u k).2 := by
  refine accessed_foldl _ (fun r i => ?_) _ ([], s)
  dsimp only
  split
  · next x s1 h =>
    have h1 := translate_accessed _ _ _ _ _ _ _ h
    split
    · exact h1
    · dsimp only
      split
      · exact h1.trans (crossLink_accessed _ _)
      · exact h1
  · exact .refl _

theorem slotLines_accessed (s : State) (u : Queue) (r : Record) : Accessed s (s.slotLines u r).2 := by
  refine accessed_foldl _ (fun r va => ?_) _ ([], s)
  split
  · next x s1 h =>
    have h1 := translate_accessed _ _ _ _ _ _ _ h
    split
    · exact h1
    · dsimp only
      split
      · exact h1.trans (crossLink_accessed _ _)
      · exact h1
  · exact .refl _

/-! ### Pairs read after writes -/

theorem place_pairOf (s : State) (c p : Nat) : (s.pairOf c p).cluster = c ∧ (s.pairOf c p).pair = p := by
  unfold State.pairOf
  cases h : s.pairs.find? fun q => q.cluster == c && q.pair == p with
  | none => exact ⟨rfl, rfl⟩
  | some q => simpa using List.find?_some h

/-- A pair written is the one read at its place. -/
theorem pairOf_setPair_same (s : State) (q : Pair) {c p : Nat} (hc : q.cluster = c) (hp : q.pair = p) :
    (s.setPair q).pairOf c p = q := by
  subst hc hp
  unfold State.setPair State.pairOf
  split
  · next h =>
    rw [List.find?_map]
    obtain ⟨r, hr⟩ := Option.isSome_iff_exists.mp (List.find?_isSome.mpr (List.any_eq_true.mp h))
    have hp := List.find?_some hr
    have : (s.pairs.find? ((fun r => r.cluster == q.cluster && r.pair == q.pair) ∘ fun r =>
        if (r.cluster == q.cluster && r.pair == q.pair) = true then q else r)) = some r := by
      rw [← hr]
      congr 1
      funext r
      simp only [Function.comp]
      split <;> simp_all
    simp only [this, Option.map_some, hp, if_true, Option.getD_some]
  · next h =>
    rw [List.find?_append, List.find?_eq_none.mpr fun r hr hq => h (List.any_eq_true.mpr ⟨r, hr, hq⟩)]
    simp

/-- A pair written at another place leaves this one. -/
theorem pairOf_setPair_other (s : State) (q : Pair) (c p : Nat) (h : ¬(q.cluster = c ∧ q.pair = p)) :
    (s.setPair q).pairOf c p = s.pairOf c p := by
  have hq : (q.cluster == c && q.pair == p) = false := by simpa using h
  unfold State.setPair State.pairOf
  split
  · congr 1
    rw [List.find?_map]
    have : ((fun r => r.cluster == c && r.pair == p) ∘ fun r : Pair =>
        if (r.cluster == q.cluster && r.pair == q.pair) = true then q else r) = fun r => r.cluster == c && r.pair == p := by
      funext r
      simp only [Function.comp]
      split
      · next e =>
        simp only [Bool.and_eq_true, beq_iff_eq] at e
        rw [hq, e.1, e.2, hq]
      · rfl
    rw [this]
    cases h : s.pairs.find? fun r => r.cluster == c && r.pair == p with
    | none => rfl
    | some r =>
      obtain ⟨rfl, rfl⟩ : r.cluster = c ∧ r.pair = p := by simpa using List.find?_some h
      have : (r.cluster == q.cluster && r.pair == q.pair) = false := by rw [← hq]; simp [Bool.beq_comm]
      rw [Option.map_some, this]
      rfl
  · rw [List.find?_append]
    simp [hq]

theorem pairOf_of_pairs {s t : State} (h : t.pairs = s.pairs) (c p : Nat) : t.pairOf c p = s.pairOf c p := by
  unfold State.pairOf
  rw [h]

/-! ### Lines brought into an instruction cache (R131) -/

theorem cacheLine_keeps (s : State) (c p pa : Nat) (b : List Byte) :
    unseated (s.cacheLine c p pa b) = unseated s ∧ (s.cacheLine c p pa b).th = s.th ∧
      (s.cacheLine c p pa b).rest = s.rest := by
  unfold State.cacheLine
  dsimp only
  split
  · exact ⟨unseated_setPair s _, setPair_th s _, setPair_rest s _⟩
  · exact ⟨(unseated_setPair _ _).trans (unseated_choose s), (setPair_th _ _).trans (choose_th s),
      (setPair_rest _ _).trans (choose_rest s)⟩

/-- R131: with room, a line joins those of its pair's cache. -/
theorem icache_cacheLine (s : State) (c p pa : Nat) (b : List Byte) (h : (s.pairOf c p).icache.length < icacheLines) :
    ((s.cacheLine c p pa b).pairOf c p).icache = (s.pairOf c p).icache ++ [(pa, b)] := by
  obtain ⟨hc, hp⟩ := place_pairOf s c p
  rw [State.cacheLine, if_pos h]
  exact congrArg Pair.icache
    (pairOf_setPair_same s { s.pairOf c p with icache := (s.pairOf c p).icache ++ [(pa, b)] } hc hp)

theorem pairOf_cacheLine_other (s : State) (c p pa : Nat) (b : List Byte) (v : Nat × Nat) (h : v ≠ (c, p)) :
    (s.cacheLine c p pa b).pairOf v.1 v.2 = s.pairOf v.1 v.2 := by
  obtain ⟨hc, hp⟩ := place_pairOf s c p
  have other : ¬(c = v.1 ∧ p = v.2) := fun ⟨h1, h2⟩ => h (Prod.ext h1.symm h2.symm)
  unfold State.cacheLine
  dsimp only
  split
  · exact pairOf_setPair_other s _ _ _ (by simpa only [hc, hp] using other)
  · exact (pairOf_setPair_other _ _ _ _ (by simpa only [hc, hp] using other)).trans (pairOf_of_pairs (choose_pairs s) _ _)

/-- Lines brought into the cache of a pair. -/
def cacheLines (s : State) (v : Nat × Nat) (ls : List (Nat × List Byte)) : State :=
  ls.foldl (fun s l => s.cacheLine v.1 v.2 l.1 l.2) s

theorem cacheLines_keeps (s : State) (v : Nat × Nat) (ls : List (Nat × List Byte)) :
    unseated (cacheLines s v ls) = unseated s ∧ (cacheLines s v ls).th = s.th ∧ (cacheLines s v ls).rest = s.rest :=
  ⟨foldl_keeps unseated _ (fun s _ => (cacheLine_keeps s _ _ _ _).1) ls s,
    foldl_keeps State.th _ (fun s _ => (cacheLine_keeps s _ _ _ _).2.1) ls s,
    foldl_keeps State.rest _ (fun s _ => (cacheLine_keeps s _ _ _ _).2.2) ls s⟩

theorem icache_cacheLines (s : State) (v : Nat × Nat) (ls : List (Nat × List Byte))
    (h : (s.pairOf v.1 v.2).icache.length + ls.length ≤ icacheLines) :
    ((cacheLines s v ls).pairOf v.1 v.2).icache = (s.pairOf v.1 v.2).icache ++ ls := by
  induction ls generalizing s with
  | nil => simp [cacheLines]
  | cons l ls ih =>
    rw [List.length_cons] at h
    have one := icache_cacheLine s v.1 v.2 l.1 l.2 (by omega)
    have := ih (s.cacheLine v.1 v.2 l.1 l.2) (by rw [one, List.length_append, List.length_singleton]; omega)
    rw [cacheLines, List.foldl_cons]
    exact this.trans (by rw [one, List.append_assoc]; rfl)

theorem pairOf_cacheLines_other (s : State) (v w : Nat × Nat) (ls : List (Nat × List Byte)) (h : w ≠ v) :
    (cacheLines s v ls).pairOf w.1 w.2 = s.pairOf w.1 w.2 :=
  foldl_keeps (fun s : State => s.pairOf w.1 w.2) _ (fun s _ => pairOf_cacheLine_other s _ _ _ _ w h) ls s

/-! ### PRELOAD (R353) -/

/-- R353: what PRELOAD does on one pair, once the lines are known. -/
def preloadPair (u : Queue) (f : Fetched) (code : List (Nat × List Byte)) (lines : List (Nat × Nat × Bool)) (s : State)
    (v : Nat × Nat) : State :=
  let s1 := cacheLines s v ((s.pairOf v.1 v.2).newCode code)
  { s1 with preloaded := s1.preloaded ++ s1.newLines v f.record (u.part, u.q, f.index) lines }

theorem exec_preload (s : State) (part q : Nat) (u : Queue) (f : Fetched) (ps : List (Nat × Nat))
    (h : s.nextRecord part q = some (u, f, ps)) :
    let code := s.byEngine fun s => s.codeLines u f.kernel
    let lines := code.2.byEngine fun s => s.slotLines u f.record
    exec (.preload part q) s = .next (ps.foldl (preloadPair u f code.1 lines.1) lines.2) := by
  show execPreload part q s = _
  rw [execPreload, h]
  rfl

section
variable (u : Queue) (f : Fetched) (code : List (Nat × List Byte)) (lines : List (Nat × Nat × Bool))

theorem preloadPair_keeps (s : State) (v : Nat × Nat) :
    (preloadPair u f code lines s v).th = s.th ∧ (preloadPair u f code lines s v).rest = s.rest ∧
      (preloadPair u f code lines s v).queues = s.queues ∧ (preloadPair u f code lines s v).mem = s.mem := by
  obtain ⟨e, th, rest⟩ := cacheLines_keeps s v ((s.pairOf v.1 v.2).newCode code)
  exact ⟨th, rest, same_of_unseated e State.queues, same_of_unseated e State.mem⟩

theorem preloads_keep (ps : List (Nat × Nat)) (s : State) :
    let t := ps.foldl (preloadPair u f code lines) s
    t.th = s.th ∧ t.rest = s.rest ∧ t.queues = s.queues ∧ t.mem = s.mem := by
  have := foldl_keeps (fun s : State => (s.th, s.rest, s.queues, s.mem)) (preloadPair u f code lines) (fun s v => by
    obtain ⟨th, rest, queues, mem⟩ := preloadPair_keeps u f code lines s v
    simp only [th, rest, queues, mem]) ps s
  simpa only [Prod.mk.injEq] using this

/-- R353: a line preloaded before is not forgotten. -/
theorem mem_preloaded (ps : List (Nat × Nat)) (s : State) (l : Preload) (h : l ∈ s.preloaded) :
    l ∈ (ps.foldl (preloadPair u f code lines) s).preloaded := by
  induction ps generalizing s with
  | nil => exact h
  | cons v ps ih =>
    obtain ⟨e, -, -⟩ := cacheLines_keeps s v ((s.pairOf v.1 v.2).newCode code)
    refine ih _ (List.mem_append_left _ ?_)
    rw [same_of_unseated e State.preloaded]
    exact h

theorem pairOf_preloads_other (ps : List (Nat × Nat)) (s : State) (w : Nat × Nat) (h : w ∉ ps) :
    (ps.foldl (preloadPair u f code lines) s).pairOf w.1 w.2 = s.pairOf w.1 w.2 := by
  induction ps generalizing s with
  | nil => rfl
  | cons v ps ih =>
    obtain ⟨hv, hps⟩ := not_or.mp (mt List.mem_cons.mpr h)
    exact (ih (preloadPair u f code lines s v) hps).trans (pairOf_cacheLines_other s v w _ hv)

/-- R353: with room for them, every code line stands in the pair's cache afterwards. -/
theorem icache_preloadPair (s : State) (v : Nat × Nat) (h : (s.pairOf v.1 v.2).icache.length + code.length ≤ icacheLines)
    (l : Nat × List Byte) (hl : l ∈ code) :
    ∃ b, (l.1, b) ∈ ((preloadPair u f code lines s v).pairOf v.1 v.2).icache := by
  have fewer : ((s.pairOf v.1 v.2).newCode code).length ≤ code.length := List.length_filter_le _ _
  have all : ((preloadPair u f code lines s v).pairOf v.1 v.2).icache =
      (s.pairOf v.1 v.2).icache ++ (s.pairOf v.1 v.2).newCode code := icache_cacheLines s v _ (by omega)
  rw [all]
  by_cases held : ((s.pairOf v.1 v.2).icache.any fun m => m.1 == l.1) = true
  · obtain ⟨m, hm, e⟩ := List.any_eq_true.mp held
    exact ⟨m.2, List.mem_append_left _ (eq_of_beq e ▸ hm)⟩
  · exact ⟨l.2, List.mem_append_right _ (List.mem_filter.mpr ⟨hl, by rw [Bool.not_eq_true] at held; rw [held]; rfl⟩)⟩

theorem icache_preloads (ps : List (Nat × Nat)) (hn : ps.Nodup) (s : State)
    (h : ∀ v ∈ ps, (s.pairOf v.1 v.2).icache.length + code.length ≤ icacheLines) :
    ∀ v ∈ ps, ∀ l ∈ code, ∃ b, (l.1, b) ∈ ((ps.foldl (preloadPair u f code lines) s).pairOf v.1 v.2).icache := by
  induction ps generalizing s with
  | nil => exact fun v hv => absurd hv List.not_mem_nil
  | cons w ps ih =>
    obtain ⟨hw, hn⟩ := List.nodup_cons.mp hn
    intro v hv l hl
    obtain rfl | hv := List.mem_cons.mp hv
    · rw [List.foldl_cons, pairOf_preloads_other u f code lines ps _ v hw]
      exact icache_preloadPair u f code lines s v (h v List.mem_cons_self) l hl
    · refine ih hn (preloadPair u f code lines s w) (fun x hx => ?_) v hv l hl
      have other : x ≠ w := fun e => hw (e ▸ hx)
      have same : (preloadPair u f code lines s w).pairOf x.1 x.2 = s.pairOf x.1 x.2 :=
        pairOf_cacheLines_other s w x _ other
      rw [same]
      exact h x (List.mem_cons_of_mem _ hx)

end

theorem preload_preloads (s : State) (part q : Nat) (u : Queue) (f : Fetched) (ps : List (Nat × Nat))
    (h : s.nextRecord part q = some (u, f, ps)) :
    let code := s.byEngine fun s => s.codeLines u f.kernel
    let lines := code.2.byEngine fun s => s.slotLines u f.record
    ∃ t, exec (.preload part q) s = .next t ∧ t.th = s.th ∧ t.rest = s.rest ∧ t.queues = s.queues ∧ t.mem = lines.2.mem ∧
      (ps.Nodup → (∀ v ∈ ps, (lines.2.pairOf v.1 v.2).icache.length + code.1.length ≤ 1024) →
        ∀ v ∈ ps, ∀ l ∈ code.1, ∃ b, (l.1, b) ∈ (t.pairOf v.1 v.2).icache) ∧
      ∀ l ∈ s.preloaded, l ∈ t.preloaded := by
  intro code lines
  have a : Accessed s lines.2 :=
    (byEngine_accessed s (fun s => s.codeLines u f.kernel) fun v => codeLines_accessed v u f.kernel).trans
      (byEngine_accessed code.2 (fun s => s.slotLines u f.record) fun v => slotLines_accessed v u f.record)
  obtain ⟨th, rest, queues, mem⟩ := preloads_keep u f code.1 lines.1 ps lines.2
  exact ⟨_, exec_preload s part q u f ps h, th.trans a.th, rest.trans a.rest, queues.trans a.queues, mem,
    fun hn hroom => icache_preloads u f code.1 lines.1 ps hn lines.2 hroom,
    fun l hl => mem_preloaded u f code.1 lines.1 ps lines.2 l (a.preloaded.symm ▸ hl)⟩

/-- Settles O48: a start lists the task and then only moves threads, pairs and communication sets; PRELOAD adds lines to
caches, and what it reads it reads by accesses. -/
theorem tasksStartOnTheirPairs : Obligations.TasksStartOnTheirPairs :=
  ⟨fun s s1 part q u f ps p hc hq hp hm hid => startTask_task s part q s1 u f ps p hc hq hp hm hid,
    fun s s1 part q u f ps p hc hq hp hm => taskStart_sendsBack s s1 part q u f ps p hc hq hp hm,
    fun s s1 part q u ids hc hq => taskStart_displaces s s1 part q u ids hc hq,
    fun s s1 part q u hc => taskStart_round s s1 part q u hc,
    fun s part q u f ps h => preload_preloads s part q u f ps h⟩

end Sys2Proof.Laws


/-! Fields of little-endian bytes (R3): how a field of a record is found again. -/

namespace Sys2Proof.Laws

open Sys2Proof Sys2Proof.Machine

@[simp] theorem length_leBytes (n v : Nat) : (leBytes n v).length = n := by
  induction n generalizing v with
  | zero => rfl
  | succ n ih => rw [leBytes, List.length_cons, ih]

theorem leNat_leBytes (n v : Nat) : leNat (leBytes n v) = v % 256 ^ n := by
  induction n generalizing v with
  | zero => rw [pow_zero, Nat.mod_one]; rfl
  | succ n ih =>
    have low : (BitVec.ofNat 8 v).toNat = v % 256 := BitVec.toNat_ofNat v 8
    rw [leBytes, leNat, ih, low, Nat.pow_succ', Nat.mod_mul]

theorem drop_leBytes (n k v : Nat) : (leBytes n v).drop k = leBytes (n - k) (v / 256 ^ k) := by
  induction k generalizing n v with
  | zero => simp
  | succ k ih =>
    cases n with
    | zero => simp [leBytes]
    | succ n => rw [leBytes, List.drop_succ_cons, ih, Nat.div_div_eq_div_mul, ← Nat.pow_succ', Nat.add_sub_add_right]

theorem take_leBytes (n m v : Nat) (h : m ≤ n) : (leBytes n v).take m = leBytes m v := by
  induction m generalizing n v with
  | zero => rfl
  | succ m ih =>
    cases n with
    | zero => omega
    | succ n => rw [leBytes, List.take_succ_cons, ih n _ (by omega), leBytes]

theorem fieldOf_leBytes (n v k m : Nat) (h : k + m ≤ n) : fieldOf (leBytes n v) k m = v / 256 ^ k % 256 ^ m := by
  rw [fieldOf, drop_leBytes, take_leBytes _ _ _ (by omega), leNat_leBytes]

/-- A number that fits is the field it was put in. -/
theorem fieldOf_leBytes_self (n v : Nat) (h : v < 256 ^ n) : fieldOf (leBytes n v) 0 n = v := by
  rw [fieldOf_leBytes n v 0 n (by omega), pow_zero, Nat.div_one, Nat.mod_eq_of_lt h]

theorem fieldOf_word (v : W64) : fieldOf (leBytes 8 v.toNat) 0 8 = v.toNat := fieldOf_leBytes_self 8 _ v.isLt

theorem fieldOf_zeros (n k m : Nat) (h : k + m ≤ n) : fieldOf (leBytes n 0) k m = 0 := by
  rw [fieldOf_leBytes n 0 k m h, Nat.zero_div, Nat.zero_mod]

theorem fieldOf_append_left (a b : List Byte) (k n : Nat) (h : k + n ≤ a.length) : fieldOf (a ++ b) k n = fieldOf a k n := by
  rw [fieldOf, fieldOf, List.drop_append_of_le_length (by omega), List.take_append_of_le_length (by simp; omega)]

theorem fieldOf_append_right (a b : List Byte) (k n : Nat) (h : a.length ≤ k) :
    fieldOf (a ++ b) k n = fieldOf b (k - a.length) n := by
  rw [fieldOf, fieldOf, List.drop_append, List.drop_eq_nil_of_le h, List.nil_append]

/-- The field that starts where the bytes before it end. -/
theorem fieldOf_append_at (a b : List Byte) (k j n : Nat) (h : k = a.length + j) : fieldOf (a ++ b) k n = fieldOf b j n := by
  rw [fieldOf_append_right a b k n (by omega), h, Nat.add_sub_cancel_left]

theorem fieldOf_padTo (m : Nat) (b : List Byte) (k n : Nat) (h : k + n ≤ b.length) : fieldOf (padTo m b) k n = fieldOf b k n :=
  fieldOf_append_left b _ k n h

theorem length_padTo (m : Nat) (b : List Byte) : (padTo m b).length = max m b.length := by
  simp [padTo]
  omega

theorem length_flatMap_of_const {α : Type} (l : List α) (f : α → List Byte) (c : Nat) (hf : ∀ a, (f a).length = c) :
    (l.flatMap f).length = c * l.length := by
  induction l with
  | nil => rfl
  | cons a l ih => rw [List.flatMap_cons, List.length_append, hf, ih, List.length_cons, Nat.mul_succ, Nat.add_comm]

/-- A field of the i-th of some records of one length. -/
theorem fieldOf_flatMap {α : Type} (l : List α) (f : α → List Byte) (c : Nat) (hf : ∀ a, (f a).length = c) (i k n : Nat)
    (hi : i < l.length) (hk : k + n ≤ c) : fieldOf (l.flatMap f) (c * i + k) n = fieldOf (f l[i]) k n := by
  induction l generalizing i with
  | nil => exact absurd hi (Nat.not_lt_zero i)
  | cons a l ih =>
    rw [List.flatMap_cons]
    cases i with
    | zero => rw [fieldOf_append_left _ _ _ _ (by rw [hf]; omega), Nat.mul_zero, Nat.zero_add]; rfl
    | succ i =>
      rw [fieldOf_append_at _ _ _ (c * i + k) _ (by rw [hf, Nat.mul_succ]; omega), ih i (by simpa using hi)]
      rfl

/-- A field as the bytes of its places. -/
theorem field_bytes (b : List Byte) (k n : Nat) (h : k + n ≤ b.length) :
    (b.drop k).take n = (List.range n).map fun i => b.getD (k + i) 0 := by
  refine List.ext_getElem (by simp; omega) fun i h1 h2 => ?_
  have hi : k + i < b.length := by simp at h2; omega
  simp [List.getD, hi]

end Sys2Proof.Laws


/-! YIELD (R361), and an area of CTXSV or CTXRS that is misaligned (R170). -/

namespace Sys2Proof.Laws

open Sys2Proof Sys2Proof.Machine

/-- The task in focus, once updated. -/
theorem task_updTask (s : State) (f : Task → Task) (hid : ∀ k, (f k).id = k.id) (h : Spec.HasTask s) :
    (s.updTask f).task = f s.task := by
  obtain ⟨k, hk, hkid⟩ := h
  have known : (s.tasks.find? fun t => t.id == s.th.task).isSome := List.find?_isSome.mpr ⟨k, hk, by simp [hkid]⟩
  obtain ⟨m, hm⟩ := Option.isSome_iff_exists.mp known
  have found := find?_map_update s.tasks (fun t => t.id == s.th.task) (fun t => t.id == s.th.task) f
    (fun t => by rw [hid])
  have own : (m.id == s.th.task) = true := by simpa using id_of_find? hm
  show (((s.tasks.map fun t => if t.id == s.th.task then f t else t).find? fun t => t.id == s.th.task).getD _) =
    f ((s.tasks.find? fun t => t.id == s.th.task).getD _)
  rw [found, hm, Option.map_some, own]
  rfl

/-- The task in focus, once it has been told to leave, is on its way out if it ran. -/
theorem task_leave (s : State) (h : Spec.HasTask s) : (s.leave [s.th.task]).task = Task.left s.task := by
  have own : s.leave [s.th.task] = s.updTask Task.left := by
    rw [leave_eq]
    simp [State.updTask, State.mapTask]
  rw [own]
  exact task_updTask s Task.left left_id h

theorem yieldCompletes : Spec.YieldCompletes := by
  intro f s
  have word : exec (.yield f) s = s.settle (s.yield f) := rfl
  rw [word, State.yield]
  constructor
  · intro h
    rw [h]
    exact settle_finish s f.d 0
  · intro h held
    rw [h]
    have done : s.finish f.d 1 = .done (s.wrote f.d 1) := by rw [State.finish, setX_eq, retire_eq]; rfl
    simp only [if_true, done, settle_done]
    refine ⟨_, rfl, by rw [leave_eq], fun run => ?_, by rw [leave_eq]; rfl⟩
    have left : ((s.wrote f.d 1).leave [s.th.task]).task = Task.left s.task := task_leave (s.wrote f.d 1) held
    rw [left, Task.left, if_pos run]

/-! ### A misaligned area -/

theorem contextArea_misaligned (s : State) (a : W64) (kind : Nat) (h : a.toNat % 65536 ≠ 0) :
    s.contextArea a kind = .error (.trap (TrapInfo.at causeMisaligned kind a)) := by
  rw [State.contextArea, if_pos (by simp [h])]

theorem exec_ctxsv (f : FM) (s : State) (h : s.th.smode = true) :
    exec (.ctxsv f) s = s.settle (s.ctxsv (Spec.addressOf f s)) := by
  show execCtxsv f s = _
  rw [execCtxsv, privileged_smode s _ h, address_eq]

theorem exec_ctxrs (f : FM) (s : State) (h : s.th.smode = true) :
    exec (.ctxrs f) s = s.settle (s.ctxrs (Spec.addressOf f s)) := by
  show execCtxrs f s = _
  rw [execCtxrs, privileged_smode s _ h, address_eq]

theorem ctxsv_misaligned (f : FM) (s : State) (hs : s.th.smode = true) (h : (Spec.addressOf f s).toNat % 65536 ≠ 0) :
    ∃ t, exec (.ctxsv f) s = .next t ∧ Spec.Trapped s t 0x05 1 (Spec.addressOf f s) := by
  rw [exec_ctxsv f s hs, State.ctxsv, contextArea_misaligned s _ accWrite h]
  exact ⟨_, rfl, trapped_trap s 0x05 1 _⟩

theorem ctxrs_misaligned (f : FM) (s : State) (hs : s.th.smode = true) (h : (Spec.addressOf f s).toNat % 65536 ≠ 0) :
    ∃ t, exec (.ctxrs f) s = .next t ∧ Spec.Trapped s t 0x05 0 (Spec.addressOf f s) := by
  rw [exec_ctxrs f s hs, State.ctxrs, contextArea_misaligned s _ accRead h]
  exact ⟨_, rfl, trapped_trap s 0x05 0 _⟩

end Sys2Proof.Laws


/-! The accesses of CTXSV and CTXRS to their area (R168, R170): what they leave unchanged. -/

namespace Sys2Proof.Laws

open Sys2Proof Sys2Proof.Machine

/-! ### The traffic of an access changes no byte of memory -/

theorem countPage_mem (s : State) (x : Xl) : (s.countPage x).mem = s.mem := by
  unfold State.countPage
  split <;> rfl

theorem requests_mem (x : Xl) (cross : Bool) (ns : List Nat) (s : State) : (State.requests x cross ns s).mem = s.mem := by
  induction ns generalizing s with
  | nil => rfl
  | cons n ns ih =>
    rw [State.requests, ih, countPage_mem]
    cases cross
    · rfl
    · exact crossLink_mem s n

theorem dirtyLines_mem (s : State) (x : Xl) (n : Nat) : (s.dirtyLines x n).mem = s.mem := by
  refine foldl_keeps State.mem _ (fun u a => ?_) _ s
  split <;> rfl

theorem servedHere_mem (s : State) (x : Xl) : (s.servedHere x).2.mem = s.mem := by
  unfold State.servedHere
  repeat' split
  · rfl
  · rfl
  · exact choose_mem s

theorem countAccess_mem (s : State) (write : Bool) (x : Xl) (n : Nat) : (s.countAccess write x n).mem = s.mem := by
  unfold State.countAccess
  dsimp only
  repeat' split
  · rfl
  · rw [requests_mem, servedHere_mem]
  · rw [dirtyLines_mem, servedHere_mem]
  · exact servedHere_mem s x

theorem recall_mem (s : State) (pa n : Nat) : (s.recall pa n).mem = s.mem := by
  unfold State.recall
  dsimp only
  split <;> rfl

theorem stashTouch_mem (s : State) (x : Xl) (va : W64) (pa : Nat) : (s.stashTouch x va pa).mem = s.mem := by
  unfold State.stashTouch
  dsimp only
  repeat' split
  · rfl
  · rfl
  · exact setPair_mem s _

theorem countStream_mem (s : State) (x : Xl) (n : Nat) : (s.countStream x n).mem = s.mem := by
  unfold State.countStream
  dsimp only
  split
  · rfl
  · rw [requests_mem, servedHere_mem]

/-- R109, R113, R382: what an access counts, and the line it brings in, are no bytes of memory. -/
theorem touch_mem (s : State) (stream write : Bool) (x : Xl) (va : W64) (pa n : Nat) :
    (s.touch stream write x va pa n).mem = s.mem := by
  unfold State.touch
  cases stream
  · rw [if_neg Bool.false_ne_true, stashTouch_mem, recall_mem, countAccess_mem]
  · rw [if_pos rfl, recall_mem, countStream_mem]

theorem spendTokens_mem (s : State) (n : Nat) : (s.spendTokens n).mem = s.mem := by
  unfold State.spendTokens
  split <;> rfl

theorem spread_mem (s : State) (own : Nat × Nat) (pa : Nat) (b : List Byte) : (s.spread own pa b).mem = s.mem := by
  unfold State.spread
  split <;> rfl

/-- R124: with every channel in service a write reaches memory whole. -/
theorem physWrite_mem (s : State) (pa : Nat) (b : List Byte) (h : s.channelsOut = []) :
    (s.physWrite pa b).mem = s.mem.writeN pa b := by
  rw [State.physWrite, h]
  rfl

/-! ### Traffic that may or may not take tokens -/

theorem spendIf_accessed (s : State) (b : Bool) (n : Nat) : Accessed s (if b then s.spendTokens n else s) := by
  cases b
  · exact .refl s
  · exact spendTokens_accessed s n

theorem spendIf_mem (s : State) (b : Bool) (n : Nat) : (if b then s.spendTokens n else s).mem = s.mem := by
  cases b
  · rfl
  · exact spendTokens_mem s n

/-! ### The area's translation -/

theorem areaAt_accessed (kind n : Nat) (va : W64) (s s1 : State) (ar : Area) (h : s.areaAt kind n va = .ok (ar, s1)) :
    Accessed s s1 := by
  induction n generalizing s va ar with
  | zero =>
    cases h
    exact .refl _
  | succ n ih =>
    unfold State.areaAt at h
    split at h
    · cases h
    · next x s2 hx =>
      have ok := (translate_accessed _ _ _ _ _ _ _ hx).trans (hostRefuses_accessed s2 x)
      dsimp only at h
      split at h
      · cases h
      · split at h
        · cases h
        · next hr =>
          cases h
          exact ok.trans (ih _ _ _ hr)

theorem areaHeld_accessed (s : State) (ar : Area) : Accessed s (s.areaHeld ar).2 := by
  unfold State.areaHeld
  dsimp only
  have held := accessed_foldl (fun (q : Bool × State) (x : Xl) =>
    if q.1 then q else if q.2.copyShut x then (true, q.2) else q.2.barred false x.pa) (fun q x => by
      repeat' split
      · exact .refl _
      · exact .refl _
      · exact barred_accessed _ _ _) ar (false, s)
  split
  · exact held.trans (takeTokens_accessed _ _ _)
  · exact held

theorem contextArea_accessed (s s1 : State) (a : W64) (kind : Nat) (ar : Area)
    (h : s.contextArea a kind = .ok (ar, s1)) : Accessed s s1 := by
  unfold State.contextArea at h
  split at h
  · cases h
  · split at h
    · cases h
    · next ar' s2 hat =>
      dsimp only at h
      split at h
      · cases h
      · split at h
        · cases h
        · cases h
          exact (areaAt_accessed _ _ _ _ _ _ hat).trans (areaHeld_accessed s2 _)

/-! ### Writes leave the thread in focus as it is -/

theorem devWrite_th (s : State) (pa : Nat) (b : List Byte) : (s.devWrite pa b).th = s.th := by
  unfold State.devWrite
  split
  · rfl
  · split
    · exact (crossPort_accessed s _).th
    · rfl

theorem storeNow_th (s t : State) (x : Xl) (va sw : W64) (b : List Byte) (h : s.storeNow x va sw b = some t) :
    t.th = s.th := by
  unfold State.storeNow at h
  split at h
  · cases h
  · next pa s1 hw =>
    have ok := (writePa_accessed _ _ _ _ _ hw).th
    split at h
    · cases h
      exact (devWrite_th s1 pa b).trans ok
    · cases h
      exact ((touch_accessed s1 _ _ _ _ _ _).trans ((physWrite_accessed _ _ _).trans (spread_accessed _ _ _ _))).th.trans ok

theorem areaWrite_th (s : State) (a : W64) (ar : Area) (off : Nat) (b : List Byte) : (s.areaWrite a ar off b).th = s.th := by
  refine foldl_keeps State.th _ (fun u p => ?_) _ s
  dsimp only
  have spent := (spendIf_accessed u (isDram (areaPage ar p.1).pa) p.2).th
  generalize (if isDram (areaPage ar p.1).pa then u.spendTokens p.2 else u) = v at spent ⊢
  cases h : v.storeNow { areaPage ar p.1 with pa := (areaPage ar p.1).pa + p.1 % 65536 } (a + BitVec.ofNat 64 p.1)
    u.task.stepno ((b.drop (p.1 - off)).take p.2) with
  | none => exact spent
  | some t => exact (storeNow_th _ _ _ _ _ _ h).trans spent

/-- R32: a save leaves the thread as it was, its tiles and SSB contents clean. -/
theorem saveImage_th (s : State) (a : W64) (ar : Area) (full pre : Bool) (pc : W64) (mode : Bool) :
    (s.saveImage a ar full pre pc mode).th =
      { s.th with tiles := s.th.tiles.map fun m => { m with dirty := false }, ssb.dirty := false } := by
  have kept := foldl_keeps State.th (fun u (p : Nat × List Byte) => u.areaWrite a ar p.1 p.2)
    (fun u p => areaWrite_th u a ar p.1 p.2)
    (s.imageParts full pre pc mode ((fieldOf (s.areaRead ar 192 8) 0 8 + 1) % 2 ^ 64)) s
  unfold State.saveImage State.areaPoison
  dsimp only
  rw [kept]

end Sys2Proof.Laws


/-! What a write into an area of whole, unversioned pages leaves in the first of them (R168). -/

namespace Sys2Proof.Laws

open Sys2Proof Sys2Proof.Machine

/-! ### The spans of some bytes of an area -/

theorem mem_areaSpans (off n : Nat) (u : Nat × Nat) :
    u ∈ areaSpans off n ↔ ∃ i < n / 65536 + 2, u.1 = max off ((off / 65536 + i) * 65536) ∧
      u.1 + u.2 = min (off + n) ((off / 65536 + i + 1) * 65536) ∧ 0 < u.2 := by
  obtain ⟨lo, c⟩ := u
  simp only [areaSpans, List.mem_filterMap, List.mem_range, Option.ite_none_right_eq_some, Option.some.injEq, Prod.mk.injEq]
  constructor
  · rintro ⟨i, hi, hlt, rfl, rfl⟩
    exact ⟨i, hi, rfl, by omega, by omega⟩
  · rintro ⟨i, hi, h1, h2, h3⟩
    exact ⟨i, hi, by omega, by omega, by omega⟩

/-- A span lies inside the bytes it is cut from, and in one page. -/
theorem span_inside {off n : Nat} {u : Nat × Nat} (h : u ∈ areaSpans off n) :
    off ≤ u.1 ∧ u.1 + u.2 ≤ off + n ∧ u.1 % 65536 + u.2 ≤ 65536 := by
  obtain ⟨i, -, h1, h2, h3⟩ := (mem_areaSpans off n u).mp h
  refine ⟨by omega, by omega, ?_⟩
  omega

/-- The spans leave none of the bytes out. -/
theorem span_covers {off n o : Nat} (h1 : off ≤ o) (h2 : o < off + n) :
    ∃ u ∈ areaSpans off n, u.1 ≤ o ∧ o < u.1 + u.2 := by
  have hi : o / 65536 - off / 65536 < n / 65536 + 2 := by omega
  refine ⟨(max off ((off / 65536 + (o / 65536 - off / 65536)) * 65536),
    min (off + n) ((off / 65536 + (o / 65536 - off / 65536) + 1) * 65536) -
      max off ((off / 65536 + (o / 65536 - off / 65536)) * 65536)),
    (mem_areaSpans off n _).mpr ⟨o / 65536 - off / 65536, hi, rfl, ?_, ?_⟩, ?_, ?_⟩
  all_goals
    dsimp only
    omega

/-- Bytes that lie in one page are one span. -/
theorem areaSpans_first (n off : Nat) (h0 : 0 < n) (h : off + n ≤ 65536) : areaSpans off n = [(off, n)] := by
  by_cases hn : n = 65536
  · have : off = 0 := by omega
    subst hn this
    rfl
  · have size : n / 65536 = 0 := by omega
    have page : off / 65536 = 0 := by omega
    have first : (off, n) = (max off (0 * 65536), min (off + n) ((0 + 1) * 65536) - max off (0 * 65536)) := by
      rw [Prod.mk.injEq]
      omega
    have none : ¬ max off ((0 + 1) * 65536) < min (off + n) ((0 + 1 + 1) * 65536) := by omega
    have some : max off (0 * 65536) < min (off + n) ((0 + 1) * 65536) := by omega
    rw [areaSpans, size, page, show List.range (0 + 2) = [0, 1] from rfl]
    simp only [List.filterMap_cons, List.filterMap_nil, Nat.zero_add] at *
    rw [if_pos some, if_neg none, first]

/-! ### Pages that are not versioned, and lie outside the register space -/

/-- A page that a write goes to as it is. -/
def plainPage (x : Xl) : Prop := leafVer x.leaf = false ∧ x.pa % 65536 = 0 ∧ isRegSpace x.pa = false

theorem areaPage_plain {s : State} {ar : Area} (h : Spec.PlainArea s ar) (o : Nat) : plainPage (areaPage ar o) := by
  obtain ⟨-, -, -, all⟩ := h
  unfold areaPage
  cases hx : ar[o / 65536]? with
  | none => exact ⟨rfl, rfl, rfl⟩
  | some x =>
    obtain ⟨ver, frame, -, space⟩ := all x (List.mem_of_getElem? hx)
    exact ⟨ver, frame, space⟩

theorem areaPage_first {ar : Area} {x : Xl} (hx : ar.head? = some x) {o : Nat} (ho : o < 65536) : areaPage ar o = x := by
  have zero : o / 65536 = 0 := by omega
  rw [areaPage, zero, ← List.head?_eq_getElem?, hx]
  rfl

/-- The first page shares no frame with another. -/
theorem areaPage_other {s : State} {ar : Area} (h : Spec.PlainArea s ar) {x : Xl} (hx : ar.head? = some x) {o : Nat}
    (ho : 65536 ≤ o) : (areaPage ar o).pa ≠ x.pa := by
  obtain ⟨-, -, once, all⟩ := h
  obtain ⟨ys, rfl⟩ := List.head?_eq_some_iff.mp hx
  obtain ⟨i, hi⟩ : ∃ i, o / 65536 = i + 1 := ⟨o / 65536 - 1, by omega⟩
  rw [areaPage, hi, List.getElem?_cons_succ]
  cases hy : ys[i]? with
  | none =>
    obtain ⟨-, -, used, -⟩ := all x (List.mem_cons_self ..)
    exact fun e => used e.symm
  | some y =>
    rw [List.map_cons, List.nodup_cons] at once
    exact fun e => once.1 (e ▸ List.mem_map_of_mem (List.mem_of_getElem? hy))

theorem isRegSpace_within {pa r : Nat} (h : isRegSpace pa = false) (hp : pa % 65536 = 0) (hr : r < 65536) :
    isRegSpace (pa + r) = false := by
  simp only [isRegSpace, Bool.and_eq_false_imp, decide_eq_true_eq, decide_eq_false_iff_not] at *
  omega

/-! ### One write -/

/-- R117: a write into a page that is not versioned, outside the register space. -/
theorem storeNow_plain (s : State) (x : Xl) (va sw : W64) (b : List Byte) (hv : leafVer x.leaf = false)
    (hr : isRegSpace x.pa = false) : s.storeNow x va sw b =
      some (((s.touch false true x va x.pa b.length).physWrite x.pa b).spread (s.th.cluster, s.th.pair) x.pa b) := by
  unfold State.storeNow State.writePa
  rw [hv]
  simp [hr]

/-- The state after the part of a write of area bytes that lies in one span. -/
def writeSpan (a : W64) (ar : Area) (off : Nat) (bytes : List Byte) (s : State) (u : Nat × Nat) : State :=
  let x := areaPage ar u.1
  let s1 := if isDram x.pa then s.spendTokens u.2 else s
  (s1.storeNow { x with pa := x.pa + u.1 % 65536 } (a + BitVec.ofNat 64 u.1) s.task.stepno
    ((bytes.drop (u.1 - off)).take u.2)).getD s1

theorem areaWrite_eq (s : State) (a : W64) (ar : Area) (off : Nat) (bytes : List Byte) :
    s.areaWrite a ar off bytes = (areaSpans off bytes.length).foldl (writeSpan a ar off bytes) s := rfl

theorem writeSpan_plain (a : W64) (ar : Area) (off : Nat) (bytes : List Byte) (s : State) (u : Nat × Nat)
    (h : Spec.PlainArea s ar) : Accessed s (writeSpan a ar off bytes s u) ∧
      (writeSpan a ar off bytes s u).mem =
        s.mem.writeN ((areaPage ar u.1).pa + u.1 % 65536) ((bytes.drop (u.1 - off)).take u.2) := by
  obtain ⟨ver, frame, space⟩ := areaPage_plain h u.1
  obtain ⟨-, whole, -, -⟩ := h
  have spent := spendIf_accessed s (isDram (areaPage ar u.1).pa) u.2
  have same := spendIf_mem s (isDram (areaPage ar u.1).pa) u.2
  unfold writeSpan
  dsimp only
  generalize (if isDram (areaPage ar u.1).pa then s.spendTokens u.2 else s) = v at spent same ⊢
  rw [storeNow_plain v { areaPage ar u.1 with pa := (areaPage ar u.1).pa + u.1 % 65536 } _ _ _ ver
    (isRegSpace_within space frame (Nat.mod_lt _ (by omega))), Option.getD_some]
  refine ⟨spent.trans (put_accessed v _ _ _ _), ?_⟩
  rw [spread_mem, physWrite_mem _ _ _ ((touch_accessed v _ _ _ _ _ _).channelsOut.trans (spent.channelsOut.trans whole)),
    touch_mem, same]

theorem Accessed.plainArea {s t : State} {ar : Area} (h : Accessed s t) (p : Spec.PlainArea s ar) : Spec.PlainArea t ar := by
  obtain ⟨wf, whole, once, all⟩ := p
  exact ⟨h.wf wf, h.channelsOut.trans whole, once, all⟩

theorem areaWrite_accessed (s : State) (a : W64) (ar : Area) (off : Nat) (bytes : List Byte) (h : Spec.PlainArea s ar) :
    Accessed s (s.areaWrite a ar off bytes) := by
  rw [areaWrite_eq]
  generalize areaSpans off bytes.length = l
  induction l generalizing s with
  | nil => exact .refl s
  | cons u l ih =>
    have step := (writeSpan_plain a ar off bytes s u h).1
    exact step.trans (ih _ (step.plainArea h))

/-! ### What the first page holds then -/

/-- A byte of the first page once one span has been written. -/
theorem read_writeSpan {a : W64} {ar : Area} {off : Nat} {bytes : List Byte} {s : State} {u : Nat × Nat} {x : Xl}
    (h : Spec.PlainArea s ar) (hx : ar.head? = some x) (hu : u ∈ areaSpans off bytes.length) {o : Nat} (ho : o < 65536) :
    (writeSpan a ar off bytes s u).mem.read (x.pa + o) =
      if u.1 ≤ o ∧ o < u.1 + u.2 then bytes.getD (o - off) 0 else s.mem.read (x.pa + o) := by
  obtain ⟨low, high, page⟩ := span_inside hu
  have size : ((bytes.drop (u.1 - off)).take u.2).length = u.2 := by
    rw [List.length_take, List.length_drop]
    omega
  rw [(writeSpan_plain a ar off bytes s u h).2]
  by_cases first : u.1 < 65536
  · rw [areaPage_first hx first, Nat.mod_eq_of_lt first]
    split
    · next within =>
      have at_ : x.pa + o = x.pa + u.1 + (o - u.1) := by omega
      have place : u.1 - off + (o - u.1) = o - off := by omega
      rw [at_, read_writeN_same _ _ _ _ h.1 (by omega), List.getElem_take, List.getElem_drop]
      simp only [place]
      rw [List.getD_eq_getElem _ _ (by omega)]
    · next outside => exact read_writeN_other _ _ _ _ (by omega)
  · rw [if_neg (by omega)]
    have other := areaPage_other h hx (Nat.le_of_not_lt first)
    have frame := (areaPage_plain h u.1).2.1
    have frame0 : x.pa % 65536 = 0 := by
      obtain ⟨-, -, -, all⟩ := h
      exact (all x (List.mem_of_head? hx)).2.1
    exact read_writeN_other _ _ _ _ (by omega)

theorem read_writeSpans {a : W64} {ar : Area} {off : Nat} {bytes : List Byte} {x : Xl} (hx : ar.head? = some x) {o : Nat}
    (ho : o < 65536) (l : List (Nat × Nat)) (s : State) (h : Spec.PlainArea s ar)
    (hl : ∀ u ∈ l, u ∈ areaSpans off bytes.length) :
    (l.foldl (writeSpan a ar off bytes) s).mem.read (x.pa + o) =
      if ∃ u ∈ l, u.1 ≤ o ∧ o < u.1 + u.2 then bytes.getD (o - off) 0 else s.mem.read (x.pa + o) := by
  induction l generalizing s with
  | nil => simp
  | cons u l ih =>
    have step := (writeSpan_plain a ar off bytes s u h).1
    have head := read_writeSpan (a := a) h hx (hl u (List.mem_cons_self ..)) ho
    rw [List.foldl_cons, ih _ (step.plainArea h) fun v hv => hl v (List.mem_cons_of_mem _ hv), head]
    simp only [List.exists_mem_cons_iff]
    by_cases here : u.1 ≤ o ∧ o < u.1 + u.2
    · simp only [here, and_self, true_or, if_true, ite_self]
    · simp only [here, false_or, if_false]

/-- A byte of the first page once bytes have been written into the area. -/
theorem read_areaWrite {s : State} {a : W64} {ar : Area} {off : Nat} {bytes : List Byte} {x : Xl}
    (h : Spec.PlainArea s ar) (hx : ar.head? = some x) {o : Nat} (ho : o < 65536) :
    (s.areaWrite a ar off bytes).mem.read (x.pa + o) =
      if off ≤ o ∧ o < off + bytes.length then bytes.getD (o - off) 0 else s.mem.read (x.pa + o) := by
  have covered : (∃ u ∈ areaSpans off bytes.length, u.1 ≤ o ∧ o < u.1 + u.2) ↔ off ≤ o ∧ o < off + bytes.length := by
    constructor
    · rintro ⟨u, hu, h1, h2⟩
      obtain ⟨low, high, -⟩ := span_inside hu
      omega
    · exact fun hw => span_covers hw.1 hw.2
  rw [areaWrite_eq, read_writeSpans hx ho _ s h fun _ => id]
  simp only [covered]

end Sys2Proof.Laws


/-! The parts of a saved image as the first page of the area holds them (R168). -/

namespace Sys2Proof.Laws

open Sys2Proof Sys2Proof.Machine

/-! ### Parts written one after another -/

/-- The state once some parts have been written at their offsets. -/
def writeParts (a : W64) (ar : Area) (ps : List (Nat × List Byte)) (s : State) : State :=
  ps.foldl (fun u p => u.areaWrite a ar p.1 p.2) s

theorem saveImage_mem (s : State) (a : W64) (ar : Area) (full pre : Bool) (pc : W64) (mode : Bool) :
    (s.saveImage a ar full pre pc mode).mem =
      (writeParts a ar (s.imageParts full pre pc mode ((fieldOf (s.areaRead ar 192 8) 0 8 + 1) % 2 ^ 64)) s).mem := by
  unfold State.saveImage State.areaPoison writeParts
  rfl

theorem writeParts_accessed (a : W64) (ar : Area) (ps : List (Nat × List Byte)) (s : State) (h : Spec.PlainArea s ar) :
    Accessed s (writeParts a ar ps s) := by
  unfold writeParts
  induction ps generalizing s with
  | nil => exact .refl s
  | cons p ps ih =>
    have step := areaWrite_accessed s a ar p.1 p.2 h
    exact step.trans (ih _ (step.plainArea h))

/-- A byte of the first page that no part reaches. -/
theorem read_writeParts {a : W64} {ar : Area} {x : Xl} (hx : ar.head? = some x) {o : Nat} (ho : o < 65536)
    (ps : List (Nat × List Byte)) (s : State) (h : Spec.PlainArea s ar)
    (hp : ∀ p ∈ ps, o < p.1 ∨ p.1 + p.2.length ≤ o) : (writeParts a ar ps s).mem.read (x.pa + o) = s.mem.read (x.pa + o) := by
  unfold writeParts
  induction ps generalizing s with
  | nil => rfl
  | cons p ps ih =>
    have apart := hp p (List.mem_cons_self ..)
    rw [List.foldl_cons, ih _ ((areaWrite_accessed s a ar p.1 p.2 h).plainArea h) fun q hq => hp q (List.mem_cons_of_mem _ hq),
      read_areaWrite h hx ho, if_neg (by omega)]

/-- A field of a part that ends before the parts written after it begin. -/
theorem field_writeParts {a : W64} {ar : Area} {x : Xl} (hx : ar.head? = some x) (ps qs : List (Nat × List Byte)) (off : Nat)
    (b : List Byte) (s : State) (h : Spec.PlainArea s ar) {k n : Nat} (hk : k + n ≤ b.length) (ho : off + k + n ≤ 65536)
    (hq : ∀ q ∈ qs, off + k + n ≤ q.1) :
    leNat ((writeParts a ar (ps ++ (off, b) :: qs) s).mem.readN (x.pa + (off + k)) n) = fieldOf b k n := by
  have before := writeParts_accessed a ar ps s h
  have there := areaWrite_accessed _ a ar off b (before.plainArea h)
  have all := writeParts_accessed a ar (ps ++ (off, b) :: qs) s h
  have split : writeParts a ar (ps ++ (off, b) :: qs) s =
      writeParts a ar qs ((writeParts a ar ps s).areaWrite a ar off b) := by
    unfold writeParts
    rw [List.foldl_append, List.foldl_cons]
  rw [readN_eq _ _ _ (all.wf h.1), fieldOf, field_bytes b k n hk]
  congr 1
  refine List.map_congr_left fun i hi => ?_
  have hi := List.mem_range.mp hi
  have place : x.pa + (off + k) + i = x.pa + (off + k + i) := by omega
  rw [place, split, read_writeParts hx (by omega) qs _ (there.plainArea (before.plainArea h)) fun q hm => by
    have := hq q hm
    omega]
  rw [read_areaWrite (before.plainArea h) hx (by omega), if_pos (by omega)]
  congr 1
  omega

/-- Bytes of the first page that no part reaches. -/
theorem readN_writeParts {a : W64} {ar : Area} {x : Xl} (hx : ar.head? = some x) (ps : List (Nat × List Byte)) (s : State)
    (h : Spec.PlainArea s ar) {o n : Nat} (ho : o + n ≤ 65536)
    (hp : ∀ p ∈ ps, o + n ≤ p.1 ∨ p.1 + p.2.length ≤ o) :
    (writeParts a ar ps s).mem.readN (x.pa + o) n = s.mem.readN (x.pa + o) n := by
  rw [readN_eq _ _ _ ((writeParts_accessed a ar ps s h).wf h.1), readN_eq _ _ _ h.1]
  refine List.map_congr_left fun i hi => ?_
  have hi := List.mem_range.mp hi
  rw [Nat.add_assoc]
  refine read_writeParts hx (by omega) ps s h fun p hm => ?_
  have := hp p hm
  omega

/-- R117: bytes of the first page read before anything is written. -/
theorem areaRead_first {s : State} {ar : Area} {x : Xl} (h : Spec.PlainArea s ar) (hx : ar.head? = some x) {off n : Nat}
    (h0 : 0 < n) (ho : off + n ≤ 65536) : s.areaRead ar off n = s.mem.readN (x.pa + off) n := by
  have ver := (areaPage_plain h off).1
  rw [areaPage_first hx (by omega)] at ver
  rw [State.areaRead, areaSpans_first n off h0 ho]
  simp only [List.flatMap_cons, List.flatMap_nil, List.append_nil, State.physRead, State.areaPa]
  rw [areaPage_first hx (by omega), State.readPa, ver, Nat.mod_eq_of_lt (by omega)]
  rfl

/-! ### The parts of an image -/

theorem imageParts_low (s : State) (full pre : Bool) (pc : W64) (mode : Bool) (seq : Nat) :
    (s.imageParts full pre pc mode seq).take 5 =
      [(0, s.th.imageHeader s.task full mode pc (s.th.present full) seq),
        (0x200, (List.range 128).flatMap fun n => leBytes 8 (s.mfsVal n).toNat), (0x600, s.th.imageProgress),
        (0x800, padTo 2048 ((s.th.imageEntries.take 32).flatMap fun e => e.1.bytes)), (0x1000, s.th.rcp.imageNames)] := rfl

/-- The parts that come after the bindings lie above them. -/
theorem imageParts_high (s : State) (full pre : Bool) (pc : W64) (mode : Bool) (seq : Nat) :
    ∀ p ∈ (s.imageParts full pre pc mode seq).drop 5, 0x1100 ≤ p.1 := by
  simp only [State.imageParts, List.cons_append, List.drop_succ_cons, List.drop_zero, List.nil_append, List.forall_mem_cons,
    List.forall_mem_append, List.forall_mem_map, List.mem_ite_nil_left, List.mem_ite_nil_right, List.mem_singleton]
  simp +contextual [offLqs, offNodes, offCarries, offTiles, offSsb, offDescs, offComm, offStash, offDropped, offExtra, offRows]
  exact fun _ _ _ => by omega

end Sys2Proof.Laws


/-! The fields of an image's header, registers, progress records and bindings (R168, R169). -/

namespace Sys2Proof.Laws

open Sys2Proof Sys2Proof.Machine

/-! ### The header -/

/-- A number is the field it fills. -/
theorem fieldOf_leBytes_whole (n v : Nat) : fieldOf (leBytes n v) 0 n = v % 256 ^ n := by
  rw [fieldOf_leBytes n v 0 n (by omega), pow_zero, Nat.div_one]

@[simp] theorem words_length (t : TrapRegs) : t.words.length = 8 := rfl

@[simp] theorem length_words (t : TrapRegs) : (t.words.flatMap fun w => leBytes 8 w.toNat).length = 64 := by
  rw [length_flatMap_of_const _ _ 8 fun _ => length_leBytes _ _, words_length]

@[simp] theorem length_hwms (t : Thread) : (t.tiles.toList.flatMap fun m => leBytes 2 m.hwm).length = 16 := by
  rw [length_flatMap_of_const _ _ 2 fun _ => length_leBytes _ _, Vector.length_toList]

/-- The trap registers of a header, by their place in SN order. -/
theorem fieldOf_words (t : TrapRegs) (i : Nat) (hi : i < 8) :
    fieldOf (t.words.flatMap fun w => leBytes 8 w.toNat) (8 * i) 8 = (t.words[i]'hi).toNat := by
  have := fieldOf_flatMap t.words (fun w => leBytes 8 w.toNat) 8 (fun _ => length_leBytes _ _) i 0 8 hi (by omega)
  rw [Nat.add_zero, fieldOf_word] at this
  exact this

theorem fieldOf_hwms (t : Thread) (m : Fin 8) :
    fieldOf (t.tiles.toList.flatMap fun m => leBytes 2 m.hwm) (2 * m.val) 2 = (t.tiles[m.val]).hwm % 2 ^ 16 := by
  have := fieldOf_flatMap t.tiles.toList (fun m => leBytes 2 m.hwm) 2 (fun _ => length_leBytes _ _) m.val 0 2
    (by rw [Vector.length_toList]; exact m.isLt) (by omega)
  rw [Nat.add_zero, fieldOf_leBytes _ _ _ _ (by omega)] at this
  simpa using this

/-- A field of the i-th of some pieces that follow one another, by the pieces' lengths. -/
theorem fieldOf_flatten {l : List (List Byte)} {ns : List Nat} (h : l.map List.length = ns) (i j n off : Nat)
    (hi : i < l.length) (hj : j + n ≤ ns.getD i 0) (ho : off = (ns.take i).sum + j) :
    fieldOf l.flatten off n = fieldOf l[i] j n := by
  subst h ho
  induction l generalizing i with
  | nil => exact absurd hi (Nat.not_lt_zero i)
  | cons b l ih =>
    cases i with
    | zero =>
      rw [List.flatten_cons, fieldOf_append_left _ _ _ _ (by simpa using hj)]
      simp
    | succ i =>
      rw [List.flatten_cons, fieldOf_append_at _ _ _ (((l.map List.length).take i).sum + j) _ (by simp [Nat.add_assoc]),
        ih i (by simpa using hi) (by simpa using hj)]
      rfl

section header

variable (t : Thread) (k : Task) (full mode : Bool) (pc : W64) (present seq : Nat)

/-- The pieces of a header, in order. -/
def headerPieces : List (List Byte) :=
  [leBytes 4 0x58544346, leBytes 1 1, leBytes 1 (bitNat full + 2 * bitNat mode), leBytes 2 t.tileCount, leBytes 8 pc.toNat,
    leBytes 4 present, t.tiles.toList.flatMap fun m => leBytes 2 m.hwm, leBytes 4 0, leBytes 8 t.sr.coord.toNat,
    leBytes 4 t.sr.shape.toNat, leBytes 4 t.sr.stage.toNat, leBytes 8 k.ctxid.toNat, leBytes 8 k.stepno.toNat,
    leBytes 8 k.stepdone.toNat, leBytes 32 k.cmap.toNat, t.tr.words.flatMap fun w => leBytes 8 w.toNat, leBytes 16 0,
    leBytes 8 seq, leBytes 56 0]

def headerLengths : List Nat := [4, 1, 1, 2, 8, 4, 16, 4, 8, 4, 4, 8, 8, 8, 32, 64, 16, 8, 56]

theorem headerPieces_lengths : (headerPieces t k full mode pc present seq).map List.length = headerLengths := by
  simp only [headerPieces, headerLengths, List.map_cons, List.map_nil, length_leBytes, length_words, length_hwms]

theorem imageHeader_eq : t.imageHeader k full mode pc present seq = (headerPieces t k full mode pc present seq).flatten := by
  delta Thread.imageHeader
  simp only [headerPieces, List.flatten_cons, List.flatten_nil, List.append_nil, List.append_assoc]

theorem length_imageHeader : (t.imageHeader k full mode pc present seq).length = 256 := by
  rw [imageHeader_eq, List.length_flatten, headerPieces_lengths]
  rfl

/-- A field of a header lies in one of its pieces. -/
theorem fieldOf_imageHeader (i j n off : Nat) (hi : i < 19) (hj : j + n ≤ headerLengths.getD i 0)
    (ho : off = (headerLengths.take i).sum + j) :
    fieldOf (t.imageHeader k full mode pc present seq) off n =
      fieldOf ((headerPieces t k full mode pc present seq)[i]'hi) j n := by
  rw [imageHeader_eq]
  exact fieldOf_flatten (headerPieces_lengths t k full mode pc present seq) i j n off hi hj ho

/-- The fields of a header that hold one value each. -/
theorem imageHeader_fields :
    let num (off n : Nat) : Nat := fieldOf (t.imageHeader k full mode pc present seq) off n
    num 0 4 = 0x58544346 ∧ num 4 1 = 1 ∧ num 5 1 = (bitNat full + 2 * bitNat mode) % 256 ∧ num 6 2 = t.tileCount % 65536 ∧
    num 8 8 = pc.toNat ∧ num 18 2 = present / 65536 % 65536 ∧ num 36 4 = 0 ∧ num 40 8 = t.sr.coord.toNat ∧
    num 48 4 = t.sr.shape.toNat % 2 ^ 32 ∧ num 52 4 = t.sr.stage.toNat % 2 ^ 32 ∧ num 56 8 = k.ctxid.toNat ∧
    num 64 8 = k.stepno.toNat ∧ num 72 8 = k.stepdone.toNat ∧ num 80 32 = k.cmap.toNat ∧ num 176 16 = 0 ∧
    num 192 8 = seq % 2 ^ 64 ∧ num 200 56 = 0 := by
  have piece := fieldOf_imageHeader t k full mode pc present seq
  refine ⟨?_, ?_, ?_, ?_, ?_, ?_, ?_, ?_, ?_, ?_, ?_, ?_, ?_, ?_, ?_, ?_, ?_⟩
  · exact (piece 0 0 4 0 (by decide) (by decide) rfl).trans (fieldOf_leBytes_whole 4 _)
  · exact (piece 1 0 1 4 (by decide) (by decide) rfl).trans (fieldOf_leBytes_whole 1 _)
  · exact (piece 2 0 1 5 (by decide) (by decide) rfl).trans (fieldOf_leBytes_whole 1 _)
  · exact (piece 3 0 2 6 (by decide) (by decide) rfl).trans (fieldOf_leBytes_whole 2 _)
  · exact (piece 4 0 8 8 (by decide) (by decide) rfl).trans (fieldOf_word pc)
  · exact (piece 5 2 2 18 (by decide) (by decide) rfl).trans (fieldOf_leBytes 4 present 2 2 (by omega))
  · exact (piece 7 0 4 36 (by decide) (by decide) rfl).trans (fieldOf_zeros 4 0 4 (by omega))
  · exact (piece 8 0 8 40 (by decide) (by decide) rfl).trans (fieldOf_word _)
  · exact (piece 9 0 4 48 (by decide) (by decide) rfl).trans (fieldOf_leBytes_whole 4 _)
  · exact (piece 10 0 4 52 (by decide) (by decide) rfl).trans (fieldOf_leBytes_whole 4 _)
  · exact (piece 11 0 8 56 (by decide) (by decide) rfl).trans (fieldOf_word _)
  · exact (piece 12 0 8 64 (by decide) (by decide) rfl).trans (fieldOf_word _)
  · exact (piece 13 0 8 72 (by decide) (by decide) rfl).trans (fieldOf_word _)
  · exact (piece 14 0 32 80 (by decide) (by decide) rfl).trans (fieldOf_leBytes_self 32 _ k.cmap.isLt)
  · exact (piece 16 0 16 176 (by decide) (by decide) rfl).trans (fieldOf_zeros 16 0 16 (by omega))
  · exact (piece 17 0 8 192 (by decide) (by decide) rfl).trans (fieldOf_leBytes_whole 8 _)
  · exact (piece 18 0 56 200 (by decide) (by decide) rfl).trans (fieldOf_zeros 56 0 56 (by omega))

/-- The high-water marks of a header. -/
theorem imageHeader_hwms (m : Fin 8) :
    fieldOf (t.imageHeader k full mode pc present seq) (20 + 2 * m.val) 2 = (t.tiles[m.val]).hwm % 2 ^ 16 :=
  (fieldOf_imageHeader t k full mode pc present seq 6 (2 * m.val) 2 _ (by decide) (show 2 * m.val + 2 ≤ 16 by omega)
    rfl).trans (fieldOf_hwms t m)

/-- The trap registers of a header. -/
theorem imageHeader_words (i : Nat) (hi : i < 8) :
    fieldOf (t.imageHeader k full mode pc present seq) (112 + 8 * i) 8 = (t.tr.words[i]'hi).toNat :=
  (fieldOf_imageHeader t k full mode pc present seq 15 (8 * i) 8 _ (by decide) (show 8 * i + 8 ≤ 64 by omega)
    rfl).trans (fieldOf_words t.tr i hi)

end header

end Sys2Proof.Laws


/-! The registers, progress records and bindings of an image (R32, R168, R172). -/

namespace Sys2Proof.Laws

open Sys2Proof Sys2Proof.Machine

/-! ### The parts of the header that are bounded -/

theorem tileCount_lt (t : Thread) : t.tileCount < 65536 := by
  have : t.tileCount ≤ 16 := (List.length_filter_le _ _).trans (by simp)
  omega

theorem bitNat_le (b : Bool) : bitNat b ≤ 1 := by cases b <;> decide

/-- R169: PRESENT has bits for eight tiles and three regions. -/
theorem present_lt (t : Thread) (full : Bool) : t.present full < 65536 := by
  have tiles : ((t.imageTiles full).map fun u => 2 ^ u.1).sum ≤ 255 := by
    have all : (((t.tiles.toList.zipIdx.map fun u => (u.2, u.1)).map fun u : Nat × Tile => 2 ^ u.1)) =
        (List.range 8).map fun i => 2 ^ i := by
      rw [List.map_map]
      refine List.ext_getElem (by simp) fun i h1 h2 => ?_
      simp
    have sub : ((t.imageTiles full).map fun u => 2 ^ u.1).Sublist ((List.range 8).map fun i => 2 ^ i) := by
      rw [← all]
      exact List.Sublist.map _ List.filter_sublist
    exact sub.sum_le_sum fun _ _ => Nat.zero_le _
  have rows := bitNat_le (t.rowsSaved full != 0)
  have descs := bitNat_le (!t.bst.descs.isEmpty)
  have ssb := bitNat_le (t.ssbSaved full)
  unfold Thread.present
  omega

/-! ### The state registers -/

theorem depth_eq (q : Lq) :
    q.depth = 256 * (q.slots.countP fun u => u.filled.isSome && !u.taken) + q.slots.length := by
  rw [Lq.depth, List.countP_eq_length_filter, Nat.mul_comm]

/-- R172: what MFS reads of a count register or of a length queue's. -/
theorem mfsVal_cc (s : State) (n : Nat) (h : 0x030 ≤ n ∧ n ≤ 0x037) :
    s.mfsVal n = (s.th.cc[n - 0x030]?.getD 0).setWidth 64 := by
  obtain ⟨i, hi, rfl⟩ : ∃ i < 8, n = 0x030 + i := ⟨n - 0x030, by omega, by omega⟩
  interval_cases i <;> rfl

theorem mfsVal_lq (s : State) (n : Nat) (h : 0x010 ≤ n ∧ n ≤ 0x013) :
    s.mfsVal n = BitVec.ofNat 64 (s.th.lq (n - 0x010)).depth := by
  obtain ⟨i, hi, rfl⟩ : ∃ i < 4, n = 0x010 + i := ⟨n - 0x010, by omega, by omega⟩
  interval_cases i <;> rfl

theorem stateRegister_eq (s : State) (n : Nat) (v : W64) (h : Spec.stateRegister s n = some v) : s.mfsVal n = v := by
  unfold Spec.stateRegister at h
  dsimp only at h
  split at h
  case h_4 =>
    cases h
    show BitVec.ofNat 64 (s.th.sr.weight * 2 ^ 16) ||| _ = _
    rw [Nat.mul_comm]
  case h_44 =>
    split at h
    · next hcc =>
      cases h
      exact mfsVal_cc s n hcc
    · split at h
      · next hlq =>
        cases h
        rw [mfsVal_lq s n hlq, depth_eq]
      · cases h
  all_goals
    cases h
    rfl

/-- R172: registers below 0x80 tell of the thread and the calendar alone, and but for SSINFO not of what a save changes. -/
theorem mfsVal_saved {s t : State} (tiles : Vector Tile 8) (ssb : Ssb) (a pc : W64) (fe : Front)
    (ht : t.th = { s.th with tiles := tiles, ssb := ssb, tr.ctxarea := a, pc := pc, fe := fe }) (hc : t.cal = s.cal) (n : Nat)
    (hn : n < 0x80) (h : n ≠ 0x00E) : t.mfsVal n = s.mfsVal n := by
  unfold State.mfsVal
  dsimp only
  rw [ht, hc]
  split
  case h_15 => exact absurd rfl h
  case h_47 | h_48 | h_49 | h_50 | h_51 | h_52 | h_53 | h_54 | h_55 => exact absurd hn (by decide)
  all_goals rfl

/-- R32, R172: the register part of an image, as MFS reads the registers at its end. -/
theorem fieldOf_regs (s : State) (n : Nat) (hn : n < 0x80) :
    fieldOf ((List.range 128).flatMap fun n => leBytes 8 (s.mfsVal n).toNat) (8 * n) 8 = (s.mfsVal n).toNat := by
  have := fieldOf_flatMap (List.range 128) (fun n => leBytes 8 (s.mfsVal n).toNat) 8 (fun _ => length_leBytes _ _) n 0 8
    (by simpa using hn) (by omega)
  rw [Nat.add_zero, fieldOf_word, List.getElem_range] at this
  exact this

theorem length_regs (s : State) : ((List.range 128).flatMap fun n => leBytes 8 (s.mfsVal n).toNat).length = 1024 := by
  rw [length_flatMap_of_const _ _ 8 fun _ => length_leBytes _ _, List.length_range]

/-! ### The progress records -/

/-- R168: the record of a pass slot. -/
def passRecord (p : Option Pass) : List Byte := p.elim (leBytes 32 0) fun p => progressBytes p.pc p.start p.p 1

theorem progressBytes_eq (pc : W64) (prog form kind : Nat) :
    progressBytes pc prog form kind =
      [leBytes 8 pc.toNat, leBytes 8 prog, leBytes 4 form, leBytes 1 kind, List.replicate 11 0].flatten := by
  simp [progressBytes, padTo]

theorem progress_lengths (pc : W64) (prog form kind : Nat) :
    ([leBytes 8 pc.toNat, leBytes 8 prog, leBytes 4 form, leBytes 1 kind, List.replicate 11 (0 : Byte)].map List.length) =
      [8, 8, 4, 1, 11] := by
  simp only [List.map_cons, List.map_nil, length_leBytes, List.length_replicate]

theorem length_passRecord (p : Option Pass) : (passRecord p).length = 32 := by
  cases p with
  | none => exact length_leBytes 32 0
  | some p =>
    show (progressBytes p.pc p.start p.p 1).length = 32
    rw [progressBytes_eq, List.length_flatten, progress_lengths]
    rfl

theorem passRecord_none : fieldOf (passRecord none) 20 1 = 0 := fieldOf_zeros 32 20 1 (by omega)

theorem passRecord_some (p : Pass) :
    fieldOf (passRecord (some p)) 0 8 = p.pc.toNat ∧ fieldOf (passRecord (some p)) 8 8 = p.start % 2 ^ 64 ∧
      fieldOf (passRecord (some p)) 16 4 = p.p % 2 ^ 32 ∧ fieldOf (passRecord (some p)) 20 1 = 1 := by
  have piece (i j n off : Nat) (hi : i < 5) (hj : j + n ≤ [8, 8, 4, 1, 11].getD i 0)
      (ho : off = ([8, 8, 4, 1, 11].take i).sum + j) :=
    fieldOf_flatten (progress_lengths p.pc p.start p.p 1) i j n off hi hj ho
  show fieldOf (progressBytes _ _ _ _) _ _ = _ ∧ fieldOf (progressBytes _ _ _ _) _ _ = _ ∧
    fieldOf (progressBytes _ _ _ _) _ _ = _ ∧ fieldOf (progressBytes _ _ _ _) _ _ = _
  rw [progressBytes_eq]
  refine ⟨?_, ?_, ?_, ?_⟩
  · exact (piece 0 0 8 0 (by decide) (by decide) rfl).trans (fieldOf_word _)
  · exact (piece 1 0 8 8 (by decide) (by decide) rfl).trans (fieldOf_leBytes_whole 8 _)
  · exact (piece 2 0 4 16 (by decide) (by decide) rfl).trans (fieldOf_leBytes_whole 4 _)
  · exact (piece 3 0 1 20 (by decide) (by decide) rfl).trans (fieldOf_leBytes_whole 1 _)

/-- The records of the two pass slots come first. -/
theorem imageProgress_eq (t : Thread) :
    ∃ b, t.imageProgress = passRecord t.dsp.pass0 ++ (passRecord t.dsp.pass1 ++ b) := by
  unfold Thread.imageProgress padTo
  simp only [List.append_assoc]
  exact ⟨_, rfl⟩

theorem fieldOf_pass0 (t : Thread) (k n : Nat) (h : k + n ≤ 32) :
    fieldOf t.imageProgress k n = fieldOf (passRecord t.dsp.pass0) k n := by
  obtain ⟨b, hb⟩ := imageProgress_eq t
  rw [hb, fieldOf_append_left _ _ _ _ (by rw [length_passRecord]; exact h)]

theorem fieldOf_pass1 (t : Thread) (k n : Nat) (h : k + n ≤ 32) :
    fieldOf t.imageProgress (32 + k) n = fieldOf (passRecord t.dsp.pass1) k n := by
  obtain ⟨b, hb⟩ := imageProgress_eq t
  rw [hb, fieldOf_append_at _ _ _ k _ (by rw [length_passRecord]),
    fieldOf_append_left _ _ _ _ (by rw [length_passRecord]; exact h)]

theorem length_imageProgress (t : Thread) : 64 ≤ t.imageProgress.length := by
  obtain ⟨b, hb⟩ := imageProgress_eq t
  rw [hb]
  simp only [List.length_append, length_passRecord]
  omega

/-! ### The bindings -/

theorem length_idxBytes (i : Option Nat) : (idxBytes i).length = 2 := length_leBytes 2 _

theorem length_vnames (r : Recipe) : (r.vnames.toList.flatMap idxBytes).length = 128 := by
  rw [length_flatMap_of_const _ _ 2 length_idxBytes, Vector.length_toList]

theorem length_knames (r : Recipe) : ((r.knames.toList.drop 1).flatMap idxBytes).length = 14 := by
  rw [length_flatMap_of_const _ _ 2 length_idxBytes, List.length_drop, Vector.length_toList]

theorem length_imageNames (r : Recipe) : r.imageNames.length = 144 := by
  rw [Recipe.imageNames, List.length_append, length_vnames, length_padTo, length_knames]
  rfl

theorem fieldOf_vnames (r : Recipe) (i : Nat) (hi : i < 64) :
    fieldOf r.imageNames (2 * i) 2 = ((r.vnames[i]?.getD none).getD 0xFFFF) % 2 ^ 16 := by
  have entry := fieldOf_flatMap r.vnames.toList idxBytes 2 length_idxBytes i 0 2
    (by rw [Vector.length_toList]; exact hi) (by omega)
  rw [Nat.add_zero] at entry
  rw [Recipe.imageNames, fieldOf_append_left _ _ _ _ (by rw [length_vnames]; omega), entry, idxBytes,
    fieldOf_leBytes_whole]
  simp [hi]

theorem fieldOf_knames (r : Recipe) (k : Nat) (h1 : 1 ≤ k) (h8 : k < 8) :
    fieldOf r.imageNames (126 + 2 * k) 2 = ((r.knames[k]?.getD none).getD 0xFFFF) % 2 ^ 16 := by
  obtain ⟨i, rfl⟩ : ∃ i, k = i + 1 := ⟨k - 1, by omega⟩
  have entry := fieldOf_flatMap (r.knames.toList.drop 1) idxBytes 2 length_idxBytes i 0 2
    (by rw [List.length_drop, Vector.length_toList]; omega) (by omega)
  rw [Nat.add_zero] at entry
  rw [Recipe.imageNames, fieldOf_append_at _ _ _ (2 * i) _ (by rw [length_vnames]; omega),
    fieldOf_padTo _ _ _ _ (by rw [length_knames]; omega), entry, idxBytes, fieldOf_leBytes_whole]
  simp [h8]

end Sys2Proof.Laws


/-! What CTXSV writes into the first page of its area (R32, R168, R169). -/

namespace Sys2Proof.Laws

open Sys2Proof Sys2Proof.Machine

/-- The number that a save writes as SEQ: one more than the area held. -/
def nextSeq (s : State) (ar : Area) : Nat := (fieldOf (s.areaRead ar 192 8) 0 8 + 1) % 2 ^ 64

/-! ### The image in its first page -/

section saved

variable {s : State} {a : W64} {ar : Area} {x : Xl} (full : Bool) (pc : W64)

theorem imageParts_split (seq : Nat) :
    ∃ qs, s.imageParts full false pc false seq =
        (0, s.th.imageHeader s.task full false pc (s.th.present full) seq) ::
        (0x200, (List.range 128).flatMap fun n => leBytes 8 (s.mfsVal n).toNat) :: (0x600, s.th.imageProgress) ::
        (0x800, padTo 2048 ((s.th.imageEntries.take 32).flatMap fun e => e.1.bytes)) :: (0x1000, s.th.rcp.imageNames) :: qs ∧
      ∀ q ∈ qs, 0x1100 ≤ q.1 := by
  refine ⟨_, ?_, imageParts_high s full false pc false seq⟩
  have all := (List.take_append_drop 5 (s.imageParts full false pc false seq)).symm
  rwa [imageParts_low] at all

variable (h : Spec.PlainArea s ar) (hx : ar.head? = some x)

include h hx

theorem saved_header {k n : Nat} (hk : k + n ≤ 256) :
    leNat ((s.saveImage a ar full false pc false).mem.readN (x.pa + k) n) =
      fieldOf (s.th.imageHeader s.task full false pc (s.th.present full) (nextSeq s ar)) k n := by
  obtain ⟨qs, parts, high⟩ := imageParts_split (s := s) full pc (nextSeq s ar)
  have place : x.pa + k = x.pa + (0 + k) := by rw [Nat.zero_add]
  rw [saveImage_mem, ← nextSeq, parts, place]
  exact field_writeParts hx [] (_ :: _ :: _ :: _ :: qs) 0 _ s h (by rw [length_imageHeader]; exact hk) (by omega)
    (by simp only [List.forall_mem_cons]
        exact ⟨by omega, by omega, by omega, by omega, fun q hq => by have := high q hq; omega⟩)

theorem saved_regs {k n : Nat} (hk : k + n ≤ 1024) :
    leNat ((s.saveImage a ar full false pc false).mem.readN (x.pa + (0x200 + k)) n) =
      fieldOf ((List.range 128).flatMap fun n => leBytes 8 (s.mfsVal n).toNat) k n := by
  obtain ⟨qs, parts, high⟩ := imageParts_split (s := s) full pc (nextSeq s ar)
  rw [saveImage_mem, ← nextSeq, parts]
  exact field_writeParts hx [_] (_ :: _ :: _ :: qs) 0x200 _ s h (by rw [length_regs]; exact hk) (by omega)
    (by simp only [List.forall_mem_cons]
        exact ⟨by omega, by omega, by omega, fun q hq => by have := high q hq; omega⟩)

theorem saved_progress {k n : Nat} (hk : k + n ≤ 64) :
    leNat ((s.saveImage a ar full false pc false).mem.readN (x.pa + (0x600 + k)) n) = fieldOf s.th.imageProgress k n := by
  obtain ⟨qs, parts, high⟩ := imageParts_split (s := s) full pc (nextSeq s ar)
  have room := length_imageProgress s.th
  rw [saveImage_mem, ← nextSeq, parts]
  exact field_writeParts hx [_, _] (_ :: _ :: qs) 0x600 _ s h (by omega) (by omega)
    (by simp only [List.forall_mem_cons]
        exact ⟨by omega, by omega, fun q hq => by have := high q hq; omega⟩)

theorem saved_names {k n : Nat} (hk : k + n ≤ 144) :
    leNat ((s.saveImage a ar full false pc false).mem.readN (x.pa + (0x1000 + k)) n) = fieldOf s.th.rcp.imageNames k n := by
  obtain ⟨qs, parts, high⟩ := imageParts_split (s := s) full pc (nextSeq s ar)
  rw [saveImage_mem, ← nextSeq, parts]
  exact field_writeParts hx [_, _, _, _] qs 0x1000 _ s h (by rw [length_imageNames]; exact hk) (by omega)
    fun q hq => by have := high q hq; omega

/-- R168: a save writes no byte of the x-register region. -/
theorem saved_xregs : (s.saveImage a ar full false pc false).mem.readN (x.pa + 0x100) 0x100 = s.mem.readN (x.pa + 0x100) 0x100 := by
  obtain ⟨qs, parts, high⟩ := imageParts_split (s := s) full pc (nextSeq s ar)
  rw [saveImage_mem, ← nextSeq, parts]
  refine readN_writeParts hx _ s h (by omega) ?_
  simp only [List.forall_mem_cons, length_imageHeader]
  exact ⟨by omega, by omega, by omega, by omega, by omega, fun q hq => by have := high q hq; omega⟩

/-- R32, R204: the record of a pass slot as an image's reader finds it. -/
theorem saved_pass0 (k n : Nat) (hk : k + n ≤ 32) :
    leNat ((s.saveImage a ar full false pc false).mem.readN (x.pa + (0x600 + k)) n) = fieldOf (passRecord s.th.dsp.pass0) k n := by
  rw [saved_progress full pc h hx (by omega), fieldOf_pass0 _ _ _ hk]

theorem saved_pass1 (k n : Nat) (hk : k + n ≤ 32) :
    leNat ((s.saveImage a ar full false pc false).mem.readN (x.pa + (0x620 + k)) n) =
      fieldOf (passRecord s.th.dsp.pass1) k n := by
  have place : 0x620 + k = 0x600 + (32 + k) := by omega
  rw [place, saved_progress full pc h hx (by omega), fieldOf_pass1 _ _ _ hk]

/-- R169: SEQ is one more than the area held. -/
theorem nextSeq_eq : nextSeq s ar = (leNat (s.mem.readN (x.pa + 192) 8) + 1) % 2 ^ 64 := by
  rw [nextSeq, areaRead_first h hx (by omega) (by omega), fieldOf, List.drop_zero, List.take_of_length_le]
  simp [Memory.readN]

end saved

end Sys2Proof.Laws


/-! CTXSV (R31, R32, R170). -/

namespace Sys2Proof.Laws

open Sys2Proof Sys2Proof.Machine

/-- The state in which CTXSV writes its image: the thread's U-mode work has stopped. -/
def stoppedState (s : State) : State := State.laneBoundary { s with th := s.th.stopUser }

/-- The state once CTXSV has completed. -/
def savedState (s1 : State) (a : W64) (ar : Area) (full : Bool) (pc : W64) : State :=
  State.retire { (stoppedState s1).saveImage a ar full false pc false with
    th := { ((stoppedState s1).saveImage a ar full false pc false).th with
      tr := { ((stoppedState s1).saveImage a ar full false pc false).th.tr with ctxarea := a } } }

theorem exec_ctxsv_area (f : FM) (s s1 : State) (ar : Area) (hs : s.th.smode = true)
    (h : s.contextArea (Spec.addressOf f s) 1 = .ok (ar, s1)) :
    exec (.ctxsv f) s =
      .next (savedState s1 (Spec.addressOf f s) ar (Spec.addressOf f s != s.th.tr.ctxarea) s.th.tr.trappc) := by
  have area : s.contextArea (Spec.addressOf f s) accWrite = .ok (ar, s1) := h
  rw [exec_ctxsv f s hs, State.ctxsv, area]
  dsimp only
  rw [settle_done]
  unfold savedState stoppedState
  rfl

theorem savedState_th (s1 : State) (a : W64) (ar : Area) (full : Bool) (pc : W64) :
    (savedState s1 a ar full pc).th =
      { (stoppedState s1).th with
        tiles := (stoppedState s1).th.tiles.map fun m => { m with dirty := false }
        ssb := { (stoppedState s1).th.ssb with dirty := false }
        tr.ctxarea := a, pc := (stoppedState s1).th.pc + 8, fe := { (stoppedState s1).th.fe with wait := none } } := by
  unfold savedState
  rw [retire_eq, State.passed, saveImage_th]

theorem savedState_mem (s1 : State) (a : W64) (ar : Area) (full : Bool) (pc : W64) :
    (savedState s1 a ar full pc).mem = ((stoppedState s1).saveImage a ar full false pc false).mem := by
  unfold savedState
  generalize (stoppedState s1).saveImage a ar full false pc false = v
  rfl

theorem saveImage_cal (s : State) (a : W64) (ar : Area) (full pre : Bool) (pc : W64) (mode : Bool)
    (h : Spec.PlainArea s ar) : (s.saveImage a ar full pre pc mode).cal = s.cal := by
  have kept := (writeParts_accessed a ar
    (s.imageParts full pre pc mode ((fieldOf (s.areaRead ar 192 8) 0 8 + 1) % 2 ^ 64)) s h).cal
  unfold writeParts at kept
  unfold State.saveImage State.areaPoison
  exact kept

theorem savedState_cal (s1 : State) (a : W64) (ar : Area) (full : Bool) (pc : W64) (h : Spec.PlainArea s1 ar) :
    (savedState s1 a ar full pc).cal = (stoppedState s1).cal := by
  unfold savedState
  have kept := saveImage_cal (stoppedState s1) a ar full false pc false h
  generalize (stoppedState s1).saveImage a ar full false pc false = v at kept ⊢
  exact kept

theorem stoppedState_keep (s1 : State) : laneless (stoppedState s1).th = laneless s1.th.stopUser :=
  (laneless_moveLanes _ _ _ _).1

/-- What is kept of every task, is kept of the task in focus. -/
theorem task_congr {s t : State} (g : Task → Task) (hid : ∀ k, (g k).id = k.id) (hk : t.th.task = s.th.task)
    (h : t.tasks.map g = s.tasks.map g) : g t.task = g s.task := by
  have found (u : State) : g u.task = ((u.tasks.map g).find? fun v => v.id == u.th.task).getD (g Task.empty) := by
    rw [List.find?_map]
    simp only [Function.comp_def, hid]
    show g ((u.tasks.find? fun v => v.id == u.th.task).getD _) = _
    cases u.tasks.find? fun v => v.id == u.th.task <;> rfl
  rw [found t, found s, h, hk]

theorem stoppedState_task {s s1 : State} (acc : Accessed s s1) : (stoppedState s1).task.still = s.task.still := by
  have same : (stoppedState s1).task.still = s1.task.still :=
    task_congr Task.still (fun _ => rfl) (same_of_laneless (stoppedState_keep s1) Thread.task) rfl
  exact same.trans acc.task

theorem map_halted {α : Type} {o : Option α} {f : α → α} {halted : α → Bool} (hf : ∀ a, halted (f a) = true) :
    ∀ p, o.map f = some p → halted p = true := by
  intro p hp
  obtain ⟨q, -, rfl⟩ := Option.map_eq_some_iff.mp hp
  exact hf q

/-! ### The image it writes -/

/-- R31: a pass that CTXSV has stopped. -/
def haltPass (p : Pass) : Pass := { p with halted := true, hold := none }

/-- A pass record that a save has written tells of the pass, stopped or not. -/
theorem passWritten {base off : Nat} {m : Memory} {o : Option Pass} {g : Pass → Pass}
    (hg : ∀ p, (g p).pc = p.pc ∧ (g p).start = p.start ∧ (g p).p = p.p)
    (h : ∀ k n, k + n ≤ 32 → leNat (m.readN (base + (off + k)) n) = fieldOf (passRecord (o.map g)) k n) :
    (o = none → leNat (m.readN (base + (off + 20)) 1) = 0) ∧
      ∀ p, o = some p → leNat (m.readN (base + off) 8) = p.pc.toNat ∧
        leNat (m.readN (base + (off + 8)) 8) = p.start % 2 ^ 64 ∧ leNat (m.readN (base + (off + 16)) 4) = p.p % 2 ^ 32 ∧
        leNat (m.readN (base + (off + 20)) 1) = 1 := by
  constructor
  · rintro rfl
    exact (h 20 1 (by omega)).trans passRecord_none
  · rintro p rfl
    obtain ⟨hpc, hstart, hp⟩ := hg p
    obtain ⟨f0, f8, f16, f20⟩ := passRecord_some (g p)
    rw [hpc] at f0
    rw [hstart] at f8
    rw [hp] at f16
    exact ⟨(h 0 8 (by omega)).trans f0, (h 8 8 (by omega)).trans f8, (h 16 4 (by omega)).trans f16,
      (h 20 1 (by omega)).trans f20⟩

/-- FULL, as the header holds it. -/
theorem full_flag (a b : W64) : (bitNat (a != b) + 2 * bitNat false) % 256 = if a = b then 0 else 1 := by
  by_cases h : a = b <;> simp [h, bitNat]

theorem imageWritten (s s1 : State) (a : W64) (ar : Area) (x : Xl) (acc : Accessed s s1) (h : Spec.PlainArea s1 ar)
    (hx : ar.head? = some x) :
    Spec.ImageWritten s (savedState s1 a ar (a != s.th.tr.ctxarea) s.th.tr.trappc) a x.pa
      (leNat (s1.mem.readN (x.pa + 192) 8)) := by
  have th := savedState_th s1 a ar (a != s.th.tr.ctxarea) s.th.tr.trappc
  have mem := savedState_mem s1 a ar (a != s.th.tr.ctxarea) s.th.tr.trappc
  have keep := stoppedState_keep s1
  have plain : Spec.PlainArea (stoppedState s1) ar := h
  have old : (stoppedState s1).mem = s1.mem := rfl
  have task := stoppedState_task acc
  have cal := savedState_cal s1 a ar (a != s.th.tr.ctxarea) s.th.tr.trappc h
  generalize savedState s1 a ar (a != s.th.tr.ctxarea) s.th.tr.trappc = t at th mem cal ⊢
  generalize stoppedState s1 = u at *
  rw [acc.th] at keep
  have tr : u.th.tr = s.th.tr := same_of_laneless keep Thread.tr
  have rcp : u.th.rcp = s.th.rcp := same_of_laneless keep Thread.rcp
  have tiles : u.th.tiles = s.th.tiles := same_of_laneless keep Thread.tiles
  have ssb : u.th.ssb = s.th.ssb := same_of_laneless keep Thread.ssb
  have dsp : u.th.dsp = s.th.stopUser.dsp := same_of_laneless keep Thread.dsp
  have count : u.th.tileCount = s.th.tileCount := same_of_laneless keep Thread.tileCount
  have coord : u.th.sr.coord = s.th.sr.coord := same_of_laneless keep fun v => v.sr.coord
  have shape : u.th.sr.shape = s.th.sr.shape := same_of_laneless keep fun v => v.sr.shape
  have stage : u.th.sr.stage = s.th.sr.stage := same_of_laneless keep fun v => v.sr.stage
  have info : u.th.sr.ssinfo = s.th.sr.ssinfo := same_of_laneless keep fun v => v.sr.ssinfo
  have next := nextSeq_eq plain hx
  rw [old] at next
  have header {k n : Nat} (hk : k + n ≤ 256) := saved_header (a := a) (a != s.th.tr.ctxarea) s.th.tr.trappc plain hx hk
  obtain ⟨f0, f4, f5, f6, f8, f18, f36, f40, f48, f52, f56, f64, f72, f80, f176, f192, f200⟩ :=
    imageHeader_fields u.th u.task (a != s.th.tr.ctxarea) false s.th.tr.trappc (u.th.present (a != s.th.tr.ctxarea))
      (nextSeq u ar)
  have word (i : Nat) (hi : i < 8) :
      leNat ((u.saveImage a ar (a != s.th.tr.ctxarea) false s.th.tr.trappc false).mem.readN (x.pa + (112 + 8 * i)) 8) =
        (s.th.tr.words[i]'hi).toNat := by
    rw [header (by omega), imageHeader_words _ _ _ _ _ _ _ i hi]
    exact congrArg (fun q : TrapRegs => (q.words[i]'hi).toNat) tr
  have pass0 := passWritten (base := x.pa) (off := 0x600) (o := s.th.dsp.pass0) (g := haltPass) (fun _ => ⟨rfl, rfl, rfl⟩)
    fun k n hk => (saved_pass0 (a := a) (a != s.th.tr.ctxarea) s.th.tr.trappc plain hx k n hk).trans (by rw [dsp]; rfl)
  have pass1 := passWritten (base := x.pa) (off := 0x620) (o := s.th.dsp.pass1) (g := haltPass) (fun _ => ⟨rfl, rfl, rfl⟩)
    fun k n hk => (saved_pass1 (a := a) (a != s.th.tr.ctxarea) s.th.tr.trappc plain hx k n hk).trans (by rw [dsp]; rfl)
  unfold Spec.ImageWritten
  dsimp only
  rw [mem]
  refine ⟨?_, ?_, ?_, ?_, ?_, ?_, ?_, ?_, ?_, ?_, ?_, ?_, ?_, ?_, ?_, ?_, ?_, ?_, ?_, ?_, ?_, ?_, ?_, ?_, ?_, ?_, ?_, ?_, ?_, ?_,
    ?_, ?_⟩
  · exact (header (by omega)).trans f0
  · exact (header (by omega)).trans f4
  · exact (header (by omega)).trans (f5.trans (full_flag _ _))
  · exact (header (by omega)).trans (f6.trans (by rw [count, Nat.mod_eq_of_lt (tileCount_lt _)]))
  · exact (header (by omega)).trans f8
  · exact (header (by omega)).trans (f18.trans (by rw [Nat.div_eq_of_lt (present_lt _ _)]))
  · intro m
    rw [header (by omega), imageHeader_hwms, tiles]
  · exact (header (by omega)).trans f36
  · exact (header (by omega)).trans (f40.trans (by rw [coord]))
  · exact (header (by omega)).trans (f48.trans (by rw [shape]))
  · exact (header (by omega)).trans (f52.trans (by rw [stage]))
  · exact (header (by omega)).trans (f56.trans (congrArg (fun k => k.ctxid.toNat) task))
  · exact (header (by omega)).trans (f64.trans (congrArg (fun k => k.stepno.toNat) task))
  · exact (header (by omega)).trans (f72.trans (congrArg (fun k => k.stepdone.toNat) task))
  · exact (header (by omega)).trans (f80.trans (congrArg (fun k => k.cmap.toNat) task))
  · exact word 0 (by omega)
  · exact word 1 (by omega)
  · exact word 2 (by omega)
  · exact word 3 (by omega)
  · exact word 4 (by omega)
  · exact word 5 (by omega)
  · exact word 6 (by omega)
  · exact word 7 (by omega)
  · exact (header (by omega)).trans f176
  · exact (header (by omega)).trans (f192.trans (by rw [next, Nat.mod_mod]))
  · exact (header (by omega)).trans f200
  · intro n hn h14 v hv
    rw [saved_regs _ _ plain hx (by omega), fieldOf_regs u n hn, ← mfsVal_saved _ _ _ _ _ th cal n hn h14,
      stateRegister_eq t n v hv]
  · intro v hv
    have reg : u.mfsVal 0x00E = v := by
      rw [← stateRegister_eq s _ v hv]
      show u.th.ssinfo = s.th.ssinfo
      rw [Thread.ssinfo, Thread.ssinfo, info, ssb]
    have place : x.pa + 0x270 = x.pa + (0x200 + 8 * 0x00E) := rfl
    rw [place, saved_regs _ _ plain hx (by omega), fieldOf_regs u 0x00E (by omega), reg]
  · split
    · next hp => exact pass0.1 hp
    · next p hp => exact pass0.2 p hp
  · split
    · next hp => exact pass1.1 hp
    · next p hp => exact pass1.2 p hp
  · intro i hi
    rw [saved_names _ _ plain hx (by omega), fieldOf_vnames _ _ hi, rcp]
  · intro k h1 h8
    have place : x.pa + (0x107E + 2 * k) = x.pa + (0x1000 + (126 + 2 * k)) := by omega
    rw [place, saved_names _ _ plain hx (by omega), fieldOf_knames _ _ h1 h8, rcp]

theorem ctxsvWritesTheImage : Spec.CtxsvWritesTheImage := by
  intro f s s1 ar hs a area
  have acc := contextArea_accessed s s1 a 1 ar area
  have th := savedState_th s1 a ar (a != s.th.tr.ctxarea) s.th.tr.trappc
  have mem := savedState_mem s1 a ar (a != s.th.tr.ctxarea) s.th.tr.trappc
  have keep := stoppedState_keep s1
  rw [acc.th] at keep
  have image (x : Xl) (plain : Spec.PlainArea s1 ar) (hx : ar.head? = some x) := imageWritten s s1 a ar x acc plain hx
  have xregs (x : Xl) (plain : Spec.PlainArea (stoppedState s1) ar) (hx : ar.head? = some x) :=
    saved_xregs (a := a) (a != s.th.tr.ctxarea) s.th.tr.trappc plain hx
  refine ⟨_, exec_ctxsv_area f s s1 ar hs area, ?_⟩
  generalize savedState s1 a ar (a != s.th.tr.ctxarea) s.th.tr.trappc = t at th mem image ⊢
  have tr : (stoppedState s1).th.tr = s.th.tr := same_of_laneless keep Thread.tr
  have dsp : (stoppedState s1).th.dsp = s.th.stopUser.dsp := same_of_laneless keep Thread.dsp
  have xs : (stoppedState s1).th.xs = s.th.xs := same_of_laneless keep Thread.xs
  have mode : (stoppedState s1).th.smode = s.th.smode := same_of_laneless keep Thread.smode
  have pc : (stoppedState s1).th.pc = s.th.pc := same_of_laneless keep Thread.pc
  refine ⟨?_, ?_, ?_, ?_, ?_, ?_, ?_, ?_, ?_, ?_, ?_, ?_, fun plain x hx => ⟨image x plain hx, ?_⟩⟩
  · rw [th, ← tr]
  · rw [th, dsp]; rfl
  · rw [th, dsp]; exact map_halted fun _ => rfl
  · rw [th, dsp]; exact map_halted fun _ => rfl
  · rw [th, dsp]; exact map_halted fun _ => rfl
  · rw [th, dsp]; exact map_halted fun _ => rfl
  · rw [th, dsp]; exact map_halted fun _ => rfl
  · intro m
    rw [th, Vector.getElem_map]
  · rw [th]
  · rw [th, ← xs]
  · rw [th, mode, hs]
  · rw [th, pc]
  · rw [mem, xregs x plain hx]
    rfl

end Sys2Proof.Laws


/-! What the replay of B-store descriptors leaves unchanged when a context is restored (R270). -/

namespace Sys2Proof.Laws

open Sys2Proof Sys2Proof.Machine

/-! ### Reads of rows -/

theorem readSpan_accessed (stream smode : Bool) (ok : W64 → Option Nat) (fuel : Nat) (s s1 : State) (va : W64) (n : Nat)
    (b : List Byte) (h : State.readSpan stream s smode ok fuel va n = .ok (b, s1)) : Accessed s s1 := by
  induction fuel generalizing s va n b with
  | zero =>
    cases h
    exact .refl _
  | succ fuel ih =>
    unfold State.readSpan at h
    split at h
    · cases h
      exact .refl _
    · dsimp only at h
      split at h
      · cases h
      · next x s2 hc =>
        have checked := check_accessed _ _ _ _ _ _ _ hc
        split at h
        · cases h
        · split at h
          · cases h
          · split at h
            · cases h
            · next b2 s3 hl =>
              have loaded := loadAs_accessed _ _ _ _ _ _ _ _ hl
              split at h
              · cases h
              · next hr =>
                cases h
                exact checked.trans ((held_accessed s2 _ _ _).trans (loaded.trans (ih _ _ _ _ hr)))

theorem readParts_accessed (smode : Bool) (ok : W64 → Option Nat) (al : Nat) (ps : List (Nat × W64 × Nat)) (s s1 : State)
    (bs : List (List Byte)) (h : s.readParts smode ok al ps = .ok (bs, s1)) : Accessed s s1 := by
  induction ps generalizing s bs with
  | nil =>
    cases h
    exact .refl _
  | cons p ps ih =>
    obtain ⟨k, va, n⟩ := p
    unfold State.readParts at h
    split at h
    · cases h
    · split at h
      · cases h
      · next b s2 hb =>
        have first := readSpan_accessed _ _ _ _ _ _ _ _ _ hb
        split at h
        · cases h
        · next hr =>
          cases h
          exact first.trans (ih _ _ hr)

theorem readSquares_accessed (s s1 : State) (smode : Bool) (g : TileGeo) (sq k : Nat) (ss : List Square)
    (h : s.readSquares smode g sq k = .ok (ss, s1)) : Accessed s s1 := by
  unfold State.readSquares at h
  split at h
  · cases h
  · next hr =>
    dsimp only at h
    split at h
    · cases h
    · cases h
      exact readParts_accessed _ _ _ _ _ _ _ hr

theorem readRows_accessed (s s1 : State) (smode : Bool) (g : TileGeo) (k0 n : Nat) (bs : List (List Byte))
    (h : s.readRows smode g k0 n = .ok (bs, s1)) : Accessed s s1 := by
  unfold State.readRows at h
  split at h
  · cases h
  · next hr =>
    cases h
    exact readParts_accessed _ _ _ _ _ _ _ hr

theorem loadRow_accessed (s s1 : State) (e : Entry) (k : Nat) (b : List Byte) (h : s.loadRow e k = .ok (b, s1)) :
    Accessed s s1 := by
  unfold State.loadRow at h
  dsimp only at h
  split at h
  · split at h
    · cases h
    · next hr =>
      cases h
      exact readSquares_accessed _ _ _ _ _ _ _ hr
  · split at h
    · cases h
    · next hr =>
      cases h
      exact readRows_accessed _ _ _ _ _ _ _ hr

/-! ### What a replay keeps -/

/-- A thread but for its lanes, its counters, the engines' state and what it has in progress. -/
def lasting (t : Thread) : Thread :=
  { laneless t with run := .idle, cc := Thread.reset.cc, rcp := Thread.reset.rcp, dsp := Thread.reset.dsp, fe := Thread.reset.fe,
                    tiles := Thread.reset.tiles, bst := Thread.reset.bst, ssb := Thread.reset.ssb }

/-- What a task's header words are, and nothing else of it. -/
def headerOnly (k : Task) : Task :=
  { Task.empty with id := k.id, ctxid := k.ctxid, stepno := k.stepno, stepdone := k.stepdone }

theorem same_of_lasting {α : Type} {t u : Thread} (h : lasting u = lasting t) (g : Thread → α)
    (hg : ∀ v, g (lasting v) = g v := by intro; rfl) : g u = g t := by
  rw [← hg u, h, hg t]

theorem lasting_of_laneless {t u : Thread} (h : laneless u = laneless t) : lasting u = lasting t := by
  have again (v : Thread) : lasting (laneless v) = lasting v := rfl
  rw [← again u, h, again]

/-- A step that leaves the thread in focus, and the tasks' header words, as a restore has loaded them. -/
structure Kept (s t : State) : Prop where
  th : lasting t.th = lasting s.th
  tasks : t.tasks.map headerOnly = s.tasks.map headerOnly

theorem Kept.refl (s : State) : Kept s s := ⟨rfl, rfl⟩

theorem Kept.trans {s t u : State} (a : Kept s t) (b : Kept t u) : Kept s u := ⟨b.th.trans a.th, b.tasks.trans a.tasks⟩

theorem Accessed.kept {s t : State} (h : Accessed s t) : Kept s t := by
  refine ⟨congrArg lasting h.th, ?_⟩
  have still := congrArg (List.map headerOnly) h.tasks
  rw [List.map_map, List.map_map] at still
  exact still

theorem kept_laneBoundary (s : State) : Kept s s.laneBoundary :=
  ⟨lasting_of_laneless (laneless_moveLanes _ _ _ _).1, rfl⟩

theorem kept_recomputeLanes (s : State) (c p : Nat) : Kept s (s.recomputeLanes c p) :=
  ⟨lasting_of_laneless (laneless_recomputeLanes s c p).1, rfl⟩

theorem kept_disown (s : State) (h : HwId → Bool) : Kept s (s.disown h) := by
  unfold State.disown
  dsimp only
  split <;> exact ⟨rfl, rfl⟩

theorem kept_endLoads (s : State) (h : HwId → Bool) : Kept s (s.endLoads h) := by
  unfold State.endLoads
  dsimp only
  split <;> exact ⟨rfl, rfl⟩

theorem kept_mapThreads (s : State) (p : Thread → Bool) (f : Thread → Thread) (h : ∀ t, lasting (f t) = lasting t) :
    Kept s (s.mapThreads p f) := by
  refine ⟨?_, rfl⟩
  show lasting (if p s.th then f s.th else s.th) = lasting s.th
  split
  · exact h _
  · rfl

theorem kept_mapTask (s : State) (id : Nat) (f : Task → Task) (h : ∀ k, headerOnly (f k) = headerOnly k) :
    Kept s (s.mapTask id f) := by
  refine ⟨rfl, ?_⟩
  rw [State.mapTask, List.map_map]
  refine List.map_congr_left fun k _ => ?_
  show headerOnly (if k.id == id then f k else k) = headerOnly k
  split
  · exact h k
  · rfl

theorem kept_leavePlaces (l : List HwId) (s : State) :
    Kept s (l.foldl (fun s h => (s.leaveComm h).recomputeLanes h.cluster h.pair) s) := by
  induction l generalizing s with
  | nil => exact .refl s
  | cons h l ih =>
    have left : Kept s (s.leaveComm h) := ⟨rfl, rfl⟩
    exact (left.trans (kept_recomputeLanes _ _ _)).trans (ih _)

/-- R112: a task that ends keeps its threads' registers and its header words. -/
theorem kept_endTask (s : State) (id status : Nat) : Kept s (s.endTask id status) := by
  unfold State.endTask
  dsimp only
  refine Kept.trans ?_ (kept_leavePlaces _ _)
  refine Kept.trans ?_ (kept_mapTask _ _ _ fun _ => rfl)
  refine Kept.trans ?_ (kept_mapThreads _ _ _ fun _ => rfl)
  exact (kept_disown s _).trans (kept_endLoads _ _)

theorem kept_haltOp (s : State) (o : Op) (i : TrapInfo) : Kept s (s.haltOp o i) := by
  unfold State.haltOp
  refine Kept.trans ?_ (kept_laneBoundary _)
  exact ⟨rfl, rfl⟩

theorem kept_opFault (s : State) (o : Op) (f : PassFault) : Kept s (s.opFault o f) := by
  unfold State.opFault
  split
  · exact kept_endTask s _ _
  · exact kept_haltOp s _ _

theorem kept_holdOp (s : State) (o : Op) (elem acc : Nat) (va : W64) : Kept s (s.holdOp o elem acc va) := by
  unfold State.holdOp
  split
  · exact ⟨rfl, rfl⟩
  · exact kept_opFault s _ _

theorem kept_unitStop (s : State) (o : Op) (acc : Nat) (r : UnitStop) : Kept s (s.unitStop o acc r) := by
  unfold State.unitStop
  split
  · exact kept_holdOp s _ _ _ _
  · split
    · exact kept_opFault s _ _
    · exact .refl s

theorem lasting_lower (t : Thread) (w : W64) : lasting (t.lower w) = lasting t := by
  unfold Thread.lower
  split <;> rfl

theorem kept_replayRows (e : Entry) (n k : Nat) (s : State) : Kept s (s.replayRows e n k).1 := by
  induction n generalizing s k with
  | zero => exact .refl s
  | succ n ih =>
    unfold State.replayRows
    split
    · exact ih _ _
    · split
      · exact .refl s
      · next b s1 hr =>
        refine (loadRow_accessed _ _ _ _ _ hr).kept.trans (Kept.trans ?_ (ih _ _))
        exact ⟨rfl, rfl⟩

theorem kept_replayLater (s : State) (d : BDesc) (e : Entry) (k : Nat) : Kept s (s.replayLater d e k) := ⟨rfl, rfl⟩

/-- R270: a replay loads rows, and otherwise only puts operations back, stops one, or ends the task. -/
theorem kept_replay (s : State) (ds : List (BDesc × W64)) : Kept s (s.replay ds) := by
  unfold State.replay
  induction ds generalizing s with
  | nil => exact .refl s
  | cons d ds ih =>
    rw [List.foldl_cons]
    refine Kept.trans ?_ (ih _)
    dsimp only
    split
    · exact kept_replayLater s _ _ _
    · have rows := kept_replayRows (d.1.entry d.2) d.1.n 0 s
      split
      · next s1 hr =>
        rw [hr] at rows
        refine rows.trans ⟨?_, rfl⟩
        show lasting { (if d.1.inc then s1.th.lower _ else s1.th) with bst := _ } = lasting s1.th
        have low : lasting (if d.1.inc then s1.th.lower (d.1.entry d.2).word else s1.th) = lasting s1.th := by
          split
          · exact lasting_lower _ _
          · rfl
        exact low
      · next s1 k r hr =>
        rw [hr] at rows
        have later := rows.trans (kept_replayLater s1 d.1 (d.1.entry d.2) k)
        split
        · exact later.trans (kept_unitStop _ _ _ _)
        · exact later

end Sys2Proof.Laws


/-! Restoring a context from its image (R170): the traffic, the pages, and what is loaded. -/

namespace Sys2Proof.Laws

open Sys2Proof Sys2Proof.Machine

/-! ### The traffic of a restore -/

theorem areaUse_accessed (s : State) (a : W64) (ar : Area) (off n : Nat) :
    Accessed s (s.areaUse a ar off n) ∧ (s.areaUse a ar off n).mem = s.mem := by
  unfold State.areaUse
  generalize areaSpans off n = l
  induction l generalizing s with
  | nil => exact ⟨.refl s, rfl⟩
  | cons u l ih =>
    have touched := touch_accessed s false false
      { areaPage ar u.1 with pa := (areaPage ar u.1).pa + u.1 % 65536 } (a + BitVec.ofNat 64 u.1) (s.areaPa ar u.1) u.2
    have same := touch_mem s false false
      { areaPage ar u.1 with pa := (areaPage ar u.1).pa + u.1 % 65536 } (a + BitVec.ofNat 64 u.1) (s.areaPa ar u.1) u.2
    rw [List.foldl_cons]
    dsimp only
    generalize s.touch false false _ _ _ _ = v at touched same ⊢
    have spent := spendIf_accessed v (isDram (s.areaPa ar u.1)) u.2
    have kept := spendIf_mem v (isDram (s.areaPa ar u.1)) u.2
    generalize (if isDram (s.areaPa ar u.1) then v.spendTokens u.2 else v) = w at spent kept ⊢
    obtain ⟨rest, bytes⟩ := ih w
    exact ⟨touched.trans (spent.trans rest), bytes.trans (kept.trans same)⟩

theorem imageUse_accessed (s t : State) (a : W64) (ar : Area) :
    Accessed s (s.imageUse t a ar) ∧ (s.imageUse t a ar).mem = s.mem := by
  unfold State.imageUse
  generalize t.imageParts true true 0 false 0 = l
  induction l generalizing s with
  | nil => exact ⟨.refl s, rfl⟩
  | cons p l ih =>
    obtain ⟨first, same⟩ := areaUse_accessed s a ar p.1 p.2.length
    obtain ⟨rest, bytes⟩ := ih (s.areaUse a ar p.1 p.2.length)
    exact ⟨first.trans rest, bytes.trans same⟩

/-! ### The pages, where a read finds them -/

theorem leafVer_unversioned (e : W64) : leafVer (e &&& ~~~0x200) = false := by
  simp [leafVer, bitAt]

/-- R116, R117: pages found once are read there, whatever the step. -/
theorem areaRead_pinned (s v : State) (ar : Area) (off n : Nat) (h : v.mem = s.mem) :
    v.areaRead (s.pinned ar) off n = s.areaRead ar off n := by
  have place (o : Nat) : v.readPa (areaPage (s.pinned ar) o) = s.readPa (areaPage ar o) := by
    unfold areaPage State.pinned
    rw [List.getElem?_map]
    cases ar[o / 65536]? with
    | none =>
      have none (u : State) : u.readPa ⟨0, 0, 0⟩ = 0 := by rw [State.readPa, if_neg (by decide)]
      rw [Option.map_none, Option.getD_none, none, none]
    | some x =>
      rw [Option.map_some, Option.getD_some, Option.getD_some, State.readPa,
        if_neg (by rw [leafVer_unversioned]; exact Bool.false_ne_true)]
  have bytes (u : Nat × Nat) : v.physRead (v.areaPa (s.pinned ar) u.1) u.2 = s.physRead (s.areaPa ar u.1) u.2 := by
    rw [State.physRead, State.physRead, State.areaPa, State.areaPa, place, h]
  simp only [State.areaRead, bytes]

/-! ### What is loaded -/

theorem kept_loadComm (s : State) (b : List Byte) :
    Kept s (if s.th.holdsComm then s.setComm (s.comm.load b) else s) := by
  split
  · exact ⟨rfl, rfl⟩
  · exact .refl s

/-- R170: a load puts the state registers of the image in place; the trap registers, the x registers, the mode and the tasks'
header words stay. -/
theorem kept_loadImage (s : State) (ar : Area) (base : Nat) (stop : Bool) :
    Kept { s with th := { s.th with sr := s.th.sr.load (s.areaRead ar offRegs 1024) stop } } (s.loadImage ar base stop) := by
  unfold State.loadImage
  extract_lets x get h prog record ns pass p0 p1 es op others other regs sr old reset t s1 s2 s3 s4
  have own : Kept { s with th := { s.th with sr := s.th.sr.load (s.areaRead ar offRegs 1024) stop } } s1 := ⟨rfl, rfl⟩
  have pair : Kept s1 s2 := (setPair_accessed s1 _).kept
  have comm : Kept s2 s3 := kept_loadComm s2 _
  have replay : Kept s3 s4 := kept_replay s3 _
  clear_value s4 s3 s2 s1
  exact (own.trans pair).trans ((comm.trans replay).trans ⟨rfl, rfl⟩)

end Sys2Proof.Laws


/-! CTXRS (R31, R170), and the obligation. -/

namespace Sys2Proof.Laws

open Sys2Proof Sys2Proof.Machine

/-- The state whose thread CTXRS loads: the header words and the trap registers are the image's. -/
def restoring (v : State) (h : List Byte) (a : W64) (stop : Bool) (d : Dispatch) (fe : Front) : State :=
  { v.updTask fun t => t.loadHeader h with th := { v.th with dsp := d, tr := TrapRegs.loadUser h a stop, fe := fe } }

/-- The state once CTXRS has completed, the thread's work stopped as `d` says. -/
def restoredWith (u : State) (d : Dispatch) : State :=
  State.retire (State.laneBoundary { u with th := { u.th with dsp := d } })

theorem ctxrs_ok (s s1 : State) (a : W64) (ar : Area) (area : s.contextArea a 0 = .ok (ar, s1))
    (clean : s1.imageBad a ar = none) (header : headerOk (s1.areaRead ar 0 256) s.th.tileCount = true)
    (nodes : recordsOk (nodeRecords (s1.areaRead ar 0x2000 16384)) = true) :
    ∃ v d0 fe d1, Accessed s1 v ∧ v.mem = s1.mem ∧ d1.paused = true ∧
      s.ctxrs a = .done (restoredWith ((restoring v (s1.areaRead ar 0 256) a
        (anyProgress (s1.areaRead ar 0x600 512)) d0 fe).loadImage (s1.pinned ar) s1.th.dsp.nextSeq true) d1) := by
  have area' : s.contextArea a accRead = .ok (ar, s1) := area
  have nodes' : recordsOk (nodeRecords (s1.areaRead ar offNodes 16384)) = true := nodes
  unfold State.ctxrs
  rw [area']
  dsimp -zeta only
  rw [clean]
  dsimp -zeta only
  extract_lets h stop x drops d disp loaded s3 old d1 th3
  have load (v : State) : ∃ d0 fe, loaded v = (restoring v h a stop d0 fe).loadImage (s1.pinned ar) d.nextSeq true :=
    ⟨_, _, rfl⟩
  obtain ⟨d0, fe, hl⟩ := load (s1.imageUse (loaded s1) a ar)
  obtain ⟨acc, mem⟩ := imageUse_accessed s1 (loaded s1) a ar
  have good : ¬ (!headerOk h s.th.tileCount || !recordsOk (nodeRecords (s1.areaRead ar offNodes 16384))) = true := by
    rw [header, nodes']
    decide
  rw [if_neg good]
  refine ⟨_, d0, fe, d1, acc, mem, rfl, congrArg Issue.done ?_⟩
  show _ = restoredWith ((restoring _ h a stop d0 fe).loadImage (s1.pinned ar) d.nextSeq true) d1
  rw [← hl]
  rfl

/-! ### What has been loaded -/

theorem restoredWith_eq (u : State) (d : Dispatch) :
    ∃ y, Kept u y ∧ y.th.dsp = d ∧ restoredWith u d = y.passed := by
  refine ⟨State.laneBoundary { u with th := { u.th with dsp := d } }, ?_, ?_, rfl⟩
  · exact Kept.trans (t := { u with th := { u.th with dsp := d } }) ⟨rfl, rfl⟩ (kept_laneBoundary _)
  · exact same_of_laneless (laneless_moveLanes _ _ _ _).1 Thread.dsp

theorem Accessed.hasTask {s t : State} (a : Accessed s t) (h : Spec.HasTask s) : Spec.HasTask t := by
  obtain ⟨k, hk, hid⟩ := h
  have there : Task.still k ∈ t.tasks.map Task.still := a.tasks ▸ List.mem_map_of_mem hk
  obtain ⟨m, hm, e⟩ := List.mem_map.mp there
  have ids : m.still.id = k.still.id := by rw [e]
  exact ⟨m, hm, ids.trans (hid.trans (congrArg Thread.task a.th).symm)⟩

/-- R116, R169: the header words of the task are the image's. -/
theorem restoring_task (v : State) (h : List Byte) (a : W64) (stop : Bool) (d : Dispatch) (fe : Front)
    (ht : Spec.HasTask v) : (restoring v h a stop d fe).task = v.task.loadHeader h :=
  task_updTask v (fun t => t.loadHeader h) (fun _ => rfl) ht

theorem anyProgress_iff (b : List Byte) : anyProgress b = true ↔ ∃ i < 16, fieldOf b (32 * i + 20) 1 ≠ 0 := by
  simp [anyProgress]

theorem headerOnly_words (k m : Machine.Task) (h : List Byte) (same : headerOnly m = headerOnly (k.loadHeader h)) :
    m.ctxid = wordOf h 56 ∧ m.stepno = wordOf h 64 ∧ m.stepdone = wordOf h 72 :=
  ⟨congrArg (fun k : Machine.Task => k.ctxid) same, congrArg (fun k : Machine.Task => k.stepno) same,
    congrArg (fun k : Machine.Task => k.stepdone) same⟩

/-- R170: what CTXRS has loaded, in the thread and in its task. -/
theorem ctxrs_loads (f : FM) (s s1 : State) (ar : Area) (hs : s.th.smode = true)
    (area : s.contextArea (Spec.addressOf f s) 0 = .ok (ar, s1)) (clean : s1.imageBad (Spec.addressOf f s) ar = none)
    (header : headerOk (s1.areaRead ar 0 256) s.th.tileCount = true)
    (nodes : recordsOk (nodeRecords (s1.areaRead ar 0x2000 16384)) = true) :
    ∃ t, exec (.ctxrs f) s = .next t ∧
      t.th.tr = TrapRegs.loadUser (s1.areaRead ar 0 256) (Spec.addressOf f s) (anyProgress (s1.areaRead ar 0x600 512)) ∧
      (Spec.HasTask s → t.task.ctxid = wordOf (s1.areaRead ar 0 256) 56 ∧
        t.task.stepno = wordOf (s1.areaRead ar 0 256) 64 ∧ t.task.stepdone = wordOf (s1.areaRead ar 0 256) 72) ∧
      (∃ q g r, q = s.th.sr.load (s1.areaRead ar 0x200 1024) true ∧ t.th.sr = { q with groups := g, target := r }) ∧
      t.th.dsp.paused = true ∧ t.th.xs = s.th.xs ∧ t.th.smode = true ∧ t.th.pc = s.th.pc + 8 := by
  obtain ⟨v, d0, fe, d1, acc, mem, paused, done⟩ := ctxrs_ok s s1 _ ar area clean header nodes
  have acc := (contextArea_accessed s s1 _ 0 ar area).trans acc
  have step := exec_ctxrs f s hs
  generalize Spec.addressOf f s = a at *
  generalize s1.areaRead ar 0 256 = h at *
  generalize anyProgress (s1.areaRead ar 0x600 512) = stop at *
  have task := restoring_task v h a stop d0 fe
  have regs := areaRead_pinned s1 (restoring v h a stop d0 fe) ar offRegs 1024 mem
  have own : (restoring v h a stop d0 fe).th = { v.th with dsp := d0, tr := TrapRegs.loadUser h a stop, fe := fe } := rfl
  have loaded := kept_loadImage (restoring v h a stop d0 fe) (s1.pinned ar) s1.th.dsp.nextSeq true
  rw [regs, own, acc.th] at loaded
  obtain ⟨y, kept, hd, eq⟩ := restoredWith_eq
    ((restoring v h a stop d0 fe).loadImage (s1.pinned ar) s1.th.dsp.nextSeq true) d1
  have keep := loaded.trans kept
  rw [eq] at done
  refine ⟨_, by rw [step, done, settle_done], ?_, fun ht => ?_, ⟨_, y.th.sr.groups, y.th.sr.target, rfl, ?_⟩, ?_, ?_, ?_, ?_⟩
  · exact same_of_lasting keep.th Thread.tr
  · have still : headerOnly y.task = headerOnly (restoring v h a stop d0 fe).task :=
      task_congr headerOnly (fun _ => rfl) ((same_of_lasting keep.th Thread.task).trans (congrArg Thread.task acc.th).symm) keep.tasks
    rw [task (acc.hasTask ht)] at still
    exact headerOnly_words v.task y.task h still
  · exact same_of_lasting keep.th fun u => { u.sr with groups := y.th.sr.groups, target := y.th.sr.target }
  · show y.th.dsp.paused = true
    rw [hd, paused]
  · exact same_of_lasting keep.th Thread.xs
  · exact (same_of_lasting keep.th Thread.smode).trans hs
  · exact congrArg (· + 8) (same_of_lasting keep.th Thread.pc)

/-- R163, R170: STOP is set where a progress record is in use. -/
theorem trapstat_loadUser (h b : List Byte) (a : W64) :
    ((∃ i < 16, fieldOf b (32 * i + 20) 1 ≠ 0) →
      (TrapRegs.loadUser h a (anyProgress b)).trapstat = (wordOf h 168 &&& 0xFBC0) ||| 0x200) ∧
    ((¬ ∃ i < 16, fieldOf b (32 * i + 20) 1 ≠ 0) →
      (TrapRegs.loadUser h a (anyProgress b)).trapstat = wordOf h 168 &&& 0xFBC0) := by
  rw [← anyProgress_iff]
  cases anyProgress b with
  | true => exact ⟨fun _ => rfl, fun no => absurd rfl no⟩
  | false => exact ⟨fun yes => absurd yes Bool.false_ne_true, fun _ => BitVec.or_zero⟩

/-- R169, R170: the trap registers as the header's words give them. -/
theorem loadUser_words (h : List Byte) (a : W64) (stop : Bool) :
    let q := TrapRegs.loadUser h a stop
    q.trapvec = wordOf h 112 &&& ~~~7 ∧ q.trappc = wordOf h 8 &&& ~~~7 ∧ q.trapcause = wordOf h 128 &&& 0xF3F ∧
      q.traproot = wordOf h 136 ∧ q.trapnode = wordOf h 144 ∧ q.trapelem = wordOf h 152 ∧ q.trapaddr = wordOf h 160 :=
  ⟨rfl, rfl, rfl, rfl, rfl, rfl, rfl⟩

/-- R170, R172: state registers as the image's register part gives them. -/
theorem load_words (r : SRegs) (b : List Byte) :
    let q := r.load b true
    (q.coord = r.coord ∧ q.shape = r.shape ∧ q.stage = r.stage) ∧ q.vl = wordOf b (8 * 0) &&& 0xFFFFFFFFFFFF ∧ q.fctrl = wordOf b (8 * 6) &&& 0x1F07 ∧ q.fstatus = wordOf b (8 * 7) &&& 0x1F ∧
      q.rseed = wordOf b (8 * 8) ∧ q.waitbudget = wordOf b (8 * 0x40) &&& 0xFFFFFFFFFFFF :=
  ⟨⟨rfl, rfl, rfl⟩, rfl, rfl, rfl, rfl, rfl⟩

/-- Settles O35: each word by what it leaves; CTXSV by the bytes of the image's parts, CTXRS by what a load and the replay of
its B-store descriptors keep. -/
theorem yieldAndContextWords : Obligations.YieldAndContextWords := by
  unfold Obligations.YieldAndContextWords
  refine ⟨yieldCompletes, ctxsvWritesTheImage, fun f s s1 ar hs => ?_⟩
  dsimp only
  refine ⟨fun odd => ⟨ctxsv_misaligned f s hs odd, ctxrs_misaligned f s hs odd⟩, fun area clean header nodes => ?_⟩
  obtain ⟨t, run, tr, task, ⟨q, g, r, hq, sr⟩, paused, xs, mode, pc⟩ := ctxrs_loads f s s1 ar hs area clean header nodes
  obtain ⟨used, unused⟩ := trapstat_loadUser (s1.areaRead ar 0 256) (s1.areaRead ar 0x600 512) (Spec.addressOf f s)
  obtain ⟨vec, tpc, cause, root, node, elem, addr⟩ :=
    loadUser_words (s1.areaRead ar 0 256) (Spec.addressOf f s) (anyProgress (s1.areaRead ar 0x600 512))
  obtain ⟨⟨coord, shape, stage⟩, vl, fctrl, fstatus, rseed, budget⟩ := load_words s.th.sr (s1.areaRead ar 0x200 1024)
  rw [← tr] at used unused vec tpc cause root node elem addr
  rw [← hq] at coord shape stage vl fctrl fstatus rseed budget
  refine ⟨t, run, congrArg TrapRegs.ctxarea tr, ⟨vec, tpc, cause, root, node, elem, addr, used, unused, task⟩,
    ⟨(congrArg SRegs.vl sr).trans vl, (congrArg SRegs.fctrl sr).trans fctrl, (congrArg SRegs.fstatus sr).trans fstatus,
      (congrArg SRegs.rseed sr).trans rseed, (congrArg SRegs.waitbudget sr).trans budget⟩,
    (congrArg SRegs.coord sr).trans coord, (congrArg SRegs.shape sr).trans shape, (congrArg SRegs.stage sr).trans stage,
    paused, xs, mode, pc⟩

end Sys2Proof.Laws

/-! Floating-point codes and the numbers they stand for (R35, R37, R38): magnitude codes in ascending order are the numbers of
an encoding in ascending order. -/

namespace Sys2Proof.Laws

open Sys2Proof Sys2Proof.Machine

/-! ### The magnitude of a code -/

/-- The number of a magnitude code, as the model reads it. -/
def codeNum (f : FloatFmt) (c : ℕ) : ℚ := (f.mag c).1 * (2 : ℚ) ^ (f.mag c).2

theorem mag_subnormal (f : FloatFmt) (j : ℕ) (h : j < 2 ^ f.fb) : f.mag j = (j, 1 - f.bias - f.fb) := by
  simp [FloatFmt.mag, Nat.div_eq_of_lt h, Nat.mod_eq_of_lt h]

theorem mag_normal (f : FloatFmt) (k j : ℕ) (h : j < 2 ^ f.fb) :
    f.mag ((k + 1) * 2 ^ f.fb + j) = (j + 2 ^ f.fb, ((k : ℤ) + 1) - f.bias - f.fb) := by
  have hd : ((k + 1) * 2 ^ f.fb + j) / 2 ^ f.fb = k + 1 := by
    rw [Nat.add_comm, Nat.add_mul_div_right _ _ (by positivity), Nat.div_eq_of_lt h, Nat.zero_add]
  have hm : ((k + 1) * 2 ^ f.fb + j) % 2 ^ f.fb = j := by
    rw [Nat.add_comm, Nat.add_mul_mod_self_right, Nat.mod_eq_of_lt h]
  simp [FloatFmt.mag, hd, hm]

/-- The code of the multiple `N` of 2^q, where 2^q is the distance of the codes about it. -/
def gridCode (f : FloatFmt) (q : ℤ) (N : ℕ) : ℕ := (q + f.fb + f.bias - 1).toNat * 2 ^ f.fb + N

/-- 2^q is the distance of the codes about its multiple `N`. -/
def OnGrid (f : FloatFmt) (q : ℤ) (N : ℕ) : Prop :=
  1 - f.bias - f.fb ≤ q ∧ N ≤ 2 ^ (f.fb + 1) ∧ (q = 1 - f.bias - f.fb ∨ 2 ^ f.fb ≤ N)

theorem codeNum_gridCode {f : FloatFmt} {q : ℤ} {N : ℕ} (h : OnGrid f q N) :
    codeNum f (gridCode f q N) = N * (2 : ℚ) ^ q := by
  obtain ⟨hq, hN, hlow⟩ := h
  obtain ⟨k, hk⟩ : ∃ k : ℕ, q + f.fb + f.bias - 1 = k := ⟨_, (Int.toNat_of_nonneg (by omega)).symm⟩
  have hkt : (q + f.fb + f.bias - 1).toNat = k := by omega
  rw [gridCode, hkt, codeNum]
  have hp : 2 ^ (f.fb + 1) = 2 ^ f.fb + 2 ^ f.fb := by ring
  rcases Nat.lt_or_ge N (2 ^ f.fb) with small | large
  · have hq0 : q = 1 - f.bias - f.fb := hlow.resolve_right (by omega)
    have hk0 : k = 0 := by omega
    rw [hk0, Nat.zero_mul, Nat.zero_add, mag_subnormal f N small, hq0]
  · obtain ⟨j, rfl⟩ := Nat.exists_eq_add_of_le large
    rcases Nat.lt_or_ge j (2 ^ f.fb) with hj | hj
    · have code : k * 2 ^ f.fb + (2 ^ f.fb + j) = (k + 1) * 2 ^ f.fb + j := by ring
      have exp : ((k : ℤ) + 1) - f.bias - f.fb = q := by omega
      rw [code, mag_normal f k j hj, exp, Nat.add_comm]
    · obtain rfl : j = 2 ^ f.fb := by omega
      have code : k * 2 ^ f.fb + (2 ^ f.fb + 2 ^ f.fb) = ((k + 1) + 1) * 2 ^ f.fb + 0 := by ring
      have exp : (((k + 1 : ℕ) : ℤ) + 1) - f.bias - f.fb = q + 1 := by push_cast; omega
      rw [code, mag_normal f (k + 1) 0 (by positivity), exp, zpow_add₀ (by norm_num)]
      push_cast
      ring

/-- The exponent of the distance from a code to the next one. -/
def stepExp (f : FloatFmt) (c : ℕ) : ℤ := (max (c / 2 ^ f.fb) 1 : ℕ) - f.bias - f.fb

/-- Every code stands on the grid of its own binade, short of the grid's end. -/
theorem eq_gridCode (f : FloatFmt) (c : ℕ) :
    ∃ N, c = gridCode f (stepExp f c) N ∧ OnGrid f (stepExp f c) N ∧ N < 2 ^ (f.fb + 1) := by
  have hp : 2 ^ (f.fb + 1) = 2 ^ f.fb + 2 ^ f.fb := by ring
  have hc := Nat.div_add_mod c (2 ^ f.fb)
  have hr := Nat.mod_lt c (show 0 < 2 ^ f.fb by positivity)
  rcases Nat.eq_zero_or_pos (c / 2 ^ f.fb) with h0 | hpos
  · have e : stepExp f c = 1 - f.bias - f.fb := by simp [stepExp, h0]
    have lt : c < 2 ^ f.fb := by rw [h0] at hc; omega
    have k0 : ((1 : ℤ) - f.bias - f.fb + f.fb + f.bias - 1).toNat = 0 := by omega
    refine ⟨c, ?_, ⟨by omega, by omega, .inl e⟩, by omega⟩
    rw [e, gridCode, k0]
    simp
  · have e : stepExp f c = (c / 2 ^ f.fb : ℕ) - f.bias - f.fb := by rw [stepExp, max_eq_left hpos]
    obtain ⟨k, hk⟩ := Nat.exists_eq_add_of_le' hpos
    have k1 : (((c / 2 ^ f.fb : ℕ) : ℤ) - f.bias - f.fb + f.fb + f.bias - 1).toNat = k := by omega
    refine ⟨2 ^ f.fb + c % 2 ^ f.fb, ?_, ⟨by omega, by omega, .inr (by omega)⟩, by omega⟩
    rw [e, gridCode, k1]
    rw [hk] at hc
    linarith [Nat.mul_comm (2 ^ f.fb) (k + 1), Nat.add_mul k 1 (2 ^ f.fb)]

theorem codeNum_succ (f : FloatFmt) (c : ℕ) : codeNum f (c + 1) = codeNum f c + (2 : ℚ) ^ stepExp f c := by
  obtain ⟨N, code, ⟨low, -, bin⟩, lt⟩ := eq_gridCode f c
  have here := codeNum_gridCode (⟨low, lt.le, bin⟩ : OnGrid f (stepExp f c) N)
  have next := codeNum_gridCode (⟨low, lt, bin.imp id (fun h => h.trans N.le_succ)⟩ : OnGrid f (stepExp f c) (N + 1))
  have shift : gridCode f (stepExp f c) (N + 1) = c + 1 := by rw [gridCode, ← Nat.add_assoc, ← gridCode, ← code]
  rw [← code] at here
  rw [shift] at next
  rw [here, next]
  push_cast
  ring

theorem codeNum_zero (f : FloatFmt) : codeNum f 0 = 0 := by
  rw [codeNum, mag_subnormal f 0 (by positivity)]
  simp

theorem codeNum_strictMono (f : FloatFmt) : StrictMono (codeNum f) :=
  strictMono_nat_of_lt_succ fun c => by rw [codeNum_succ]; exact lt_add_of_pos_right _ (by positivity)

theorem codeNum_nonneg (f : FloatFmt) (c : ℕ) : 0 ≤ codeNum f c := by
  rw [← codeNum_zero f]
  exact (codeNum_strictMono f).monotone (Nat.zero_le c)

theorem codeNum_eq_zero {f : FloatFmt} {c : ℕ} : codeNum f c = 0 ↔ c = 0 := by
  rw [← codeNum_zero f]
  exact (codeNum_strictMono f).injective.eq_iff

end Sys2Proof.Laws

/-! Registers read as a floating-point type (R35, R37, R38, R130): the model's reading of a register is the one the statements
write out. -/

namespace Sys2Proof.Laws

open Sys2Proof Sys2Proof.Machine

/-! ### The encodings -/

/-- The type code of an encoding with infinities or of E4M3 (R35). -/
def FloatTy (ty : ℕ) : Prop := 8 ≤ ty ∧ ty < 14

/-- What the facts about rounding ask of an encoding. -/
structure Regular (f : FloatFmt) : Prop where
  fb_pos : 1 ≤ f.fb
  fb_le : f.fb ≤ 52
  bias_pos : 1 ≤ f.bias
  top_lt : f.eb + f.fb < 64
  max_lt : f.maxCode < (2 ^ f.eb - 1) * 2 ^ f.fb + 2 ^ f.fb
  max_odd : 1 ≤ f.maxCode % 2 ^ f.fb
  max_int : (f.fb + f.bias).toNat * 2 ^ f.fb ≤ f.maxCode
  max_ieee : f.ieee = true → f.maxCode + 1 = (2 ^ f.eb - 1) * 2 ^ f.fb

theorem regular_floatFmt {ty : ℕ} (h : FloatTy ty) : Regular (floatFmt ty) := by
  obtain ⟨low, high⟩ := h
  interval_cases ty <;> exact ⟨by decide, by decide, by decide, by decide, by decide, by decide, by decide, by decide⟩

/-- R35, R37, R38: the sizes the statements name are the encoding's. -/
theorem fpShape_eq {ty : ℕ} (h : FloatTy ty) :
    (Spec.fpShape ty).1 = (floatFmt ty).eb ∧ (Spec.fpShape ty).2.1 = (floatFmt ty).fb ∧
      ((Spec.fpShape ty).2.2 : ℤ) = (floatFmt ty).bias := by
  obtain ⟨low, high⟩ := h
  interval_cases ty <;> exact ⟨rfl, rfl, rfl⟩

theorem widthOf_float {ty : ℕ} (h : FloatTy ty) : widthOf ty = Spec.fpTop ty + 1 := by
  obtain ⟨low, high⟩ := h
  interval_cases ty <;> rfl

theorem fpMax_eq {ty : ℕ} (h : FloatTy ty) : Spec.fpMax ty = (floatFmt ty).maxCode := by
  obtain ⟨low, high⟩ := h
  interval_cases ty <;> rfl

theorem ieee_iff {ty : ℕ} (h : FloatTy ty) : (floatFmt ty).ieee = true ↔ ty ≠ 0xC := by
  obtain ⟨low, high⟩ := h
  interval_cases ty <;> decide

theorem eq_e4m3 {ty : ℕ} (h : FloatTy ty) : floatFmt ty = fmtE4M3 ↔ ty = 0xC := by
  obtain ⟨low, high⟩ := h
  interval_cases ty <;> decide

theorem fpTop_eq {ty : ℕ} (h : FloatTy ty) : Spec.fpTop ty = (floatFmt ty).eb + (floatFmt ty).fb := by
  rw [Spec.fpTop, (fpShape_eq h).1, (fpShape_eq h).2.1]

theorem fpInfCode_eq {ty : ℕ} (h : FloatTy ty) :
    Spec.fpInfCode ty = (2 ^ (floatFmt ty).eb - 1) * 2 ^ (floatFmt ty).fb := by
  rw [Spec.fpInfCode, (fpShape_eq h).1, (fpShape_eq h).2.1]

theorem fpTop_lt {ty : ℕ} (h : FloatTy ty) : Spec.fpTop ty < 64 := by
  rw [fpTop_eq h]
  exact (regular_floatFmt h).top_lt

theorem two_pow_top (f : FloatFmt) : 2 ^ (f.eb + f.fb) = (2 ^ f.eb - 1) * 2 ^ f.fb + 2 ^ f.fb := by
  have one : 1 ≤ 2 ^ f.eb := Nat.one_le_two_pow
  rw [pow_add, Nat.sub_mul, one_mul, Nat.sub_add_cancel (Nat.le_mul_of_pos_left _ (by omega))]

theorem fpMax_lt {ty : ℕ} (h : FloatTy ty) : Spec.fpMax ty < 2 ^ Spec.fpTop ty := by
  rw [fpMax_eq h, fpTop_eq h, two_pow_top]
  exact (regular_floatFmt h).max_lt

theorem fpInfCode_lt {ty : ℕ} (h : FloatTy ty) : Spec.fpInfCode ty < 2 ^ Spec.fpTop ty := by
  rw [fpInfCode_eq h, fpTop_eq h, two_pow_top]
  exact Nat.lt_add_of_pos_right (by positivity)

theorem fpInfCode_max {ty : ℕ} (h : FloatTy ty) (hc : ty ≠ 0xC) : Spec.fpInfCode ty = Spec.fpMax ty + 1 := by
  rw [fpMax_eq h, (regular_floatFmt h).max_ieee ((ieee_iff h).2 hc), fpInfCode_eq h]

theorem fpMag_eq {ty : ℕ} (h : FloatTy ty) (c : ℕ) : Spec.fpMag ty c = codeNum (floatFmt ty) c := by
  obtain ⟨-, hfb, hbias⟩ := fpShape_eq h
  rw [Spec.fpMag, hfb, hbias, codeNum]
  have hc := Nat.div_add_mod c (2 ^ (floatFmt ty).fb)
  split
  · next small => rw [mag_subnormal _ c small]
  · next large =>
    obtain ⟨k, hk⟩ := Nat.exists_eq_add_of_le' (Nat.div_pos (Nat.le_of_not_lt large) (by positivity))
    have code : c = (k + 1) * 2 ^ (floatFmt ty).fb + c % 2 ^ (floatFmt ty).fb := by
      rw [← hk, Nat.mul_comm]
      exact hc.symm
    have mag := mag_normal (floatFmt ty) k (c % 2 ^ (floatFmt ty).fb) (Nat.mod_lt _ (by positivity))
    rw [← code] at mag
    rw [mag, hk, Nat.add_comm]
    push_cast
    rfl

/-! ### The reading of a register -/

theorem fpNeg_eq (ty : ℕ) (x : W64) : Spec.fpNeg ty x = decide (x.toNat / 2 ^ Spec.fpTop ty % 2 = 1) := by
  rw [Spec.fpNeg, BitVec.getLsbD, Nat.testBit_eq_decide_div_mod_eq]

theorem fpCode_lt (ty : ℕ) (x : W64) : Spec.fpCode ty x < 2 ^ Spec.fpTop ty := Nat.mod_lt _ (by positivity)

theorem fpFin_iff (ty : ℕ) (x : W64) : Spec.fpFin ty x = true ↔ Spec.fpCode ty x ≤ Spec.fpMax ty := by
  simp [Spec.fpFin]

theorem fpInf_iff (ty : ℕ) (x : W64) : Spec.fpInf ty x = true ↔ ty ≠ 0xC ∧ Spec.fpCode ty x = Spec.fpInfCode ty := by
  simp [Spec.fpInf]

theorem fpNan_iff {ty : ℕ} (h : FloatTy ty) (x : W64) :
    Spec.fpNan ty x = true ↔ Spec.fpMax ty < Spec.fpCode ty x ∧ (ty ≠ 0xC → Spec.fpInfCode ty < Spec.fpCode ty x) := by
  have inf := fpInfCode_max h
  rw [Spec.fpNan, Bool.and_eq_true, Bool.not_eq_true', Bool.not_eq_true', ← Bool.not_eq_true, ← Bool.not_eq_true,
    fpFin_iff, fpInf_iff]
  by_cases hc : ty = 0xC
  · simp [hc]
  · have := inf hc
    simp only [hc, ne_eq, not_false_eq_true, true_and, forall_const]
    omega

/-- R130: the low bits of a register that a type reads. -/
theorem maskBits_float {ty : ℕ} (h : FloatTy ty) (n : ℕ) : maskBits ty n = n % 2 ^ (Spec.fpTop ty + 1) := by
  rw [maskBits, widthOf_float h]

theorem regVal_decode {ty : ℕ} (h : FloatTy ty) (x : W64) :
    regVal ty x = (floatFmt ty).decode (x.toNat % 2 ^ (Spec.fpTop ty + 1)) := by
  have n8 : ¬ ty < 8 := by have := h.1; omega
  have nE : (ty == 0xE) = false := by have := h.2; simp; omega
  rw [regVal, valueOf, if_neg n8, nE, maskBits_float h]
  rfl

/-- The code and the sign of a register's low bits. -/
theorem decode_parts (f : FloatFmt) (n : ℕ) :
    n % 2 ^ (f.eb + f.fb + 1) % 2 ^ (f.eb + f.fb) = n % 2 ^ (f.eb + f.fb) ∧
      n % 2 ^ (f.eb + f.fb + 1) / 2 ^ (f.eb + f.fb) % 2 = n / 2 ^ (f.eb + f.fb) % 2 := by
  refine ⟨Nat.mod_mod_of_dvd _ (pow_dvd_pow 2 (Nat.le_succ _)), ?_⟩
  rw [pow_succ, Nat.mod_mul_right_div_self, Nat.mod_mod]

/-- The quiet bit of a code. -/
theorem quiet_bit (n t k : ℕ) (h : k < t) : n % 2 ^ t / 2 ^ k % 2 = n / 2 ^ k % 2 := by
  obtain ⟨d, rfl⟩ := Nat.exists_eq_add_of_lt h
  rw [show k + d + 1 = k + (d + 1) by ring, pow_add, Nat.mod_mul_right_div_self, pow_succ, Nat.mod_mul_left_mod]

theorem decode_ieee {f : FloatFmt} (hf : Regular f) (hi : f.ieee = true) (n : ℕ) :
    f.decode (n % 2 ^ (f.eb + f.fb + 1)) =
      (let code := n % 2 ^ (f.eb + f.fb)
       let neg := decide (n / 2 ^ (f.eb + f.fb) % 2 = 1)
       if (2 ^ f.eb - 1) * 2 ^ f.fb < code then .nan (decide (7 < f.fb + f.eb) && decide (code / 2 ^ (f.fb - 1) % 2 = 0))
       else if code = (2 ^ f.eb - 1) * 2 ^ f.fb then .inf neg
       else .fin neg (f.mag code).1 (f.mag code).2) := by
  obtain ⟨hc, hs⟩ := decode_parts f n
  have top := two_pow_top f
  have lt : n % 2 ^ (f.eb + f.fb) < 2 ^ (f.eb + f.fb) := Nat.mod_lt _ (by positivity)
  have hm := Nat.div_add_mod (n % 2 ^ (f.eb + f.fb)) (2 ^ f.fb)
  rw [FloatFmt.decode, hc, hs, hi]
  have ne : (f == fmtE4M3) = false := by
    simp only [beq_eq_false_iff_ne, ne_eq]
    rintro rfl
    simp [fmtE4M3] at hi
  generalize n % 2 ^ (f.eb + f.fb) = code at *
  have pos : 0 < 2 ^ f.fb := by positivity
  have div : code / 2 ^ f.fb = 2 ^ f.eb - 1 ↔ (2 ^ f.eb - 1) * 2 ^ f.fb ≤ code := by
    rw [Nat.div_eq_iff pos]
    omega
  rcases Nat.lt_trichotomy code ((2 ^ f.eb - 1) * 2 ^ f.fb) with less | rfl | more
  · have ndiv : ¬ code / 2 ^ f.fb = 2 ^ f.eb - 1 := by rw [div]; omega
    simp only [ndiv, ne, Nat.not_lt.mpr less.le, less.ne, beq_iff_eq, Bool.and_eq_true, Bool.false_and, if_false, and_false,
      Bool.false_eq_true]
    rfl
  · have zero : (2 ^ f.eb - 1) * 2 ^ f.fb % 2 ^ f.fb = 0 := Nat.mul_mod_left _ _
    have hd := div.2 le_rfl
    simp [hd]
    rfl
  · have hd := div.2 more.le
    have nz : ¬ code % 2 ^ f.fb = 0 := by
      intro z
      rw [hd, z, Nat.mul_comm] at hm
      omega
    simp [hd, nz, more]
    rfl

theorem fpSig_eq {ty : ℕ} (h : FloatTy ty) (x : W64) :
    Spec.fpSig ty x = (Spec.fpNan ty x && decide (7 < (floatFmt ty).fb + (floatFmt ty).eb) &&
      decide (Spec.fpCode ty x / 2 ^ ((floatFmt ty).fb - 1) % 2 = 0)) := by
  have hf := regular_floatFmt h
  have pos := hf.fb_pos
  have quiet := quiet_bit x.toNat (Spec.fpTop ty) ((floatFmt ty).fb - 1) (by rw [fpTop_eq h]; omega)
  have wide : decide (ty < 0xC) = decide (7 < (floatFmt ty).fb + (floatFmt ty).eb) := by
    obtain ⟨low, high⟩ := h
    interval_cases ty <;> rfl
  rw [Spec.fpSig, (fpShape_eq h).2.1, Spec.fpCode, quiet, wide, BitVec.getLsbD, Nat.testBit_eq_decide_div_mod_eq]
  congr 1
  rcases Nat.mod_two_eq_zero_or_one (x.toNat / 2 ^ ((floatFmt ty).fb - 1)) with z | o
  · rw [z]; rfl
  · rw [o]; rfl

/-- R130: the model's reading of a register as a floating-point type. -/
theorem regVal_eq {ty : ℕ} (h : FloatTy ty) (x : W64) :
    regVal ty x =
      if Spec.fpNan ty x = true then .nan (Spec.fpSig ty x)
      else if Spec.fpInf ty x = true then .inf (Spec.fpNeg ty x)
      else .fin (Spec.fpNeg ty x) ((floatFmt ty).mag (Spec.fpCode ty x)).1 ((floatFmt ty).mag (Spec.fpCode ty x)).2 := by
  rw [regVal_decode h, fpNeg_eq, fpSig_eq h]
  by_cases hc : ty = 0xC
  · subst hc
    have lt := fpCode_lt 0xC x
    have neg : (x.toNat % 256 / 128 % 2 == 1) = decide (x.toNat / 128 % 2 = 1) := by
      rw [show (256 : ℕ) = 128 * 2 from rfl, Nat.mod_mul_right_div_self, Nat.mod_mod]
      rfl
    have code : x.toNat % 256 % 128 = Spec.fpCode 0xC x := Nat.mod_mod_of_dvd _ (by decide)
    have nan : Spec.fpNan 0xC x = true ↔ Spec.fpCode 0xC x = 0x7F := by
      rw [fpNan_iff h]
      simp only [Spec.fpMax, Spec.fpTop, Spec.fpShape, if_true] at lt ⊢
      omega
    have inf : Spec.fpInf 0xC x = false := rfl
    simp only [nan, inf, Spec.fpTop, Spec.fpShape, floatFmt, FloatFmt.decode, fmtE4M3, Nat.reduceAdd, Nat.reducePow,
      neg, code, Bool.false_and, Bool.false_eq_true, if_false, beq_self_eq_true, Bool.true_and, beq_iff_eq, Nat.lt_irrefl,
      decide_false, Bool.and_false]
  · have inf := fpInfCode_max h hc
    have hi := (ieee_iff h).2 hc
    rw [fpTop_eq h, decode_ieee (regular_floatFmt h) hi, ← fpTop_eq h, ← fpInfCode_eq h]
    have nan : Spec.fpNan ty x = true ↔ Spec.fpInfCode ty < Spec.fpCode ty x := by
      rw [fpNan_iff h]
      simp only [ne_eq, hc, not_false_eq_true, forall_const]
      omega
    have isInf : Spec.fpInf ty x = true ↔ Spec.fpCode ty x = Spec.fpInfCode ty := by
      rw [fpInf_iff]
      simp [hc]
    change (if Spec.fpInfCode ty < Spec.fpCode ty x then _ else if Spec.fpCode ty x = Spec.fpInfCode ty then _ else _) = _
    by_cases big : Spec.fpInfCode ty < Spec.fpCode ty x
    · rw [if_pos big, if_pos (nan.2 big), nan.2 big]
      rfl
    · rw [if_neg big, if_neg (fun n => big (nan.1 n))]
      exact if_congr isInf.symm rfl rfl

theorem regVal_nan {ty : ℕ} (h : FloatTy ty) {x : W64} (hx : Spec.fpNan ty x = true) :
    regVal ty x = .nan (Spec.fpSig ty x) := by
  rw [regVal_eq h, if_pos hx]

theorem fpInf_not_nan {ty : ℕ} {x : W64} (hx : Spec.fpInf ty x = true) : Spec.fpNan ty x = false := by
  simp [Spec.fpNan, hx]

theorem fpFin_not_nan {ty : ℕ} {x : W64} (hx : Spec.fpFin ty x = true) : Spec.fpNan ty x = false := by
  simp [Spec.fpNan, hx]

theorem fpFin_not_inf {ty : ℕ} (h : FloatTy ty) {x : W64} (hx : Spec.fpFin ty x = true) : Spec.fpInf ty x = false := by
  rw [fpFin_iff] at hx
  rw [← Bool.not_eq_true, fpInf_iff]
  rintro ⟨hc, code⟩
  have := fpInfCode_max h hc
  omega

theorem regVal_inf {ty : ℕ} (h : FloatTy ty) {x : W64} (hx : Spec.fpInf ty x = true) :
    regVal ty x = .inf (Spec.fpNeg ty x) := by
  rw [regVal_eq h, if_neg (by simp [fpInf_not_nan hx]), if_pos hx]

theorem regVal_fin {ty : ℕ} (h : FloatTy ty) {x : W64} (hx : Spec.fpFin ty x = true) :
    regVal ty x =
      .fin (Spec.fpNeg ty x) ((floatFmt ty).mag (Spec.fpCode ty x)).1 ((floatFmt ty).mag (Spec.fpCode ty x)).2 := by
  rw [regVal_eq h, if_neg (by simp [fpFin_not_nan hx]), if_neg (by simp [fpFin_not_inf h hx])]

/-- A register holds a NaN, an infinity or a finite number. -/
theorem fp_trichotomy (ty : ℕ) (x : W64) :
    Spec.fpNan ty x = true ∨ Spec.fpInf ty x = true ∨ Spec.fpFin ty x = true := by
  rw [Spec.fpNan]
  cases Spec.fpFin ty x <;> cases Spec.fpInf ty x <;> simp

theorem fpFin_of_zero {ty : ℕ} {x : W64} (hx : Spec.fpCode ty x = 0) : Spec.fpFin ty x = true := by
  rw [fpFin_iff, hx]
  exact Nat.zero_le _

/-- A magnitude is zero for code 0 alone. -/
theorem mag_eq_zero (f : FloatFmt) (c : ℕ) : (f.mag c).1 = 0 ↔ c = 0 := by
  have num := codeNum_eq_zero (f := f) (c := c)
  rw [codeNum, mul_eq_zero_iff_right (by positivity), Nat.cast_eq_zero] at num
  exact num

/-! ### Codes with their signs -/

theorem fpSigned_toNat {ty : ℕ} (h : FloatTy ty) (neg : Bool) {c : ℕ} (hc : c < 2 ^ Spec.fpTop ty) :
    (Spec.fpSigned ty neg c).toNat = (if neg then 2 ^ Spec.fpTop ty else 0) + c := by
  have top := fpTop_lt h
  have wide : 2 ^ (Spec.fpTop ty + 1) ≤ 2 ^ 64 := Nat.pow_le_pow_right (by norm_num) top
  rw [pow_succ] at wide
  rw [Spec.fpSigned, BitVec.toNat_ofNat, Nat.mod_eq_of_lt]
  cases neg <;> simp <;> omega

theorem fpCode_fpSigned {ty : ℕ} (h : FloatTy ty) (neg : Bool) {c : ℕ} (hc : c < 2 ^ Spec.fpTop ty) :
    Spec.fpCode ty (Spec.fpSigned ty neg c) = c := by
  rw [Spec.fpCode, fpSigned_toNat h neg hc]
  cases neg <;> simp [Nat.mod_eq_of_lt hc]

theorem fpNeg_fpSigned {ty : ℕ} (h : FloatTy ty) (neg : Bool) {c : ℕ} (hc : c < 2 ^ Spec.fpTop ty) :
    Spec.fpNeg ty (Spec.fpSigned ty neg c) = neg := by
  have pos : 0 < 2 ^ Spec.fpTop ty := by positivity
  rw [fpNeg_eq, fpSigned_toNat h neg hc]
  cases neg <;> simp [Nat.div_eq_of_lt hc, pos]

/-- R130: a code with its sign, in a register. -/
theorem extendTo64_signed {ty : ℕ} (h : FloatTy ty) (neg : Bool) {c : ℕ} (hc : c < 2 ^ Spec.fpTop ty) :
    extendTo64 ty ((floatFmt ty).signBit neg + c) = Spec.fpSigned ty neg c := by
  have n8 : ¬ ty < 8 := by have := h.1; omega
  have lt : (floatFmt ty).signBit neg + c < 2 ^ (Spec.fpTop ty + 1) := by
    rw [FloatFmt.signBit, ← fpTop_eq h, pow_succ]
    cases neg <;> simp <;> omega
  simp only [extendTo64, n8, decide_false, Bool.false_and, Bool.false_eq_true, if_false, maskBits_float h]
  rw [Nat.mod_eq_of_lt lt, FloatFmt.signBit, ← fpTop_eq h]
  rfl

theorem extendTo64_float {ty : ℕ} (h : FloatTy ty) (n : ℕ) :
    extendTo64 ty n = BitVec.ofNat 64 (n % 2 ^ (Spec.fpTop ty + 1)) := by
  have n8 : ¬ ty < 8 := by have := h.1; omega
  simp only [extendTo64, n8, decide_false, Bool.false_and, Bool.false_eq_true, if_false, maskBits_float h]

/-- R35: the canonical NaN in a register. -/
theorem extendTo64_canonicalNan {ty : ℕ} (h : FloatTy ty) : extendTo64 ty (canonicalNan ty) = Spec.fpCanon ty := by
  obtain ⟨low, high⟩ := h
  interval_cases ty <;> rfl

/-- A register's own low bits, kept as they are. -/
theorem extendTo64_maskBits {ty : ℕ} (h : FloatTy ty) (x : W64) :
    extendTo64 ty (maskBits ty x.toNat) = Spec.fpSigned ty (Spec.fpNeg ty x) (Spec.fpCode ty x) := by
  rw [extendTo64_float h, maskBits_float h, Nat.mod_mod, fpNeg_eq, Spec.fpSigned, Spec.fpCode, pow_succ, Nat.mod_mul]
  congr 1
  have two := Nat.mod_two_eq_zero_or_one (x.toNat / 2 ^ Spec.fpTop ty)
  rcases two with z | o
  · simp [z]
  · simp [o, Nat.add_comm]

/-- R37: an infinity in a register, of a type that has them. -/
theorem extendTo64_infinity {ty : ℕ} (h : FloatTy ty) (hc : ty ≠ 0xC) (neg : Bool) :
    extendTo64 ty ((floatFmt ty).infinity neg).bits = Spec.fpSigned ty neg (Spec.fpInfCode ty) := by
  rw [FloatFmt.infinity, if_pos ((ieee_iff h).2 hc), ← fpInfCode_eq h, extendTo64_signed h neg (fpInfCode_lt h)]

/-! ### Numbers -/

/-- A number with its sign. -/
def signed {K : Type} [Neg K] (neg : Bool) (v : K) : K := if neg then -v else v

theorem fpNum_eq {ty : ℕ} (h : FloatTy ty) (x : W64) :
    Spec.fpNum ty x = signed (Spec.fpNeg ty x) (codeNum (floatFmt ty) (Spec.fpCode ty x)) := by
  rw [Spec.fpNum, fpMag_eq h, signed]
  split <;> ring

theorem fpNum_fpSigned {ty : ℕ} (h : FloatTy ty) (neg : Bool) {c : ℕ} (hc : c < 2 ^ Spec.fpTop ty) :
    Spec.fpNum ty (Spec.fpSigned ty neg c) = signed neg (codeNum (floatFmt ty) c) := by
  rw [fpNum_eq h, fpNeg_fpSigned h neg hc, fpCode_fpSigned h neg hc]

theorem fpNum_eq_zero {ty : ℕ} (h : FloatTy ty) (x : W64) : Spec.fpNum ty x = 0 ↔ Spec.fpCode ty x = 0 := by
  rw [fpNum_eq h, ← codeNum_eq_zero (f := floatFmt ty), signed]
  split <;> simp

end Sys2Proof.Laws

/-! Rounding to an integer (R42): a number cut with its last bit set rounds as the number itself does. -/

namespace Sys2Proof.Laws

open Sys2Proof Sys2Proof.Machine

/-! ### Numbers and what stands for them -/

/-- `m`·2^e is `v` itself, or `v` cut far below any precision with the last bit set. -/
def Stands (m : ℕ) (e : ℤ) (v : ℝ) : Prop :=
  v = m * (2 : ℝ) ^ e ∨
    (m % 2 = 1 ∧ 2 ^ 100 ≤ m ∧ ((m : ℝ) - 1) * (2 : ℝ) ^ e < v ∧ v < ((m : ℝ) + 1) * (2 : ℝ) ^ e)

/-- R42: a number `x` of the integer part `N` is rounded up in magnitude. -/
def RoundsUp (rm : ℕ) (neg : Bool) (x : ℝ) (N : ℕ) : Prop :=
  (rm = 0 ∧ (1 / 2 < x - N ∨ (x - N = 1 / 2 ∧ N % 2 = 1))) ∨ (Spec.roundsAway rm neg = true ∧ x ≠ N)

/-- The rounding of `x`, of the integer part `N`, to an integer. -/
noncomputable def rounded (rm : ℕ) (neg : Bool) (x : ℝ) (N : ℕ) : ℕ :=
  open Classical in if RoundsUp rm neg x N then N + 1 else N

theorem rounded_le (rm : ℕ) (neg : Bool) (x : ℝ) (N : ℕ) : rounded rm neg x N ≤ N + 1 := by
  unfold rounded
  split <;> omega

theorem le_rounded (rm : ℕ) (neg : Bool) (x : ℝ) (N : ℕ) : N ≤ rounded rm neg x N := by
  unfold rounded
  split <;> omega

theorem rounded_self (rm : ℕ) (neg : Bool) (N : ℕ) : rounded rm neg N N = N := by
  unfold rounded RoundsUp
  rw [if_neg]
  simp

/-! ### The model's rounding -/

/-- The model's choice between a quotient and the one above it, by the rest `r` of a division by 2·`half`. -/
def restUp (rm : ℕ) (neg : Bool) (half r N : ℕ) : Prop :=
  (rm = 0 ∧ (half < r ∨ (r = half ∧ N % 2 = 1))) ∨ (Spec.roundsAway rm neg = true ∧ r ≠ 0)

/-- R42: the model rounds by the rest of the division. -/
theorem roundShift_pos (m s rm : ℕ) (neg : Bool) (hrm : rm < 4) :
    (roundShift m ((s : ℤ) + 1) neg rm).2 = decide (m % 2 ^ (s + 1) ≠ 0) ∧
      (restUp rm neg (2 ^ s) (m % 2 ^ (s + 1)) (m / 2 ^ (s + 1)) →
        (roundShift m ((s : ℤ) + 1) neg rm).1 = m / 2 ^ (s + 1) + 1) ∧
      (¬ restUp rm neg (2 ^ s) (m % 2 ^ (s + 1)) (m / 2 ^ (s + 1)) →
        (roundShift m ((s : ℤ) + 1) neg rm).1 = m / 2 ^ (s + 1)) := by
  have pos : ¬ ((s : ℤ) + 1 ≤ 0) := by omega
  have hs : ((s : ℤ) + 1).toNat = s + 1 := by omega
  have rest : m - (m / 2 ^ (s + 1)) * 2 ^ (s + 1) = m % 2 ^ (s + 1) := by
    have := Nat.div_add_mod m (2 ^ (s + 1))
    rw [Nat.mul_comm] at this
    omega
  simp only [roundShift, if_neg pos, hs, Nat.shiftRight_eq_div_pow, Nat.shiftLeft_eq, rest]
  generalize m % 2 ^ (s + 1) = r
  generalize m / 2 ^ (s + 1) = N
  have double : 2 ^ (s + 1) = 2 * 2 ^ s := by ring
  rw [double]
  refine ⟨by simp [bne, Bool.beq_eq_decide_eq], ?_⟩
  unfold restUp Spec.roundsAway
  interval_cases rm
  · have half : 2 * 2 ^ s < 2 * r ↔ 2 ^ s < r := by omega
    have tie : 2 * r = 2 * 2 ^ s ↔ r = 2 ^ s := by omega
    simp [half, tie]
    omega
  · simp
  · cases neg <;> simp
  · cases neg <;> simp

/-- R42: the rest tells what the number it stands for tells. -/
theorem restUp_iff {m s N rm : ℕ} {neg : Bool} {w : ℝ} (hN : N = m / 2 ^ (s + 1))
    (h : w = m ∨ (m % 2 = 1 ∧ 1 ≤ s ∧ (m : ℝ) - 1 < w ∧ w < (m : ℝ) + 1)) :
    (N : ℝ) ≤ w / 2 ^ (s + 1) ∧ w / 2 ^ (s + 1) < N + 1 ∧ (w / 2 ^ (s + 1) ≠ N ↔ m % 2 ^ (s + 1) ≠ 0) ∧
      (RoundsUp rm neg (w / 2 ^ (s + 1)) N ↔ restUp rm neg (2 ^ s) (m % 2 ^ (s + 1)) N) := by
  have div := Nat.div_add_mod m (2 ^ (s + 1))
  have lt : m % 2 ^ (s + 1) < 2 ^ (s + 1) := Nat.mod_lt _ (by positivity)
  rw [← hN] at div
  have double : 2 ^ (s + 1) = 2 * 2 ^ s := by ring
  -- the rest and the half of the divisor, where the number is cut
  have odd : m % 2 = 1 → 1 ≤ s → m % 2 ^ (s + 1) % 2 = 1 ∧ 2 ^ s % 2 = 0 := by
    intro o hs
    refine ⟨by rwa [Nat.mod_mod_of_dvd _ (dvd_pow_self 2 (by omega))], ?_⟩
    obtain ⟨k, rfl⟩ := Nat.exists_eq_add_of_le' hs
    rw [pow_succ, Nat.mul_mod_left]
  generalize m % 2 ^ (s + 1) = r at *
  have hp : (0 : ℝ) < 2 ^ s := by positivity
  have dr : (2 : ℝ) ^ (s + 1) = 2 * 2 ^ s := by ring
  have hm : (m : ℝ) = 2 * 2 ^ s * N + r := by
    rw [← div]
    push_cast
    ring
  have lr : (r : ℝ) + 1 ≤ 2 * 2 ^ s := by
    rw [double] at lt
    exact_mod_cast lt
  obtain ⟨ρ, hρ⟩ : ∃ ρ : ℝ, w = 2 * 2 ^ s * N + ρ := ⟨w - 2 * 2 ^ s * N, by ring⟩
  have x : w / 2 ^ (s + 1) = N + ρ / (2 * 2 ^ s) := by
    rw [hρ, dr]
    field_simp
  have key : 0 ≤ ρ ∧ ρ < 2 * 2 ^ s ∧ (ρ ≠ 0 ↔ r ≠ 0) ∧ ((2 : ℝ) ^ s < ρ ↔ 2 ^ s < r) ∧ (ρ = 2 ^ s ↔ r = 2 ^ s) := by
    rcases h with rfl | ⟨o, hs, low, high⟩
    · obtain rfl : ρ = r := by linarith
      exact ⟨Nat.cast_nonneg r, by linarith, by simp, by exact_mod_cast Iff.rfl, by exact_mod_cast Iff.rfl⟩
    · obtain ⟨ro, he⟩ := odd o hs
      have rpos : (1 : ℝ) ≤ r := by exact_mod_cast (by omega : 1 ≤ r)
      have l1 : (r : ℝ) - 1 < ρ := by linarith
      have l2 : ρ < (r : ℝ) + 1 := by linarith
      refine ⟨by linarith, by linarith, ⟨fun _ => by omega, fun _ => by linarith⟩, ⟨fun g => ?_, fun g => ?_⟩,
        ⟨fun g => ?_, fun g => by omega⟩⟩
      · have : 2 ^ s < r + 1 := by exact_mod_cast g.trans l2
        omega
      · have : (2 : ℝ) ^ s + 1 ≤ r := by exact_mod_cast g
        linarith
      · have a : 2 ^ s < r + 1 := by exact_mod_cast g ▸ l2
        have b : r < 2 ^ s + 1 := by exact_mod_cast (by linarith : (r : ℝ) < 2 ^ s + 1)
        omega
  obtain ⟨nonneg, less, zero, more, tie⟩ := key
  have hd : (0 : ℝ) < 2 * 2 ^ s := by positivity
  have ne : w / 2 ^ (s + 1) ≠ N ↔ r ≠ 0 := by
    rw [← zero, x]
    simp
  refine ⟨?_, ?_, ne, ?_⟩
  · rw [x]
    linarith [div_nonneg nonneg hd.le]
  · rw [x]
    linarith [(div_lt_one hd).2 less]
  · unfold RoundsUp restUp
    rw [ne, ← more, ← tie, x, add_sub_cancel_left, lt_div_iff₀ hd, div_eq_iff hd.ne']
    have half : (1 : ℝ) / 2 * (2 * 2 ^ s) = 2 ^ s := by ring
    rw [half]

/-- R42: what the model rounds to an integer is the number that is cut: `N` is its integer part. -/
theorem roundShift_stands {m rm : ℕ} {e q : ℤ} {v : ℝ} (neg : Bool) (hrm : rm < 4) (h : Stands m e v)
    (hq : v = m * (2 : ℝ) ^ e ∨ e + 2 ≤ q) :
    ∃ N : ℕ, (N : ℝ) ≤ v / (2 : ℝ) ^ q ∧ v / (2 : ℝ) ^ q < N + 1 ∧
      (roundShift m (q - e) neg rm).1 = rounded rm neg (v / (2 : ℝ) ^ q) N ∧
      ((roundShift m (q - e) neg rm).2 = true ↔ v / (2 : ℝ) ^ q ≠ N) := by
  rcases le_or_gt (q - e) 0 with hs | hs
  · have exact_ : v = m * (2 : ℝ) ^ e := hq.resolve_right (by omega)
    obtain ⟨k, hk⟩ : ∃ k : ℕ, -(q - e) = k := ⟨_, (Int.toNat_of_nonneg (by omega)).symm⟩
    have x : v / (2 : ℝ) ^ q = ((m * 2 ^ k : ℕ) : ℝ) := by
      have he : e = q + (k : ℤ) := by omega
      rw [exact_, he, zpow_add₀ (by norm_num), zpow_natCast]
      field_simp
      push_cast
      ring
    refine ⟨m * 2 ^ k, ?_⟩
    rw [x, rounded_self, roundShift, if_pos hs, hk, Int.toNat_natCast, Nat.shiftLeft_eq]
    exact ⟨le_rfl, lt_add_one _, rfl, by simp⟩
  · obtain ⟨s, hk⟩ : ∃ s : ℕ, q - e = (s : ℤ) + 1 := ⟨(q - e).toNat - 1, by omega⟩
    have p : (0 : ℝ) < (2 : ℝ) ^ e := by positivity
    have x : v / (2 : ℝ) ^ q = v / (2 : ℝ) ^ e / 2 ^ (s + 1) := by
      have he : q = e + ((s + 1 : ℕ) : ℤ) := by push_cast; omega
      rw [he, zpow_add₀ (by norm_num), zpow_natCast, div_div]
    have cut : v / (2 : ℝ) ^ e = m ∨ (m % 2 = 1 ∧ 1 ≤ s ∧ (m : ℝ) - 1 < v / (2 : ℝ) ^ e ∧ v / (2 : ℝ) ^ e < (m : ℝ) + 1) := by
      rcases h with rfl | ⟨o, -, low, high⟩
      · exact .inl (by field_simp)
      · rcases hq with rfl | hq
        · exact .inl (by field_simp)
        · exact .inr ⟨o, by omega, by rwa [lt_div_iff₀ p], by rwa [div_lt_iff₀ p]⟩
    obtain ⟨low, high, ne, up⟩ := restUp_iff (rm := rm) (neg := neg) rfl cut
    obtain ⟨inexact, goes, stays⟩ := roundShift_pos m s rm neg hrm
    rw [x, hk]
    refine ⟨m / 2 ^ (s + 1), low, high, ?_, by rw [inexact, ne, decide_eq_true_eq]⟩
    unfold rounded
    split
    · next yes => exact goes (up.1 yes)
    · next no => exact stays (fun r => no (up.2 r))

end Sys2Proof.Laws

/-! Rounding into an encoding (R42, R44, R46): the model's rounding of a number goes to one of the two codes about it. -/

namespace Sys2Proof.Laws

open Sys2Proof Sys2Proof.Machine

/-! ### The parts of a rounding -/

/-- The exponent of the leading bit of `m`·2^e. -/
def leadOf (m : ℕ) (e : ℤ) : ℤ := (bitLen m : ℤ) - 1 + e

/-- The exponent of the distance of an encoding's codes about a number with that leading bit. -/
def ulpExp (f : FloatFmt) (lead : ℤ) : ℤ := (if lead < 1 - f.bias then 1 - f.bias else lead) - f.fb

/-- The multiple of that distance that a rounding takes, and whether it is inexact. -/
def cutOf (f : FloatFmt) (r : Rounding) (neg : Bool) (m : ℕ) (e : ℤ) : ℕ × Bool :=
  let sh := ulpExp f (leadOf m e) - e
  match r.sr with
  | some (seed, idx) =>
    if sh ≤ 0 then roundShift m sh neg r.rm
    else
      let t := m >>> sh.toNat
      let rest := m - (t <<< sh.toNat)
      (if rest != 0 && (srHash seed idx).toNat < (rest <<< 32) >>> sh.toNat then t + 1 else t, rest != 0)
  | none => roundShift m sh neg r.rm

/-- R44: whether a rounding's result is tiny. -/
def tinyOf (f : FloatFmt) (r : Rounding) (neg : Bool) (m : ℕ) (e : ℤ) : Bool :=
  let lead := leadOf m e
  let cut := cutOf f r neg m e
  let carry : Bool := 2 ^ (f.fb + 1) ≤ cut.1
  lead < 1 - f.bias &&
    match r.sr with
    | some _ => (if carry then cut.1 / 2 else cut.1) < 2 ^ f.fb
    | none => lead + 1 < 1 - f.bias || (roundShift m (lead - f.fb - e) neg r.rm).1 < 2 ^ (f.fb + 1)

/-- R44, R46: what a rounding to a code delivers. -/
def deliver (f : FloatFmt) (sat : Bool) (rm : ℕ) (neg : Bool) (code : ℕ) (inexact tiny : Bool) : Rounded :=
  if f.maxCode < code then
    if sat || !f.ieee then ⟨f.signBit neg + f.maxCode, flagOf ||| flagNx, true⟩
    else
      ⟨f.signBit neg + (if rm == 0 || (rm == 2 && !neg) || (rm == 3 && neg) then (2 ^ f.eb - 1) * 2 ^ f.fb else f.maxCode),
        flagOf ||| flagNx, false⟩
  else ⟨f.signBit neg + code, flagIf inexact flagNx ||| flagIf (inexact && tiny) flagUf, false⟩

/-- A carry out of the fraction goes into the exponent. -/
theorem code_of_cut {f : FloatFmt} {q : ℤ} {N : ℕ} (h : OnGrid f q N) :
    (let big := if decide (2 ^ (f.fb + 1) ≤ N) = true then N / 2 else N
     let qq := if decide (2 ^ (f.fb + 1) ≤ N) = true then q + 1 else q
     if big < 2 ^ f.fb then big else (qq + f.fb + f.bias).toNat * 2 ^ f.fb + big % 2 ^ f.fb) = gridCode f q N := by
  obtain ⟨hq, hN, hlow⟩ := h
  have hp : 2 ^ (f.fb + 1) = 2 * 2 ^ f.fb := by ring
  obtain ⟨k, hk⟩ : ∃ k : ℕ, q + f.fb + f.bias - 1 = k := ⟨_, (Int.toNat_of_nonneg (by omega)).symm⟩
  have hkt : (q + f.fb + f.bias - 1).toNat = k := by omega
  have h1 : (q + f.fb + f.bias).toNat = k + 1 := by omega
  have h2 : (q + 1 + f.fb + f.bias).toNat = k + 2 := by omega
  simp only [gridCode, hkt, decide_eq_true_eq]
  by_cases carry : 2 ^ (f.fb + 1) ≤ N
  · obtain rfl : N = 2 * 2 ^ f.fb := by omega
    have half : 2 * 2 ^ f.fb / 2 = 2 ^ f.fb := by omega
    simp only [if_pos carry, half, h2, Nat.lt_irrefl, if_false, Nat.mod_self]
    ring
  · simp only [if_neg carry, h1]
    split
    · next small =>
      have : k = 0 := by omega
      simp [this]
    · next large =>
      obtain ⟨j, rfl⟩ := Nat.exists_eq_add_of_le (Nat.le_of_not_lt large)
      rw [Nat.add_mod_left, Nat.mod_eq_of_lt (by omega)]
      ring

theorem round_eq {f : FloatFmt} {m : ℕ} {e : ℤ} (sat : Bool) (r : Rounding) (neg : Bool) (hm : m ≠ 0)
    (h : OnGrid f (ulpExp f (leadOf m e)) (cutOf f r neg m e).1) :
    f.round sat r neg m e =
      deliver f sat r.rm neg (gridCode f (ulpExp f (leadOf m e)) (cutOf f r neg m e).1) (cutOf f r neg m e).2
        (tinyOf f r neg m e) := by
  have code := code_of_cut h
  have nz : (m == 0) = false := by simpa using hm
  rw [FloatFmt.round, nz, deliver, ← code]
  obtain ⟨rm, _ | ⟨seed, idx⟩⟩ := r
  · rfl
  · rfl

theorem round_zero (f : FloatFmt) (sat : Bool) (r : Rounding) (neg : Bool) (e : ℤ) :
    f.round sat r neg 0 e = ⟨f.signBit neg, 0, false⟩ := rfl

/-! ### The leading bit -/

theorem bitLen_pos {m : ℕ} (hm : m ≠ 0) : bitLen m = m.log2 + 1 := by
  simp [bitLen, hm]

theorem stands_ne_zero {m : ℕ} {e : ℤ} {v : ℝ} (h : Stands m e v) (hv : 0 < v) : m ≠ 0 := by
  rintro rfl
  rcases h with rfl | ⟨o, -⟩
  · simp at hv
  · omega

theorem leadOf_spec {m : ℕ} {e : ℤ} {v : ℝ} (h : Stands m e v) (hv : 0 < v) :
    (2 : ℝ) ^ leadOf m e ≤ v ∧ v < (2 : ℝ) ^ (leadOf m e + 1) := by
  have hm := stands_ne_zero h hv
  have p : (0 : ℝ) < (2 : ℝ) ^ e := by positivity
  have low := Nat.log2_self_le hm
  have high := Nat.lt_log2_self (n := m)
  have lead : leadOf m e = (m.log2 : ℤ) + e := by rw [leadOf, bitLen_pos hm]; push_cast; ring
  rw [lead, add_right_comm, zpow_add₀ (by norm_num), zpow_add₀ (by norm_num), zpow_natCast, ← Nat.cast_succ, zpow_natCast]
  rcases h with rfl | ⟨o, big, l, u⟩
  · exact ⟨mul_le_mul_of_nonneg_right (by exact_mod_cast low) p.le, mul_lt_mul_of_pos_right (by exact_mod_cast high) p⟩
  · have ne : m.log2 ≠ 0 := by
      intro z
      rw [z] at high
      omega
    obtain ⟨k, hk⟩ := Nat.exists_eq_succ_of_ne_zero ne
    have even : 2 ^ m.log2 % 2 = 0 := by rw [hk, pow_succ, Nat.mul_mod_left]
    have even' : 2 ^ (m.log2 + 1) % 2 = 0 := by rw [pow_succ, Nat.mul_mod_left]
    have l' : (2 : ℝ) ^ m.log2 ≤ (m : ℝ) - 1 := by
      have : 2 ^ m.log2 + 1 ≤ m := by omega
      have : ((2 ^ m.log2 + 1 : ℕ) : ℝ) ≤ m := by exact_mod_cast this
      push_cast at this
      linarith
    have u' : (m : ℝ) + 1 ≤ (2 : ℝ) ^ (m.log2 + 1) := by exact_mod_cast (by omega : m + 1 ≤ 2 ^ (m.log2 + 1))
    exact ⟨(mul_le_mul_of_nonneg_right l' p.le).trans l.le, u.trans_le (mul_le_mul_of_nonneg_right u' p.le)⟩

/-- What is cut is cut far below the distance of an encoding's codes. -/
theorem stands_fine {f : FloatFmt} (hf : Regular f) {m : ℕ} {e q : ℤ} {v : ℝ} (h : Stands m e v)
    (hq : leadOf m e - f.fb ≤ q) : v = m * (2 : ℝ) ^ e ∨ e + 2 ≤ q := by
  refine h.imp id fun ⟨_, big, _, _⟩ => ?_
  have hfb := hf.fb_le
  have hm : m ≠ 0 := by rintro rfl; omega
  have : 100 ≤ m.log2 := (Nat.le_log2 hm).2 big
  rw [leadOf, bitLen_pos hm] at hq
  omega

/-! ### The codes about a number -/

/-- R42: a number from code `c` up goes to the next code. -/
def CodeUp (f : FloatFmt) (rm : ℕ) (neg : Bool) (v : ℝ) (c : ℕ) : Prop :=
  let mid : ℝ := (codeNum f c + codeNum f (c + 1)) / 2
  (rm = 0 ∧ (mid < v ∨ (v = mid ∧ c % 2 = 1))) ∨ (Spec.roundsAway rm neg = true ∧ v ≠ codeNum f c)

/-- The code a number from code `c` up rounds to. -/
noncomputable def roundedCode (f : FloatFmt) (rm : ℕ) (neg : Bool) (v : ℝ) (c : ℕ) : ℕ :=
  open Classical in if CodeUp f rm neg v c then c + 1 else c

/-- R44: rounded with an exponent of any size, the number is below the smallest normal one. -/
def TinyNum (f : FloatFmt) (rm : ℕ) (neg : Bool) (v : ℝ) : Prop :=
  let least : ℝ := (2 : ℝ) ^ (1 - f.bias)
  let ulp : ℝ := (2 : ℝ) ^ (1 - f.bias - f.fb)
  v < least ∧
    (if rm = 0 then v < least - ulp / 4 else if Spec.roundsAway rm neg = true then v ≤ least - ulp / 2 else True)

theorem le_ulpExp (f : FloatFmt) (lead : ℤ) : 1 - f.bias - f.fb ≤ ulpExp f lead ∧ lead - f.fb ≤ ulpExp f lead := by
  unfold ulpExp
  split <;> omega

theorem ulpExp_cases (f : FloatFmt) (lead : ℤ) :
    (lead < 1 - f.bias ∧ ulpExp f lead = 1 - f.bias - f.fb) ∨ (1 - f.bias ≤ lead ∧ ulpExp f lead = lead - f.fb) := by
  unfold ulpExp
  split <;> omega

/-- A normal number's integer part has the leading bit of the significand. -/
theorem floor_normal {f : FloatFmt} {lead : ℤ} {v : ℝ} {N : ℕ} (hl : (2 : ℝ) ^ lead ≤ v)
    (high : v / (2 : ℝ) ^ ulpExp f lead < N + 1) (normal : 1 - f.bias ≤ lead) : 2 ^ f.fb ≤ N := by
  have p : (0 : ℝ) < (2 : ℝ) ^ ulpExp f lead := by positivity
  rw [div_lt_iff₀ p] at high
  have split : (2 : ℝ) ^ lead = 2 ^ f.fb * (2 : ℝ) ^ ulpExp f lead := by
    rw [← zpow_natCast, ← zpow_add₀ (by norm_num)]
    congr 1
    have := ulpExp_cases f lead
    omega
  rw [split] at hl
  have less : 2 ^ f.fb < N + 1 := by exact_mod_cast lt_of_mul_lt_mul_right (hl.trans_lt high) p.le
  omega

/-- A number's integer part on the grid of its leading bit, and the next integer. -/
theorem onGrid_floor {f : FloatFmt} {lead : ℤ} {v : ℝ} {N : ℕ} (hl : (2 : ℝ) ^ lead ≤ v) (hu : v < (2 : ℝ) ^ (lead + 1))
    (low : (N : ℝ) ≤ v / (2 : ℝ) ^ ulpExp f lead) (high : v / (2 : ℝ) ^ ulpExp f lead < N + 1) :
    OnGrid f (ulpExp f lead) N ∧ OnGrid f (ulpExp f lead) (N + 1) := by
  have p : (0 : ℝ) < (2 : ℝ) ^ ulpExp f lead := by positivity
  have bottom : ulpExp f lead = 1 - f.bias - f.fb ∨ 2 ^ f.fb ≤ N :=
    (ulpExp_cases f lead).imp And.right fun normal => floor_normal hl high normal.1
  rw [le_div_iff₀ p] at low
  have top : N < 2 ^ (f.fb + 1) := by
    have : lead + 1 ≤ ((f.fb + 1 : ℕ) : ℤ) + ulpExp f lead := by
      have := (le_ulpExp f lead).2
      push_cast
      omega
    have mono := zpow_le_zpow_right₀ (by norm_num : (1 : ℝ) ≤ 2) this
    rw [zpow_add₀ (by norm_num) ((f.fb + 1 : ℕ) : ℤ), zpow_natCast] at mono
    exact_mod_cast lt_of_mul_lt_mul_right ((low.trans_lt hu).trans_le mono) p.le
  exact ⟨⟨(le_ulpExp f lead).1, top.le, bottom⟩, ⟨(le_ulpExp f lead).1, top, bottom.imp id fun h => h.trans N.le_succ⟩⟩

theorem gridCode_succ (f : FloatFmt) (q : ℤ) (N : ℕ) : gridCode f q (N + 1) = gridCode f q N + 1 := rfl

theorem gridCode_parity {f : FloatFmt} (hf : Regular f) (q : ℤ) (N : ℕ) : gridCode f q N % 2 = N % 2 := by
  obtain ⟨k, hk⟩ := Nat.exists_eq_add_of_le' hf.fb_pos
  rw [gridCode, hk, pow_succ, ← Nat.mul_assoc, Nat.add_comm, Nat.add_mul_mod_self_right]

/-- R42: to round on the grid is to round among the codes. -/
theorem roundsUp_iff_codeUp {f : FloatFmt} (hf : Regular f) {q : ℤ} {N rm : ℕ} {neg : Bool} {v : ℝ} (h : OnGrid f q N)
    (h1 : OnGrid f q (N + 1)) : RoundsUp rm neg (v / (2 : ℝ) ^ q) N ↔ CodeUp f rm neg v (gridCode f q N) := by
  have p : (0 : ℝ) < (2 : ℝ) ^ q := by positivity
  have c0 : ((codeNum f (gridCode f q N) : ℚ) : ℝ) = N * (2 : ℝ) ^ q := by rw [codeNum_gridCode h]; push_cast; rfl
  have c1 : ((codeNum f (gridCode f q N + 1) : ℚ) : ℝ) = (N + 1) * (2 : ℝ) ^ q := by
    rw [← gridCode_succ, codeNum_gridCode h1]
    push_cast
    rfl
  have mid : (N * (2 : ℝ) ^ q + (N + 1) * (2 : ℝ) ^ q) / 2 = (1 / 2 + N) * (2 : ℝ) ^ q := by ring
  unfold RoundsUp CodeUp
  simp only [c0, c1, mid, gridCode_parity hf, ne_eq]
  rw [lt_sub_iff_add_lt, lt_div_iff₀ p, sub_eq_iff_eq_add, div_eq_iff p.ne', div_eq_iff p.ne']

theorem gridCode_rounded {f : FloatFmt} (hf : Regular f) {q : ℤ} {N rm : ℕ} {neg : Bool} {v : ℝ} (h : OnGrid f q N)
    (h1 : OnGrid f q (N + 1)) :
    gridCode f q (rounded rm neg (v / (2 : ℝ) ^ q) N) = roundedCode f rm neg v (gridCode f q N) := by
  have iff_ := roundsUp_iff_codeUp (rm := rm) (neg := neg) (v := v) hf h h1
  unfold rounded roundedCode
  by_cases up : CodeUp f rm neg v (gridCode f q N)
  · rw [if_pos up, if_pos (iff_.2 up), gridCode_succ]
  · rw [if_neg up, if_neg (fun r => up (iff_.1 r))]

/-! ### Tiny numbers (R44) -/

/-- A number of the binade below the smallest normal one, rounded with that binade's precision, reaches the smallest normal
one or not. -/
theorem rounded_lt_iff {rm N b : ℕ} {neg : Bool} {x : ℝ} (hb : 1 ≤ b) (low : (N : ℝ) ≤ x) (high : x < N + 1)
    (top : x < 2 ^ b) :
    rounded rm neg x N < 2 ^ b ↔
      if rm = 0 then x < 2 ^ b - 1 / 2 else if Spec.roundsAway rm neg = true then x ≤ 2 ^ b - 1 else True := by
  have hN : N + 1 ≤ 2 ^ b := by exact_mod_cast low.trans_lt top
  obtain ⟨k, hk⟩ := Nat.exists_eq_add_of_le' hb
  have even : 2 ^ b % 2 = 0 := by rw [hk, pow_succ, Nat.mul_mod_left]
  have last : N + 1 = 2 ^ b ∨ (N : ℝ) + 1 + 1 ≤ 2 ^ b := by
    rcases Nat.lt_or_ge (N + 1) (2 ^ b) with lt | ge
    · exact .inr (by exact_mod_cast lt)
    · exact .inl (by omega)
  have away0 : Spec.roundsAway 0 neg = false := by cases neg <;> rfl
  unfold rounded RoundsUp
  rcases last with last | less
  · have top' : (2 : ℝ) ^ b = N + 1 := by exact_mod_cast last.symm
    have odd : N % 2 = 1 := by omega
    rw [top']
    by_cases h0 : rm = 0
    · subst h0
      simp only [true_and, odd, and_true, away0, Bool.false_eq_true, false_and, or_false, if_true]
      split
      · next up => exact ⟨fun h => by omega, fun h => by rcases up with up | up <;> linarith⟩
      · next up =>
        rw [not_or, not_lt] at up
        exact ⟨fun _ => by linarith [lt_of_le_of_ne up.1 up.2], fun _ => by omega⟩
    · simp only [h0, false_and, false_or, if_false]
      by_cases ha : Spec.roundsAway rm neg = true
      · simp only [ha, true_and, if_true]
        split
        · next up => exact ⟨fun h => by omega, fun h => absurd (le_antisymm (by linarith) low) up⟩
        · next up => exact ⟨fun _ => by rw [not_not.1 up]; linarith, fun _ => by omega⟩
      · simp only [ha, false_and, if_false, iff_true, Bool.false_eq_true]
        omega
  · have lt : N + 2 ≤ 2 ^ b := by exact_mod_cast (by linarith : (N : ℝ) + 2 ≤ 2 ^ b)
    refine iff_of_true (by split <;> omega) ?_
    split
    · linarith
    · split
      · linarith
      · trivial

theorem tinyOf_iff {f : FloatFmt} (hf : Regular f) {m rm : ℕ} {e : ℤ} {v : ℝ} (neg : Bool) (hrm : rm < 4)
    (h : Stands m e v) (hv : 0 < v) : tinyOf f ⟨rm, none⟩ neg m e = true ↔ TinyNum f rm neg v := by
  obtain ⟨hl, hu⟩ := leadOf_spec h hv
  have fbp := hf.fb_pos
  simp only [tinyOf, Bool.and_eq_true, decide_eq_true_eq, Bool.or_eq_true]
  generalize hL : leadOf m e = lead at *
  unfold TinyNum
  dsimp only
  by_cases low : lead < 1 - f.bias
  · -- the smallest normal number is 2^(fb + 1) half steps
    obtain ⟨u, hu0, least, ulp⟩ : ∃ u : ℝ, 0 < u ∧ (2 : ℝ) ^ (1 - f.bias) = 2 ^ (f.fb + 1) * u ∧
        (2 : ℝ) ^ (1 - f.bias - f.fb) = 2 * u := by
      refine ⟨(2 : ℝ) ^ (1 - f.bias - f.fb - 1), by positivity, ?_, ?_⟩
      · rw [← zpow_natCast, ← zpow_add₀ (by norm_num)]
        congr 1
        push_cast
        ring
      · rw [← zpow_one_add₀ (by norm_num)]
        congr 1
        ring
    by_cases far : lead + 1 < 1 - f.bias
    · have half : v < (2 : ℝ) ^ (1 - f.bias - 1) :=
        hu.trans_le (zpow_le_zpow_right₀ (by norm_num) (by omega))
      rw [zpow_sub_one₀ (by norm_num), least] at half
      have b : (2 : ℝ) * 2 ≤ 2 ^ (f.fb + 1) := by
        calc (2 : ℝ) * 2 = 2 ^ 2 := by norm_num
          _ ≤ 2 ^ (f.fb + 1) := pow_le_pow_right₀ (by norm_num) (by omega)
      have b' := mul_le_mul_of_nonneg_right b hu0.le
      rw [least, ulp]
      refine iff_of_true ⟨low, .inl far⟩ ⟨by linarith, ?_⟩
      split
      · linarith
      · split
        · linarith
        · trivial
    · have near : lead + 1 = 1 - f.bias := by omega
      obtain ⟨N, nl, nh, val, -⟩ := roundShift_stands (q := lead - f.fb) neg hrm h (stands_fine hf h (by omega))
      have hq : (2 : ℝ) ^ (lead - f.fb) = u := by
        have e2 : (2 : ℝ) * (2 : ℝ) ^ (lead - f.fb) = 2 * u := by
          rw [← ulp, ← zpow_one_add₀ (by norm_num)]
          congr 1
          omega
        linarith
      rw [hq] at nl nh val
      have vl : v < 2 ^ (f.fb + 1) * u := by rwa [near, least] at hu
      have iff_ := rounded_lt_iff (rm := rm) (neg := neg) (b := f.fb + 1) (by omega) nl nh (by rwa [div_lt_iff₀ hu0])
      have c0 : v / u < 2 ^ (f.fb + 1) - 1 / 2 ↔ v < 2 ^ (f.fb + 1) * u - 2 * u / 4 := by
        rw [div_lt_iff₀ hu0]
        constructor <;> intro g <;> linarith
      have c1 : v / u ≤ 2 ^ (f.fb + 1) - 1 ↔ v ≤ 2 ^ (f.fb + 1) * u - 2 * u / 2 := by
        rw [div_le_iff₀ hu0]
        constructor <;> intro g <;> linarith
      rw [val, iff_, c0, c1, least, ulp]
      simp [low, far, vl]
  · have : ¬ v < (2 : ℝ) ^ (1 - f.bias) :=
      not_lt.2 ((zpow_le_zpow_right₀ (by norm_num) (by omega)).trans hl)
    simp [low, this]

/-! ### The rounding -/

/-- R42, R44, R46: the model's rounding of a number goes to the code that its direction asks for. -/
theorem round_stands {f : FloatFmt} (hf : Regular f) {m rm : ℕ} {e : ℤ} {v : ℝ} (sat neg : Bool) (hrm : rm < 4)
    (h : Stands m e v) (hv : 0 < v) :
    ∃ (c : ℕ) (inexact tiny : Bool), (codeNum f c : ℝ) ≤ v ∧ v < codeNum f (c + 1) ∧
      (inexact = true ↔ v ≠ codeNum f c) ∧ (tiny = true ↔ TinyNum f rm neg v) ∧
      f.round sat ⟨rm, none⟩ neg m e = deliver f sat rm neg (roundedCode f rm neg v c) inexact tiny := by
  obtain ⟨hl, hu⟩ := leadOf_spec h hv
  obtain ⟨N, low, high, cut, inexact⟩ := roundShift_stands neg hrm h (stands_fine hf h (le_ulpExp f (leadOf m e)).2)
  obtain ⟨g0, g1⟩ := onGrid_floor hl hu low high
  have p : (0 : ℝ) < (2 : ℝ) ^ ulpExp f (leadOf m e) := by positivity
  have c0 := codeNum_gridCode g0
  have c1 := codeNum_gridCode g1
  have grid : OnGrid f (ulpExp f (leadOf m e)) (cutOf f ⟨rm, none⟩ neg m e).1 := by
    show OnGrid f _ (roundShift m _ neg rm).1
    rw [cut]
    unfold rounded
    split
    · exact g1
    · exact g0
  refine ⟨gridCode f (ulpExp f (leadOf m e)) N, (cutOf f ⟨rm, none⟩ neg m e).2, tinyOf f ⟨rm, none⟩ neg m e, ?_, ?_, ?_,
    tinyOf_iff hf neg hrm h hv, ?_⟩
  · rw [c0]
    push_cast
    rwa [← le_div_iff₀ p]
  · rw [← gridCode_succ, c1]
    push_cast
    rwa [← div_lt_iff₀ p]
  · rw [c0]
    push_cast
    rw [ne_eq, ← div_eq_iff p.ne']
    exact inexact
  · rw [round_eq sat ⟨rm, none⟩ neg (stands_ne_zero h hv) grid, ← gridCode_rounded hf g0 g1, ← cut]
    rfl

end Sys2Proof.Laws

/-! The model's rounding against the statement of IEEE 754-2019's (R37, R42, R44, R46). -/

namespace Sys2Proof.Laws

open Sys2Proof Sys2Proof.Machine

/-! ### What a rounding delivers, in a register -/

theorem fp_deliver {ty : ℕ} (h : FloatTy ty) (sat : Bool) (rm : ℕ) (neg : Bool) (code : ℕ) (inexact tiny : Bool)
    (hsat : sat = true ∨ ty ≠ 0xC) :
    (deliver (floatFmt ty) sat rm neg code inexact tiny).fp ty =
      if Spec.fpMax ty < code then
        ⟨Spec.fpSigned ty neg
          (if sat = true ∨ ¬ (rm = 0 ∨ Spec.roundsAway rm neg = true) then Spec.fpMax ty else Spec.fpInfCode ty), 0x05⟩
      else ⟨Spec.fpSigned ty neg code, if inexact then (if tiny then 0x03 else 0x01) else 0⟩ := by
  have away : (rm == 0 || (rm == 2 && !neg) || (rm == 3 && neg)) = true ↔ rm = 0 ∨ Spec.roundsAway rm neg = true := by
    simp [Spec.roundsAway, or_assoc]
  rw [fpMax_eq h, deliver]
  split
  · by_cases hs : sat = true
    · have top := fpMax_eq h ▸ fpMax_lt h
      simp only [hs, Bool.true_or, if_true, true_or, Rounded.fp]
      rw [extendTo64_signed h neg top]
      rfl
    · have ieee := (ieee_iff h).2 (hsat.resolve_left hs)
      rw [if_neg (by simp [hs, ieee])]
      simp only [hs, false_or, Rounded.fp, Bool.false_eq_true]
      rw [if_congr away rfl rfl, ite_not, ← fpInfCode_eq h]
      split
      · rw [extendTo64_signed h neg (fpInfCode_lt h)]
        rfl
      · rw [extendTo64_signed h neg (fpMax_eq h ▸ fpMax_lt h)]
        rfl
  · next le =>
    have lt : code < 2 ^ Spec.fpTop ty := (Nat.le_of_not_lt le).trans_lt (fpMax_eq h ▸ fpMax_lt h)
    rw [Rounded.fp, extendTo64_signed h neg lt]
    cases inexact <;> cases tiny <;> rfl

/-! ### The codes about a number, in real numbers -/

theorem codeNum_lt (f : FloatFmt) {a b : ℕ} : (codeNum f a : ℝ) < codeNum f b ↔ a < b := by
  rw [Rat.cast_lt, (codeNum_strictMono f).lt_iff_lt]

theorem codeNum_le (f : FloatFmt) {a b : ℕ} : (codeNum f a : ℝ) ≤ codeNum f b ↔ a ≤ b := by
  rw [Rat.cast_le, (codeNum_strictMono f).le_iff_le]

theorem codeNum_inj (f : FloatFmt) {a b : ℕ} : (codeNum f a : ℝ) = codeNum f b ↔ a = b := by
  rw [Rat.cast_inj, (codeNum_strictMono f).injective.eq_iff]

theorem roundsAway_zero (neg : Bool) : Spec.roundsAway 0 neg = false := by cases neg <;> rfl

theorem roundedCode_exact {f : FloatFmt} {v : ℝ} {c : ℕ} (rm : ℕ) (neg : Bool) (h : v = codeNum f c) :
    roundedCode f rm neg v c = c := by
  have lt := (codeNum_lt f).2 (Nat.lt_succ_self c)
  rw [roundedCode, if_neg]
  rintro (⟨-, up | ⟨up, -⟩⟩ | ⟨-, up⟩)
  · linarith
  · linarith
  · exact up h

theorem roundedCode_toward {rm : ℕ} {neg : Bool} (f : FloatFmt) (v : ℝ) (c : ℕ) (h0 : rm ≠ 0)
    (ha : ¬ Spec.roundsAway rm neg = true) :
    roundedCode f rm neg v c = c := by
  rw [roundedCode, if_neg]
  rintro (⟨h, -⟩ | ⟨h, -⟩)
  · exact h0 h
  · exact ha h

/-- A rounding is exact where the number is a code's. -/
theorem codeNum_roundedCode {f : FloatFmt} {v : ℝ} {c : ℕ} (high : v < codeNum f (c + 1)) (rm : ℕ) (neg : Bool) :
    (codeNum f (roundedCode f rm neg v c) : ℝ) = v ↔ v = codeNum f c := by
  refine ⟨fun h => ?_, fun h => by rw [roundedCode_exact rm neg h, h]⟩
  rw [roundedCode] at h
  split at h
  · exact absurd h high.ne'
  · exact h.symm

section
variable {f : FloatFmt} {v : ℝ} {c : ℕ} (low : (codeNum f c : ℝ) ≤ v) (high : v < codeNum f (c + 1))
include low high

/-- Only one code is the last that is not above a number. -/
theorem code_le_iff (k : ℕ) : (codeNum f k : ℝ) ≤ v ↔ k ≤ c := by
  refine ⟨fun h => ?_, fun h => ((codeNum_le f).2 h).trans low⟩
  have := (codeNum_lt f).1 (h.trans_lt high)
  omega

theorem lt_code_iff (k : ℕ) : v < codeNum f k ↔ c < k := by
  rw [← not_le, code_le_iff low high, not_le]

/-- R42: the code nearest a number, the even one of two. -/
theorem roundedCode_nearest (neg : Bool) (k : ℕ) :
    |v - codeNum f (roundedCode f 0 neg v c)| ≤ |v - codeNum f k| ∧
      (|v - codeNum f (roundedCode f 0 neg v c)| = |v - codeNum f k| →
        k = roundedCode f 0 neg v c ∨ roundedCode f 0 neg v c % 2 = 0) := by
  -- a code below is no nearer than `c`, and one above no nearer than `c + 1`
  have far : (k = c ∨ k = c + 1) ∨ (k < c ∧ (codeNum f k : ℝ) < codeNum f c) ∨ (c + 1 < k ∧ (codeNum f (c + 1) : ℝ) < codeNum f k) := by
    rcases Nat.lt_trichotomy k c with h | h | h
    · exact .inr (.inl ⟨h, (codeNum_lt f).2 h⟩)
    · exact .inl (.inl h)
    · rcases Nat.eq_or_lt_of_le h with h | h
      · exact .inl (.inr h.symm)
      · exact .inr (.inr ⟨h, (codeNum_lt f).2 h⟩)
  have d0 : |v - codeNum f c| = v - codeNum f c := abs_of_nonneg (by linarith)
  have d1 : |v - codeNum f (c + 1)| = codeNum f (c + 1) - v := by rw [abs_sub_comm, abs_of_nonneg (by linarith)]
  rw [roundedCode]
  split
  · next up =>
    have half : ((codeNum f c : ℝ) + codeNum f (c + 1)) / 2 ≤ v := by
      rcases up with ⟨-, up | ⟨up, -⟩⟩ | ⟨up, -⟩
      · exact up.le
      · exact up.ge
      · simp [roundsAway_zero] at up
    have even : v ≠ ((codeNum f c : ℝ) + codeNum f (c + 1)) / 2 ∨ (c + 1) % 2 = 0 := by
      rcases up with ⟨-, up | ⟨-, odd⟩⟩ | ⟨up, -⟩
      · exact .inl up.ne'
      · exact .inr (by omega)
      · simp [roundsAway_zero] at up
    rw [d1]
    rcases far with (rfl | rfl) | ⟨lt, num⟩ | ⟨lt, num⟩
    · rw [d0]
      exact ⟨by linarith, fun e => .inr (even.resolve_left fun ne => ne (by linarith))⟩
    · exact ⟨d1.ge, fun _ => .inl rfl⟩
    · rw [abs_of_nonneg (by linarith)]
      exact ⟨by linarith, fun e => absurd e (by linarith)⟩
    · rw [abs_sub_comm, abs_of_nonneg (by linarith)]
      exact ⟨by linarith, fun e => absurd e (by linarith)⟩
  · next stay =>
    have half : v ≤ ((codeNum f c : ℝ) + codeNum f (c + 1)) / 2 := not_lt.1 fun up => stay (.inl ⟨rfl, .inl up⟩)
    have even : v ≠ ((codeNum f c : ℝ) + codeNum f (c + 1)) / 2 ∨ c % 2 = 0 := by
      by_cases e : v = ((codeNum f c : ℝ) + codeNum f (c + 1)) / 2
      · refine .inr (by_contra fun odd => stay (.inl ⟨rfl, .inr ⟨e, by omega⟩⟩))
      · exact .inl e
    rw [d0]
    rcases far with (rfl | rfl) | ⟨lt, num⟩ | ⟨lt, num⟩
    · exact ⟨d0.ge, fun _ => .inl rfl⟩
    · rw [d1]
      exact ⟨by linarith, fun e => .inr (even.resolve_left fun ne => ne (by linarith))⟩
    · rw [abs_of_nonneg (by linarith)]
      exact ⟨by linarith, fun e => absurd e (by linarith)⟩
    · rw [abs_sub_comm, abs_of_nonneg (by linarith)]
      exact ⟨by linarith, fun e => absurd e (by linarith)⟩

theorem roundedCode_away {rm : ℕ} {neg : Bool} (ha : Spec.roundsAway rm neg = true) :
    v ≤ codeNum f (roundedCode f rm neg v c) ∧
      ∀ k, v ≤ codeNum f k → (codeNum f (roundedCode f rm neg v c) : ℝ) ≤ codeNum f k := by
  by_cases e : v = codeNum f c
  · rw [roundedCode_exact rm neg e, ← e]
    exact ⟨le_rfl, fun k h => h⟩
  · have up : CodeUp f rm neg v c := .inr ⟨ha, e⟩
    rw [roundedCode, if_pos up]
    refine ⟨high.le, fun k h => (codeNum_le f).2 ((codeNum_lt f).1 ((lt_of_le_of_ne low (Ne.symm e)).trans_le h))⟩

end

/-! ### Overflow and tiny numbers -/

theorem max_step {f : FloatFmt} (hf : Regular f) :
    (codeNum f f.maxCode : ℝ) - codeNum f (f.maxCode - 1) = codeNum f (f.maxCode + 1) - codeNum f f.maxCode := by
  have odd := hf.max_odd
  have pos : 0 < 2 ^ f.fb := by positivity
  have ge : 1 ≤ f.maxCode := Nat.one_le_iff_ne_zero.2 fun h => by rw [h, Nat.zero_mod] at odd; omega
  have same : (f.maxCode - 1) / 2 ^ f.fb = f.maxCode / 2 ^ f.fb := by
    have div := Nat.div_add_mod f.maxCode (2 ^ f.fb)
    have lt := Nat.mod_lt f.maxCode pos
    rw [Nat.mul_comm] at div
    rw [Nat.div_eq_iff pos]
    omega
  have up := codeNum_succ f f.maxCode
  have down := codeNum_succ f (f.maxCode - 1)
  rw [Nat.sub_add_cancel ge, stepExp, same, ← stepExp] at down
  rw [up]
  nth_rewrite 1 [down]
  push_cast
  ring

theorem overflows_iff {ty : ℕ} (h : FloatTy ty) {rm c : ℕ} {neg : Bool} {v : ℝ}
    (low : (codeNum (floatFmt ty) c : ℝ) ≤ |v|) (high : |v| < codeNum (floatFmt ty) (c + 1)) :
    Spec.Overflows ty rm neg v ↔ Spec.fpMax ty < roundedCode (floatFmt ty) rm neg |v| c := by
  have step := max_step (regular_floatFmt h)
  have grows := (codeNum_lt (floatFmt ty)).2 (Nat.lt_succ_self (floatFmt ty).maxCode)
  unfold Spec.Overflows
  dsimp only
  rw [fpMax_eq h, fpMag_eq h, fpMag_eq h, step]
  generalize floatFmt ty = f at *
  rcases Nat.lt_trichotomy c f.maxCode with lt | rfl | gt
  · have below : |v| < codeNum f f.maxCode := high.trans_le ((codeNum_le f).2 lt)
    refine iff_of_false ?_ ?_
    · split
      · rintro (g | ⟨g, -⟩) <;> linarith
      · split <;> intro g <;> linarith
    · unfold roundedCode
      split <;> omega
  · have next : f.maxCode < roundedCode f rm neg |v| f.maxCode ↔ CodeUp f rm neg |v| f.maxCode := by
      unfold roundedCode
      split <;> simp_all
    have mid : (codeNum f f.maxCode : ℝ) + (codeNum f (f.maxCode + 1) - codeNum f f.maxCode) / 2 =
        (codeNum f f.maxCode + codeNum f (f.maxCode + 1)) / 2 := by ring
    rw [next, CodeUp, mid]
    by_cases h0 : rm = 0
    · simp [h0, roundsAway_zero]
    · by_cases ha : Spec.roundsAway rm neg = true
      · simp only [h0, ha, if_true, if_false, false_and, false_or, true_and]
        exact ⟨fun g => g.ne', fun g => lt_of_le_of_ne low (Ne.symm g)⟩
      · simp only [h0, ha, if_false, false_and, Bool.false_eq_true]
        constructor
        · intro g
          linarith
        · tauto
  · have above := ((codeNum_le f).2 gt).trans low
    refine iff_of_true ?_ ?_
    · split
      · exact .inl (by rw [Nat.succ_eq_add_one] at above; linarith)
      · split
        · rw [Nat.succ_eq_add_one] at above
          linarith
        · rw [Nat.succ_eq_add_one] at above
          linarith
    · unfold roundedCode
      split <;> omega

/-- The distance of the subnormal numbers, and the smallest normal one. -/
theorem codeNum_least (f : FloatFmt) :
    codeNum f 1 = (2 : ℚ) ^ (1 - f.bias - f.fb) ∧ codeNum f (2 ^ f.fb) = (2 : ℚ) ^ (1 - f.bias) := by
  have code (N : ℕ) : gridCode f (1 - f.bias - f.fb) N = N := by
    have : (1 - f.bias - f.fb + f.fb + f.bias - 1).toNat = 0 := by omega
    rw [gridCode, this, Nat.zero_mul, Nat.zero_add]
  have one := codeNum_gridCode (f := f) (q := 1 - f.bias - f.fb) (N := 1) ⟨le_rfl, Nat.one_le_two_pow, .inl rfl⟩
  have least := codeNum_gridCode (f := f) (q := 1 - f.bias - f.fb) (N := 2 ^ f.fb)
    ⟨le_rfl, Nat.pow_le_pow_right (by norm_num) (Nat.le_succ _), .inl rfl⟩
  rw [code] at one least
  refine ⟨by simpa using one, least.trans ?_⟩
  rw [Nat.cast_pow, Nat.cast_ofNat, ← zpow_natCast, ← zpow_add₀ (by norm_num)]
  congr 1
  ring

theorem tiny_iff {ty : ℕ} (h : FloatTy ty) (rm : ℕ) (neg : Bool) (v : ℝ) :
    Spec.Tiny ty rm neg v ↔ TinyNum (floatFmt ty) rm neg |v| := by
  obtain ⟨one, least⟩ := codeNum_least (floatFmt ty)
  unfold Spec.Tiny TinyNum
  rw [fpMag_eq h, fpMag_eq h, (fpShape_eq h).2.1, one, least]
  push_cast
  rfl

/-! ### Signs -/

theorem signed_abs {v : ℝ} {neg : Bool} (hneg : neg = true ↔ v < 0) : signed neg |v| = v := by
  rw [signed]
  split
  · next yes => rw [abs_of_neg (hneg.1 yes), neg_neg]
  · next no => rw [abs_of_nonneg (not_lt.1 fun l => no (hneg.2 l))]

theorem abs_signed (neg : Bool) (v : ℝ) : |signed neg v| = |v| := by
  cases neg <;> simp [signed]

theorem cast_signed (neg : Bool) (v : ℚ) : ((signed neg v : ℚ) : ℝ) = signed neg (v : ℝ) := by
  cases neg <;> simp [signed]

theorem signed_sub (neg : Bool) (a b : ℝ) : signed neg a - signed neg b = signed neg (a - b) := by
  cases neg
  · rfl
  · simp only [signed, if_true]
    ring

theorem abs_codeNum (f : FloatFmt) (c : ℕ) : |(codeNum f c : ℝ)| = codeNum f c :=
  abs_of_nonneg (by exact_mod_cast codeNum_nonneg f c)

theorem abs_fpNum {ty : ℕ} (h : FloatTy ty) (x : W64) :
    |(Spec.fpNum ty x : ℝ)| = codeNum (floatFmt ty) (Spec.fpCode ty x) := by
  rw [fpNum_eq h, cast_signed, abs_signed, abs_codeNum]

/-- A finite number of either sign is no nearer than the one of the same code and the same sign. -/
theorem abs_sub_fpNum {ty : ℕ} (h : FloatTy ty) (neg : Bool) {a : ℝ} (ha : 0 < a) (y : W64) :
    |a - codeNum (floatFmt ty) (Spec.fpCode ty y)| ≤ |signed neg a - Spec.fpNum ty y| ∧
      (|a - codeNum (floatFmt ty) (Spec.fpCode ty y)| = |signed neg a - Spec.fpNum ty y| →
        (Spec.fpNum ty y : ℝ) = signed neg (codeNum (floatFmt ty) (Spec.fpCode ty y) : ℝ)) := by
  have nn : (0 : ℝ) ≤ codeNum (floatFmt ty) (Spec.fpCode ty y) := by exact_mod_cast codeNum_nonneg _ _
  rw [fpNum_eq h, cast_signed]
  generalize (codeNum (floatFmt ty) (Spec.fpCode ty y) : ℝ) = b at *
  by_cases same : Spec.fpNeg ty y = neg
  · rw [same, signed_sub, abs_signed]
    exact ⟨le_rfl, fun _ => rfl⟩
  · have other : |signed neg a - signed (Spec.fpNeg ty y) b| = a + b := by
      have : signed (Spec.fpNeg ty y) b = - signed neg b := by
        revert same
        cases neg <;> cases Spec.fpNeg ty y <;> simp [signed]
      rw [this, sub_neg_eq_add]
      cases neg
      · exact abs_of_nonneg (by simp only [signed, Bool.false_eq_true, if_false]; linarith)
      · rw [signed, signed, if_pos rfl, if_pos rfl, ← neg_add, abs_neg, abs_of_nonneg (by linarith)]
    rw [other]
    refine ⟨abs_sub_le_iff.2 ⟨by linarith, by linarith⟩, fun e => ?_⟩
    have zero : b = 0 := by
      rcases abs_cases (a - b) with ⟨g, -⟩ | ⟨g, -⟩ <;> linarith
    rw [zero]
    simp [signed]

/-! ### The rounding stated -/

/-- `b` lies no nearer to zero's far side than `a`: above it, or below it where the sign is negative. -/
def Outward (neg : Bool) (a b : ℝ) : Prop := if neg = true then b ≤ a else a ≤ b

theorem outward_signed {neg : Bool} {a b : ℝ} : Outward neg (signed neg a) (signed neg b) ↔ a ≤ b := by
  cases neg <;> simp [Outward, signed]

theorem outward_other {neg : Bool} {a b : ℝ} (ha : 0 ≤ a) (hb : 0 ≤ b) : Outward neg (signed (!neg) a) (signed neg b) := by
  cases neg <;> simp [Outward, signed] <;> linarith

theorem not_outward_other {neg : Bool} {a b : ℝ} (ha : 0 < a) (hb : 0 ≤ b) :
    ¬ Outward neg (signed neg a) (signed (!neg) b) := by
  cases neg <;> simp [Outward, signed] <;> linarith

section
variable {ty : ℕ} (h : FloatTy ty) {rm c : ℕ} {neg : Bool} {a : ℝ} (low : (codeNum (floatFmt ty) c : ℝ) ≤ a)
  (high : a < codeNum (floatFmt ty) (c + 1))
include h low high

/-- R42: a rounding away from zero gives the bound on the outer side. -/
theorem outward_away (ha : 0 < a) (away : Spec.roundsAway rm neg = true) (y : W64)
    (hy : Outward neg (signed neg a) (Spec.fpNum ty y)) :
    Outward neg (signed neg (codeNum (floatFmt ty) (roundedCode (floatFmt ty) rm neg a c) : ℝ)) (Spec.fpNum ty y) := by
  have nn : (0 : ℝ) ≤ codeNum (floatFmt ty) (Spec.fpCode ty y) := by exact_mod_cast codeNum_nonneg _ _
  rw [fpNum_eq h, cast_signed] at hy ⊢
  rcases Bool.eq_or_eq_not (Spec.fpNeg ty y) neg with same | other
  · rw [same, outward_signed] at hy ⊢
    exact (roundedCode_away low high away).2 _ hy
  · rw [other] at hy
    exact absurd hy (not_outward_other ha nn)

/-- R42: a rounding toward zero gives the bound on the inner side. -/
theorem outward_toward (y : W64) (hy : Outward neg (Spec.fpNum ty y) (signed neg a)) :
    Outward neg (Spec.fpNum ty y) (signed neg (codeNum (floatFmt ty) c : ℝ)) := by
  have nn : (0 : ℝ) ≤ codeNum (floatFmt ty) (Spec.fpCode ty y) := by exact_mod_cast codeNum_nonneg _ _
  have nc : (0 : ℝ) ≤ codeNum (floatFmt ty) c := by exact_mod_cast codeNum_nonneg _ _
  rw [fpNum_eq h, cast_signed] at hy ⊢
  rcases Bool.eq_or_eq_not (Spec.fpNeg ty y) neg with same | other
  · rw [same, outward_signed] at hy ⊢
    exact (codeNum_le _).2 ((code_le_iff low high _).1 hy)
  · rw [other]
    exact outward_other nn nc

/-- R42: a rounding to nearest is nearest among the numbers of both signs. -/
theorem nearest_even (ha : 0 < a) (y : W64) :
    let r : ℝ := signed neg (codeNum (floatFmt ty) (roundedCode (floatFmt ty) 0 neg a c) : ℝ)
    |signed neg a - r| ≤ |signed neg a - Spec.fpNum ty y| ∧
      (|signed neg a - r| = |signed neg a - Spec.fpNum ty y| →
        (Spec.fpNum ty y : ℝ) = r ∨ roundedCode (floatFmt ty) 0 neg a c % 2 = 0) := by
  obtain ⟨far, tie⟩ := abs_sub_fpNum h neg ha y
  obtain ⟨best, even⟩ := roundedCode_nearest low high neg (Spec.fpCode ty y)
  dsimp only
  rw [signed_sub, abs_signed]
  refine ⟨best.trans far, fun e => ?_⟩
  refine (even (le_antisymm best (far.trans e.ge))).imp_left fun same => ?_
  rw [← same]
  exact tie (le_antisymm far (e ▸ best))

end

/-- R42: the code that the direction asks for is nearest in that direction. -/
theorem nearest_roundedCode {ty : ℕ} (h : FloatTy ty) {rm c : ℕ} (hrm : rm < 4) {neg : Bool} {v : ℝ} (hv : v ≠ 0)
    (hneg : neg = true ↔ v < 0) (low : (codeNum (floatFmt ty) c : ℝ) ≤ |v|)
    (high : |v| < codeNum (floatFmt ty) (c + 1)) (fin : roundedCode (floatFmt ty) rm neg |v| c ≤ Spec.fpMax ty) :
    Spec.Nearest ty rm v (Spec.fpSigned ty neg (roundedCode (floatFmt ty) rm neg |v| c)) := by
  have pos : 0 < |v| := abs_pos.2 hv
  have even := nearest_even (neg := neg) h low high pos
  have away := outward_away (rm := rm) (neg := neg) h low high pos
  have up := fun away => (roundedCode_away (rm := rm) (neg := neg) low high away).1
  have inner := outward_toward (neg := neg) h low high
  have toward := roundedCode_toward (rm := rm) (neg := neg) (floatFmt ty) |v| c
  have lt := fin.trans_lt (fpMax_lt h)
  have num := fpNum_fpSigned h neg lt
  have sv := signed_abs hneg
  simp only [sv] at even away inner
  unfold Spec.Nearest
  dsimp only
  rw [fpFin_iff, fpNeg_fpSigned h neg lt, fpCode_fpSigned h neg lt, num, cast_signed]
  refine ⟨fin, rfl, hneg, ?_⟩
  have outer (r : ℝ) (hr : |v| ≤ r) : Outward neg v (signed neg r) := by
    rwa [← sv, outward_signed]
  have within : Outward neg (signed neg (codeNum (floatFmt ty) c : ℝ)) v := by
    rwa [← sv, outward_signed]
  interval_cases rm
  · exact fun y _ => even y
  · rw [toward (by norm_num) (by simp [Spec.roundsAway]), abs_signed, abs_codeNum]
    refine ⟨low, fun y _ hy => ?_⟩
    rw [abs_fpNum h] at hy ⊢
    exact (codeNum_le _).2 ((code_le_iff low high _).1 hy)
  · cases neg
    · exact ⟨outer _ (up rfl), fun y _ hy => away rfl y hy⟩
    · rw [toward (by norm_num) (by simp [Spec.roundsAway])]
      exact ⟨within, fun y _ hy => inner y hy⟩
  · cases neg
    · rw [toward (by norm_num) (by simp [Spec.roundsAway])]
      exact ⟨within, fun y _ hy => inner y hy⟩
    · exact ⟨outer _ (up rfl), fun y _ hy => away rfl y hy⟩

/-- R37, R42, R44, R46: the model's rounding is IEEE 754-2019's. -/
theorem roundedTo_round {ty : ℕ} (h : FloatTy ty) {rm m : ℕ} {e : ℤ} {v : ℝ} {sat neg : Bool} (hrm : rm < 4)
    (hsat : sat = true ∨ ty ≠ 0xC) (hv : v ≠ 0) (hneg : neg = true ↔ v < 0) (hs : Stands m e |v|) :
    Spec.RoundedTo ty rm sat v (((floatFmt ty).round sat ⟨rm, none⟩ neg m e).fp ty) := by
  obtain ⟨c, inexact, tiny, low, high, hi, ht, round⟩ :=
    round_stands (regular_floatFmt h) sat neg hrm hs (abs_pos.2 hv)
  intro side hside
  obtain rfl : side = neg := Bool.eq_iff_iff.2 (hside.trans hneg.symm)
  have beyond := overflows_iff (rm := rm) (neg := side) h low high
  rw [round, fp_deliver h sat rm side _ inexact tiny hsat]
  refine ⟨fun o => if_pos (beyond.1 o), fun o => ?_⟩
  have fin : roundedCode (floatFmt ty) rm side |v| c ≤ Spec.fpMax ty := Nat.le_of_not_lt (fun l => o (beyond.2 l))
  have exact_ : ((Spec.fpNum ty (Spec.fpSigned ty side (roundedCode (floatFmt ty) rm side |v| c)) : ℚ) : ℝ) = v ↔
      inexact = false := by
    rw [fpNum_fpSigned h side (fin.trans_lt (fpMax_lt h)), cast_signed, ← Bool.not_eq_true, hi, not_not,
      ← codeNum_roundedCode high rm side]
    nth_rewrite 2 [← signed_abs hside]
    cases side <;> simp [signed]
  rw [if_neg (Nat.not_lt.2 fin), tiny_iff h, ← ht]
  refine ⟨nearest_roundedCode h hrm hv hside low high fin, fun e => ?_, fun e t => ?_, fun e t => ?_⟩
  · simp [exact_.1 e]
  · have i := Bool.eq_true_of_not_eq_false fun i => e (exact_.2 i)
    simp [i, t]
  · have i := Bool.eq_true_of_not_eq_false fun i => e (exact_.2 i)
    simp [i, t]

end Sys2Proof.Laws

/-! Stochastic rounding (R48, R58): a number goes to the code above it where the hash of its index falls below its distance from
the code below. -/

namespace Sys2Proof.Laws

open Sys2Proof Sys2Proof.Machine

/-- R48: the integer a number of the integer part `N` is rounded to. -/
def drawn (seed : W64) (idx : ℕ) (x : ℚ) (N : ℕ) : ℕ :=
  if ((srHash seed idx).toNat : ℤ) < ⌊(x - N) * 2 ^ 32⌋ then N + 1 else N

theorem drawn_self (seed : W64) (idx N : ℕ) : drawn seed idx N N = N := by
  rw [drawn, sub_self, zero_mul, Int.floor_zero, if_neg (by omega)]

theorem drawn_onGrid {f : FloatFmt} {q : ℤ} {N : ℕ} (seed : W64) (idx : ℕ) (x : ℚ) (h : OnGrid f q N)
    (h1 : OnGrid f q (N + 1)) : OnGrid f q (drawn seed idx x N) := by
  unfold drawn
  split
  · exact h1
  · exact h

/-- R48: the model draws by the rest of its division. -/
theorem cutOf_stochastic (f : FloatFmt) (rm : ℕ) (seed : W64) (idx : ℕ) (neg : Bool) (m : ℕ) (e : ℤ) :
    let x : ℚ := m * 2 ^ e / 2 ^ ulpExp f (leadOf m e)
    ∃ N : ℕ, (N : ℚ) ≤ x ∧ x < N + 1 ∧ (cutOf f ⟨rm, some (seed, idx)⟩ neg m e).1 = drawn seed idx x N ∧
      ((cutOf f ⟨rm, some (seed, idx)⟩ neg m e).2 = true ↔ x ≠ N) := by
  dsimp only [cutOf]
  generalize ulpExp f (leadOf m e) = q
  rcases le_or_gt (q - e) 0 with hs | hs
  · obtain ⟨k, hk⟩ : ∃ k : ℕ, -(q - e) = k := ⟨_, (Int.toNat_of_nonneg (by omega)).symm⟩
    have x : (m : ℚ) * 2 ^ e / 2 ^ q = ((m * 2 ^ k : ℕ) : ℚ) := by
      have he : e = q + (k : ℤ) := by omega
      rw [he, zpow_add₀ (by norm_num), zpow_natCast]
      field_simp
      push_cast
      ring
    refine ⟨m * 2 ^ k, ?_⟩
    rw [x, drawn_self, if_pos hs, roundShift, if_pos hs, hk, Int.toNat_natCast, Nat.shiftLeft_eq]
    exact ⟨le_rfl, lt_add_one _, rfl, by simp⟩
  · obtain ⟨s, hk⟩ : ∃ s : ℕ, q - e = (s : ℤ) := ⟨(q - e).toNat, by omega⟩
    have x : (m : ℚ) * 2 ^ e / 2 ^ q = m / (2 ^ s : ℕ) := by
      have he : q = e + (s : ℤ) := by omega
      rw [he, zpow_add₀ (by norm_num), zpow_natCast]
      push_cast
      field_simp
    have div := Nat.div_add_mod m (2 ^ s)
    have rest : m - m / 2 ^ s * 2 ^ s = m % 2 ^ s := by rw [Nat.mul_comm]; omega
    have p : (0 : ℚ) < (2 ^ s : ℕ) := by positivity
    have frac : (m : ℚ) / (2 ^ s : ℕ) - (m / 2 ^ s : ℕ) = (m % 2 ^ s : ℕ) / (2 ^ s : ℕ) := by
      rw [sub_eq_iff_eq_add, div_add' _ _ _ p.ne', ← Nat.cast_mul, ← Nat.cast_add, Nat.mul_comm, Nat.add_comm, div]
    have small : ((m % 2 ^ s : ℕ) : ℚ) / (2 ^ s : ℕ) < 1 := by
      rw [div_lt_one p]
      exact_mod_cast Nat.mod_lt m (by positivity)
    have floor : ⌊((m % 2 ^ s : ℕ) : ℚ) / (2 ^ s : ℕ) * 2 ^ 32⌋ = ((m % 2 ^ s * 2 ^ 32 / 2 ^ s : ℕ) : ℤ) := by
      rw [div_mul_eq_mul_div, show (2 : ℚ) ^ 32 = ((2 ^ 32 : ℕ) : ℚ) by norm_num, ← Nat.cast_mul,
        Rat.floor_natCast_div_natCast, Int.natCast_div]
    rw [hk, x, if_neg (by omega), Int.toNat_natCast, Nat.shiftRight_eq_div_pow, Nat.shiftLeft_eq, rest,
      Nat.shiftLeft_eq, Nat.shiftRight_eq_div_pow]
    refine ⟨m / 2 ^ s, by linarith [div_nonneg (Nat.cast_nonneg (α := ℚ) (m % 2 ^ s)) p.le], by linarith, ?_, ?_⟩
    · rw [drawn, frac, floor]
      simp only [Nat.cast_lt]
      by_cases z : m % 2 ^ s = 0
      · simp [z]
      · simp [z]
    · rw [ne_eq ((m : ℚ) / _), ← sub_eq_zero (a := (m : ℚ) / _), frac, div_eq_zero_iff, or_iff_left p.ne', Nat.cast_eq_zero]
      simp

/-- R44: a drawn result is tiny where its code is one of a subnormal number. -/
theorem tinyOf_stochastic {f : FloatFmt} {rm : ℕ} {seed : W64} {idx : ℕ} {neg : Bool} {m : ℕ} {e : ℤ}
    (grid : OnGrid f (ulpExp f (leadOf m e)) (cutOf f ⟨rm, some (seed, idx)⟩ neg m e).1)
    (normal : 1 - f.bias ≤ leadOf m e → 2 ^ f.fb ≤ (cutOf f ⟨rm, some (seed, idx)⟩ neg m e).1) :
    tinyOf f ⟨rm, some (seed, idx)⟩ neg m e = true ↔
      gridCode f (ulpExp f (leadOf m e)) (cutOf f ⟨rm, some (seed, idx)⟩ neg m e).1 < 2 ^ f.fb := by
  simp only [tinyOf, Bool.and_eq_true, decide_eq_true_eq]
  have double : 2 ^ (f.fb + 1) = 2 * 2 ^ f.fb := by ring
  obtain ⟨-, top, -⟩ := grid
  generalize (cutOf f ⟨rm, some (seed, idx)⟩ neg m e).1 = N at *
  rcases ulpExp_cases f (leadOf m e) with ⟨low, q⟩ | ⟨high, q⟩
  · have k0 : (1 - f.bias - f.fb + f.fb + f.bias - 1).toNat = 0 := by omega
    rw [q, gridCode, k0]
    simp only [low, true_and, Nat.zero_mul, Nat.zero_add]
    split <;> omega
  · have := normal high
    rw [gridCode]
    constructor
    · rintro ⟨less, -⟩
      omega
    · intro less
      omega

/-- R48: the code a number from code `c` up is rounded to. -/
def drawnCode (f : FloatFmt) (seed : W64) (idx : ℕ) (v : ℚ) (c : ℕ) : ℕ :=
  if ((srHash seed idx).toNat : ℤ) < ⌊(v - codeNum f c) / (codeNum f (c + 1) - codeNum f c) * 2 ^ 32⌋ then c + 1 else c

theorem gridCode_drawn {f : FloatFmt} {q : ℤ} {N : ℕ} (seed : W64) (idx : ℕ) (v : ℚ) (h : OnGrid f q N)
    (h1 : OnGrid f q (N + 1)) :
    gridCode f q (drawn seed idx (v / (2 : ℚ) ^ q) N) = drawnCode f seed idx v (gridCode f q N) := by
  have p : (0 : ℚ) < (2 : ℚ) ^ q := by positivity
  have dist : v / (2 : ℚ) ^ q - N =
      (v - codeNum f (gridCode f q N)) / (codeNum f (gridCode f q N + 1) - codeNum f (gridCode f q N)) := by
    rw [← gridCode_succ, codeNum_gridCode h, codeNum_gridCode h1, Nat.cast_succ, add_one_mul, add_sub_cancel_left, sub_div,
      mul_div_cancel_right₀ _ p.ne']
  rw [drawn, drawnCode, dist]
  split <;> rfl

/-- R46, R48: the model's stochastic rounding goes to the code that is drawn. -/
theorem round_stochastic (f : FloatFmt) {rm m idx : ℕ} {e : ℤ} {v : ℚ} (neg : Bool) (seed : W64) (hv : 0 < v)
    (hm : v = m * (2 : ℚ) ^ e) :
    ∃ (c : ℕ) (inexact tiny : Bool), codeNum f c ≤ v ∧ v < codeNum f (c + 1) ∧ (inexact = true ↔ v ≠ codeNum f c) ∧
      (tiny = true ↔ drawnCode f seed idx v c < 2 ^ f.fb) ∧
      f.round true ⟨rm, some (seed, idx)⟩ neg m e = deliver f true rm neg (drawnCode f seed idx v c) inexact tiny := by
  have hs : Stands m e (v : ℝ) := .inl (by rw [hm]; push_cast; rfl)
  have pos : (0 : ℝ) < (v : ℝ) := by exact_mod_cast hv
  obtain ⟨hl, hu⟩ := leadOf_spec hs pos
  obtain ⟨N, low, high, cut, inexact⟩ := cutOf_stochastic f rm seed idx neg m e
  rw [← hm] at low high cut inexact
  have p : (0 : ℚ) < (2 : ℚ) ^ ulpExp f (leadOf m e) := by positivity
  have real : ((v / (2 : ℚ) ^ ulpExp f (leadOf m e) : ℚ) : ℝ) = v / (2 : ℝ) ^ ulpExp f (leadOf m e) := by push_cast; rfl
  have low' : (N : ℝ) ≤ v / (2 : ℝ) ^ ulpExp f (leadOf m e) := by rw [← real]; exact_mod_cast low
  have high' : v / (2 : ℝ) ^ ulpExp f (leadOf m e) < N + 1 := by rw [← real]; exact_mod_cast high
  obtain ⟨g0, g1⟩ := onGrid_floor hl hu low' high'
  have grid := cut ▸ drawn_onGrid seed idx (v / (2 : ℚ) ^ ulpExp f (leadOf m e)) g0 g1
  have code := cut ▸ gridCode_drawn seed idx v g0 g1
  have normal (n : 1 - f.bias ≤ leadOf m e) : 2 ^ f.fb ≤ (cutOf f ⟨rm, some (seed, idx)⟩ neg m e).1 := by
    have := floor_normal hl high' n
    rw [cut, drawn]
    split <;> omega
  have tiny := tinyOf_stochastic grid normal
  have round := round_eq true ⟨rm, some (seed, idx)⟩ neg (stands_ne_zero hs pos) grid
  rw [code] at tiny round
  refine ⟨_, _, _, ?_, ?_, ?_, tiny, round⟩
  · rwa [codeNum_gridCode g0, ← le_div_iff₀ p]
  · rwa [← gridCode_succ, codeNum_gridCode g1, Nat.cast_succ, ← div_lt_iff₀ p]
  · rwa [codeNum_gridCode g0, ne_eq, ← div_eq_iff p.ne']

/-- R46, R48, R58: the model's stochastic rounding is the one stated. -/
theorem stochasticTo_round {ty : ℕ} (h : FloatTy ty) {rm m idx : ℕ} {e : ℤ} {v : ℚ} {neg : Bool} (seed : W64) (hv : v ≠ 0)
    (hneg : neg = true ↔ v < 0) (hm : |v| = m * (2 : ℚ) ^ e) :
    Spec.StochasticTo ty seed idx v (((floatFmt ty).round true ⟨rm, some (seed, idx)⟩ neg m e).fp ty) := by
  obtain ⟨c, inexact, tiny, low, high, hi, ht, round⟩ :=
    round_stochastic (floatFmt ty) (rm := rm) (idx := idx) neg seed (abs_pos.2 hv) hm
  have mono := codeNum_strictMono (floatFmt ty)
  have at_ (k : ℕ) (kl : codeNum (floatFmt ty) k ≤ |v|) (ku : |v| < codeNum (floatFmt ty) (k + 1)) : k = c := by
    have a := mono.lt_iff_lt.1 (kl.trans_lt high)
    have b := mono.lt_iff_lt.1 (low.trans_lt ku)
    omega
  intro side hside
  obtain rfl : side = neg := Bool.eq_iff_iff.2 (hside.trans hneg.symm)
  rw [round, fp_deliver h true rm side _ inexact tiny (.inl rfl)]
  simp only [fpMag_eq h, (fpShape_eq h).2.1, true_or, if_true]
  refine ⟨fun k hk e => ?_, fun big => ?_, fun k hk kl ku => ?_⟩
  · obtain rfl := at_ k e.le (e ▸ mono (Nat.lt_succ_self k))
    have exact_ : inexact = false := by
      rw [← Bool.not_eq_true, hi, not_not, e]
    have stays : drawnCode (floatFmt ty) seed idx |v| k = k := by
      rw [drawnCode, e, sub_self, zero_div, zero_mul, Int.floor_zero, if_neg (by omega)]
    rw [stays, if_neg (Nat.not_lt.2 hk), exact_]
    rfl
  · have : Spec.fpMax ty + 1 < c + 1 := mono.lt_iff_lt.1 (big.trans_lt high)
    rw [if_pos]
    unfold drawnCode
    split <;> omega
  · obtain rfl := at_ k kl.le ku
    have ie : inexact = true := hi.2 kl.ne'
    rw [ie]
    change (if Spec.fpMax ty < drawnCode (floatFmt ty) seed idx |v| k then _ else _) = _
    simp only [ht, if_true]
    rfl

end Sys2Proof.Laws

/-! The exact results of operations on finite numbers (R37, R143, R144): each stands for the number that is rounded once. -/

namespace Sys2Proof.Laws

open Sys2Proof Sys2Proof.Machine

/-! ### A sign flipped (R144) -/

theorem fpCode_flipSign {ty : ℕ} (h : FloatTy ty) (c : Bool) (x : W64) :
    Spec.fpCode ty (Spec.flipSign ty c x) = Spec.fpCode ty x := by
  have top := fpTop_lt h
  have lt : 2 ^ Spec.fpTop ty < 2 ^ 64 := Nat.pow_lt_pow_right (by norm_num) top
  cases c
  · rfl
  · rw [Spec.flipSign, if_pos rfl, Spec.fpCode, BitVec.toNat_xor, BitVec.toNat_ofNat, Nat.mod_eq_of_lt lt,
      Nat.xor_mod_two_pow, Nat.mod_self, Nat.xor_zero]
    rfl

theorem fpNeg_flipSign {ty : ℕ} (h : FloatTy ty) (c : Bool) (x : W64) :
    Spec.fpNeg ty (Spec.flipSign ty c x) = (Spec.fpNeg ty x ^^ c) := by
  have top := fpTop_lt h
  cases c
  · simp [Spec.flipSign]
  · rw [Spec.flipSign, if_pos rfl, Spec.fpNeg, BitVec.getLsbD_xor, BitVec.getLsbD_ofNat, Nat.testBit_two_pow_self,
      decide_eq_true top]
    rfl

theorem regVal_flipSign {ty : ℕ} (h : FloatTy ty) (c : Bool) (x : W64) :
    regVal ty (Spec.flipSign ty c x) = (regVal ty x).flip c := by
  have code := fpCode_flipSign h c x
  have fin : Spec.fpFin ty (Spec.flipSign ty c x) = Spec.fpFin ty x := by simp only [Spec.fpFin, code]
  have inf : Spec.fpInf ty (Spec.flipSign ty c x) = Spec.fpInf ty x := by simp only [Spec.fpInf, code]
  have nan : Spec.fpNan ty (Spec.flipSign ty c x) = Spec.fpNan ty x := by simp only [Spec.fpNan, fin, inf]
  have sig : Spec.fpSig ty (Spec.flipSign ty c x) = Spec.fpSig ty x := by simp only [fpSig_eq h, nan, code]
  rw [regVal_eq h, regVal_eq h, nan, inf, sig, code, fpNeg_flipSign h]
  split
  · cases c <;> rfl
  · split
    · cases c <;> simp [Val.flip]
    · cases c <;> simp [Val.flip]

theorem fpFin_flipSign {ty : ℕ} (h : FloatTy ty) (c : Bool) (x : W64) :
    Spec.fpFin ty (Spec.flipSign ty c x) = Spec.fpFin ty x := by
  simp only [Spec.fpFin, fpCode_flipSign h]

/-- R144: a subtraction adds the number with its sign flipped. -/
theorem faddVal_flipSign {ty : ℕ} (h : FloatTy ty) (fctrl : BitVec 13) (neg : Bool) (x y : W64) :
    faddVal ty fctrl neg x y = faddVal ty fctrl false x (Spec.flipSign ty neg y) := by
  rw [faddVal, faddVal, regVal_flipSign h]
  rfl

/-- R144: the modifiers of a fused multiply-add flip signs. -/
theorem ffmaVal_flipSign {ty : ℕ} (h : FloatTy ty) (fctrl : BitVec 13) (np nc : Bool) (x y z : W64) :
    ffmaVal ty fctrl np nc x y z =
      ffmaVal ty fctrl false false (Spec.flipSign ty np x) y (Spec.flipSign ty nc z) := by
  rw [ffmaVal, ffmaVal, regVal_flipSign h, regVal_flipSign h]
  rfl

/-! ### Finite values and their numbers -/

/-- The number of a finite value. -/
def finNum (neg : Bool) (m : ℕ) (e : ℤ) : ℚ := signed neg ((m : ℚ) * 2 ^ e)

theorem ratOf_fin (neg : Bool) (m : ℕ) (e : ℤ) : Spec.ratOf (.fin neg m e) = some (finNum neg m e) := by
  rw [Spec.ratOf, finNum, signed]
  cases neg <;> simp

theorem finNum_eq_zero {neg : Bool} {m : ℕ} {e : ℤ} : finNum neg m e = 0 ↔ m = 0 := by
  have : (2 : ℚ) ^ e ≠ 0 := by positivity
  cases neg <;> simp [finNum, signed, this]

theorem finNum_abs (neg : Bool) (m : ℕ) (e : ℤ) : |finNum neg m e| = m * 2 ^ e := by
  have : |(m : ℚ) * 2 ^ e| = m * 2 ^ e := abs_of_nonneg (by positivity)
  cases neg <;> simp [finNum, signed, this]

theorem finNum_neg_iff {neg : Bool} {m : ℕ} {e : ℤ} (h : finNum neg m e ≠ 0) : neg = true ↔ finNum neg m e < 0 := by
  have pos : 0 < (m : ℚ) * 2 ^ e := by
    rw [← finNum_abs neg]
    exact abs_pos.2 h
  cases neg
  · simp only [finNum, signed, if_false, Bool.false_eq_true, false_iff, not_lt]
    exact pos.le
  · simp only [finNum, signed, if_true, true_iff, Left.neg_neg_iff]
    exact pos

theorem fpNum_finNum {ty : ℕ} (h : FloatTy ty) (x : W64) :
    Spec.fpNum ty x =
      finNum (Spec.fpNeg ty x) ((floatFmt ty).mag (Spec.fpCode ty x)).1 ((floatFmt ty).mag (Spec.fpCode ty x)).2 :=
  fpNum_eq h x

/-- A value stands for a real number. -/
def Holds (v : Val) (x : ℝ) : Prop := ∃ neg m e, v = .fin neg m e ∧ (neg = true ↔ x < 0) ∧ Stands m e |x|

theorem holds_fin {neg : Bool} {m : ℕ} {e : ℤ} {x : ℚ} (h : finNum neg m e = x) (hx : x ≠ 0) :
    Holds (.fin neg m e) (x : ℝ) := by
  subst h
  refine ⟨neg, m, e, rfl, ?_, .inl ?_⟩
  · rw [finNum_neg_iff hx]
    exact_mod_cast Iff.rfl
  · rw [← Rat.cast_abs, finNum_abs]
    push_cast
    rfl

/-- R37, R43: what holds a number rounds it. -/
theorem roundedTo_arith {ty : ℕ} (h : FloatTy ty) (hc : ty ≠ 0xC) (fctrl : BitVec 13) {v : Val} {x : ℝ} (hx : x ≠ 0)
    (hv : Holds v x) :
    Spec.RoundedTo ty (fctrl.extractLsb' 0 2).toNat false x ((arith ty (arithRounding fctrl) v 0).fp ty) := by
  obtain ⟨neg, m, e, rfl, hneg, hs⟩ := hv
  have rm : (fctrl.extractLsb' 0 2).toNat < 4 := (fctrl.extractLsb' 0 2).isLt
  have round := roundedTo_round h rm (.inr hc) hx hneg hs (sat := false)
  have none_raised (fl : Flags) : 0 ||| fl = fl := BitVec.zero_or
  have same : (arith ty (arithRounding fctrl) (.fin neg m e) 0).fp ty =
      ((floatFmt ty).round false ⟨(fctrl.extractLsb' 0 2).toNat, none⟩ neg m e).fp ty := by
    simp only [arith, Rounded.fp, none_raised]
    rfl
  rw [same]
  exact round

/-! ### Sums and products -/

theorem scaled_cast (neg : Bool) (m : ℕ) {e e0 : ℤ} (h : e0 ≤ e) : (scaled neg m e e0 : ℚ) * 2 ^ e0 = finNum neg m e := by
  obtain ⟨k, rfl⟩ := Int.le.dest h
  have hk : (e0 + (k : ℤ) - e0).toNat = k := by omega
  rw [scaled, hk, Nat.shiftLeft_eq, finNum, zpow_add₀ (by norm_num), zpow_natCast]
  cases neg <;> simp [signed] <;> ring

theorem addNum_fin (rm : ℕ) (n k : Bool) (m p : ℕ) (e d : ℤ) :
    (finNum n m e + finNum k p d = 0 →
      addNum rm (.fin n m e) (.fin k p d) = (.fin (if m = 0 ∧ p = 0 ∧ n = k then n else rm == 3) 0 0, 0)) ∧
    (finNum n m e + finNum k p d ≠ 0 →
      (addNum rm (.fin n m e) (.fin k p d)).2 = 0 ∧ ∃ neg M E, (addNum rm (.fin n m e) (.fin k p d)).1 = .fin neg M E ∧
        finNum neg M E = finNum n m e + finNum k p d) := by
  obtain ⟨e0, he0, le1, le2⟩ : ∃ e0, (if e ≤ d then e else d) = e0 ∧ e0 ≤ e ∧ e0 ≤ d := by
    by_cases h : e ≤ d
    · exact ⟨e, if_pos h, le_rfl, h⟩
    · exact ⟨d, if_neg h, by omega, le_rfl⟩
  have p2 : (0 : ℚ) < 2 ^ e0 := by positivity
  have sum : ((scaled n m e e0 + scaled k p d e0 : ℤ) : ℚ) * 2 ^ e0 = finNum n m e + finNum k p d := by
    rw [Int.cast_add, add_mul, scaled_cast n m le1, scaled_cast k p le2]
  have zero : scaled n m e e0 + scaled k p d e0 = 0 ↔ finNum n m e + finNum k p d = 0 := by
    rw [← sum, mul_eq_zero_iff_right p2.ne', Int.cast_eq_zero]
  simp only [addNum, he0]
  generalize scaled n m e e0 + scaled k p d e0 = s at *
  refine ⟨fun z => ?_, fun nz => ?_⟩
  · rw [if_pos (by simpa using zero.2 z)]
    simp [and_assoc]
  · rw [if_neg (by simpa using fun z => nz (zero.1 z))]
    refine ⟨rfl, _, _, _, rfl, ?_⟩
    rw [← sum, finNum, signed]
    by_cases neg : s < 0
    · simp only [neg, decide_true, if_true]
      rw [Nat.cast_natAbs, abs_of_neg neg]
      push_cast
      ring
    · simp only [neg, decide_false, Bool.false_eq_true, if_false]
      rw [Nat.cast_natAbs, abs_of_nonneg (not_lt.1 neg)]

theorem mulNum_fin (n k : Bool) (m p : ℕ) (e d : ℤ) :
    mulNum (.fin n m e) (.fin k p d) = (.fin (n != k) (m * p) (e + d), 0) ∧
      finNum (n != k) (m * p) (e + d) = finNum n m e * finNum k p d := by
  refine ⟨rfl, ?_⟩
  rw [finNum, finNum, finNum, zpow_add₀ (by norm_num)]
  cases n <;> cases k <;> simp [signed] <;> ring

/-! ### Quotients and roots -/

theorem lt_two_pow_bitLen (m : ℕ) : m < 2 ^ bitLen m := by
  rcases Nat.eq_zero_or_pos m with rfl | h
  · exact Nat.one_pos
  · rw [bitLen_pos h.ne']
    exact Nat.lt_log2_self

theorem two_pow_le_shift {m k b : ℕ} (hm : m ≠ 0) (h : b < bitLen m + k) : 2 ^ b ≤ m * 2 ^ k := by
  have low := Nat.log2_self_le hm
  rw [bitLen_pos hm] at h
  calc 2 ^ b ≤ 2 ^ (m.log2 + k) := Nat.pow_le_pow_right (by norm_num) (by omega)
    _ = 2 ^ m.log2 * 2 ^ k := pow_add _ _ _
    _ ≤ m * 2 ^ k := Nat.mul_le_mul_right _ low

/-- A number between two integers, with a last bit set for what lies between them. -/
theorem stands_between {q : ℕ} {E : ℤ} {v : ℝ} (big : 2 ^ 100 ≤ q) (low : (q : ℝ) * 2 ^ E < v) (high : v < ((q : ℝ) + 1) * 2 ^ E) :
    Stands (2 * q + 1) (E - 1) v := by
  have half : (2 : ℝ) ^ E = 2 * 2 ^ (E - 1) := by
    rw [← zpow_one_add₀ (by norm_num)]
    congr 1
    ring
  rw [half] at low high
  refine .inr ⟨by omega, by omega, ?_, ?_⟩ <;> push_cast <;> linarith

theorem stands_divMag {m p : ℕ} (hm : m ≠ 0) (hp : p ≠ 0) (e d : ℤ) :
    Stands (divMag m e p d).1 (divMag m e p d).2 ((m : ℝ) * 2 ^ e / (p * 2 ^ d)) := by
  obtain ⟨k, hk⟩ : ∃ k, 140 + bitLen p - (if bitLen m ≤ 140 + bitLen p then bitLen m else 140 + bitLen p) = k := ⟨_, rfl⟩
  have bits : 140 + bitLen p ≤ bitLen m + k := by
    rw [← hk]
    split <;> omega
  have ppos : (0 : ℝ) < p := by exact_mod_cast Nat.pos_of_ne_zero hp
  have two : (0 : ℝ) < 2 ^ (e - d - k) := by positivity
  have v : (m : ℝ) * 2 ^ e / (p * 2 ^ d) = ((m * 2 ^ k : ℕ) : ℝ) / p * 2 ^ (e - d - k) := by
    rw [zpow_sub₀ (by norm_num), zpow_sub₀ (by norm_num), zpow_natCast]
    push_cast
    field_simp
  have div := Nat.div_add_mod (m * 2 ^ k) p
  have rem := Nat.mod_lt (m * 2 ^ k) (Nat.pos_of_ne_zero hp)
  rw [v]
  simp only [divMag, hk, Nat.shiftLeft_eq, beq_iff_eq]
  split
  · next exact_ =>
    left
    rw [← exact_, Nat.mul_div_left _ (Nat.pos_of_ne_zero hp), exact_]
    nth_rewrite 1 [← exact_]
    push_cast
    field_simp
  · next inexact =>
    have big : 2 ^ 100 ≤ m * 2 ^ k / p := by
      rw [Nat.le_div_iff_mul_le (Nat.pos_of_ne_zero hp)]
      calc 2 ^ 100 * p ≤ 2 ^ 100 * 2 ^ bitLen p := Nat.mul_le_mul_left _ (lt_two_pow_bitLen p).le
        _ = 2 ^ (100 + bitLen p) := (pow_add _ _ _).symm
        _ ≤ m * 2 ^ k := two_pow_le_shift hm (by omega)
    refine stands_between big (mul_lt_mul_of_pos_right ?_ two) (mul_lt_mul_of_pos_right ?_ two)
    · rw [lt_div_iff₀ ppos]
      have : m * 2 ^ k / p * p < m * 2 ^ k := lt_of_le_of_ne (Nat.div_mul_le_self _ _) inexact
      exact_mod_cast this
    · rw [div_lt_iff₀ ppos]
      have : m * 2 ^ k < (m * 2 ^ k / p + 1) * p := by
        rw [Nat.add_mul, Nat.mul_comm (_ / p)]
        omega
      exact_mod_cast this

theorem isqrtLoop_spec (n k r : ℕ) (low : r * r ≤ n) (high : n < (r + 2 ^ k) * (r + 2 ^ k)) :
    isqrtLoop n k r * isqrtLoop n k r ≤ n ∧ n < (isqrtLoop n k r + 1) * (isqrtLoop n k r + 1) := by
  induction k generalizing r with
  | zero => exact ⟨low, high⟩
  | succ k ih =>
    rw [isqrtLoop, Nat.one_shiftLeft]
    have double : 2 ^ (k + 1) = 2 ^ k + 2 ^ k := by ring
    split
    · next le => exact ih _ le (by rwa [Nat.add_assoc, ← double])
    · next gt => exact ih _ low (Nat.lt_of_not_le gt)

theorem isqrt_spec (n : ℕ) : isqrt n * isqrt n ≤ n ∧ n < (isqrt n + 1) * (isqrt n + 1) := by
  refine isqrtLoop_spec n _ 0 (Nat.zero_le _) ?_
  rw [Nat.zero_add, ← pow_add]
  exact (lt_two_pow_bitLen n).trans_le (Nat.pow_le_pow_right (by norm_num) (by omega))

theorem stands_sqrtMag {m : ℕ} (hm : m ≠ 0) (e : ℤ) :
    Stands (sqrtMag m e).1 (sqrtMag m e).2 (Real.sqrt ((m : ℝ) * 2 ^ e)) := by
  obtain ⟨k0, hk0⟩ : ∃ k, 280 - (if bitLen m ≤ 280 then bitLen m else 280) = k := ⟨_, rfl⟩
  obtain ⟨k, hk, even, bits⟩ : ∃ k, (if (e - k0) % 2 = 0 then k0 else k0 + 1) = k ∧ (e - k) % 2 = 0 ∧ 280 ≤ bitLen m + k := by
    have : 280 ≤ bitLen m + k0 := by
      rw [← hk0]
      split <;> omega
    by_cases h : (e - k0) % 2 = 0
    · exact ⟨k0, by simp [h], h, this⟩
    · exact ⟨k0 + 1, by simp [h], by push_cast; omega, by omega⟩
  obtain ⟨E, hE⟩ : ∃ E, e - (k : ℤ) = 2 * E := ⟨(e - k) / 2, by omega⟩
  have hE2 : (e - (k : ℤ)) / 2 = E := by omega
  have two : (0 : ℝ) < 2 ^ E := by positivity
  have v : Real.sqrt ((m : ℝ) * 2 ^ e) = Real.sqrt ((m * 2 ^ k : ℕ) : ℝ) * 2 ^ E := by
    have sq : (2 : ℝ) ^ e = 2 ^ k * (2 ^ E * 2 ^ E) := by
      rw [← zpow_natCast, ← zpow_add₀ (by norm_num), ← zpow_add₀ (by norm_num)]
      congr 1
      omega
    rw [sq, ← mul_assoc, Real.sqrt_mul (by positivity), Real.sqrt_mul_self two.le]
    push_cast
    rfl
  obtain ⟨low, high⟩ := isqrt_spec (m * 2 ^ k)
  rw [v]
  simp only [sqrtMag, hk0, hk, hE2, Nat.shiftLeft_eq, beq_iff_eq]
  have nonneg : (0 : ℝ) ≤ isqrt (m * 2 ^ k) := Nat.cast_nonneg _
  split
  · next exact_ =>
    left
    rw [← exact_, Nat.cast_mul, Real.sqrt_mul_self nonneg, exact_]
  · next inexact =>
    have big : 2 ^ 100 ≤ isqrt (m * 2 ^ k) := by
      by_contra small
      have lt : isqrt (m * 2 ^ k) + 1 ≤ 2 ^ 100 := Nat.lt_of_not_le small
      have sq := Nat.mul_le_mul lt lt
      have big : 2 ^ 279 ≤ m * 2 ^ k := two_pow_le_shift hm (by omega)
      omega
    refine stands_between big (mul_lt_mul_of_pos_right ?_ two) (mul_lt_mul_of_pos_right ?_ two)
    · rw [Real.lt_sqrt nonneg, sq]
      exact_mod_cast lt_of_le_of_ne low inexact
    · rw [Real.sqrt_lt' (by positivity), sq]
      exact_mod_cast high

end Sys2Proof.Laws

/-! Floating-point words and conversions round exact numbers once (R37, R43 to R48, R143, R144, R146). -/

namespace Sys2Proof.Laws

open Sys2Proof Sys2Proof.Machine

/-! ### Integers in a register (R35, R130) -/

theorem widthOf_int {ty : ℕ} (h : ty < 8) : widthOf ty = 8 * 2 ^ (ty / 2) := by
  interval_cases ty <;> rfl

theorem intOf_eq {ty : ℕ} (h : ty < 8) (x : W64) : intOf ty x.toNat = Spec.intNum ty x := by
  rw [intOf, Spec.intNum, widthOf_int h]
  obtain ⟨w, hw⟩ : ∃ w, 8 * 2 ^ (ty / 2) = w + 1 := ⟨8 * 2 ^ (ty / 2) - 1, by have := Nat.one_le_two_pow (n := ty / 2); omega⟩
  rw [hw, BitVec.toInt_eq_toNat_cond, BitVec.toNat_setWidth]
  have double : 2 ^ (w + 1) = 2 * 2 ^ w := by ring
  rcases Nat.mod_two_eq_zero_or_one ty with even | odd
  · simp only [even, beq_self_eq_true, Bool.true_and, decide_eq_true_eq, if_true, Nat.add_sub_cancel]
    split <;> split <;> omega
  · simp [odd]

theorem intOf_maskBits (ty n : ℕ) : intOf ty (maskBits ty n) = intOf ty n := by
  simp only [intOf, maskBits, Nat.mod_mod]

theorem regVal_int {ty : ℕ} (h : ty < 8) (x : W64) :
    regVal ty x = .fin (decide (Spec.intNum ty x < 0)) (Spec.intNum ty x).natAbs 0 := by
  rw [regVal, valueOf, if_pos h, intOf_maskBits, intOf_eq h]

theorem finNum_int (z : ℤ) : finNum (decide (z < 0)) z.natAbs 0 = z := by
  rw [finNum, signed, zpow_zero, mul_one, Nat.cast_natAbs]
  by_cases neg : z < 0
  · simp [neg, abs_of_neg neg]
  · simp [neg, abs_of_nonneg (not_lt.1 neg)]

/-- R46: the number a conversion starts from. -/
def sourceNum (src : ℕ) (x : W64) : ℚ := if src < 8 then Spec.intNum src x else Spec.fpNum src x

theorem regVal_source {src : ℕ} (h : src < 14) {x : W64} (hx : src < 8 ∨ Spec.fpFin src x = true) :
    ∃ neg m e, regVal src x = .fin neg m e ∧ finNum neg m e = sourceNum src x := by
  unfold sourceNum
  by_cases int : src < 8
  · rw [if_pos int]
    exact ⟨_, _, _, regVal_int int x, finNum_int _⟩
  · have float : FloatTy src := ⟨Nat.le_of_not_lt int, h⟩
    rw [if_neg int]
    exact ⟨_, _, _, regVal_fin float (hx.resolve_left int), (fpNum_finNum float x).symm⟩

/-! ### Exact results -/

/-- A finite register holds its number. -/
theorem regVal_num {ty : ℕ} (h : FloatTy ty) {x : W64} (hx : Spec.fpFin ty x = true) :
    ∃ n m e, regVal ty x = .fin n m e ∧ finNum n m e = Spec.fpNum ty x :=
  ⟨_, _, _, regVal_fin h hx, (fpNum_finNum h x).symm⟩

section
variable {n k : Bool} {m p : ℕ} {e d : ℤ} {x y : ℚ} (hx : finNum n m e = x) (hy : finNum k p d = y)
include hx hy

theorem addNum_holds (rm : ℕ) (nz : x + y ≠ 0) :
    (addNum rm (.fin n m e) (.fin k p d)).2 = 0 ∧ Holds (addNum rm (.fin n m e) (.fin k p d)).1 ((x : ℝ) + y) := by
  subst hx hy
  obtain ⟨flags, neg, M, E, val, num⟩ := (addNum_fin rm n k m p e d).2 nz
  rw [val, ← Rat.cast_add]
  exact ⟨flags, holds_fin num nz⟩

theorem mulNum_num : finNum (n != k) (m * p) (e + d) = x * y := by
  rw [(mulNum_fin n k m p e d).2, hx, hy]

theorem divNum_holds (nx : x ≠ 0) (ny : y ≠ 0) :
    (divNum (.fin n m e) (.fin k p d)).2 = 0 ∧ Holds (divNum (.fin n m e) (.fin k p d)).1 ((x : ℝ) / y) := by
  subst hx hy
  have hm : m ≠ 0 := fun z => nx (finNum_eq_zero.2 z)
  have hp : p ≠ 0 := fun z => ny (finNum_eq_zero.2 z)
  have quotient : divNum (.fin n m e) (.fin k p d) = (.fin (n != k) (divMag m e p d).1 (divMag m e p d).2, 0) := by
    simp [divNum, hm, hp]
  have size : |(finNum n m e : ℝ) / finNum k p d| = (m : ℝ) * 2 ^ e / (p * 2 ^ d) := by
    rw [abs_div, ← Rat.cast_abs, ← Rat.cast_abs, finNum_abs, finNum_abs]
    push_cast
    rfl
  rw [quotient]
  refine ⟨rfl, _, _, _, rfl, ?_, size ▸ stands_divMag hm hp e d⟩
  rw [← Rat.cast_div, Rat.cast_lt_zero, div_neg_iff, ← finNum_neg_iff nx, ← finNum_neg_iff ny,
    ← not_le, ← not_le, nx.le_iff_lt, ny.le_iff_lt, ← finNum_neg_iff nx, ← finNum_neg_iff ny]
  cases n <;> cases k <;> decide

end

theorem sqrtNum_holds {n : Bool} {m : ℕ} {e : ℤ} {x : ℚ} (hx : finNum n m e = x) (pos : 0 < x) :
    (sqrtNum (.fin n m e)).2 = 0 ∧ Holds (sqrtNum (.fin n m e)).1 (Real.sqrt x) := by
  subst hx
  have hm : m ≠ 0 := fun z => pos.ne' (finNum_eq_zero.2 z)
  have hn : n = false := by
    rw [← Bool.not_eq_true, finNum_neg_iff pos.ne']
    exact not_lt.2 pos.le
  subst hn
  have root : sqrtNum (.fin false m e) = (.fin false (sqrtMag m e).1 (sqrtMag m e).2, 0) := by
    simp [sqrtNum, hm]
  have num : ((finNum false m e : ℚ) : ℝ) = (m : ℝ) * 2 ^ e := by
    rw [finNum, signed, if_neg (by decide)]
    push_cast
    rfl
  have nonneg := Real.sqrt_nonneg ((m : ℝ) * 2 ^ e)
  rw [root, num]
  refine ⟨rfl, _, _, _, rfl, ?_, ?_⟩
  · simpa using nonneg
  · rw [abs_of_nonneg nonneg]
    exact stands_sqrtMag hm e

/-! ### Arithmetic -/

section
variable {ty : ℕ} (h : FloatTy ty) (hc : ty ≠ 0xC) (fctrl : BitVec 13) {x y z : W64}
include h hc

/-- R37, R43: an exact result that holds a number is rounded by FCTRL.RM. -/
theorem roundedTo_result {v : Val × Flags} {r : ℝ} (nz : r ≠ 0) (hv : v.2 = 0 ∧ Holds v.1 r) :
    Spec.RoundedTo ty (fctrl.extractLsb' 0 2).toNat false r ((arith ty (arithRounding fctrl) v.1 v.2).fp ty) := by
  rw [hv.1]
  exact roundedTo_arith h hc fctrl nz hv.2

theorem faddVal_rounds (hx : Spec.fpFin ty x = true) (hy : Spec.fpFin ty y = true)
    (nz : (Spec.fpNum ty x : ℝ) + Spec.fpNum ty y ≠ 0) :
    Spec.RoundedTo ty (fctrl.extractLsb' 0 2).toNat false ((Spec.fpNum ty x : ℝ) + Spec.fpNum ty y)
      (faddVal ty fctrl false x y) := by
  obtain ⟨n, m, e, rx, nx⟩ := regVal_num h hx
  obtain ⟨k, p, d, ry, ny⟩ := regVal_num h hy
  rw [faddVal, rx, ry]
  exact roundedTo_result h hc fctrl nz (addNum_holds nx ny _ (by exact_mod_cast nz))

theorem fmulVal_rounds (hx : Spec.fpFin ty x = true) (hy : Spec.fpFin ty y = true)
    (nz : (Spec.fpNum ty x : ℝ) * Spec.fpNum ty y ≠ 0) :
    Spec.RoundedTo ty (fctrl.extractLsb' 0 2).toNat false ((Spec.fpNum ty x : ℝ) * Spec.fpNum ty y)
      (fmulVal ty fctrl x y) := by
  obtain ⟨n, m, e, rx, nx⟩ := regVal_num h hx
  obtain ⟨k, p, d, ry, ny⟩ := regVal_num h hy
  have prod := holds_fin (mulNum_num nx ny) (by exact_mod_cast nz)
  rw [Rat.cast_mul] at prod
  rw [fmulVal, rx, ry]
  exact roundedTo_result h hc fctrl nz ⟨rfl, prod⟩

theorem ffmaVal_rounds (hx : Spec.fpFin ty x = true) (hy : Spec.fpFin ty y = true) (hz : Spec.fpFin ty z = true)
    (nz : (Spec.fpNum ty x : ℝ) * Spec.fpNum ty y + Spec.fpNum ty z ≠ 0) :
    Spec.RoundedTo ty (fctrl.extractLsb' 0 2).toNat false ((Spec.fpNum ty x : ℝ) * Spec.fpNum ty y + Spec.fpNum ty z)
      (ffmaVal ty fctrl false false x y z) := by
  obtain ⟨n, m, e, rx, nx⟩ := regVal_num h hx
  obtain ⟨k, p, d, ry, ny⟩ := regVal_num h hy
  obtain ⟨l, q, g, rz, nz'⟩ := regVal_num h hz
  obtain ⟨flags, sum⟩ := addNum_holds (mulNum_num nx ny) nz' (arithRounding fctrl).rm (by exact_mod_cast nz)
  rw [Rat.cast_mul] at sum
  rw [ffmaVal, rx, ry, rz]
  have raised : (fmaNum (arithRounding fctrl).rm (.fin n m e) (.fin k p d) (.fin l q g)).2 = 0 :=
    (congrArg ((0 : Flags) ||| ·) flags).trans (BitVec.or_self (x := (0 : Flags)))
  exact roundedTo_result h hc fctrl nz ⟨raised, sum⟩

theorem fdivVal_rounds (hx : Spec.fpFin ty x = true) (hy : Spec.fpFin ty y = true)
    (nx : (Spec.fpNum ty x : ℝ) ≠ 0) (ny : (Spec.fpNum ty y : ℝ) ≠ 0) :
    Spec.RoundedTo ty (fctrl.extractLsb' 0 2).toNat false ((Spec.fpNum ty x : ℝ) / Spec.fpNum ty y)
      (fdivVal ty fctrl x y) := by
  obtain ⟨n, m, e, rx, hx⟩ := regVal_num h hx
  obtain ⟨k, p, d, ry, hy⟩ := regVal_num h hy
  rw [fdivVal, rx, ry]
  exact roundedTo_result h hc fctrl (div_ne_zero nx ny) (divNum_holds hx hy (by exact_mod_cast nx) (by exact_mod_cast ny))

theorem fsqrtVal_rounds (hx : Spec.fpFin ty x = true) (pos : (Spec.fpNum ty x : ℝ) > 0) :
    Spec.RoundedTo ty (fctrl.extractLsb' 0 2).toNat false (Real.sqrt (Spec.fpNum ty x)) (fsqrtVal ty fctrl x) := by
  obtain ⟨n, m, e, rx, hx⟩ := regVal_num h hx
  rw [fsqrtVal, rx]
  exact roundedTo_result h hc fctrl (Real.sqrt_ne_zero'.2 pos) (sqrtNum_holds hx (by exact_mod_cast pos))

end

/-! ### Conversions (R46, R48) -/

/-- R42, R48: the rounding that a conversion takes from FCTRL. -/
theorem fcvtVal_round {ty src : ℕ} (h : FloatTy ty) (fctrl : BitVec 13) (seed x y : W64) {neg : Bool} {m : ℕ} {e : ℤ}
    (hv : regVal src x = .fin neg m e) :
    fcvtVal ty src fctrl seed x y =
      ((floatFmt ty).round true
        (if srType ty = true then convRounding fctrl seed (y.extractLsb' 0 48).toNat
          else ⟨(fctrl.extractLsb' 0 2).toNat, none⟩) neg m e).fp ty := by
  have n8 : ¬ ty < 8 := by have := h.1; omega
  have nE : (ty == 0xE) = false := by have := h.2; simp; omega
  rw [fcvtVal, convertBits, ← regVal, hv, convertNum, if_neg n8, nE]
  rfl

theorem srType_iff {ty : ℕ} (h : FloatTy ty) : srType ty = true ↔ ty ≠ 0xA ∧ ty ≠ 0xB := by
  obtain ⟨low, high⟩ := h
  interval_cases ty <;> decide

/-- R46: a conversion that is not stochastic rounds by FCTRL.RM and saturates. -/
theorem fcvtVal_rounds {ty src : ℕ} (h : FloatTy ty) (hs : src < 14) (fctrl : BitVec 13) (seed x y : W64)
    (hx : src < 8 ∨ Spec.fpFin src x = true) (nz : sourceNum src x ≠ 0)
    (plain : fctrl.getLsbD 2 = false ∨ ty = 0xA ∨ ty = 0xB) :
    Spec.RoundedTo ty (fctrl.extractLsb' 0 2).toNat true (sourceNum src x : ℚ) (fcvtVal ty src fctrl seed x y) := by
  obtain ⟨n, m, e, rx, hx⟩ := regVal_source hs hx
  obtain ⟨neg, M, E, ⟨⟩, hneg, stands⟩ := holds_fin hx nz
  have rounding : (if srType ty = true then convRounding fctrl seed (y.extractLsb' 0 48).toNat
      else ⟨(fctrl.extractLsb' 0 2).toNat, none⟩) = ⟨(fctrl.extractLsb' 0 2).toNat, none⟩ := by
    rcases plain with off | wide
    · simp only [convRounding, bitAt, off, Bool.false_eq_true, if_false, ite_self]
    · rw [if_neg]
      rw [srType_iff h]
      omega
  rw [fcvtVal_round h fctrl seed x y rx, rounding]
  exact roundedTo_round h (fctrl.extractLsb' 0 2).isLt (.inl rfl) (by exact_mod_cast nz) hneg stands

/-- R48: with FCTRL.SR a conversion into a narrow type is stochastic. -/
theorem fcvtVal_stochastic {ty src : ℕ} (h : FloatTy ty) (hs : src < 14) (fctrl : BitVec 13) (seed x y : W64)
    (hx : src < 8 ∨ Spec.fpFin src x = true) (nz : sourceNum src x ≠ 0) (on : fctrl.getLsbD 2 = true)
    (narrow : ty ≠ 0xA ∧ ty ≠ 0xB) :
    Spec.StochasticTo ty seed (y.extractLsb' 0 48).toNat (sourceNum src x) (fcvtVal ty src fctrl seed x y) := by
  obtain ⟨n, m, e, rx, hx⟩ := regVal_source hs hx
  rw [fcvtVal_round h fctrl seed x y rx, if_pos ((srType_iff h).2 narrow)]
  simp only [convRounding, bitAt, on, if_true]
  rw [← hx] at nz ⊢
  exact stochasticTo_round h seed nz (finNum_neg_iff nz) (finNum_abs n m e)

/-- Settles O3: an operation's exact result stands for the number stated, cut far below any precision where it is not dyadic, and
the model's rounding of what stands for a number goes to the code that IEEE 754-2019 or the draw of R48 asks for. -/
theorem floatWordsRound : Obligations.FloatWordsRound := by
  unfold Obligations.FloatWordsRound
  intro ty fctrl x y z
  refine ⟨fun low high hx => ?_, fun src hs seed low high _ hx nz => ?_⟩
  · have h : FloatTy ty := ⟨low, by omega⟩
    have hc : ty ≠ 0xC := by omega
    refine ⟨fsqrtVal_rounds h hc fctrl hx, fun hy => ⟨fun neg nz => ?_, fmulVal_rounds h hc fctrl hx hy,
      fdivVal_rounds h hc fctrl hx hy, fun hz np nc nz => ?_⟩⟩
    · rw [faddVal_flipSign h]
      exact faddVal_rounds h hc fctrl hx ((fpFin_flipSign h neg y).trans hy) nz
    · rw [ffmaVal_flipSign h]
      exact ffmaVal_rounds h hc fctrl ((fpFin_flipSign h np x).trans hx) hy ((fpFin_flipSign h nc z).trans hz) nz
  · have h : FloatTy ty := ⟨low, high⟩
    exact ⟨fcvtVal_rounds h hs fctrl seed x y hx nz,
      fun on nA nB => fcvtVal_stochastic h hs fctrl seed x y hx nz on ⟨nA, nB⟩⟩

end Sys2Proof.Laws

/-! Scalar floating-point words (R43 to R45, R143 to R147): that they complete or trap, what FCMP compares, and what FCLASS
writes. -/

namespace Sys2Proof.Laws

open Sys2Proof Sys2Proof.Machine

/-! ### Completion and the trap (R43 to R45) -/

theorem exec_floatResult {i : Instr} {s : State} {d : BitVec 6} {r : FpRes} (h : Spec.floatResult i s = some (d, r)) :
    exec i s = s.settle (s.finishFp d r) := by
  unfold Spec.floatResult at h
  split at h
  case h_10 => cases h
  all_goals
    obtain ⟨rfl, rfl⟩ := h
    rfl

/-- R45: a raised flag that FCTRL[12:8] enables. -/
theorem enabledFlags_eq_zero (s : State) (fl : Flags) :
    enabledFlags s.fctrl fl = 0 ↔ ∀ k < 5, fl.getLsbD k = true → s.th.sr.fctrl.getLsbD (8 + k) = false := by
  have bit (k : ℕ) (hk : k < 5) :
      (enabledFlags s.fctrl fl).getLsbD k = (fl.getLsbD k && s.th.sr.fctrl.getLsbD (8 + k)) := by
    simp [enabledFlags, State.fctrl, slice, hk]
  constructor
  · intro zero k hk raised
    have := bit k hk
    rw [zero, raised] at this
    simpa using this.symm
  · intro off
    refine BitVec.eq_of_getLsbD_eq fun k hk => ?_
    rw [bit k hk]
    cases raised : fl.getLsbD k
    · simp
    · simp [off k hk raised]

/-- R43 to R45. -/
theorem floatWordsCompleteOrTrap : Spec.FloatWordsCompleteOrTrap := by
  intro i s d r h
  rw [exec_floatResult h]
  refine ⟨fun off => settle_finishFp s d r ((enabledFlags_eq_zero s r.flags).2 off), fun ⟨k, hk, raised, on⟩ => ?_⟩
  have enabled : enabledFlags s.fctrl r.flags ≠ 0 := fun zero => by
    rw [(enabledFlags_eq_zero s r.flags).1 zero k hk raised] at on
    exact Bool.false_ne_true on
  exact ⟨_, settle_finishFp_trap s d r enabled, trapped_trap s 0x12 0 0⟩

/-! ### Comparisons (R145) -/

theorem ltNum_fin (n k : Bool) (m p : ℕ) (e d : ℤ) :
    ltNum (.fin n m e) (.fin k p d) = decide (finNum n m e < finNum k p d) := by
  obtain ⟨e0, he0, le1, le2⟩ : ∃ e0, (if e ≤ d then e else d) = e0 ∧ e0 ≤ e ∧ e0 ≤ d := by
    by_cases h : e ≤ d
    · exact ⟨e, if_pos h, le_rfl, h⟩
    · exact ⟨d, if_neg h, by omega, le_rfl⟩
  have pos : (0 : ℚ) < 2 ^ e0 := by positivity
  simp only [ltNum, he0]
  rw [decide_eq_decide, ← scaled_cast n m le1, ← scaled_cast k p le2, mul_lt_mul_iff_left₀ pos, Int.cast_lt]

theorem eqNum_fin (n k : Bool) (m p : ℕ) (e d : ℤ) :
    eqNum (.fin n m e) (.fin k p d) = decide (finNum n m e = finNum k p d) := by
  simp only [eqNum, Val.isNan, ltNum_fin, Bool.not_false, Bool.true_and]
  rw [← decide_not, ← decide_not, ← Bool.decide_and, decide_eq_decide, not_lt, not_lt, and_comm, le_antisymm_iff]

theorem ratOf_some {a : Val} {p : ℚ} (h : Spec.ratOf a = some p) : ∃ n m e, a = .fin n m e ∧ finNum n m e = p := by
  cases a with
  | nan s => cases h
  | inf n => cases h
  | fin n m e =>
    rw [ratOf_fin] at h
    exact ⟨n, m, e, rfl, Option.some.inj h⟩

/-- R145: the relation of two numbers that a predicate asks for. -/
def relationOf (pred : ℕ) (p q : ℚ) : Prop :=
  match pred with
  | 0 => p = q
  | 1 => p < q
  | 2 => p ≤ q
  | 3 => False
  | _ => p ≠ q

/-- R145: finite values compare as their numbers do. -/
theorem compareVal_fin {pred : ℕ} (hp : pred ≤ 4) {a b : Val} {p q : ℚ} (ha : Spec.ratOf a = some p)
    (hb : Spec.ratOf b = some q) :
    (compareVal pred a b).2 = 0 ∧ ((compareVal pred a b).1 = true ↔ relationOf pred p q) := by
  obtain ⟨n, m, e, rfl, rfl⟩ := ratOf_some ha
  obtain ⟨k, l, d, rfl, rfl⟩ := ratOf_some hb
  have lt := ltNum_fin n k m l e d
  have eq := eqNum_fin n k m l e d
  interval_cases pred <;> refine ⟨rfl, ?_⟩
  · simp [compareVal, relationOf, eq]
  · simp [compareVal, relationOf, lt, Val.isNan]
  · simp [compareVal, relationOf, lt, eq, Val.isNan, le_iff_lt_or_eq]
  · simp [compareVal, relationOf, Val.isNan]
  · simp [compareVal, relationOf, eq]

/-- R145: a comparison with a NaN. -/
theorem compareVal_nan {pred : ℕ} (hp : pred ≤ 4) {a b : Val} (h : a.isNan = true ∨ b.isNan = true) :
    compareVal pred a b = (decide (pred = 3 ∨ pred = 4),
      if pred = 1 ∨ pred = 2 ∨ a.isSig = true ∨ b.isSig = true then flagIv else 0) := by
  have nan : (a.isNan || b.isNan) = true := by simpa using h
  have eq : eqNum a b = false := by
    rcases h with h | h <;> simp [eqNum, h]
  have sig : sigFlag [a, b] = if a.isSig = true ∨ b.isSig = true then flagIv else 0 := by
    simp [sigFlag, flagIf]
  interval_cases pred <;> simp [compareVal, nan, eq, sig, flagIf]

theorem fcmpVal_eq (ty pred : ℕ) (x y : W64) :
    fcmpVal ty pred x y = ⟨if (compareVal pred (regVal ty x) (regVal ty y)).1 = true then 1 else 0,
      (compareVal pred (regVal ty x) (regVal ty y)).2⟩ := rfl

/-- R145. -/
theorem fcmpComparesNumbersAndNans : Spec.FcmpComparesNumbersAndNans := by
  intro f x y wf
  have hp : f.fnAt 0 3 ≤ 4 := by
    have legal := (Bool.and_eq_true_iff.1 wf).1
    simpa using (Bool.and_eq_true_iff.1 legal).2
  dsimp only
  rw [fcmpVal_eq]
  refine ⟨fun p q ha hb => ?_, fun nan => ?_⟩
  · obtain ⟨flags, holds⟩ := compareVal_fin hp ha hb
    refine ⟨flags, Iff.trans ?_ holds⟩
    cases (compareVal (f.fnAt 0 3) (regVal f.ty.toNat x) (regVal f.ty.toNat y)).1 <;> simp
  · rw [compareVal_nan hp nan]
    refine ⟨?_, rfl⟩
    simp

/-! ### Classes (R147) -/

theorem classOf_eq {ty : ℕ} (h : FloatTy ty) (x : W64) : classOf ty (maskBits ty x.toNat) = Spec.fpClass ty x := by
  have nE : (ty == 0xE) = false := by have := h.2; simp; omega
  have code : maskBits ty x.toNat % 2 ^ ((floatFmt ty).eb + (floatFmt ty).fb) = Spec.fpCode ty x := by
    rw [maskBits_float h, ← fpTop_eq h]
    exact Nat.mod_mod_of_dvd _ (pow_dvd_pow 2 (Nat.le_succ _))
  have val : (floatFmt ty).decode (maskBits ty x.toNat) = regVal ty x := by
    rw [regVal_decode h, maskBits_float h]
  simp only [classOf, nE, Bool.false_eq_true, if_false, val, code]
  unfold Spec.fpClass
  rw [(fpShape_eq h).2.1]
  rcases fp_trichotomy ty x with nan | inf | fin
  · rw [regVal_nan h nan]
    simp [nan]
  · have nan := fpInf_not_nan inf
    have sig : Spec.fpSig ty x = false := by simp [Spec.fpSig, nan]
    rw [regVal_inf h inf]
    simp [inf, nan, sig]
  · have nan := fpFin_not_nan fin
    have sig : Spec.fpSig ty x = false := by simp [Spec.fpSig, nan]
    rw [regVal_fin h fin]
    simp [fpFin_not_inf h fin, nan, sig, mag_eq_zero]

theorem floatTy_of_has : ∀ ty : BitVec 4, TySet.has 0x3F00 ty = true → 8 ≤ ty.toNat ∧ ty.toNat < 14 := by
  decide

/-- R147. -/
theorem fclassWritesOneClassBit : Spec.FclassWritesOneClassBit := by
  intro f s wf
  have ty : FloatTy f.ty.toNat := by
    have fits := (Bool.and_eq_true_iff.1 wf).1
    simp only [Instr.legal, FX.fits, Bool.and_eq_true] at fits
    obtain ⟨⟨⟨⟨-, tys⟩, -⟩, -⟩, -⟩ := fits
    exact floatTy_of_has _ tys
  show s.settle (s.finish f.d (fclassVal f.ty.toNat (s.x f.a))) = _
  rw [settle_finish, fclassVal, classOf_eq ty]

end Sys2Proof.Laws

/-! Results of floating-point operations that need no rounding (R37, R144): NaNs, infinities, zeros, and operations that have no
result. -/

namespace Sys2Proof.Laws

open Sys2Proof Sys2Proof.Machine

/-! ### Values that need no rounding -/

section
variable {ty : ℕ} (h : FloatTy ty)
include h

theorem fp_nan (r : Rounding) (sig : Bool) (fl : Flags) : (arith ty r (.nan sig) fl).fp ty = ⟨Spec.fpCanon ty, fl⟩ := by
  rw [arith, Rounded.fp, extendTo64_canonicalNan h]

theorem fp_inf (hc : ty ≠ 0xC) (r : Rounding) (neg : Bool) (fl : Flags) :
    (arith ty r (.inf neg) fl).fp ty = ⟨Spec.fpSigned ty neg (Spec.fpInfCode ty), fl⟩ := by
  rw [arith, Rounded.fp, extendTo64_infinity h hc]

theorem extendTo64_signBit (neg : Bool) : extendTo64 ty ((floatFmt ty).signBit neg) = Spec.fpSigned ty neg 0 :=
  extendTo64_signed h neg (c := 0) (by positivity)

theorem fp_zero (r : Rounding) (neg : Bool) (e : ℤ) (fl : Flags) :
    (arith ty r (.fin neg 0 e) fl).fp ty = ⟨Spec.fpSigned ty neg 0, fl⟩ := by
  have raised : fl ||| (0 : Flags) = fl := BitVec.or_zero
  simp only [arith, round_zero, Rounded.fp, extendTo64_signBit h, raised]

theorem isNan_regVal (x : W64) : (regVal ty x).isNan = Spec.fpNan ty x := by
  rw [regVal_eq h]
  split
  · next nan => exact nan.symm
  · next nan => split <;> exact (Bool.eq_false_of_not_eq_true nan).symm

theorem isSig_regVal (x : W64) : (regVal ty x).isSig = Spec.fpSig ty x := by
  rw [regVal_eq h]
  split
  · rfl
  · next nan =>
    have sig : Spec.fpSig ty x = false := by simp [Spec.fpSig, nan]
    split <;> exact sig.symm

end

theorem flagIf_or (a b : Bool) (f : Flags) : flagIf a f ||| flagIf b f = flagIf (a || b) f := by
  cases a <;> cases b <;> simp [flagIf]

theorem or_flagIf (b : Bool) (f : Flags) : f ||| flagIf b f = f := by
  cases b <;> simp [flagIf]

theorem flip_false (v : Val) : v.flip false = v := rfl

theorem addNum_nan {a b : Val} (rm : ℕ) (h : a.isNan = true ∨ b.isNan = true) :
    addNum rm a b = (.nan false, flagIf (a.isSig || b.isSig) flagIv) := by
  cases a <;> cases b <;> simp_all [Val.isNan, addNum, Val.isSig]

theorem mulNum_nan {a b : Val} (h : a.isNan = true ∨ b.isNan = true) :
    mulNum a b = (.nan false, flagIf (a.isSig || b.isSig) flagIv) := by
  cases a <;> cases b <;> simp_all [Val.isNan, mulNum, Val.isSig]

theorem divNum_nan {a b : Val} (h : a.isNan = true ∨ b.isNan = true) :
    divNum a b = (.nan false, flagIf (a.isSig || b.isSig) flagIv) := by
  cases a <;> cases b <;> simp_all [Val.isNan, divNum, Val.isSig]

/-! ### Sums, products and fused sums -/

section
variable {ty : ℕ} (h : FloatTy ty) (hc : ty ≠ 0xC) (fctrl : BitVec 13) (x y z : W64)
include h

/-- R37: a result of two operands of which one is a NaN. -/
theorem nanOf_two : Spec.nanOf ty [x, y] =
    ⟨Spec.fpCanon ty, flagIf ((regVal ty x).isSig || (regVal ty y).isSig) flagIv⟩ := by
  rw [isSig_regVal h, isSig_regVal h]
  simp [Spec.nanOf, flagIf, flagIv]

theorem nan_two (nan : Spec.fpNan ty x = true ∨ Spec.fpNan ty y = true) :
    (regVal ty x).isNan = true ∨ (regVal ty y).isNan = true := by
  rwa [isNan_regVal h, isNan_regVal h]

/-- R37: infinity by zero has no product. -/
theorem mulNum_invalid (no : (Spec.fpInf ty x = true ∧ Spec.fpCode ty y = 0) ∨ (Spec.fpCode ty x = 0 ∧ Spec.fpInf ty y = true)) :
    mulNum (regVal ty x) (regVal ty y) = (.nan false, flagIv) := by
  rcases no with ⟨inf, zero⟩ | ⟨zero, inf⟩
  · rw [regVal_inf h inf, regVal_fin h (fpFin_of_zero zero)]
    simp [mulNum, mag_eq_zero, zero]
  · rw [regVal_inf h inf, regVal_fin h (fpFin_of_zero zero)]
    simp [mulNum, mag_eq_zero, zero]

/-- R37: infinity by anything but zero. -/
theorem mulNum_infinite (nx : Spec.fpNan ty x = false) (ny : Spec.fpNan ty y = false)
    (inf : Spec.fpInf ty x = true ∨ Spec.fpInf ty y = true)
    (hasProduct : ¬ ((Spec.fpInf ty x = true ∧ Spec.fpCode ty y = 0) ∨ (Spec.fpCode ty x = 0 ∧ Spec.fpInf ty y = true))) :
    mulNum (regVal ty x) (regVal ty y) = (.inf (Spec.fpNeg ty x != Spec.fpNeg ty y), 0) := by
  rw [not_or, not_and, not_and'] at hasProduct
  rcases fp_trichotomy ty x with a | a | a
  · rw [nx] at a
    cases a
  · rcases fp_trichotomy ty y with b | b | b
    · rw [ny] at b
      cases b
    · rw [regVal_inf h a, regVal_inf h b]
      rfl
    · rw [regVal_inf h a, regVal_fin h b]
      simp [mulNum, mag_eq_zero, hasProduct.1 a]
  · have b := inf.resolve_left (by simp [fpFin_not_inf h a])
    rw [regVal_fin h a, regVal_inf h b]
    simp [mulNum, mag_eq_zero, hasProduct.2 b]

include hc

theorem addSpecial :
    Spec.AddSpecial ty (fctrl.extractLsb' 0 2).toNat x y (faddVal ty fctrl false x y) := by
  rw [faddVal, flip_false]
  refine ⟨fun nan => ?_, fun ix iy => ?_, fun ix fy => ?_, fun fx iy => ?_, fun fx fy zero => ?_⟩
  · rw [addNum_nan _ (nan_two h x y nan), nanOf_two h]
    exact fp_nan h _ _ _
  · rw [regVal_inf h ix, regVal_inf h iy]
    by_cases same : Spec.fpNeg ty x = Spec.fpNeg ty y
    · simp only [addNum, same, beq_self_eq_true, if_true]
      exact fp_inf h hc _ _ _
    · simp only [addNum, beq_iff_eq, if_neg same]
      exact fp_nan h _ _ _
  · rw [regVal_inf h ix, regVal_fin h fy]
    exact fp_inf h hc _ _ _
  · rw [regVal_fin h fx, regVal_inf h iy]
    exact fp_inf h hc _ _ _
  · rw [fpNum_finNum h, fpNum_finNum h] at zero
    rw [regVal_fin h fx, regVal_fin h fy, (addNum_fin _ _ _ _ _ _ _).1 zero]
    simp only [mag_eq_zero]
    exact fp_zero h _ _ _ _

theorem mulSpecial : Spec.MulSpecial ty x y (fmulVal ty fctrl x y) := by
  rw [fmulVal]
  refine ⟨fun nan => ?_, fun ix other => ?_, fun iy fx nz => ?_, fun no => ?_, fun fx fy zero => ?_⟩
  · rw [mulNum_nan (nan_two h x y nan), nanOf_two h]
    exact fp_nan h _ _ _
  · have ny : Spec.fpNan ty y = false := other.elim fpInf_not_nan fun o => fpFin_not_nan o.1
    rw [mulNum_infinite h x y (fpInf_not_nan ix) ny (.inl ix)]
    · exact fp_inf h hc _ _ _
    · rintro (⟨-, zero⟩ | ⟨zero, -⟩)
      · rcases other with iy | ⟨-, nz⟩
        · have := fpFin_not_inf h (fpFin_of_zero zero)
          simp [iy] at this
        · exact nz zero
      · have := fpFin_not_inf h (fpFin_of_zero zero)
        simp [ix] at this
  · rw [mulNum_infinite h x y (fpFin_not_nan fx) (fpInf_not_nan iy) (.inr iy)]
    · exact fp_inf h hc _ _ _
    · rintro (⟨ix, -⟩ | ⟨zero, -⟩)
      · simp [fpFin_not_inf h fx] at ix
      · exact nz zero
  · rw [mulNum_invalid h x y no]
    exact fp_nan h _ _ _
  · rw [regVal_fin h fx, regVal_fin h fy, (mulNum_fin _ _ _ _ _ _).1]
    have none_ : ((floatFmt ty).mag (Spec.fpCode ty x)).1 * ((floatFmt ty).mag (Spec.fpCode ty y)).1 = 0 := by
      rwa [Nat.mul_eq_zero, mag_eq_zero, mag_eq_zero]
    rw [none_]
    exact fp_zero h _ _ _ _

theorem fmaSpecial :
    Spec.FmaSpecial ty (fctrl.extractLsb' 0 2).toNat x y z (ffmaVal ty fctrl false false x y z) := by
  have isProduct : ((Spec.fpInf ty x && Spec.fpCode ty y == 0) || (Spec.fpCode ty x == 0 && Spec.fpInf ty y)) = true ↔
      (Spec.fpInf ty x = true ∧ Spec.fpCode ty y = 0) ∨ (Spec.fpCode ty x = 0 ∧ Spec.fpInf ty y = true) := by
    simp
  rw [ffmaVal, flip_false, flip_false]
  unfold fmaNum Spec.FmaSpecial
  dsimp only
  rw [← Bool.not_eq_true, isProduct]
  refine ⟨fun nan => ?_, fun no => ?_, fun hasProduct nx ny nan => ?_, fun hasProduct nx ny inf => ?_, fun fx fy iz => ?_,
    fun fx fy fz zero => ?_⟩
  · rw [mulNum_nan (nan_two h x y nan)]
    dsimp only
    rw [addNum_nan _ (.inl rfl), flagIf_or]
    refine (fp_nan h _ _ _).trans ?_
    rw [isSig_regVal h, isSig_regVal h, isSig_regVal h]
    simp [Spec.nanOf, flagIf, flagIv, Val.isSig, or_assoc]
  · rw [mulNum_invalid h x y no]
    dsimp only
    rw [addNum_nan _ (.inl rfl), or_flagIf]
    exact fp_nan h _ _ _
  · have quiet : ∃ v : Val, mulNum (regVal ty x) (regVal ty y) = (v, 0) ∧ v.isSig = false := by
      by_cases inf : Spec.fpInf ty x = true ∨ Spec.fpInf ty y = true
      · exact ⟨_, mulNum_infinite h x y nx ny inf hasProduct, rfl⟩
      · rw [not_or] at inf
        have fx := ((fp_trichotomy ty x).resolve_left (by simp [nx])).resolve_left inf.1
        have fy := ((fp_trichotomy ty y).resolve_left (by simp [ny])).resolve_left inf.2
        rw [regVal_fin h fx, regVal_fin h fy]
        exact ⟨_, rfl, rfl⟩
    obtain ⟨v, prod, sig⟩ := quiet
    rw [prod]
    dsimp only
    rw [addNum_nan _ (.inr ((isNan_regVal h z).trans nan)), sig, isSig_regVal h, show (0 : Flags) = flagIf false flagIv from rfl,
      flagIf_or]
    refine (fp_nan h _ _ _).trans ?_
    simp [Spec.nanOf, flagIf, flagIv]
  · rw [mulNum_infinite h x y nx ny (by simpa using inf) hasProduct]
    refine ⟨fun iz differ => ?_, fun other => ?_⟩
    · rw [regVal_inf h iz]
      have ne : ((Spec.fpNeg ty x != Spec.fpNeg ty y) == Spec.fpNeg ty z) = false := by simpa using fun e => differ e.symm
      simp only [addNum, ne, Bool.false_eq_true, if_false]
      exact fp_nan h _ _ _
    · rcases other with fz | ⟨iz, same⟩
      · rw [regVal_fin h fz]
        exact fp_inf h hc _ _ ((0 : Flags) ||| 0)
      · rw [regVal_inf h iz, same]
        simp only [addNum, beq_self_eq_true, if_true]
        exact fp_inf h hc _ _ _
  · rw [regVal_fin h fx, regVal_fin h fy, regVal_inf h iz]
    exact fp_inf h hc _ _ ((0 : Flags) ||| 0)
  · rw [fpNum_finNum h x, fpNum_finNum h y, fpNum_finNum h z, ← (mulNum_fin _ _ _ _ _ _).2] at zero
    rw [regVal_fin h fx, regVal_fin h fy, regVal_fin h fz, (mulNum_fin _ _ _ _ _ _).1]
    dsimp only
    rw [(addNum_fin _ _ _ _ _ _ _).1 zero]
    refine (fp_zero h _ _ _ _).trans ?_
    simp only [Nat.mul_eq_zero, mag_eq_zero, eq_comm (a := Spec.fpNeg ty z)]
    rfl

/-! ### Quotients, roots, the minimum and the maximum -/

theorem divSpecial : Spec.DivSpecial ty x y (fdivVal ty fctrl x y) := by
  rw [fdivVal]
  refine ⟨fun nan => ?_, fun no => ?_, fun ix fy => ?_, fun fx iy => ?_, fun fx nz zero => ?_, fun zero fy nz => ?_⟩
  · rw [divNum_nan (nan_two h x y nan), nanOf_two h]
    exact fp_nan h _ _ _
  · rcases no with ⟨ix, iy⟩ | ⟨zx, zy⟩
    · rw [regVal_inf h ix, regVal_inf h iy]
      exact fp_nan h _ _ _
    · rw [regVal_fin h (fpFin_of_zero zx), regVal_fin h (fpFin_of_zero zy)]
      simp only [divNum, (mag_eq_zero _ _).2 zx, (mag_eq_zero _ _).2 zy, beq_self_eq_true, if_true]
      exact fp_nan h _ _ _
  · rw [regVal_inf h ix, regVal_fin h fy]
    exact fp_inf h hc _ _ _
  · rw [regVal_fin h fx, regVal_inf h iy]
    exact fp_zero h _ _ _ _
  · rw [regVal_fin h fx, regVal_fin h (fpFin_of_zero zero)]
    simp only [divNum, (mag_eq_zero _ _).2 zero, beq_self_eq_true, beq_iff_eq, mag_eq_zero, nz, if_true, if_false]
    exact fp_inf h hc _ _ _
  · rw [regVal_fin h (fpFin_of_zero zero), regVal_fin h fy]
    simp only [divNum, (mag_eq_zero _ _).2 zero, beq_self_eq_true, beq_iff_eq, mag_eq_zero, nz, if_true, if_false]
    exact fp_zero h _ _ _ _

theorem sqrtSpecial : Spec.SqrtSpecial ty x (fsqrtVal ty fctrl x) := by
  rw [fsqrtVal]
  refine ⟨fun nan => ?_, fun zero => ?_, fun notNan nz neg => ?_, fun inf pos => ?_⟩
  · rw [regVal_nan h nan]
    refine (fp_nan h _ _ _).trans ?_
    simp [Spec.nanOf, sqrtNum, flagIf, flagIv]
  · rw [regVal_fin h (fpFin_of_zero zero)]
    simp only [sqrtNum, (mag_eq_zero _ _).2 zero, beq_self_eq_true, if_true]
    exact fp_zero h _ _ _ _
  · rcases (fp_trichotomy ty x).resolve_left (by simp [notNan]) with inf | fin
    · rw [regVal_inf h inf, neg]
      exact fp_nan h _ _ _
    · rw [regVal_fin h fin, neg]
      simp only [sqrtNum, beq_iff_eq, mag_eq_zero, nz, if_true, if_false]
      exact fp_nan h _ _ _
  · rw [regVal_inf h inf, pos]
    exact fp_inf h hc _ _ _

end

end Sys2Proof.Laws

/-! The minimum, the maximum and the integral values of floating-point numbers, and conversions (R42, R46, R144). -/

namespace Sys2Proof.Laws

open Sys2Proof Sys2Proof.Machine

/-! ### The minimum and the maximum (R144) -/

section
variable {ty : ℕ} (h : FloatTy ty) {x y : W64}
include h

theorem neg_regVal (nan : Spec.fpNan ty x = false) : (regVal ty x).neg? = Spec.fpNeg ty x := by
  rw [regVal_eq h, nan, if_neg Bool.false_ne_true]
  split <;> rfl

/-- An infinity compares as the code above the largest finite one. -/
theorem ltNum_regVal (hc : ty ≠ 0xC) (nx : Spec.fpNan ty x = false) (ny : Spec.fpNan ty y = false) :
    ltNum (regVal ty x) (regVal ty y) = decide (Spec.fpNum ty x < Spec.fpNum ty y) := by
  have above {z : W64} (fin : Spec.fpFin ty z = true) :
      codeNum (floatFmt ty) (Spec.fpCode ty z) < codeNum (floatFmt ty) (Spec.fpInfCode ty) := by
    rw [(codeNum_strictMono _).lt_iff_lt, fpInfCode_max h hc]
    exact Nat.lt_succ_of_le ((fpFin_iff ty z).1 fin)
  have nonneg (c : ℕ) := codeNum_nonneg (floatFmt ty) c
  have top : 0 < codeNum (floatFmt ty) (Spec.fpInfCode ty) := by
    rw [fpInfCode_max h hc]
    exact (nonneg _).trans_lt (codeNum_strictMono _ (Nat.lt_succ_self _))
  have infNum {z : W64} (inf : Spec.fpInf ty z = true) :
      Spec.fpNum ty z = signed (Spec.fpNeg ty z) (codeNum (floatFmt ty) (Spec.fpInfCode ty)) := by
    rw [fpNum_eq h, ((fpInf_iff ty z).1 inf).2]
  rcases (fp_trichotomy ty x).resolve_left (by simp [nx]) with ix | fx <;>
    rcases (fp_trichotomy ty y).resolve_left (by simp [ny]) with iy | fy
  · rw [regVal_inf h ix, regVal_inf h iy, infNum ix, infNum iy, ltNum]
    cases Spec.fpNeg ty x <;> cases Spec.fpNeg ty y <;> simp [signed] <;> linarith
  · have lt := above fy
    have low := nonneg (Spec.fpCode ty y)
    rw [regVal_inf h ix, regVal_fin h fy, infNum ix, fpNum_eq h y, ltNum]
    cases Spec.fpNeg ty x <;> cases Spec.fpNeg ty y <;> simp [signed] <;> linarith
  · have lt := above fx
    have low := nonneg (Spec.fpCode ty x)
    rw [regVal_fin h fx, regVal_inf h iy, infNum iy, fpNum_eq h x, ltNum]
    cases Spec.fpNeg ty x <;> cases Spec.fpNeg ty y <;> simp [signed] <;> linarith
  · rw [regVal_fin h fx, regVal_fin h fy, ltNum_fin, fpNum_finNum h, fpNum_finNum h]

theorem eqNum_regVal (hc : ty ≠ 0xC) (nx : Spec.fpNan ty x = false) (ny : Spec.fpNan ty y = false) :
    eqNum (regVal ty x) (regVal ty y) = decide (Spec.fpNum ty x = Spec.fpNum ty y) := by
  rw [eqNum, isNan_regVal h, isNan_regVal h, nx, ny, ltNum_regVal h hc nx ny, ltNum_regVal h hc ny nx,
    Bool.not_false, Bool.true_and, Bool.true_and, ← decide_not, ← decide_not, ← Bool.decide_and, decide_eq_decide, not_lt,
    not_lt, and_comm, le_antisymm_iff]

/-- R144: the order in which -0 stands below +0. -/
theorem fpKey_lt_iff : Spec.fpKey ty x < Spec.fpKey ty y ↔
    Spec.fpNum ty x < Spec.fpNum ty y ∨
      (Spec.fpNum ty x = Spec.fpNum ty y ∧ Spec.fpNeg ty x = true ∧ Spec.fpNeg ty y = false) := by
  have mono := (codeNum_strictMono (floatFmt ty)).lt_iff_lt (a := Spec.fpCode ty x) (b := Spec.fpCode ty y)
  have mono' := (codeNum_strictMono (floatFmt ty)).lt_iff_lt (a := Spec.fpCode ty y) (b := Spec.fpCode ty x)
  have nx := codeNum_nonneg (floatFmt ty) (Spec.fpCode ty x)
  have ny := codeNum_nonneg (floatFmt ty) (Spec.fpCode ty y)
  rw [fpNum_eq h, fpNum_eq h, Spec.fpKey, Spec.fpKey]
  cases Spec.fpNeg ty x <;> cases Spec.fpNeg ty y
  · simp [signed, mono]
  · simp only [signed, Bool.false_eq_true, if_false, if_true, false_and, and_false, or_false]
    constructor
    · intro
      omega
    · intro
      linarith
  · simp only [signed, Bool.false_eq_true, if_false, if_true, and_self, and_true]
    constructor
    · intro
      exact lt_or_eq_of_le (by linarith)
    · intro
      omega
  · simp [signed, mono']

omit h in
/-- Equal keys are equal codes of one sign. -/
theorem fpKey_inj : Spec.fpKey ty x = Spec.fpKey ty y →
    Spec.fpNeg ty x = Spec.fpNeg ty y ∧ Spec.fpCode ty x = Spec.fpCode ty y := by
  rw [Spec.fpKey, Spec.fpKey]
  cases Spec.fpNeg ty x <;> cases Spec.fpNeg ty y <;> simp only [Bool.false_eq_true, if_true, if_false] <;> intro same
  · exact ⟨trivial, by omega⟩
  · omega
  · omega
  · exact ⟨trivial, by omega⟩

omit h in
theorem fminmaxVal_regVal (isMax : Bool) : fminmaxVal ty isMax x y =
    if ((regVal ty x).isNan || (regVal ty y).isNan) = true then ⟨extendTo64 ty (canonicalNan ty), flagIv⟩
    else
      ⟨extendTo64 ty
        (if ((ltNum (regVal ty x) (regVal ty y) ||
            (eqNum (regVal ty x) (regVal ty y) && (regVal ty x).neg? && !(regVal ty y).neg?)) != isMax) = true
          then maskBits ty x.toNat else maskBits ty y.toNat), 0⟩ := by
  rw [fminmaxVal, minMaxBits]
  dsimp only
  rw [← regVal, ← regVal]
  split <;> rfl

/-- R144: FMINMAX keeps the lesser or the greater operand by the keys' order. -/
theorem fminmaxVal_eq (hc : ty ≠ 0xC) (isMax : Bool) :
    fminmaxVal ty isMax x y =
      if Spec.fpNan ty x ∨ Spec.fpNan ty y then Spec.invalid ty
      else
        let v := if decide (Spec.fpKey ty x ≤ Spec.fpKey ty y) = isMax then y else x
        ⟨Spec.fpSigned ty (Spec.fpNeg ty v) (Spec.fpCode ty v), 0⟩ := by
  rw [fminmaxVal_regVal, isNan_regVal h, isNan_regVal h]
  by_cases nan : Spec.fpNan ty x = true ∨ Spec.fpNan ty y = true
  · rw [if_pos nan, if_pos (Bool.or_eq_true_iff.2 nan), extendTo64_canonicalNan h]
    rfl
  · have nx : Spec.fpNan ty x = false := by simpa using fun n => nan (.inl n)
    have ny : Spec.fpNan ty y = false := by simpa using fun n => nan (.inr n)
    have less : (ltNum (regVal ty x) (regVal ty y) ||
        (eqNum (regVal ty x) (regVal ty y) && (regVal ty x).neg? && !(regVal ty y).neg?)) =
          decide (Spec.fpKey ty x < Spec.fpKey ty y) := by
      rw [ltNum_regVal h hc nx ny, eqNum_regVal h hc nx ny, neg_regVal h nx, neg_regVal h ny, Bool.eq_iff_iff,
        decide_eq_true_eq, fpKey_lt_iff h]
      simp [and_assoc]
    rw [if_neg nan, if_neg (mt Bool.or_eq_true_iff.1 nan), less]
    rcases lt_trichotomy (Spec.fpKey ty x) (Spec.fpKey ty y) with lt | eq | gt
    · cases isMax <;> simp [lt, lt.le, extendTo64_maskBits h]
    · obtain ⟨neg, code⟩ := fpKey_inj eq
      cases isMax <;> simp [eq, extendTo64_maskBits h, neg, code]
    · cases isMax <;> simp [gt.not_gt, gt.not_ge, extendTo64_maskBits h]

end

/-! ### Rounding to an integer (R42) -/

/-- R42: the integer `j` is the magnitude `w` of a number with a sign, rounded. -/
def RoundsMag (rm : ℕ) (neg : Bool) (w : ℚ) (j : ℤ) : Prop :=
  if rm = 0 then |w - j| ≤ 1 / 2 ∧ (|w - j| = 1 / 2 → j % 2 = 0)
  else if Spec.roundsAway rm neg = true then w ≤ j ∧ (j : ℚ) < w + 1
  else j ≤ w ∧ w < j + 1

/-- R42: a direction rounds a number's magnitude. -/
theorem roundsMag_of_roundsToInt {rm : ℕ} (hrm : rm < 4) {neg : Bool} {w : ℚ} (hw : 0 ≤ w) {j : ℤ}
    (r : Spec.RoundsToInt rm (signed neg w) (signed neg j)) : RoundsMag rm neg w j := by
  have cast : ((signed neg j : ℤ) : ℚ) = signed neg (j : ℚ) := by cases neg <;> simp [signed]
  unfold Spec.RoundsToInt at r
  rw [cast] at r
  unfold RoundsMag
  interval_cases rm
  · obtain ⟨near, tie⟩ := r
    have dist : |signed neg w - signed neg (j : ℚ)| = |w - j| := by
      cases neg
      · rfl
      · simp only [signed, if_true, neg_sub_neg, abs_sub_comm (j : ℚ)]
    have even : (signed neg j) % 2 = 0 ↔ j % 2 = 0 := by
      cases neg <;> simp [signed]
    simp only [dist, even] at near tie
    exact ⟨near, tie⟩
  · obtain ⟨le, lt, side⟩ := r
    have prod : signed neg (j : ℚ) * signed neg w = j * w := by cases neg <;> simp [signed]
    have aj : |signed neg (j : ℚ)| = |(j : ℚ)| := by cases neg <;> simp [signed]
    have aw : |signed neg w| = w := by cases neg <;> simp [signed, abs_of_nonneg hw]
    rw [prod] at side
    rw [aj, aw] at le lt
    have nonneg : (0 : ℚ) ≤ j := by
      by_contra below
      have jneg : (j : ℚ) < 0 := not_le.1 below
      rw [abs_of_neg jneg] at le
      nlinarith
    rw [abs_of_nonneg nonneg] at le lt
    cases neg <;> exact ⟨le, lt⟩
  · cases neg
    · exact r
    · simp only [signed, if_true] at r
      exact ⟨by linarith [r.1], by linarith [r.2]⟩
  · cases neg
    · exact r
    · simp only [signed, if_true] at r
      exact ⟨by linarith [r.1], by linarith [r.2]⟩

/-- Whether a rational number is rounded up is told among the rationals. -/
theorem roundsUp_cast {rm N : ℕ} {neg : Bool} {w : ℚ} : RoundsUp rm neg (w : ℝ) N ↔
    (rm = 0 ∧ (1 / 2 < w - N ∨ (w - N = 1 / 2 ∧ N % 2 = 1))) ∨ (Spec.roundsAway rm neg = true ∧ w ≠ N) := by
  have more : (1 / 2 : ℝ) < (w : ℝ) - N ↔ 1 / 2 < w - N := by
    rw [← Rat.cast_lt (K := ℝ)]
    push_cast
    rfl
  have tie : (w : ℝ) - N = 1 / 2 ↔ w - N = 1 / 2 := by
    rw [← Rat.cast_inj (α := ℝ)]
    push_cast
    rfl
  have ne : (w : ℝ) ≠ N ↔ w ≠ N := by exact_mod_cast Iff.rfl
  rw [RoundsUp, more, tie, ne]

section
variable {rm N : ℕ} {neg : Bool} {w : ℚ} (low : (N : ℚ) ≤ w) (high : w < N + 1)
include low high

/-- An integer less than 1 from a number is its integer part or the one above. -/
theorem eq_floor_or_succ {j : ℤ} (l : w - 1 < j) (u : (j : ℚ) < w + 1) : j = N ∨ j = N + 1 := by
  have l' : (N : ℤ) < j + 1 := by
    have : ((N : ℤ) : ℚ) < (j + 1 : ℤ) := by
      push_cast
      linarith
    exact_mod_cast this
  have u' : j < (N : ℤ) + 2 := by
    have : (j : ℚ) < ((N : ℤ) + 2 : ℤ) := by
      push_cast
      linarith
    exact_mod_cast this
  omega

theorem roundsUp_of_succ (r : RoundsMag rm neg w ((N + 1 : ℕ) : ℤ)) : RoundsUp rm neg (w : ℝ) N := by
  rw [roundsUp_cast]
  unfold RoundsMag at r
  push_cast at r
  by_cases zero : rm = 0
  · rw [if_pos zero] at r
    obtain ⟨near, tie⟩ := r
    have half := (abs_le.1 near).1
    refine .inl ⟨zero, (lt_or_eq_of_le (show 1 / 2 ≤ w - N by linarith)).imp id fun half => ⟨half.symm, ?_⟩⟩
    have := tie (by rw [show w - (N + 1) = -(1 / 2) by linarith, abs_neg, abs_of_pos (by norm_num)])
    omega
  · rw [if_neg zero] at r
    split at r
    · next away =>
      refine .inr ⟨away, ?_⟩
      rintro rfl
      linarith [r.2]
    · linarith [r.1]

omit high in
theorem not_roundsUp_of_floor (r : RoundsMag rm neg w (N : ℤ)) : ¬ RoundsUp rm neg (w : ℝ) N := by
  rw [roundsUp_cast]
  unfold RoundsMag at r
  push_cast at r
  by_cases zero : rm = 0
  · subst zero
    rw [if_pos rfl] at r
    obtain ⟨near, tie⟩ := r
    have half := (abs_le.1 near).2
    rintro (⟨-, more | ⟨same, odd⟩⟩ | ⟨away, -⟩)
    · linarith
    · have := tie (by rw [same, abs_of_pos (by norm_num)])
      omega
    · rw [roundsAway_zero] at away
      exact Bool.false_ne_true away
  · rw [if_neg zero] at r
    rintro (⟨rm0, -⟩ | ⟨away, ne⟩)
    · exact zero rm0
    · rw [if_pos away] at r
      exact ne (le_antisymm r.1 low)

/-- R42: there is one rounding of a number. -/
theorem rounded_of_roundsMag {j : ℤ} (r : RoundsMag rm neg w j) : (rounded rm neg (w : ℝ) N : ℤ) = j := by
  have close : w - 1 < j ∧ (j : ℚ) < w + 1 := by
    unfold RoundsMag at r
    split at r
    · obtain ⟨l, u⟩ := abs_le.1 r.1
      exact ⟨by linarith, by linarith⟩
    · split at r
      · exact ⟨by linarith [r.1], r.2⟩
      · exact ⟨by linarith [r.2], by linarith [r.1]⟩
  rw [rounded]
  rcases eq_floor_or_succ low high close.1 close.2 with rfl | rfl
  · rw [if_neg (not_roundsUp_of_floor low r)]
  · rw [if_pos (roundsUp_of_succ low high r)]
    rfl

end

/-- R42: the model's rounding to an integer is the one rounding there is. -/
theorem roundShift_of_roundsToInt {rm m : ℕ} (hrm : rm < 4) {neg : Bool} {e n : ℤ} (r : Spec.RoundsToInt rm (finNum neg m e) n) :
    (signed neg ((roundShift m (-e) neg rm).1 : ℤ)) = n ∧ ((roundShift m (-e) neg rm).2 = true ↔ (n : ℚ) ≠ finNum neg m e) := by
  obtain ⟨w, hw⟩ : ∃ w : ℚ, (m : ℚ) * 2 ^ e = w := ⟨_, rfl⟩
  have nonneg : 0 ≤ w := by
    rw [← hw]
    positivity
  have stands : Stands m e (w : ℝ) := by
    left
    rw [← hw]
    push_cast
    rfl
  obtain ⟨N, low, high, cut, inexact⟩ := roundShift_stands (q := 0) neg hrm stands (.inl (by rw [← hw]; push_cast; rfl))
  rw [zpow_zero, div_one] at low high cut inexact
  rw [zero_sub] at cut inexact
  have back : signed neg (signed neg n) = n := by cases neg <;> simp [signed]
  have mag : RoundsMag rm neg w (signed neg n) := by
    refine roundsMag_of_roundsToInt hrm nonneg ?_
    rw [back, ← hw]
    exact r
  have low' : (N : ℚ) ≤ w := by exact_mod_cast low
  have high' : w < N + 1 := by exact_mod_cast high
  have eq := rounded_of_roundsMag low' high' mag
  have num : (n : ℚ) = finNum neg m e ↔ ((signed neg n : ℤ) : ℚ) = w := by
    rw [finNum, hw]
    cases neg
    · rfl
    · simp [signed, neg_eq_iff_eq_neg]
  rw [cut, inexact, eq, back, ne_eq, ne_eq, num]
  refine ⟨rfl, not_congr ⟨fun same => ?_, fun same => ?_⟩⟩
  · rw [← eq, same, rounded_self]
    exact_mod_cast same.symm
  · have l : (N : ℤ) ≤ signed neg n := by
      rw [← eq]
      exact_mod_cast le_rounded rm neg w N
    have u : signed neg n < (N : ℤ) + 1 := by
      have : ((signed neg n : ℤ) : ℚ) < ((N + 1 : ℤ) : ℚ) := by
        rw [same]
        push_cast
        exact high'
      exact_mod_cast this
    have : signed neg n = (N : ℤ) := by omega
    rw [this] at same
    exact_mod_cast same.symm

/-! ### Integral values (R144) -/

/-- A small integer is a number of the encoding. -/
theorem exists_codeNum_eq {f : FloatFmt} (hf : Regular f) {k : ℕ} (hk : k ≤ 2 ^ f.fb) :
    ∃ c, codeNum f c = k ∧ c ≤ f.maxCode := by
  have bias := hf.bias_pos
  have exact_ {q : ℤ} {N : ℕ} (g : OnGrid f q N) (num : (N : ℚ) * 2 ^ q = k) : codeNum f (gridCode f q N) = k :=
    (codeNum_gridCode g).trans num
  have top : codeNum f ((f.fb + f.bias).toNat * 2 ^ f.fb) = ((2 ^ f.fb : ℕ) : ℚ) := by
    have code : (f.fb + f.bias).toNat * 2 ^ f.fb = gridCode f 0 (2 ^ f.fb) := by
      have succ : (f.fb + f.bias).toNat = (0 + f.fb + f.bias - 1).toNat + 1 := by omega
      rw [gridCode, succ, Nat.add_mul, Nat.one_mul]
    rw [code, codeNum_gridCode ⟨by omega, Nat.pow_le_pow_right (by norm_num) (Nat.le_succ _), .inr le_rfl⟩, zpow_zero, mul_one]
  have found : ∃ c, codeNum f c = k := by
    rcases Nat.eq_zero_or_pos k with rfl | pos
    · exact ⟨0, (codeNum_zero f).trans Nat.cast_zero.symm⟩
    · have low := Nat.log2_self_le pos.ne'
      have high := Nat.lt_log2_self (n := k)
      obtain ⟨d, hd⟩ : ∃ d, f.fb = k.log2 + d := Nat.exists_eq_add_of_le ((Nat.pow_le_pow_iff_right (by norm_num)).1 (low.trans hk))
      refine ⟨_, exact_ (q := -(d : ℤ)) (N := k * 2 ^ d) ⟨by omega, ?_, .inr ?_⟩ ?_⟩
      · rw [hd, show k.log2 + d + 1 = k.log2 + 1 + d by ring, pow_add]
        exact Nat.mul_le_mul_right _ high.le
      · rw [hd, pow_add]
        exact Nat.mul_le_mul_right _ low
      · rw [zpow_neg, zpow_natCast]
        push_cast
        field_simp
  obtain ⟨c, num⟩ := found
  refine ⟨c, num, le_trans ?_ hf.max_int⟩
  rw [← (codeNum_strictMono f).le_iff_le, num, top]
  exact_mod_cast hk

/-- A number of the encoding is rounded to itself. -/
theorem fp_round_exact {ty : ℕ} (h : FloatTy ty) (hc : ty ≠ 0xC) (neg : Bool) {k c : ℕ} (num : codeNum (floatFmt ty) c = k)
    (fin : c ≤ (floatFmt ty).maxCode) :
    ((floatFmt ty).round false rne neg k 0).fp ty = ⟨Spec.fpSigned ty neg c, 0⟩ := by
  rcases Nat.eq_zero_or_pos k with rfl | pos
  · rw [Nat.cast_zero, codeNum_eq_zero] at num
    rw [round_zero, num, Rounded.fp, extendTo64_signBit h]
  · have stands : Stands k 0 (k : ℝ) := .inl (by rw [zpow_zero, mul_one])
    have val : (k : ℝ) = codeNum (floatFmt ty) c := by
      rw [num]
      norm_cast
    obtain ⟨d, inexact, tiny, low, high, hi, -, round⟩ :=
      round_stands (rm := 0) (regular_floatFmt h) false neg (by norm_num) stands (by exact_mod_cast pos)
    obtain rfl : c = d := by
      have l := (code_le_iff low high c).1 val.ge
      have u := (codeNum_le _).1 (low.trans val.le)
      omega
    have exact_ : inexact = false := by
      rw [← Bool.not_eq_true, hi]
      exact not_not.2 val
    rw [← fpMax_eq h] at fin
    rw [rne, round, fp_deliver h false 0 neg _ _ _ (.inr hc), roundedCode_exact 0 neg val, if_neg fin.not_gt, exact_]
    rfl

/-- What is cut off leaves an integer of the significand's size. -/
theorem roundShift_le {m b rm : ℕ} {e : ℤ} (neg : Bool) (hrm : rm < 4) (he : e < 0) (hm : m < 2 ^ (b + 1)) :
    (roundShift m (-e) neg rm).1 ≤ 2 ^ b := by
  obtain ⟨s, hs⟩ : ∃ s : ℕ, -e = (s : ℤ) + 1 := ⟨(-e).toNat - 1, by omega⟩
  obtain ⟨-, up, stay⟩ := roundShift_pos m s rm neg hrm
  have half : m / 2 ^ (s + 1) < 2 ^ b := by
    rw [Nat.div_lt_iff_lt_mul (by positivity), ← pow_add]
    exact hm.trans_le (Nat.pow_le_pow_right (by norm_num) (by omega))
  rw [hs]
  by_cases r : restUp rm neg (2 ^ s) (m % 2 ^ (s + 1)) (m / 2 ^ (s + 1))
  · rw [up r]
    exact half
  · rw [stay r]
    exact half.le

theorem mag_lt (f : FloatFmt) (c : ℕ) : (f.mag c).1 < 2 ^ (f.fb + 1) := by
  have lt := Nat.mod_lt c (show 0 < 2 ^ f.fb by positivity)
  rw [FloatFmt.mag, pow_succ]
  split <;> dsimp only <;> omega

section
variable {ty : ℕ} (fctrl : BitVec 13) (sel : ℕ) (raise : Bool) {x : W64}

theorem frndVal_nan {sig : Bool} (val : regVal ty x = .nan sig) :
    frndVal ty fctrl sel raise x = ⟨extendTo64 ty (canonicalNan ty), flagIf sig flagIv⟩ := by
  rw [frndVal, roundIntegral, ← regVal, val]
  rfl

theorem frndVal_inf {neg : Bool} (val : regVal ty x = .inf neg) :
    frndVal ty fctrl sel raise x = ⟨extendTo64 ty (maskBits ty x.toNat), 0⟩ := by
  rw [frndVal, roundIntegral, ← regVal, val]
  rfl

theorem frndVal_fin {neg : Bool} {m : ℕ} {e : ℤ} (val : regVal ty x = .fin neg m e) :
    frndVal ty fctrl sel raise x =
      if 0 ≤ e then ⟨extendTo64 ty (maskBits ty x.toNat), 0⟩
      else
        ⟨(((floatFmt ty).round false rne neg (roundShift m (-e) neg (frndRm sel fctrl)).1 0).fp ty).val,
          flagIf (raise && (roundShift m (-e) neg (frndRm sel fctrl)).2) flagNx⟩ := by
  rw [frndVal, roundIntegral, ← regVal, val]
  dsimp only
  split <;> rfl

end

section
variable {ty : ℕ} (h : FloatTy ty)
include h

/-- R144: a finite number to an integral value. -/
theorem frndVal_finite (hc : ty ≠ 0xC) (fctrl : BitVec 13) (sel : ℕ) (raise : Bool) (x : W64)
    (hrm : frndRm sel fctrl < 4) (fin : Spec.fpFin ty x = true) {n : ℤ}
    (r : Spec.RoundsToInt (frndRm sel fctrl) (Spec.fpNum ty x) n) :
    ∃ c ≤ Spec.fpMax ty, signed (Spec.fpNeg ty x) (codeNum (floatFmt ty) c) = n ∧
      frndVal ty fctrl sel raise x =
        ⟨Spec.fpSigned ty (Spec.fpNeg ty x) c, if raise = true ∧ (n : ℚ) ≠ Spec.fpNum ty x then 1 else 0⟩ := by
  have num := fpNum_eq h x
  rw [fpNum_finNum h] at r num
  rw [frndVal_fin fctrl sel raise (regVal_fin h fin), fpNum_finNum h]
  obtain ⟨val, inexact⟩ := roundShift_of_roundsToInt hrm r
  have small := mag_lt (floatFmt ty) (Spec.fpCode ty x)
  generalize (floatFmt ty).mag (Spec.fpCode ty x) = v at *
  by_cases whole : 0 ≤ v.2
  · have same : (n : ℚ) = finNum (Spec.fpNeg ty x) v.1 v.2 := by
      by_contra ne
      have := inexact.2 ne
      rw [roundShift, if_pos (by omega)] at this
      exact Bool.false_ne_true this
    exact ⟨_, (fpFin_iff ty x).1 fin, (same.trans num).symm, by simp [whole, extendTo64_maskBits h, same]⟩
  · obtain ⟨c, code, le⟩ := exists_codeNum_eq (regular_floatFmt h) (roundShift_le (Spec.fpNeg ty x) hrm (not_le.1 whole) small)
    refine ⟨c, (fpMax_eq h).symm ▸ le, ?_, ?_⟩
    · rw [code, ← val]
      cases Spec.fpNeg ty x <;> simp [signed]
    · rw [if_neg whole, fp_round_exact h hc _ code le, flagIf]
      simp only [Bool.and_eq_true, inexact]
      rfl

/-- R144: FRND. -/
theorem frndVal_integral (hc : ty ≠ 0xC) (fctrl : BitVec 13) (sel : ℕ) (raise : Bool) (x : W64)
    (hrm : frndRm sel fctrl < 4) : Spec.Integral ty (frndRm sel fctrl) raise x (frndVal ty fctrl sel raise x) := by
  refine ⟨fun nan => ?_, fun inf => ?_, fun fin n r => ?_⟩
  · rw [frndVal_nan fctrl sel raise (regVal_nan h nan), extendTo64_canonicalNan h]
    simp [Spec.nanOf, flagIf, flagIv]
  · rw [frndVal_inf fctrl sel raise (regVal_inf h inf), extendTo64_maskBits h, ((fpInf_iff ty x).1 inf).2]
  · obtain ⟨c, le, num, val⟩ := frndVal_finite h hc fctrl sel raise x hrm fin r
    have lt := le.trans_lt (fpMax_lt h)
    rw [val]
    dsimp only
    rw [fpFin_iff, fpCode_fpSigned h _ lt, fpNum_fpSigned h _ lt]
    exact ⟨le, num, rfl, rfl⟩

end

theorem frndRm_eq {sel : ℕ} (hs : sel < 5) (fctrl : BitVec 13) :
    frndRm sel fctrl = if sel = 4 then (fctrl.extractLsb' 0 2).toNat else sel := by
  interval_cases sel <;> rfl

theorem frndRm_lt (sel : ℕ) (fctrl : BitVec 13) : frndRm sel fctrl < 4 := by
  unfold frndRm
  split
  · decide
  · decide
  · decide
  · decide
  · exact (slice fctrl 0 2).isLt

/-! ### Conversions to integers (R46) -/

section
variable {ty : ℕ} (h : ty < 8)
include h

theorem widthOf_int_le : 8 ≤ widthOf ty ∧ widthOf ty ≤ 64 := by
  interval_cases ty <;> decide

theorem intMin_eq : intMin ty = Spec.intLow ty := by
  interval_cases ty <;> rfl

theorem intMax_eq : intMax ty = Spec.intHigh ty := by
  interval_cases ty <;> rfl

theorem intMin_le_max : intMin ty ≤ intMax ty := by
  interval_cases ty <;> decide

theorem intOf_wrapInt (signedTy : ty % 2 = 0) {v : ℤ} (low : intMin ty ≤ v) (high : v ≤ intMax ty) :
    intOf ty (wrapInt ty v) = v := by
  obtain ⟨w, hw⟩ : ∃ w, widthOf ty = w + 1 := ⟨widthOf ty - 1, by have := (widthOf_int_le h).1; omega⟩
  have double : 2 ^ (w + 1) = 2 * 2 ^ w := by ring
  have even : (ty % 2 == 0) = true := by simpa using signedTy
  simp only [intMin, intMax, even, if_true, hw, Nat.add_sub_cancel] at low high
  have mod : ((wrapInt ty v : ℕ) : ℤ) = if v < 0 then v + 2 * (2 ^ w : ℕ) else v := by
    rw [wrapInt, hw, double, Int.toNat_of_nonneg (Int.emod_nonneg _ (by positivity))]
    push_cast at low high ⊢
    split
    · rw [← Int.add_emod_right, Int.emod_eq_of_lt] <;> omega
    · rw [Int.emod_eq_of_lt] <;> omega
  have lt : wrapInt ty v < 2 * 2 ^ w := by
    split at mod <;> omega
  simp only [intOf, even, Bool.true_and, hw, double, Nat.add_sub_cancel, Nat.mod_eq_of_lt lt, decide_eq_true_eq]
  split at mod <;> split <;> omega

omit h in
theorem maskBits_wrapInt (unsigned : ty % 2 ≠ 0) {v : ℤ} (low : intMin ty ≤ v) (high : v ≤ intMax ty) :
    maskBits ty (wrapInt ty v) = v.toNat ∧ 0 ≤ v := by
  have odd : (ty % 2 == 0) = false := by simpa using unsigned
  simp only [intMin, intMax, odd, Bool.false_eq_true, if_false] at low high
  have mod : v % (2 ^ widthOf ty : ℕ) = v := Int.emod_eq_of_lt low (by omega)
  rw [maskBits, wrapInt, mod, Nat.mod_eq_of_lt (by omega)]
  exact ⟨rfl, low⟩

/-- R130: an integer of the type in a register. -/
theorem extendTo64_wrapInt {v : ℤ} (low : intMin ty ≤ v) (high : v ≤ intMax ty) :
    extendTo64 ty (wrapInt ty v) = BitVec.ofInt 64 v := by
  unfold extendTo64
  by_cases parity : ty % 2 = 0
  · rw [if_pos (by simp [h, parity]), intOf_wrapInt h parity low high]
  · obtain ⟨val, nonneg⟩ := maskBits_wrapInt parity low high
    rw [if_neg (by simp [parity]), val]
    obtain ⟨k, rfl⟩ := Int.eq_ofNat_of_zero_le nonneg
    rw [Int.toNat_natCast, BitVec.ofInt_natCast]

omit h in
/-- R46: a conversion into an integer type by the value it reads. -/
theorem fcvtVal_toInt (h : ty < 8) (src : ℕ) (fctrl : BitVec 13) (seed x y : W64) :
    fcvtVal ty src fctrl seed x y = (toInt ty (src < 8) (fctrl.extractLsb' 0 2).toNat (regVal src x)).fp ty := by
  rw [fcvtVal, convertBits, convertNum, if_pos h]
  rfl

/-- R46: a finite value to an integer type. -/
theorem toInt_finite {srcInt neg : Bool} {rm m : ℕ} (hrm : rm < 4) {e n : ℤ} (r : Spec.RoundsToInt rm (finNum neg m e) n) :
    (n < intMin ty → (toInt ty srcInt rm (.fin neg m e)).fp ty = ⟨BitVec.ofInt 64 (intMin ty), flagIf (!srcInt) flagIv⟩) ∧
    (intMax ty < n → (toInt ty srcInt rm (.fin neg m e)).fp ty = ⟨BitVec.ofInt 64 (intMax ty), flagIf (!srcInt) flagIv⟩) ∧
    (intMin ty ≤ n → n ≤ intMax ty → (toInt ty srcInt rm (.fin neg m e)).fp ty =
      ⟨BitVec.ofInt 64 n, if (n : ℚ) = finNum neg m e then 0 else 1⟩) := by
  obtain ⟨val, inexact⟩ := roundShift_of_roundsToInt hrm r
  have order := intMin_le_max h
  rw [signed] at val
  simp only [toInt, val]
  refine ⟨fun below => ?_, fun above => ?_, fun low high => ?_⟩
  · rw [if_pos below, Rounded.fp, extendTo64_wrapInt h le_rfl order]
  · rw [if_neg (by omega), if_pos above, Rounded.fp, extendTo64_wrapInt h order le_rfl]
  · rw [if_neg (by omega), if_neg (by omega), Rounded.fp, extendTo64_wrapInt h low high, flagIf]
    simp only [inexact, ne_eq, ite_not]
    rfl

theorem fcvtVal_toInteger {src : ℕ} (hs : src < 14) (fctrl : BitVec 13) (seed x y : W64) :
    Spec.ToInteger ty src (fctrl.extractLsb' 0 2).toNat x (fcvtVal ty src fctrl seed x y) := by
  have order := intMin_le_max h
  rw [fcvtVal_toInt h]
  refine ⟨fun float nan => ?_, fun float inf => ?_, fun finite n r => ?_⟩
  · rw [regVal_nan ⟨float, hs⟩ nan, toInt, Rounded.fp]
    have zero : extendTo64 ty 0 = 0 := by interval_cases ty <;> rfl
    rw [zero]
    rfl
  · rw [regVal_inf ⟨float, hs⟩ inf, toInt, Rounded.fp, ← intMin_eq h, ← intMax_eq h]
    rw [extendTo64_wrapInt h]
    · rfl
    · split
      · exact le_rfl
      · exact order
    · split
      · exact order
      · exact le_rfl
  · obtain ⟨neg, m, e, val, num⟩ := regVal_source hs finite
    rw [← sourceNum, ← num] at r ⊢
    rw [← intMin_eq h, ← intMax_eq h, val]
    have beyond : flagIf (!decide (src < 8)) flagIv = if src < 8 then (0 : Flags) else 0x10 := by
      by_cases int : src < 8 <;> simp [flagIf, flagIv, int]
    rw [← beyond]
    exact toInt_finite h (fctrl.extractLsb' 0 2).isLt r

end

/-! ### Conversions to floating point that need no rounding (R46) -/

section
variable {ty src : ℕ} (h : FloatTy ty) (fctrl : BitVec 13) (seed : W64) {x : W64} (y : W64)
include h

theorem fcvtVal_nan {sig : Bool} (val : regVal src x = .nan sig) :
    fcvtVal ty src fctrl seed x y = ⟨Spec.fpCanon ty, flagIf sig flagIv⟩ := by
  have n8 : ¬ ty < 8 := by have := h.1; omega
  have nE : (ty == 0xE) = false := by have := h.2; simp; omega
  rw [fcvtVal, convertBits, ← regVal, val, convertNum, if_neg n8, nE, ← extendTo64_canonicalNan h]
  rfl

theorem fcvtVal_inf {neg : Bool} (val : regVal src x = .inf neg) :
    fcvtVal ty src fctrl seed x y = ((floatFmt ty).infinity neg).fp ty := by
  have n8 : ¬ ty < 8 := by have := h.1; omega
  have nE : (ty == 0xE) = false := by have := h.2; simp; omega
  rw [fcvtVal, convertBits, ← regVal, val, convertNum, if_neg n8, nE]
  rfl

theorem fcvtVal_zero {neg : Bool} {e : ℤ} (val : regVal src x = .fin neg 0 e) :
    fcvtVal ty src fctrl seed x y = ⟨Spec.fpSigned ty neg 0, 0⟩ := by
  rw [fcvtVal_round h fctrl seed x y val, round_zero, Rounded.fp, extendTo64_signBit h]

/-- R46: an infinity; E4M3 has its largest finite value instead. -/
theorem fp_infinity (neg : Bool) : ((floatFmt ty).infinity neg).fp ty =
    if ty = 0xC then ⟨Spec.fpSigned ty neg (Spec.fpMax ty), 0x05⟩ else ⟨Spec.fpSigned ty neg (Spec.fpInfCode ty), 0⟩ := by
  by_cases hc : ty = 0xC
  · subst hc
    cases neg <;> rfl
  · rw [if_neg hc, Rounded.fp, extendTo64_infinity h hc, FloatFmt.infinity, if_pos ((ieee_iff h).2 hc)]

theorem fcvtVal_special (hs : src < 14) : Spec.ToFloatSpecial ty src x (fcvtVal ty src fctrl seed x y) := by
  refine ⟨fun float nan => ?_, fun float inf => ?_, fun float zero => ?_, fun int zero => ?_⟩
  · exact fcvtVal_nan h fctrl seed y (regVal_nan ⟨float, hs⟩ nan)
  · rw [fcvtVal_inf h fctrl seed y (regVal_inf ⟨float, hs⟩ inf), fp_infinity h]
  · refine fcvtVal_zero h fctrl seed y (e := ((floatFmt src).mag 0).2) ?_
    rw [regVal_fin ⟨float, hs⟩ (fpFin_of_zero zero), zero, (mag_eq_zero _ 0).2 rfl]
  · have val := regVal_int int x
    rw [zero] at val
    rw [fcvtVal_zero h fctrl seed y val]
    rfl

end

/-! ### The obligation -/

/-- R37, R46, R144, R146. -/
theorem floatResultsThatNeedNoRounding : Spec.FloatResultsThatNeedNoRounding := by
  intro ty fctrl x y z
  refine ⟨fun low high => ?_, fun src hs seed _ => ⟨fun int => ?_, fun low high => ?_⟩⟩
  · have h : FloatTy ty := ⟨low, by omega⟩
    have hc : ty ≠ 0xC := by omega
    refine ⟨fun neg => ?_, mulSpecial h hc fctrl x y, fun np nc => ?_, divSpecial h hc fctrl x y, sqrtSpecial h hc fctrl x,
      fminmaxVal_eq h hc, fun sel hsel raise => ?_⟩
    · rw [faddVal_flipSign h]
      exact addSpecial h hc fctrl x _
    · rw [ffmaVal_flipSign h]
      exact fmaSpecial h hc fctrl _ y _
    · rw [← frndRm_eq hsel]
      exact frndVal_integral h hc fctrl sel raise x (frndRm_lt sel fctrl)
  · exact fcvtVal_toInteger int hs fctrl seed x y
  · exact fcvtVal_special ⟨low, high⟩ fctrl seed y hs

/-- Settles O2: words complete or trap by their flags; comparisons and classes read the operands' codes; and where no rounding is
needed, each value the model distinguishes gives the result stated. -/
theorem scalarFloatWords : Obligations.ScalarFloatWords := by
  unfold Obligations.ScalarFloatWords
  exact ⟨floatWordsCompleteOrTrap, fcmpComparesNumbersAndNans, floatResultsThatNeedNoRounding, fclassWritesOneClassBit⟩

end Sys2Proof.Laws

/-! Element values (R36, R212): the operation the statement of O53 asks of a word that no decoder accepts. -/

namespace Sys2Proof.Laws

open Sys2Proof Sys2Proof.Machine

/-- A VDIV of U8 whose FN[0], which R73 asks to be 0, is 1. -/
def divideWithFn0 : FX := ⟨0, 0, 0, 0, 1, 0, 0, 0, 1⟩

/-- A node recorded by that word, with no mask and with no source, so that both elements read as zero. -/
def nodeWithFn0 : Node :=
  { idx := 0, seq := 0, part := 0, word := packX 0x44 divideWithFn0, pc := 0, lsrc := 0, len := 1, fctrl := 0, rseed := 0,
    va := 0, vb := 0, vc := 0, sa := none, sb := none, sc := none, sk := none, reads := [], writes := [], smode := false,
    bits := 0 }

/-- R76: `decode` refuses the word. -/
theorem decode_divideWithFn0 : decode (packX 0x44 divideWithFn0) = .error .illegalEncoding := rfl

theorem at_nodeWithFn0 (w : Work) : Spec.At w nodeWithFn0 (.vdiv divideWithFn0) 0 0 0 0 :=
  ⟨rfl, rfl, rfl, rfl, rfl, rfl⟩

/-- R212: the quotient by zero is all ones in the model, whatever FN[0] is. -/
theorem plainElem_nodeWithFn0 (w : Work) (g : Group) : (w.plainElem g nodeWithFn0 0).1.val = some 255 := rfl

/-- The statement reads FN[0] as `.sat`, and holds the quotient -1 to the range of U8. -/
theorem integerElement_divideWithFn0 : Spec.integerElement (.vdiv divideWithFn0) 0 0 0 = some 0 := by decide

/-- Refutes O53: its first clause asks nothing of the word that recorded a node, and reads FN[0] of every integer operation
as `.sat`. VDIV has no `.sat` (R212), and the model's quotient does not depend on FN[0], so that the two differ for a VDIV of
U8 by zero with FN[0] = 1, a word that `decode` refuses. -/
theorem not_elementValues : ¬ Obligations.ElementValues := by
  unfold Obligations.ElementValues
  rintro ⟨⟨elements, -⟩, -⟩
  have held := (elements (Work.start State.reset [] []) ⟨[], [], []⟩ nodeWithFn0 _ 0 0 0 0 (at_nodeWithFn0 _)).1 0
    integerElement_divideWithFn0
  have model := plainElem_nodeWithFn0 (Work.start State.reset [] []) ⟨[], [], []⟩
  rw [held] at model
  exact absurd model (by decide)

end Sys2Proof.Laws
